-- ==== Sys2Proof/Word.lean ====
section
/-! DEFINITION. The word types of the Flenar (R6, R12) and the byte. -/

namespace Sys2Proof

/-- A 64-bit register or address (R6). -/
abbrev Word := BitVec 64

/-- A byte of memory (R12). -/
abbrev Byte := BitVec 8

/-- The number of a scalar, vector or mask register as a 5-bit field holds it (R25). -/
abbrev Reg := BitVec 5

/-- A hart's number within the group: 3,072 · package + 4 · core of the package + hart (R2, R15). -/
abbrev Gid := BitVec 18

/-- A package's number within the group (R380). -/
abbrev PkgId := BitVec 6

end Sys2Proof
end

