-- ==== Sys2Proof/Syntax.lean ====
section
/-! DEFINITION. The instructions of the Flenar: one constructor for every row of the opcode table
(R21 to R32), the 78 events of its agents among them, and the operands each form carries. -/

namespace Sys2Proof

/-- The two fields of a 16-bit parcel (R23). -/
structure HOp where
  ra : Reg
  rb : Reg
  deriving DecidableEq, Repr

/-- R form: destination and two sources (R25). -/
structure ROp where
  d : Reg
  a : Reg
  b : Reg
  deriving DecidableEq, Repr

/-- I form: destination, base and the 11-bit immediate (R25, R26). -/
structure IOp where
  d : Reg
  a : Reg
  imm : BitVec 11
  deriving DecidableEq, Repr

/-- S and B forms: base (or first compared), data (or second compared) and the immediate (R27). -/
structure SOp where
  a : Reg
  b : Reg
  imm : BitVec 11
  deriving DecidableEq, Repr

/-- U and J forms: destination and the 19-bit immediate (R25). -/
structure UOp where
  d : Reg
  imm : BitVec 19
  deriving DecidableEq, Repr

/-- FOP: an R form whose x3 is the scalar type (R32). -/
structure FOp where
  d : Reg
  a : Reg
  b : Reg
  t : BitVec 3
  deriving DecidableEq, Repr

/-- AMO: an R form with the ordering of funct6[5:4] and the width of x3[0] (R29, R80). -/
structure AOp where
  d : Reg
  a : Reg
  b : Reg
  o : BitVec 2
  w : BitVec 1
  deriving DecidableEq, Repr

/-- V form: destination, two sources, the scalar bit S, the type code T and the mask (R25). -/
structure VOp where
  vd : Reg
  vs1 : Reg
  vs2 : Reg
  sc : BitVec 1
  t : BitVec 3
  m : BitVec 3
  deriving DecidableEq, Repr

/-- D form: the fields of a 64-bit tile instruction beside its major and funct6 (R28). -/
structure DOp where
  imm : BitVec 12
  wb : BitVec 4
  wa : BitVec 4
  tt : BitVec 4
  cm : BitVec 3
  xs : Reg
  vb : Reg
  va : Reg
  acd : BitVec 4
  aux : BitVec 4
  deriving DecidableEq, Repr

/-- The instructions and events of the opcode table: the 32- and 64-bit forms with operands in its
order, then the rows without operands (the events among them), then the 16-bit forms.  An event names no operand: what it acts on stands in the state's
`arg` (the table gives these rows no field). -/
inductive Instr where
  /-- ADD (R66): Writes x[a] + x[b] to xd. -/
  | add (o : ROp)
  /-- SUB (R66): Writes x[a] - x[b] to xd. -/
  | sub (o : ROp)
  /-- MUL (R66): Writes the low 64 bits of the product to xd. -/
  | mul (o : ROp)
  /-- MULH (R66): Writes the high 64 bits of the signed product to xd. -/
  | mulh (o : ROp)
  /-- MULHU (R66): Writes the high 64 bits of the unsigned product to xd. -/
  | mulhu (o : ROp)
  /-- DIV (R67): Performs signed division truncated towards zero, with fixed results at the boundary cases. -/
  | div (o : ROp)
  /-- DIVU (R67): Performs unsigned division. -/
  | divu (o : ROp)
  /-- REM (R67): Computes the signed remainder, which takes the sign of the dividend. -/
  | rem (o : ROp)
  /-- REMU (R67): Computes the unsigned remainder. -/
  | remu (o : ROp)
  /-- AND (R66): Computes the bitwise AND. -/
  | and (o : ROp)
  /-- OR (R66): Computes the bitwise OR. -/
  | or (o : ROp)
  /-- XOR (R66): Computes the bitwise XOR. -/
  | xor (o : ROp)
  /-- SLL (R66): Shifts left by x[b] AND 63. -/
  | sll (o : ROp)
  /-- SRL (R66): Shifts right logically by x[b] AND 63. -/
  | srl (o : ROp)
  /-- SRA (R66): Shifts right arithmetically by x[b] AND 63. -/
  | sra (o : ROp)
  /-- SLT (R66): Writes 1 when x[a] is below x[b] as signed integers, else 0. -/
  | slt (o : ROp)
  /-- SLTU (R66): Writes 1 when x[a] is below x[b] as unsigned integers, else 0. -/
  | sltu (o : ROp)
  /-- MIN (R66): Writes the signed minimum. -/
  | min (o : ROp)
  /-- MAX (R66): Writes the signed maximum. -/
  | max (o : ROp)
  /-- MINU (R66): Writes the unsigned minimum. -/
  | minu (o : ROp)
  /-- MAXU (R66): Writes the unsigned maximum. -/
  | maxu (o : ROp)
  /-- CLZ (R66): Counts the leading zero bits of x[a]. -/
  | clz (o : ROp)
  /-- CTZ (R66): Counts the trailing zero bits of x[a]. -/
  | ctz (o : ROp)
  /-- POPC (R66): Counts the one bits of x[a]. -/
  | popc (o : ROp)
  /-- ADDI (R68): Adds a sign-extended 11-bit immediate to x[a]. -/
  | addi (o : IOp)
  /-- ANDI (R68): Computes the AND of x[a] with a sign-extended immediate. -/
  | andi (o : IOp)
  /-- ORI (R68): Computes the OR of x[a] with a sign-extended immediate. -/
  | ori (o : IOp)
  /-- XORI (R68): Computes the XOR of x[a] with a sign-extended immediate. -/
  | xori (o : IOp)
  /-- SLTI (R68): Compares x[a] with the immediate as signed integers. -/
  | slti (o : IOp)
  /-- SLTIU (R68): Compares x[a] with the immediate as unsigned integers. -/
  | sltiu (o : IOp)
  /-- SLLI (R68): Shifts left by a 6-bit immediate, as the SHI selector chooses. -/
  | slli (o : IOp)
  /-- SRLI (R68): Shifts right logically by a 6-bit immediate. -/
  | srli (o : IOp)
  /-- SRAI (R68): Shifts right arithmetically by a 6-bit immediate. -/
  | srai (o : IOp)
  /-- LDB (R70): Loads a sign-extended byte. -/
  | ldb (o : IOp)
  /-- LDH (R70): Loads a sign-extended halfword. -/
  | ldh (o : IOp)
  /-- LDW (R70): Loads a sign-extended word. -/
  | ldw (o : IOp)
  /-- LDD (R70): Loads a doubleword. -/
  | ldd (o : IOp)
  /-- LDBU (R70): Loads a zero-extended byte. -/
  | ldbu (o : IOp)
  /-- LDHU (R70): Loads a zero-extended halfword. -/
  | ldhu (o : IOp)
  /-- LDWU (R70): Loads a zero-extended word. -/
  | ldwu (o : IOp)
  /-- STB (R70): Stores the low byte of x[b]. -/
  | stb (o : SOp)
  /-- STH (R70): Stores the low halfword of x[b]. -/
  | sth (o : SOp)
  /-- STW (R70): Stores the low word of x[b]. -/
  | stw (o : SOp)
  /-- STD (R70): Stores x[b] as a doubleword. -/
  | std (o : SOp)
  /-- BEQ (R72): Branches when x[a] equals x[b]. -/
  | beq (o : SOp)
  /-- BNE (R72): Branches when x[a] differs from x[b]. -/
  | bne (o : SOp)
  /-- BLT (R72): Branches when x[a] is below x[b] as signed integers. -/
  | blt (o : SOp)
  /-- BGE (R72): Branches when x[a] is at least x[b] as signed integers. -/
  | bge (o : SOp)
  /-- BLTU (R72): Branches when x[a] is below x[b] as unsigned integers. -/
  | bltu (o : SOp)
  /-- BGEU (R72): Branches when x[a] is at least x[b] as unsigned integers. -/
  | bgeu (o : SOp)
  /-- JAL (R73): Jumps PC-relative and writes PC + 4 to xd. -/
  | jal (o : UOp)
  /-- JALR (R73): Jumps to x[a] + imm with bit 0 cleared and writes PC + 4 to xd. -/
  | jalr (o : IOp)
  /-- LUI (R69): Writes sext(imm19) times 2^11 to xd. -/
  | lui (o : UOp)
  /-- ADDPC (R69): Writes PC + sext(imm19) times 2^11 to xd. -/
  | addpc (o : UOp)
  /-- FADD (R75): Performs scalar FP addition, rounded in FSTAT.RM. -/
  | fadd (o : FOp)
  /-- FSUB (R75): Performs scalar FP subtraction. -/
  | fsub (o : FOp)
  /-- FMUL (R75): Performs scalar FP multiplication. -/
  | fmul (o : FOp)
  /-- FDIV (R75): Performs scalar FP division. -/
  | fdiv (o : FOp)
  /-- FSQRT (R75): Computes the scalar FP square root. -/
  | fsqrt (o : FOp)
  /-- FMIN (R76): Computes the scalar FP minimum by R56. -/
  | fmin (o : FOp)
  /-- FMAX (R76): Computes the scalar FP maximum by R56. -/
  | fmax (o : FOp)
  /-- FEQ (R76): Writes the FP equality compare as an integer. -/
  | feq (o : FOp)
  /-- FLT (R76): Writes the FP less-than compare as an integer. -/
  | flt (o : FOp)
  /-- FLE (R76): Writes the FP less-or-equal compare as an integer. -/
  | fle (o : FOp)
  /-- FCLASS (R77): Writes a one-hot class mask of the operand. -/
  | fclass (o : FOp)
  /-- FCVT (R79): Converts between FP formats, with optional saturation into FP8. -/
  | fcvt (o : FOp)
  /-- FCVTI (R79): Converts FP to an integer type by R54. -/
  | fcvti (o : FOp)
  /-- FCVTIF (R79): Converts an integer to an FP type by R55. -/
  | fcvtif (o : FOp)
  /-- FSGN (R78): Replaces the sign of a with sign(a) XOR sign(b). -/
  | fsgn (o : FOp)
  /-- FMA (R75): Computes a times b plus d, exact then rounded once. -/
  | fma (o : FOp)
  /-- FNMA (R75): Computes d minus a times b, exact then rounded once. -/
  | fnma (o : FOp)
  /-- AMOSWAP (R80): Atomically swaps memory with x[b] and returns the old value. -/
  | amoswap (o : AOp)
  /-- AMOADD (R80): Atomically adds x[b] to memory, wrapping. -/
  | amoadd (o : AOp)
  /-- AMOAND (R80): Atomically ANDs x[b] into memory. -/
  | amoand (o : AOp)
  /-- AMOOR (R80): Atomically ORs x[b] into memory. -/
  | amoor (o : AOp)
  /-- AMOXOR (R80): Atomically XORs x[b] into memory. -/
  | amoxor (o : AOp)
  /-- AMOMIN (R80): Atomically takes the signed minimum. -/
  | amomin (o : AOp)
  /-- AMOMAX (R80): Atomically takes the signed maximum. -/
  | amomax (o : AOp)
  /-- AMOMINU (R80): Atomically takes the unsigned minimum. -/
  | amominu (o : AOp)
  /-- AMOMAXU (R80): Atomically takes the unsigned maximum. -/
  | amomaxu (o : AOp)
  /-- AMOCAS (R80): Atomically compares memory with x[d] and writes x[b] on a match. -/
  | amocas (o : AOp)
  /-- AMOFADD (R80): Atomically adds x[b] to memory in FP32 or FP64 with RNE. -/
  | amofadd (o : AOp)
  /-- TRAP (R85): Traps with cause TRAP, with TRAPINFO := x[a]. -/
  | trap (a : Reg)
  /-- CTLRD (R88): Reads a control register into xd. -/
  | ctlrd (o : IOp)
  /-- CTLWR (R88): Writes x[a] to a control register and returns the old value. -/
  | ctlwr (o : IOp)
  /-- CTLSET (R88): Sets the bits of x[a] in a control register. -/
  | ctlset (o : IOp)
  /-- CTLCLR (R88): Clears the bits of x[a] in a control register. -/
  | ctlclr (o : IOp)
  /-- CTLWRI (R88): Writes a 5-bit immediate to a control register. -/
  | ctlwri (o : IOp)
  /-- SETVL (R117): Installs the vector configuration and VL := min(AVL, VLMAX) at a strip boundary. -/
  | setvl (o : IOp)
  /-- SETVLI (R117): Acts as SETVL with a 5-bit immediate AVL. -/
  | setvli (o : IOp)
  /-- SETCFG (R118): Replaces every writable VCFG field from x[a] and acts as a strip boundary with the old VL as AVL. -/
  | setcfg (o : IOp)
  /-- VSAVE (R346): Writes the vector context to a context area. -/
  | vsave (a : Reg)
  /-- VRESTORE (R347): Reloads the vector context, rebuilds the frozen queue and clears VCLAIMED. -/
  | vrestore (a : Reg)
  /-- GSETVL (R119): Acts as the cohort strip boundary: it waits for every live member and gives all of them the same VL. -/
  | gsetvl (o : IOp)
  /-- VADD (R124): Performs element-wise integer addition. -/
  | vadd (o : VOp)
  /-- VSUB (R124): Performs element-wise integer subtraction. -/
  | vsub (o : VOp)
  /-- VMUL (R124): Writes the low bits of the element-wise integer product. -/
  | vmul (o : VOp)
  /-- VMULH (R124): Writes the high bits of the element-wise integer product. -/
  | vmulh (o : VOp)
  /-- VMIN (R124): Writes the element-wise integer minimum. -/
  | vmin (o : VOp)
  /-- VMAX (R124): Writes the element-wise integer maximum. -/
  | vmax (o : VOp)
  /-- VDIV (R125): Performs element-wise integer division. -/
  | vdiv (o : VOp)
  /-- VREM (R125): Computes the element-wise integer remainder. -/
  | vrem (o : VOp)
  /-- VAND (R124): Computes the element-wise AND. -/
  | vand (o : VOp)
  /-- VOR (R124): Computes the element-wise OR. -/
  | vor (o : VOp)
  /-- VXOR (R124): Computes the element-wise XOR. -/
  | vxor (o : VOp)
  /-- VSLL (R124): Shifts each element left. -/
  | vsll (o : VOp)
  /-- VSR (R124): Shifts each element right, arithmetic or logical per T. -/
  | vsr (o : VOp)
  /-- VSADD (R124): Performs element-wise saturating addition. -/
  | vsadd (o : VOp)
  /-- VSSUB (R124): Performs element-wise saturating subtraction. -/
  | vssub (o : VOp)
  /-- VMAC (R124): Computes d + a times b per element. -/
  | vmac (o : VOp)
  /-- VCMPEQ (R126): Writes a mask of element equality. -/
  | vcmpeq (o : VOp)
  /-- VCMPNE (R126): Writes a mask of element inequality. -/
  | vcmpne (o : VOp)
  /-- VCMPLT (R126): Writes a mask of a < b per element. -/
  | vcmplt (o : VOp)
  /-- VCMPLE (R126): Writes a mask of a <= b per element. -/
  | vcmple (o : VOp)
  /-- VMERGE (R139): Selects b or a per element by the mask. -/
  | vmerge (o : VOp)
  /-- VMV (R139): Copies a vector or a broadcast scalar into the active elements. -/
  | vmv (o : VOp)
  /-- VMVX (R140): Reads element x[s] of a vector into an x register. -/
  | vmvx (o : VOp)
  /-- VID (R139): Writes each element's index. -/
  | vid (o : VOp)
  /-- VFADD (R127): Performs element-wise FP addition. -/
  | vfadd (o : VOp)
  /-- VFSUB (R127): Performs element-wise FP subtraction. -/
  | vfsub (o : VOp)
  /-- VFMUL (R127): Performs element-wise FP multiplication. -/
  | vfmul (o : VOp)
  /-- VFDIV (R127): Performs element-wise FP division. -/
  | vfdiv (o : VOp)
  /-- VFMA (R127): Computes a times b plus d per element, exact then rounded once. -/
  | vfma (o : VOp)
  /-- VFNMA (R127): Computes d minus a times b per element. -/
  | vfnma (o : VOp)
  /-- VFMIN (R127): Writes the element-wise FP minimum. -/
  | vfmin (o : VOp)
  /-- VFMAX (R127): Writes the element-wise FP maximum. -/
  | vfmax (o : VOp)
  /-- VFSQRT (R127): Computes the element-wise FP square root. -/
  | vfsqrt (o : VOp)
  /-- VFRSQRT (R128): Computes the element-wise reciprocal square root, rounded once. -/
  | vfrsqrt (o : VOp)
  /-- VFABS (R127): Clears each element's sign bit. -/
  | vfabs (o : VOp)
  /-- VFNEG (R127): Inverts each element's sign bit. -/
  | vfneg (o : VOp)
  /-- VFCMPEQ (R129): Writes a mask of FP equality. -/
  | vfcmpeq (o : VOp)
  /-- VFCMPLT (R129): Writes a mask of FP less-than. -/
  | vfcmplt (o : VOp)
  /-- VFCMPLE (R129): Writes a mask of FP less-or-equal. -/
  | vfcmple (o : VOp)
  /-- VFCLASS (R129): Writes a UINT16 class mask for each element. -/
  | vfclass (o : VOp)
  /-- VFCVT (R131): Converts elements between FP formats, unscaled. -/
  | vfcvt (o : VOp)
  /-- VFCVT (R132): Quantises or dequantises elements with a block scale from qN, rounded once. -/
  | vfcvtScaled (o : VOp)
  /-- VF2I (R131): Converts FP elements to integers. -/
  | vf2i (o : VOp)
  /-- VI2F (R131): Converts integer elements to FP. -/
  | vi2f (o : VOp)
  /-- VIEXT (R131): Changes the integer width and signedness of each element, optionally saturating. -/
  | viext (o : VOp)
  /-- VREDSUM (R133): Reduces the active integer elements by sum into xd. -/
  | vredsum (o : VOp)
  /-- VREDMIN (R133): Reduces the active integer elements by minimum. -/
  | vredmin (o : VOp)
  /-- VREDMAX (R133): Reduces the active integer elements by maximum. -/
  | vredmax (o : VOp)
  /-- VREDOR (R133): Reduces the active integer elements by OR. -/
  | vredor (o : VOp)
  /-- VFREDSUM (R133): Reduces the active FP elements by sum in tree order. -/
  | vfredsum (o : VOp)
  /-- VFREDOSUM (R133): Reduces the active FP elements by sum in ordered order. -/
  | vfredosum (o : VOp)
  /-- VFREDMIN (R133): Reduces the active FP elements by minimum. -/
  | vfredmin (o : VOp)
  /-- VFREDMAX (R133): Reduces the active FP elements by maximum. -/
  | vfredmax (o : VOp)
  /-- VSCAN (R141): Computes the inclusive prefix sum of the active elements. -/
  | vscan (o : VOp)
  /-- VPERM (R143): Gathers elements of vs1 by index. -/
  | vperm (o : VOp)
  /-- VSLIDEUP (R144): Slides elements up by an offset. -/
  | vslideup (o : VOp)
  /-- VSLIDEDN (R144): Slides elements down by an offset. -/
  | vslidedn (o : VOp)
  /-- VCOMPRESS (R145): Packs the elements selected by the mask. -/
  | vcompress (o : VOp)
  /-- VRANK (R145): Writes each active element's rank among the set bits of ms. -/
  | vrank (o : VOp)
  /-- VBFLY (R150): Applies one butterfly stage in place along a vector. -/
  | vbfly (o : VOp)
  /-- VSORTK (R149): Writes the stable sorting permutation of the keys. -/
  | vsortk (o : VOp)
  /-- MAND (R137): Computes the bitwise AND of two masks. -/
  | mand (o : VOp)
  /-- MOR (R137): Computes the bitwise OR of two masks. -/
  | mor (o : VOp)
  /-- MXOR (R137): Computes the bitwise XOR of two masks. -/
  | mxor (o : VOp)
  /-- MANDN (R137): Computes ma AND NOT mb. -/
  | mandn (o : VOp)
  /-- MPOPC (R138): Counts the indices below VL set in both ma and mk. -/
  | mpopc (o : VOp)
  /-- MFIRST (R138): Writes the lowest index set in both ma and mk. -/
  | mfirst (o : VOp)
  /-- MSET (R137): Sets mask bits below u(x[s]). -/
  | mset (o : VOp)
  /-- VMAXI (R147): Finds the greatest active element, returns its index and value, and clears its mask bit. -/
  | vmaxi (o : VOp)
  /-- VMINI (R147): Finds the least active element, returns its index and value, and clears its mask bit. -/
  | vmini (o : VOp)
  /-- VBSLICE (R151): Converts elements into bit planes. -/
  | vbslice (o : VOp)
  /-- VBUNSLICE (R151): Converts bit planes back into elements. -/
  | vbunslice (o : VOp)
  /-- VLD (R156): Performs a unit-stride fault-only-first vector load. -/
  | vld (o : VOp)
  /-- VLDS (R156): Performs a strided fault-only-first vector load. -/
  | vlds (o : VOp)
  /-- VLDAV (R275): Loads elements already landed by a stream, trimming VL or waiting at element 0. -/
  | vldav (o : VOp)
  /-- VLDG (R246): Performs a cohort multicast load that fetches each element once for all members. -/
  | vldg (o : VOp)
  /-- VLDX (R158): Performs an ordered precise indexed gather. -/
  | vldx (o : VOp)
  /-- VLDXU (R162): Performs an unordered precise indexed gather. -/
  | vldxu (o : VOp)
  /-- VLDXF (R156): Performs a fault-only-first indexed gather. -/
  | vldxf (o : VOp)
  /-- QLDS (R165): Loads block scales into a scale register with a stride. -/
  | qlds (o : VOp)
  /-- VST (R158): Performs a unit-stride precise vector store. -/
  | vst (o : VOp)
  /-- VSTS (R158): Performs a strided precise vector store. -/
  | vsts (o : VOp)
  /-- VSTX (R158): Performs an ordered indexed scatter. -/
  | vstx (o : VOp)
  /-- VSTXU (R162): Performs an unordered indexed scatter. -/
  | vstxu (o : VOp)
  /-- VSTXADD (R163): Performs a combining scatter that adds at each address's home. -/
  | vstxadd (o : VOp)
  /-- VSTXMAX (R163): Performs a combining scatter that takes the maximum. -/
  | vstxmax (o : VOp)
  /-- VSTXMIN (R163): Performs a combining scatter that takes the minimum. -/
  | vstxmin (o : VOp)
  /-- MLD (R166): Loads a mask register from memory. -/
  | mld (o : VOp)
  /-- MST (R166): Stores a mask register to memory. -/
  | mst (o : VOp)
  /-- VLDXC (R281): Performs a chunk gather that sets completion-mask bits per 64-element chunk. -/
  | vldxc (o : VOp)
  /-- XOPEN (R299): Joins an exchange round as sender and/or receiver. -/
  | xopen (o : VOp)
  /-- XSPLIT (R300): Sets the XID's splitter table, coordinator only. -/
  | xsplit (o : VOp)
  /-- XCAP (R300): Sets the XID's per-key capacity. -/
  | xcap (o : VOp)
  /-- XDEADL (R300): Sets the XID's batch deadline t0 and period p. -/
  | xdeadl (o : VOp)
  /-- RSEND (R301): Emits one record per active element into the form port. -/
  | rsend (o : VOp)
  /-- RRUN (R301): Ends any open run, then sorts, emits and ends one run of records. -/
  | rrun (o : VOp)
  /-- XCLOSE (R302): Ends the run, sends the close marker and reports the records emitted. -/
  | xclose (o : VOp)
  /-- RRECV (R303): Delivers records of the current batch in key order into registers. -/
  | rrecv (o : VOp)
  /-- XWAIT (R304): Stalls until a round condition holds and returns the status word. -/
  | xwait (o : VOp)
  /-- XSTAT (R305): Returns a selected exchange status value. -/
  | xstat (o : VOp)
  /-- XREBAL (R300): Installs the last proposal or a given table for the XID. -/
  | xrebal (o : VOp)
  /-- SHAPE (R265): Checks a shape record and returns the number of the first failing check. -/
  | shape (o : VOp)
  /-- STMLD (R268): Starts an unshaped stream from memory into slate. -/
  | stmld (o : VOp)
  /-- STMLD (R268): Starts a shaped stream from memory into slate. -/
  | stmldShaped (o : VOp)
  /-- STMST (R268): Starts an unshaped stream from slate to memory. -/
  | stmst (o : VOp)
  /-- STMST (R268): Starts a shaped stream from slate to memory. -/
  | stmstShaped (o : VOp)
  /-- STMCP (R268): Starts an unshaped memory-to-memory stream copy. -/
  | stmcp (o : VOp)
  /-- STMCP (R268): Starts a shaped memory-to-memory stream copy. -/
  | stmcpShaped (o : VOp)
  /-- STMWAIT (R276): Stalls until the slot is not ACTIVE, then returns its status or traps on its recorded fault. -/
  | stmwait (o : VOp)
  /-- STMSTAT (R277): Returns the slot's status word at once. -/
  | stmstat (o : VOp)
  /-- STMTL (R271): Streams a bounded tensor tile into slate, zero-filling out-of-bounds rows and setting a row mask. -/
  | stmtl (o : VOp)
  /-- STMCANCEL (R278): Stops a slot's stream, waits for started accesses and sets the slot IDLE. -/
  | stmcancel (o : VOp)
  /-- TLAUNCH (R224): Copies a launch packet into a device queue and advances its tail. -/
  | tlaunch (o : VOp)
  /-- TWAIT (R227): Waits until a queue's DONE covers a packet index. -/
  | twait (o : VOp)
  /-- GARRIVE (R228): Returns the phase bit and counts one arrival. -/
  | garrive (o : VOp)
  /-- GWAIT (R228): Waits until the phase bit differs from bit 0 of x[a]. -/
  | gwait (o : VOp)
  /-- LEASE (R229): Changes the task's minimum and preferred cluster counts and sets a pending target. -/
  | lease (o : VOp)
  /-- DREG (R313): Registers or releases a draft entry. -/
  | dreg (o : VOp)
  /-- DPUB (R314): Publishes a new version of a draft as a release. -/
  | dpub (o : VOp)
  /-- DFINAL (R314): Publishes the final version of a draft. -/
  | dfinal (o : VOp)
  /-- DSTOP (R316): Sets STOPREQ on a draft and wakes the producer's harts. -/
  | dstop (o : VOp)
  /-- DCHK (R317): Returns a draft's status word, from the entry or from the run's snapshot. -/
  | dchk (o : VOp)
  /-- DWAIT (R318): Waits until a draft has a newer version, is final or abandoned, or is unbound. -/
  | dwait (o : VOp)
  /-- HPASS (R405): Requests an explicit hall pass of a given charge. -/
  | hpass (o : VOp)
  /-- HDONE (R405): Returns the hart's explicit hall pass. -/
  | hdone (o : VOp)
  /-- MATT (R169): Requests accumulator tiles and a hall pass, bounded by HPWAIT. -/
  | matt (o : DOp)
  /-- MZERO (R191): Zeroes the active entries of count tiles. -/
  | mzero (o : DOp)
  /-- MSETLEN (R176): Sets MLEN from a register or an immediate. -/
  | msetlen (o : DOp)
  /-- MSAVE (R192): Writes every held tile to memory. -/
  | msave (o : DOp)
  /-- MLOAD (R192): Reads every held tile from memory. -/
  | mload (o : DOp)
  /-- OPADD (R179): Adds the outer product of va and vb into a tile. -/
  | opadd (o : DOp)
  /-- OPSUB (R179): Subtracts the outer product of va and vb from a tile. -/
  | opsub (o : DOp)
  /-- OPADD.SP (R181): Adds an N:M-sparse outer product using metadata positions. -/
  | opaddSp (o : DOp)
  /-- OPADD.BS (R182): Adds a bit-sliced integer outer product. -/
  | opaddBs (o : DOp)
  /-- OPADD.Q (R180): Adds a row- and column-scaled outer product into FP32. -/
  | opaddQ (o : DOp)
  /-- MGRP (R185): Applies a grouped product with per-group weight panels fetched from memory. -/
  | mgrp (o : DOp)
  /-- MGRP.Q (R185): Applies a grouped product with row and column scales. -/
  | mgrpQ (o : DOp)
  /-- MLDT (R188): Loads tile entries from memory. -/
  | mldt (o : DOp)
  /-- MLDT.FF (R189): Loads tile rows fault-only-first, trimming MLEN at a faulting row. -/
  | mldtFf (o : DOp)
  /-- MSTT (R188): Stores tile entries to memory. -/
  | mstt (o : DOp)
  /-- MRDV (R190): Moves one tile row or column into a vector register. -/
  | mrdv (o : DOp)
  /-- MWRV (R190): Moves a vector register into one tile row or column. -/
  | mwrv (o : DOp)
  /-- BST (R198): Applies one butterfly stage to a row group of tiles. -/
  | bst (o : DOp)
  /-- BCHAIN (R200): Applies a chain of butterfly stages with inter-stage rounding. -/
  | bchain (o : DOp)
  /-- BSSET (R206): Writes a stride register from x[xs]. -/
  | bsset (o : DOp)
  /-- BSGET (R206): Reads a stride register into x[xs]. -/
  | bsget (o : DOp)
  /-- H.NOP (R24): Does nothing. -/
  | hNop
  /-- FENCE.SV (R83): Orders earlier scalar accesses before later vector accesses. -/
  | fenceSv
  /-- FENCE.VS (R83): Waits for queued vector accesses before later scalar accesses. -/
  | fenceVs
  /-- FENCE.VV (R83): Orders earlier vector accesses before later vector accesses. -/
  | fenceVv
  /-- FENCE.ALL (R83): Orders all of the hart's scalar, vector, stream and matrix accesses in both directions. -/
  | fenceAll
  /-- FENCE.I (R84): Makes the hart's earlier stores visible to its later fetches. -/
  | fenceI
  /-- TRET (R86): Returns from a trap, restoring the privilege level and unfreezing the vector queue. -/
  | tret
  /-- WFE (R87): Waits until the hart's event flag is set, then clears it. -/
  | wfe
  /-- BRK (R85): Traps with cause BREAK, or halts the core when halting is armed. -/
  | brk
  /-- VCLAIM (R345): Spills the frozen vector context of the trapped task and gives the vector unit to the handler. -/
  | vclaim
  /-- REND (R302): Ends the open run. -/
  | rend
  /-- TEXIT (R225): Waits as FENCE.ALL and for streams, releases tiles and lease, and ends the hart's task. -/
  | texit
  /-- TYIELD (R226): Pre-empts the task when a waiting copy of sufficient level needs the core. -/
  | tyield
  /-- GBAR (R228): Arrives at the barrier and waits for the phase to complete. -/
  | gbar
  /-- MREL (R171): Releases every held tile and the tile hall pass. -/
  | mrel
  /-- QUEUE_HEAD_EXECUTE (R107): A queued vector or matrix instruction reaches the head of the hart's queue and performs its work. -/
  | queueHeadExecute
  /-- DISPATCH_SLOT (R219): Every 4 clocks the Registrar selects the highest-level dispatchable packet by deficit round robin and starts up to four copies. -/
  | dispatchSlot
  /-- COPY_HANDOFF (R216): Copies handed over by the home Registrar arrive at the target die, which starts them ahead of its own selections. -/
  | copyHandoff
  /-- LEVEL_AGING (R218): A ready packet's effective level rises by one every 2^20 clocks, up to 6. -/
  | levelAging
  /-- TAIL_WRITE (R210): A write of a queue's TAIL doorbell is accepted or refused, or raises ERR = 2. -/
  | tailWrite
  /-- QUEUE_ENABLE (R210): Setting EN captures the queue's descriptor fields, or leaves EN = 0 for a bad LSZ. -/
  | queueEnable
  /-- QUEUE_DISABLE (R210): Clearing EN stops further selection from the queue. -/
  | queueDisable
  /-- RELAUNCH (R320): Once every copy of a stopped RESTART run has stopped or exited, the packet is started afresh with a new snapshot. -/
  | relaunch
  /-- PIPELINE_ARM (R324): Writing STATE := 1 to a pipeline entry arms it and evaluates settling. -/
  | pipelineArm
  /-- LEASEWAIT_EXPIRY (R94): LEASEWAIT clocks pass without a strip boundary after a revoke, and the task is pre-empted. -/
  | leasewaitExpiry
  /-- TASK_RESUME (R350): A pre-empted task is restored on its core once its form can grant its saved count. -/
  | taskResume
  /-- HALL_PASS_GRANT (R404): A waiting hall-pass request is granted when it fits the budget in arrival order. -/
  | hallPassGrant
  /-- HPWAIT_EXPIRY (R404): A hall-pass request not granted within HPWAIT is refused and counted. -/
  | hpwaitExpiry
  /-- TILE_GRANT (R170): A waiting MATT request receives tiles when at least its minimum is free. -/
  | tileGrant
  /-- STREAM_ELEMENT_LANDING (R272): A stream element access is performed, advancing AVAIL and the arrival pointers. -/
  | streamElementLanding
  /-- CHUNK_DELIVERED (R281): When a VLDXC chunk's elements are all delivered, its completion-mask bits are set. -/
  | chunkDelivered
  /-- RECORD_MERGE (R291): A record arrives at a merge point and is merged by key and combined with equal keys. -/
  | recordMerge
  /-- RECORD_ARRIVAL (R294): A record reaches its receiver port, joins the open batch, possibly as LATE, and is sampled by the Vane. -/
  | recordArrival
  /-- CLOSE_MARKER_ARRIVAL (R294): A sender's close marker reaches a receiver, and the arrival of the last marker closes the batch finally. -/
  | closeMarkerArrival
  /-- BATCH_DEADLINE (R294): The deadline instant t0 + b·p is reached and the receiver's batch closes. -/
  | batchDeadline
  /-- ROUND_FAILURE_NOTICE (R394): A failure notice reaches a party, which marks the round FAILED and discards its undelivered records. -/
  | roundFailureNotice
  /-- LINK_FAIL (R382): A port or die link fails, and the transfers with unacknowledged flits on it are lost. -/
  | linkFail
  /-- TRANSFER_TIMEOUT (R382): A response has not arrived 200 µs after its request, so the transfer is lost. -/
  | transferTimeout
  /-- GATHER_PIECE_RESPONSE (R385): A remote home returns the packed vector of element values for a gather piece. -/
  | gatherPieceResponse
  /-- FLIT_RECEIVE (R379): A flit arrives and is accepted, acknowledged or discarded with NAK, with replay on NAK. -/
  | flitReceive
  /-- PORT_RETRAIN (R379): A flit sent eight times unacknowledged makes the port retrain and spare a failing lane. -/
  | portRetrain
  /-- RETRAIN_TIMEOUT (R379): Retraining not complete within 1 ms fails the port. -/
  | retrainTimeout
  /-- REPLICA_INVALIDATE (R389): A holder receives an invalidate for a read-duplicated page, drops its replica and acknowledges. -/
  | replicaInvalidate
  /-- REPLICA_ACK (R389): An acknowledgement arrives at the home, and the last one places the held write. -/
  | replicaAck
  /-- REPLICA_ACK_TIMEOUT (R389): 200 µs after an invalidate to an unreachable holder, the held write is placed. -/
  | replicaAckTimeout
  /-- REPLICA_CREATE (R388): After a remote read of a read-duplicated page, the hub copies the page into its pool and records the holder. -/
  | replicaCreate
  /-- PTP_SYNC (R391): A PTP Sync message is received and the hub slews or steps TIMENS forward. -/
  | ptpSync
  /-- PDELAY (R391): A peer-delay message exchange is received and measured. -/
  | pdelay
  /-- NO_GM (R392): A package loses every route to the grandmaster and runs freely. -/
  | noGm
  /-- TIME_SET (R391): The host sets the grandmaster's time through the bridge, at once before first dispatch or as a new target after it. -/
  | timeSet
  /-- HOST_READ (R398): A host read through a BAR is translated, checked and performed in 8-byte pieces. -/
  | hostRead
  /-- HOST_WRITE (R398): A host posted write through a BAR is translated, checked and placed in posted-write order. -/
  | hostWrite
  /-- APERTURE_DESCRIPTOR_WRITE (R397): A write to an aperture descriptor, which changes only EN while EN = 1. -/
  | apertureDescriptorWrite
  /-- MSIX_UNMASK (R416): Unmasking an MSI-X vector sends its latched event once. -/
  | msixUnmask
  /-- CORRECTED (R352): A single-bit error is corrected on read, rewritten and logged. -/
  | corrected
  /-- POISONED (R352): An uncorrectable SECDED error marks the word poisoned and is logged. -/
  | poisoned
  /-- PARITY_ERROR (R352): A parity error in scalar, control, queue or slot state kills the task. -/
  | parityError
  /-- ROW_REPAIR (R413): A DRAM row reaching 16 corrected errors in an hour is repaired and recorded. -/
  | rowRepair
  /-- FATAL_ERROR (R414): A fatal error freezes the rollbook, raises MSI-X vector 0 and kills the die's tasks. -/
  | fatalError
  /-- COLD_RESET (R399): The package verifies firmware, trains memory and links, generates key slot 0, locks time and starts the boot tasks. -/
  | coldReset
  /-- WARM_RESET (R399): Repeats bring-up steps 3 to 6, keeping memory and key slot 0 and emptying the other slots. -/
  | warmReset
  /-- BOOT_CONFIG_WRITE (R400): The host writes the boot configuration through the mailbox, taking effect at the next reset. -/
  | bootConfigWrite
  /-- MIN_VERSION_RAISE (R407): A signed mailbox command raises the minimum firmware version. -/
  | minVersionRaise
  /-- LOAD (R410): A wrapped key is loaded into an empty key slot. -/
  | load
  /-- CLEAR (R410): A key slot is emptied after every access checked under it has been performed. -/
  | clear
  /-- TRANSPORT_KEY_WRITE (R401): On a 7101, the controller writes the 256-bit wrapping transport key. -/
  | transportKeyWrite
  /-- FORM_QUIESCE (R411): The operator quiesces a form; dispatch to it stops until a spare takes its number. -/
  | formQuiesce
  /-- QUIESCE_LIMIT (R411): The operator-set limit is reached and the form's remaining tasks are killed. -/
  | quiesceLimit
  /-- FW_UPDATE (R412): A die's Registrar firmware is verified and loaded while selection pauses. -/
  | fwUpdate
  /-- BUDGET_WRITE (R402): A write of the Proctor's BUDGET, after which requests wait until GRANTED falls below it. -/
  | budgetWrite
  /-- GET_VERSION (R408): The SPDM GET_VERSION request. -/
  | getVersion
  /-- GET_CAPABILITIES (R408): The SPDM GET_CAPABILITIES request. -/
  | getCapabilities
  /-- NEGOTIATE_ALGORITHMS (R408): The SPDM NEGOTIATE_ALGORITHMS request. -/
  | negotiateAlgorithms
  /-- GET_DIGESTS (R408): The SPDM GET_DIGESTS request. -/
  | getDigests
  /-- GET_CERTIFICATE (R408): The SPDM GET_CERTIFICATE request. -/
  | getCertificate
  /-- CHALLENGE (R408): The SPDM CHALLENGE request, signed with the XMSS identity key. -/
  | challenge
  /-- GET_MEASUREMENTS (R408): The SPDM GET_MEASUREMENTS request, returning one block per loaded image. -/
  | getMeasurements
  /-- KEY_EXCHANGE (R408): The SPDM KEY_EXCHANGE request, using ECDHE on secp384r1. -/
  | keyExchange
  /-- FINISH (R408): The SPDM FINISH request completing a secured session. -/
  | finish
  /-- HALTREQ (R356): Writing DCTL.HALTREQ requests a halt of the whole core. -/
  | haltreq
  /-- HALT_COMPLETE (R356): The core halts once the streams into its slate have landed, or at once under HALT_NOW. -/
  | haltComplete
  /-- HALT_QUIET_TIMEOUT (R356): After 50 µs, HALT_QUIET completes with UNSTABLE set. -/
  | haltQuietTimeout
  /-- RESUME (R356): Writing DCTL.RESUME continues each hart from DPC with its frozen queue. -/
  | resume
  /-- DEBUG_STATE_ACCESS (R355): The management path reads or writes a halted core's registers, memory or frozen vector state. -/
  | debugStateAccess
  /-- INVALIDATE (R370): Removes a page's translations from every cache, waits for their accesses and increments DONE. -/
  | invalidate
  /-- MIGRATE (R371): Sets MIG, invalidates, copies a 64 KiB page to a new frame and installs the new leaf. -/
  | migrate
  /-- TRANSLATION_OP_DONE (R369): An INVALIDATE or MIGRATE in progress finishes, clearing BUSY and incrementing DONE. -/
  | translationOpDone
  /-- REGISTER_WRITE (R209): A write to a device register or table entry that has no behaviour of its own. -/
  | registerWrite
  /-- ILLEGAL_INSTRUCTION (R33): A fetched instruction whose first parcel is 0x0000 or whose major, tile major, cop or selector is marked illegal traps ILLEGAL before any state changes. -/
  | illegalInstruction
  /-- FETCH_FAULT (R36): An instruction fetch at a non-canonical, unassigned, absent or non-executable address traps with TRAPPC, TRAPFB and TRAPVA as R36 gives. -/
  | fetchFault
  /-- RETRAIN_DONE (R379): A port's retraining completes within 1 ms, with a failing lane replaced by the spare, and traffic resumes without losing or duplicating flits. -/
  | retrainDone
  /-- TIME_SLEW (R401): On a 7101, the controller slews TIMENS through the sideband at up to 200 ppm. -/
  | timeSlew
  /-- POWER_LOSS (R408): Loss of power between the write of the XMSS leaf counter and the release of a signature skips that index, which is never reused. -/
  | powerLoss
  /-- H.ADDI (R24): Adds a signed 5-bit immediate to xa, executing as ADDI xa, xa, simm5. -/
  | hAddi (o : HOp)
  /-- H.LI (R24): Loads a signed 5-bit immediate into xa, executing as ADDI xa, x0, simm5. -/
  | hLi (o : HOp)
  /-- H.MV (R24): Copies xb to xa. -/
  | hMv (o : HOp)
  /-- H.ADD (R24): Computes xa := xa + xb. -/
  | hAdd (o : HOp)
  /-- H.SUB (R24): Computes xa := xa - xb. -/
  | hSub (o : HOp)
  /-- H.AND (R24): Computes xa := xa AND xb. -/
  | hAnd (o : HOp)
  /-- H.OR (R24): Computes xa := xa OR xb. -/
  | hOr (o : HOp)
  /-- H.XOR (R24): Computes xa := xa XOR xb. -/
  | hXor (o : HOp)
  /-- H.SLLI (R24): Shifts xa left by an unsigned 5-bit amount. -/
  | hSlli (o : HOp)
  /-- H.SRLI (R24): Shifts xa right logically by an unsigned 5-bit amount. -/
  | hSrli (o : HOp)
  /-- H.LDD (R24): Loads a doubleword from x30 plus an 8-scaled offset into xa. -/
  | hLdd (o : HOp)
  /-- H.STD (R24): Stores xa to x30 plus an 8-scaled offset. -/
  | hStd (o : HOp)
  /-- H.BEQZ (R24): Branches when xa is zero; when not taken it continues at PC + 2. -/
  | hBeqz (o : HOp)
  /-- H.BNEZ (R24): Branches when xa is nonzero; when not taken it continues at PC + 2. -/
  | hBnez (o : HOp)
  /-- H.J (R24): Jumps by a signed 10-bit halfword offset without writing a link. -/
  | hJ (o : HOp)
  /-- H.JR (R24): Jumps to the address in xa without writing a link. -/
  | hJr (o : HOp)
  /-- H.SETVL (R24): Executes as SETVL xa, xb using the configuration currently held in VCFG. -/
  | hSetvl (o : HOp)
  deriving DecidableEq, Repr

/-- Whether a row of the table is an event of an agent, which has no encoding (95_what_each_step_holds). -/
def Instr.isEvent : Instr → Bool
  | .queueHeadExecute => true
  | .dispatchSlot => true
  | .copyHandoff => true
  | .levelAging => true
  | .tailWrite => true
  | .queueEnable => true
  | .queueDisable => true
  | .relaunch => true
  | .pipelineArm => true
  | .leasewaitExpiry => true
  | .taskResume => true
  | .hallPassGrant => true
  | .hpwaitExpiry => true
  | .tileGrant => true
  | .streamElementLanding => true
  | .chunkDelivered => true
  | .recordMerge => true
  | .recordArrival => true
  | .closeMarkerArrival => true
  | .batchDeadline => true
  | .roundFailureNotice => true
  | .linkFail => true
  | .transferTimeout => true
  | .gatherPieceResponse => true
  | .flitReceive => true
  | .portRetrain => true
  | .retrainTimeout => true
  | .replicaInvalidate => true
  | .replicaAck => true
  | .replicaAckTimeout => true
  | .replicaCreate => true
  | .ptpSync => true
  | .pdelay => true
  | .noGm => true
  | .timeSet => true
  | .hostRead => true
  | .hostWrite => true
  | .apertureDescriptorWrite => true
  | .msixUnmask => true
  | .corrected => true
  | .poisoned => true
  | .parityError => true
  | .rowRepair => true
  | .fatalError => true
  | .coldReset => true
  | .warmReset => true
  | .bootConfigWrite => true
  | .minVersionRaise => true
  | .load => true
  | .clear => true
  | .transportKeyWrite => true
  | .formQuiesce => true
  | .quiesceLimit => true
  | .fwUpdate => true
  | .budgetWrite => true
  | .getVersion => true
  | .getCapabilities => true
  | .negotiateAlgorithms => true
  | .getDigests => true
  | .getCertificate => true
  | .challenge => true
  | .getMeasurements => true
  | .keyExchange => true
  | .finish => true
  | .haltreq => true
  | .haltComplete => true
  | .haltQuietTimeout => true
  | .resume => true
  | .debugStateAccess => true
  | .invalidate => true
  | .migrate => true
  | .translationOpDone => true
  | .registerWrite => true
  | .illegalInstruction => true
  | .fetchFault => true
  | .retrainDone => true
  | .timeSlew => true
  | .powerLoss => true
  | _ => false

end Sys2Proof
end

