-- ==== Sys2Proof/Decode.lean ====
section
/-! DEFINITION. The decoder (R21 to R33), total on any bytes and rejecting by name, and after it the
encoder. The decoder reads lengths, majors and selectors; what a form's fields may hold is WellFormed's. -/

namespace Sys2Proof

/-- Why bytes are no instruction (R33). -/
inductive DecodeError where
  /-- Fewer bytes than the length of the first parcel asks for. -/
  | truncated
  /-- A first parcel of 0x0000 (R22). -/
  | zeroParcel
  /-- An H-form cop outside 1 to 18, or a nonzero field of H.NOP (R24). -/
  | badCop
  /-- A major marked illegal (R29, R30). -/
  | badMajor
  /-- A function value beyond the list of its major (R29, R30). -/
  | badSelector
  /-- A field that a form without operands does not use is nonzero (R33, R83). -/
  | nonzeroField
  deriving DecidableEq, Repr

/-- The fields of a 32-bit word, as every 32-bit form cuts it (R25). -/
structure WordFields where
  a : BitVec 5
  b : BitVec 5
  f : BitVec 6
  mj : BitVec 6
  d : BitVec 5
  x : BitVec 3
  deriving DecidableEq, Repr

/-- The fields of a word (R25). -/
def splitWord (w : BitVec 32) : WordFields :=
  { a := w.extractLsb' 27 5, b := w.extractLsb' 22 5, f := w.extractLsb' 16 6,
    mj := w.extractLsb' 8 6, d := w.extractLsb' 3 5, x := w.extractLsb' 0 3 }

/-- The word of the fields (R25). -/
def joinWord (p : WordFields) : BitVec 32 :=
  p.a ++ p.b ++ p.f ++ (0b10 : BitVec 2) ++ p.mj ++ p.d ++ p.x

/-- The fields of a 64-bit doubleword beside its length marker (R28). -/
structure TileFields where
  mj : BitVec 6
  f : BitVec 6
  o : DOp
  deriving DecidableEq, Repr

/-- The fields of a doubleword (R28). -/
def splitTile (w : BitVec 64) : TileFields :=
  { mj := w.extractLsb' 8 6, f := w.extractLsb' 34 6,
    o := { imm := w.extractLsb' 52 12, wb := w.extractLsb' 48 4, wa := w.extractLsb' 44 4,
           tt := w.extractLsb' 40 4, cm := w.extractLsb' 31 3, xs := w.extractLsb' 26 5,
           vb := w.extractLsb' 21 5, va := w.extractLsb' 16 5, acd := w.extractLsb' 4 4,
           aux := w.extractLsb' 0 4 } }

/-- The doubleword of the fields (R28). -/
def joinTile (p : TileFields) : BitVec 64 :=
  p.o.imm ++ p.o.wb ++ p.o.wa ++ p.o.tt ++ p.f ++ p.o.cm ++ p.o.xs ++ p.o.vb ++ p.o.va
    ++ (0b11 : BitVec 2) ++ p.mj ++ p.o.acd ++ p.o.aux

/-- R-form operands (R25). -/
def WordFields.r (p : WordFields) : ROp := { d := p.d, a := p.a, b := p.b }

/-- I-form operands: imm11 is b over funct6 (R25). -/
def WordFields.i (p : WordFields) : IOp := { d := p.d, a := p.a, imm := p.b ++ p.f }

/-- S- and B-form operands: imm11 is funct6 over d (R25). -/
def WordFields.s (p : WordFields) : SOp := { a := p.a, b := p.b, imm := p.f ++ p.d }

/-- U- and J-form operands: imm19 is a, b, funct6 and x3 (R25). -/
def WordFields.u (p : WordFields) : UOp := { d := p.d, imm := p.a ++ p.b ++ p.f ++ p.x }

/-- FOP operands (R32). -/
def WordFields.fp (p : WordFields) : FOp := { d := p.d, a := p.a, b := p.b, t := p.x }

/-- AMO operands (R80). -/
def WordFields.amo (p : WordFields) : AOp :=
  { d := p.d, a := p.a, b := p.b, o := p.f.extractLsb' 4 2, w := p.x.extractLsb' 0 1 }

/-- V-form operands: funct6 is S, T and op2 (R25). -/
def WordFields.v (p : WordFields) : VOp :=
  { vd := p.d, vs1 := p.a, vs2 := p.b, sc := p.f.extractLsb' 5 1, t := p.f.extractLsb' 2 3, m := p.x }

/-- The V-form's op2 (R25). -/
def WordFields.op2 (p : WordFields) : BitVec 2 := p.f.extractLsb' 0 2

/-- The cops 1 to 16 (R24). -/
noncomputable def hTable : List (HOp → Instr) :=
  [.hAddi, .hLi, .hMv, .hAdd, .hSub, .hAnd, .hOr, .hXor, .hSlli, .hSrli, .hLdd, .hStd, .hBeqz,
   .hBnez, .hJ, .hJr]

/-- OPR, by funct6 (R29). -/
def oprTable : List (ROp → Instr) :=
  [.add, .sub, .mul, .mulh, .mulhu, .div, .divu, .rem, .remu, .and, .or, .xor, .sll, .srl, .sra,
   .slt, .sltu, .min, .max, .minu, .maxu, .clz, .ctz, .popc]

/-- OPI, by x3 0 to 5; SHI is `decodeShi` (R29). -/
def opiTable : List (IOp → Instr) :=
  [.addi, .andi, .ori, .xori, .slti, .sltiu]

/-- LD, by x3 (R29). -/
def ldTable : List (IOp → Instr) :=
  [.ldb, .ldh, .ldw, .ldd, .ldbu, .ldhu, .ldwu]

/-- ST, by x3 (R29). -/
def stTable : List (SOp → Instr) :=
  [.stb, .sth, .stw, .std]

/-- BR, by x3 (R29). -/
def brTable : List (SOp → Instr) :=
  [.beq, .bne, .blt, .bge, .bltu, .bgeu]

/-- FOP, by funct6 (R29). -/
def fopTable : List (FOp → Instr) :=
  [.fadd, .fsub, .fmul, .fdiv, .fsqrt, .fmin, .fmax, .feq, .flt, .fle, .fclass, .fcvt, .fcvti,
   .fcvtif, .fsgn, .fma, .fnma]

/-- AMO, by funct6[3:0] (R29). -/
def amoTable : List (AOp → Instr) :=
  [.amoswap, .amoadd, .amoand, .amoor, .amoxor, .amomin, .amomax, .amominu, .amomaxu, .amocas,
   .amofadd]

/-- CTL, by x3 (R29). -/
def ctlTable : List (IOp → Instr) :=
  [.ctlrd, .ctlwr, .ctlset, .ctlclr, .ctlwri]

/-- A cell of the V-form map: one instruction, two told apart by S, or one
without operands (R29, R132, R268). -/
inductive VCell where
  | none
  | one (k : VOp → Instr)
  | byS (k0 k1 : VOp → Instr)
  | bare (i : Instr)

/-- The vector majors 0x11 to 0x30, four cells each in op2 order (R29). -/
def vTable : List (VCell × VCell × VCell × VCell) :=
  [
   (.one .vadd, .one .vsub, .one .vmul, .one .vmulh),
   (.one .vmin, .one .vmax, .one .vdiv, .one .vrem),
   (.one .vand, .one .vor, .one .vxor, .one .vsll),
   (.one .vsr, .one .vsadd, .one .vssub, .one .vmac),
   (.one .vcmpeq, .one .vcmpne, .one .vcmplt, .one .vcmple),
   (.one .vmerge, .one .vmv, .one .vmvx, .one .vid),
   (.one .vfadd, .one .vfsub, .one .vfmul, .one .vfdiv),
   (.one .vfma, .one .vfnma, .one .vfmin, .one .vfmax),
   (.one .vfsqrt, .one .vfrsqrt, .one .vfabs, .one .vfneg),
   (.one .vfcmpeq, .one .vfcmplt, .one .vfcmple, .one .vfclass),
   (.byS .vfcvt .vfcvtScaled, .one .vf2i, .one .vi2f, .one .viext),
   (.one .vredsum, .one .vredmin, .one .vredmax, .one .vredor),
   (.one .vfredsum, .one .vfredosum, .one .vfredmin, .one .vfredmax),
   (.one .vscan, .one .vperm, .one .vslideup, .one .vslidedn),
   (.one .vcompress, .one .vrank, .one .vbfly, .one .vsortk),
   (.one .mand, .one .mor, .one .mxor, .one .mandn),
   (.one .mpopc, .one .mfirst, .one .mset, .none),
   (.one .vmaxi, .one .vmini, .one .vbslice, .one .vbunslice),
   (.one .vld, .one .vlds, .one .vldav, .one .vldg),
   (.one .vldx, .one .vldxu, .one .vldxf, .one .qlds),
   (.one .vst, .one .vsts, .one .vstx, .one .vstxu),
   (.one .vstxadd, .one .vstxmax, .one .vstxmin, .none),
   (.one .mld, .one .mst, .one .vldxc, .none),
   (.one .xopen, .one .xsplit, .one .xcap, .one .xdeadl),
   (.one .rsend, .one .rrun, .bare .rend, .one .xclose),
   (.one .rrecv, .one .xwait, .one .xstat, .one .xrebal),
   (.one .shape, .byS .stmld .stmldShaped, .byS .stmst .stmstShaped, .byS .stmcp .stmcpShaped),
   (.one .stmwait, .one .stmstat, .one .stmtl, .one .stmcancel),
   (.one .tlaunch, .bare .texit, .bare .tyield, .one .twait),
   (.bare .gbar, .one .garrive, .one .gwait, .one .lease),
   (.one .dreg, .one .dpub, .one .dfinal, .one .dstop),
   (.one .dchk, .one .dwait, .one .hpass, .one .hdone)]

/-- A cell of the tile map (R30). -/
inductive TCell where
  | one (k : DOp → Instr)
  | bare (i : Instr)

/-- The tile majors 0x00 to 0x04, by funct6 (R30). -/
def tileTable : List (List TCell) :=
  [[.one .matt, .bare .mrel, .one .mzero, .one .msetlen, .one .msave, .one .mload],
   [.one .opadd, .one .opsub, .one .opaddSp, .one .opaddBs, .one .opaddQ],
   [.one .mgrp, .one .mgrpQ],
   [.one .mldt, .one .mldtFf, .one .mstt, .one .mrdv, .one .mwrv],
   [.one .bst, .one .bchain, .one .bsset, .one .bsget]]

/-- SHI: imm11[10:9] selects the shift, and 3 is illegal (R26). -/
def decodeShi (o : IOp) : Except DecodeError Instr :=
  match o.imm.extractLsb' 9 2 with
  | 0 => .ok (.slli o)
  | 1 => .ok (.srli o)
  | 2 => .ok (.srai o)
  | _ => .error .badSelector

/-- The entry of a table, or a selector beyond it. -/
def pick {α : Type} (t : List (α → Instr)) (n : Nat) (o : α) : Except DecodeError Instr :=
  match t[n]? with
  | some k => .ok (k o)
  | none => .error .badSelector

/-- SYS (R83, R85 to R87). -/
def decodeSys (p : WordFields) : Except DecodeError Instr :=
  if p.d = 0 ∧ p.b = 0 ∧ p.x = 0 then
    if p.f = 5 then .ok (.trap p.a)
    else if p.a = 0 then
      match p.f with
      | 0 => .ok .fenceSv
      | 1 => .ok .fenceVs
      | 2 => .ok .fenceVv
      | 3 => .ok .fenceAll
      | 4 => .ok .fenceI
      | 6 => .ok .tret
      | 7 => .ok .wfe
      | 8 => .ok .brk
      | _ => .error .badSelector
    else if p.f.toNat < 9 then .error .nonzeroField
    else .error .badSelector
  else if p.f.toNat < 9 then .error .nonzeroField
  else .error .badSelector

/-- VCFG: the configuration and context instructions, by x3 (R29, R117 to R119, R345 to R347). -/
def decodeVcfg (p : WordFields) : Except DecodeError Instr :=
  match p.x with
  | 0 => .ok (.setvl p.i)
  | 1 => .ok (.setvli p.i)
  | 2 => .ok (.setcfg p.i)
  | 3 => if p.a = 0 ∧ p.b = 0 ∧ p.f = 0 ∧ p.d = 0 then .ok .vclaim else .error .nonzeroField
  | 4 => if p.b = 0 ∧ p.f = 0 ∧ p.d = 0 then .ok (.vsave p.a) else .error .nonzeroField
  | 5 => if p.b = 0 ∧ p.f = 0 ∧ p.d = 0 then .ok (.vrestore p.a) else .error .nonzeroField
  | 6 => .ok (.gsetvl p.i)
  | _ => .error .badSelector

/-- The instruction of a V-form cell (R29). -/
def VCell.decode (c : VCell) (o : VOp) : Except DecodeError Instr :=
  match c with
  | .none => .error .badSelector
  | .one k => .ok (k o)
  | .byS k0 k1 => .ok (if o.sc = 0 then k0 o else k1 o)
  | .bare i => if o = { vd := 0, vs1 := 0, vs2 := 0, sc := 0, t := 0, m := 0 } then .ok i else .error .nonzeroField

/-- A V-form word (R29). -/
def decodeV (p : WordFields) : Except DecodeError Instr :=
  match vTable[p.mj.toNat - 0x11]? with
  | none => .error .badMajor
  | some (c0, c1, c2, c3) =>
    match p.op2 with
    | 0 => c0.decode p.v
    | 1 => c1.decode p.v
    | 2 => c2.decode p.v
    | _ => c3.decode p.v

/-- A 32-bit instruction from its fields (R29). -/
def decodeFields (p : WordFields) : Except DecodeError Instr :=
  match p.mj.toNat with
  | 0x01 => if p.x = 0 then pick oprTable p.f.toNat p.r else .error .badSelector
  | 0x02 => if p.x = 6 then decodeShi p.i else pick opiTable p.x.toNat p.i
  | 0x03 => pick ldTable p.x.toNat p.i
  | 0x04 => pick stTable p.x.toNat p.s
  | 0x05 => pick brTable p.x.toNat p.s
  | 0x06 => .ok (.jal p.u)
  | 0x07 => if p.x = 0 then .ok (.jalr p.i) else .error .badSelector
  | 0x08 => .ok (.lui p.u)
  | 0x09 => .ok (.addpc p.u)
  | 0x0A => pick fopTable p.f.toNat p.fp
  | 0x0C =>
    if p.x.extractLsb' 1 2 = 1 then pick amoTable (p.f.extractLsb' 0 4).toNat p.amo
    else .error .badSelector
  | 0x0D => decodeSys p
  | 0x0E => pick ctlTable p.x.toNat p.i
  | 0x10 => decodeVcfg p
  | n => if 0x11 ≤ n ∧ n ≤ 0x30 then decodeV p else .error .badMajor

/-- A 32-bit word (R25). -/
def decodeWord (w : BitVec 32) : Except DecodeError Instr := decodeFields (splitWord w)

/-- The fields of a tile instruction without operands. -/
def zeroTile : DOp :=
  { imm := 0, wb := 0, wa := 0, tt := 0, cm := 0, xs := 0, vb := 0, va := 0, acd := 0, aux := 0 }

/-- A 64-bit doubleword (R28, R30). -/
def decodeTile (w : BitVec 64) : Except DecodeError Instr :=
  let p := splitTile w
  match tileTable[p.mj.toNat]? with
  | none => .error .badMajor
  | some t =>
    match t[p.f.toNat]? with
    | none => .error .badSelector
    | some (.one k) => .ok (k p.o)
    | some (.bare i) => if p.o = zeroTile then .ok i else .error .nonzeroField

/-- A 16-bit parcel (R22 to R24). -/
noncomputable def decodeHalf (h : BitVec 16) : Except DecodeError Instr :=
  let o : HOp := { ra := h.extractLsb' 5 5, rb := h.extractLsb' 0 5 }
  let cop := (h.extractLsb' 10 5).toNat
  if h = 0 then .error .zeroParcel
  else if cop = 0 then .error .badCop
  else if cop ≤ 16 then pick hTable (cop - 1) o
  else if cop = 17 then (if o.ra = 0 ∧ o.rb = 0 then .ok .hNop else .error .nonzeroField)
  else if cop = 18 then .ok (.hSetvl o)
  else .error .badCop

/-- The length in bytes of an instruction, from bits [15:14] of its first parcel (R21). -/
def parcelLength (h : BitVec 16) : Nat :=
  match h.extractLsb' 14 2 with
  | 2 => 4
  | 3 => 8
  | _ => 2

/-- A little-endian number of bytes (R12). -/
def leNat : List Byte → Nat
  | [] => 0
  | b :: bs => b.toNat + 256 * leNat bs

/-- The `n` bytes of a number, least significant first (R12). -/
def leBytes : Nat → Nat → List Byte
  | 0, _ => []
  | n + 1, v => BitVec.ofNat 8 v :: leBytes n (v / 256)

/-- The decoder: the first instruction of a list of bytes and the bytes after it (R21 to R33). -/
noncomputable def decode (bs : List Byte) : Except DecodeError (Instr × List Byte) :=
  match bs with
  | b0 :: b1 :: _ =>
    let n := parcelLength (BitVec.ofNat 16 (leNat [b0, b1]))
    if bs.length < n then .error .truncated
    else
      let v := leNat (bs.take n)
      let r := if n = 2 then decodeHalf (BitVec.ofNat 16 v)
        else if n = 4 then decodeWord (BitVec.ofNat 32 v)
        else decodeTile (BitVec.ofNat 64 v)
      match r with
      | .ok i => .ok (i, bs.drop n)
      | .error e => .error e
  | _ => .error .truncated

/-- The instruction an opcode-table word stands for: its bits above `nbits` are zero, its parcels lie
lowest first (R21). -/
noncomputable def decodeTableWord (_nbits w : Nat) : Option Instr :=
  match decode (leBytes 8 w) with
  | .ok (i, _) => some i
  | .error _ => none

/-- An encoded instruction, by its length (R21). -/
inductive Encoded where
  | half (h : BitVec 16)
  | word (w : BitVec 32)
  | tile (w : BitVec 64)
  deriving DecidableEq, Repr

/-- The parcel of a cop (R23). -/
def encH (cop : BitVec 5) (o : HOp) : Option Encoded := some (.half ((0 : BitVec 1) ++ cop ++ o.ra ++ o.rb))

/-- The word of an R-form instruction (R25). -/
def encR (mj f : BitVec 6) (x : BitVec 3) (o : ROp) : Option Encoded :=
  some (.word (joinWord { a := o.a, b := o.b, f := f, mj := mj, d := o.d, x := x }))

/-- The word of an I-form instruction (R25). -/
def encI (mj : BitVec 6) (x : BitVec 3) (o : IOp) : Option Encoded :=
  some (.word (joinWord { a := o.a, b := o.imm.extractLsb' 6 5, f := o.imm.extractLsb' 0 6,
                          mj := mj, d := o.d, x := x }))

/-- The word of a shift by an immediate: imm11[10:9] is the selector (R26). -/
def encShi (sel : BitVec 2) (o : IOp) : Option Encoded :=
  encI 0x02 6 { o with imm := sel ++ o.imm.extractLsb' 0 9 }

/-- The word of an S- or B-form instruction (R25). -/
def encS (mj : BitVec 6) (x : BitVec 3) (o : SOp) : Option Encoded :=
  some (.word (joinWord { a := o.a, b := o.b, f := o.imm.extractLsb' 5 6, mj := mj,
                          d := o.imm.extractLsb' 0 5, x := x }))

/-- The word of a U- or J-form instruction (R25). -/
def encU (mj : BitVec 6) (o : UOp) : Option Encoded :=
  some (.word (joinWord { a := o.imm.extractLsb' 14 5, b := o.imm.extractLsb' 9 5,
                          f := o.imm.extractLsb' 3 6, mj := mj, d := o.d, x := o.imm.extractLsb' 0 3 }))

/-- The word of a FOP instruction (R32). -/
def encF (f : BitVec 6) (o : FOp) : Option Encoded :=
  some (.word (joinWord { a := o.a, b := o.b, f := f, mj := 0x0A, d := o.d, x := o.t }))

/-- The word of an AMO instruction (R29). -/
def encA (op : BitVec 4) (o : AOp) : Option Encoded :=
  some (.word (joinWord { a := o.a, b := o.b, f := o.o ++ op, mj := 0x0C, d := o.d,
                          x := (1 : BitVec 2) ++ o.w }))

/-- The word of a SYS instruction (R83). -/
def encSys (f : BitVec 6) (a : Reg) : Option Encoded :=
  some (.word (joinWord { a := a, b := 0, f := f, mj := 0x0D, d := 0, x := 0 }))

/-- The word of a V-form instruction (R25). -/
def encV (mj : BitVec 6) (op2 : BitVec 2) (o : VOp) : Option Encoded :=
  some (.word (joinWord { a := o.vs1, b := o.vs2, f := o.sc ++ o.t ++ op2, mj := mj, d := o.vd, x := o.m }))

/-- The word of a V-form instruction whose S tells it from another (R132, R268). -/
def encVS (mj : BitVec 6) (op2 : BitVec 2) (sc : BitVec 1) (o : VOp) : Option Encoded :=
  encV mj op2 { o with sc := sc }

/-- The doubleword of a tile instruction (R28). -/
def encD (mj f : BitVec 6) (o : DOp) : Option Encoded := some (.tile (joinTile { mj := mj, f := f, o := o }))

/-- The encoder: the bits of an instruction; an event has none. -/
def encode : Instr → Option Encoded
  | .hAddi o => encH 1 o
  | .hLi o => encH 2 o
  | .hMv o => encH 3 o
  | .hAdd o => encH 4 o
  | .hSub o => encH 5 o
  | .hAnd o => encH 6 o
  | .hOr o => encH 7 o
  | .hXor o => encH 8 o
  | .hSlli o => encH 9 o
  | .hSrli o => encH 10 o
  | .hLdd o => encH 11 o
  | .hStd o => encH 12 o
  | .hBeqz o => encH 13 o
  | .hBnez o => encH 14 o
  | .hJ o => encH 15 o
  | .hJr o => encH 16 o
  | .hNop => encH 17 { ra := 0, rb := 0 }
  | .hSetvl o => encH 18 o
  | .add o => encR 1 0 0 o
  | .sub o => encR 1 1 0 o
  | .mul o => encR 1 2 0 o
  | .mulh o => encR 1 3 0 o
  | .mulhu o => encR 1 4 0 o
  | .div o => encR 1 5 0 o
  | .divu o => encR 1 6 0 o
  | .rem o => encR 1 7 0 o
  | .remu o => encR 1 8 0 o
  | .and o => encR 1 9 0 o
  | .or o => encR 1 10 0 o
  | .xor o => encR 1 11 0 o
  | .sll o => encR 1 12 0 o
  | .srl o => encR 1 13 0 o
  | .sra o => encR 1 14 0 o
  | .slt o => encR 1 15 0 o
  | .sltu o => encR 1 16 0 o
  | .min o => encR 1 17 0 o
  | .max o => encR 1 18 0 o
  | .minu o => encR 1 19 0 o
  | .maxu o => encR 1 20 0 o
  | .clz o => encR 1 21 0 o
  | .ctz o => encR 1 22 0 o
  | .popc o => encR 1 23 0 o
  | .addi o => encI 0x02 0 o
  | .andi o => encI 0x02 1 o
  | .ori o => encI 0x02 2 o
  | .xori o => encI 0x02 3 o
  | .slti o => encI 0x02 4 o
  | .sltiu o => encI 0x02 5 o
  | .slli o => encShi 0 o
  | .srli o => encShi 1 o
  | .srai o => encShi 2 o
  | .ldb o => encI 0x03 0 o
  | .ldh o => encI 0x03 1 o
  | .ldw o => encI 0x03 2 o
  | .ldd o => encI 0x03 3 o
  | .ldbu o => encI 0x03 4 o
  | .ldhu o => encI 0x03 5 o
  | .ldwu o => encI 0x03 6 o
  | .stb o => encS 4 0 o
  | .sth o => encS 4 1 o
  | .stw o => encS 4 2 o
  | .std o => encS 4 3 o
  | .beq o => encS 5 0 o
  | .bne o => encS 5 1 o
  | .blt o => encS 5 2 o
  | .bge o => encS 5 3 o
  | .bltu o => encS 5 4 o
  | .bgeu o => encS 5 5 o
  | .jal o => encU 6 o
  | .jalr o => encI 0x07 0 o
  | .lui o => encU 8 o
  | .addpc o => encU 9 o
  | .fadd o => encF 0 o
  | .fsub o => encF 1 o
  | .fmul o => encF 2 o
  | .fdiv o => encF 3 o
  | .fsqrt o => encF 4 o
  | .fmin o => encF 5 o
  | .fmax o => encF 6 o
  | .feq o => encF 7 o
  | .flt o => encF 8 o
  | .fle o => encF 9 o
  | .fclass o => encF 10 o
  | .fcvt o => encF 11 o
  | .fcvti o => encF 12 o
  | .fcvtif o => encF 13 o
  | .fsgn o => encF 14 o
  | .fma o => encF 15 o
  | .fnma o => encF 16 o
  | .amoswap o => encA 0 o
  | .amoadd o => encA 1 o
  | .amoand o => encA 2 o
  | .amoor o => encA 3 o
  | .amoxor o => encA 4 o
  | .amomin o => encA 5 o
  | .amomax o => encA 6 o
  | .amominu o => encA 7 o
  | .amomaxu o => encA 8 o
  | .amocas o => encA 9 o
  | .amofadd o => encA 10 o
  | .fenceSv => encSys 0 0
  | .fenceVs => encSys 1 0
  | .fenceVv => encSys 2 0
  | .fenceAll => encSys 3 0
  | .fenceI => encSys 4 0
  | .trap a => encSys 5 a
  | .tret => encSys 6 0
  | .wfe => encSys 7 0
  | .brk => encSys 8 0
  | .ctlrd o => encI 0x0E 0 o
  | .ctlwr o => encI 0x0E 1 o
  | .ctlset o => encI 0x0E 2 o
  | .ctlclr o => encI 0x0E 3 o
  | .ctlwri o => encI 0x0E 4 o
  | .setvl o => encI 0x10 0 o
  | .setvli o => encI 0x10 1 o
  | .setcfg o => encI 0x10 2 o
  | .vclaim => encI 0x10 3 { d := 0, a := 0, imm := 0 }
  | .vsave a => encI 0x10 4 { d := 0, a := a, imm := 0 }
  | .vrestore a => encI 0x10 5 { d := 0, a := a, imm := 0 }
  | .gsetvl o => encI 0x10 6 o
  | .vadd o => encV 0x11 0 o
  | .vsub o => encV 0x11 1 o
  | .vmul o => encV 0x11 2 o
  | .vmulh o => encV 0x11 3 o
  | .vmin o => encV 0x12 0 o
  | .vmax o => encV 0x12 1 o
  | .vdiv o => encV 0x12 2 o
  | .vrem o => encV 0x12 3 o
  | .vand o => encV 0x13 0 o
  | .vor o => encV 0x13 1 o
  | .vxor o => encV 0x13 2 o
  | .vsll o => encV 0x13 3 o
  | .vsr o => encV 0x14 0 o
  | .vsadd o => encV 0x14 1 o
  | .vssub o => encV 0x14 2 o
  | .vmac o => encV 0x14 3 o
  | .vcmpeq o => encV 0x15 0 o
  | .vcmpne o => encV 0x15 1 o
  | .vcmplt o => encV 0x15 2 o
  | .vcmple o => encV 0x15 3 o
  | .vmerge o => encV 0x16 0 o
  | .vmv o => encV 0x16 1 o
  | .vmvx o => encV 0x16 2 o
  | .vid o => encV 0x16 3 o
  | .vfadd o => encV 0x17 0 o
  | .vfsub o => encV 0x17 1 o
  | .vfmul o => encV 0x17 2 o
  | .vfdiv o => encV 0x17 3 o
  | .vfma o => encV 0x18 0 o
  | .vfnma o => encV 0x18 1 o
  | .vfmin o => encV 0x18 2 o
  | .vfmax o => encV 0x18 3 o
  | .vfsqrt o => encV 0x19 0 o
  | .vfrsqrt o => encV 0x19 1 o
  | .vfabs o => encV 0x19 2 o
  | .vfneg o => encV 0x19 3 o
  | .vfcmpeq o => encV 0x1A 0 o
  | .vfcmplt o => encV 0x1A 1 o
  | .vfcmple o => encV 0x1A 2 o
  | .vfclass o => encV 0x1A 3 o
  | .vfcvt o => encVS 0x1B 0 0 o
  | .vfcvtScaled o => encVS 0x1B 0 1 o
  | .vf2i o => encV 0x1B 1 o
  | .vi2f o => encV 0x1B 2 o
  | .viext o => encV 0x1B 3 o
  | .vredsum o => encV 0x1C 0 o
  | .vredmin o => encV 0x1C 1 o
  | .vredmax o => encV 0x1C 2 o
  | .vredor o => encV 0x1C 3 o
  | .vfredsum o => encV 0x1D 0 o
  | .vfredosum o => encV 0x1D 1 o
  | .vfredmin o => encV 0x1D 2 o
  | .vfredmax o => encV 0x1D 3 o
  | .vscan o => encV 0x1E 0 o
  | .vperm o => encV 0x1E 1 o
  | .vslideup o => encV 0x1E 2 o
  | .vslidedn o => encV 0x1E 3 o
  | .vcompress o => encV 0x1F 0 o
  | .vrank o => encV 0x1F 1 o
  | .vbfly o => encV 0x1F 2 o
  | .vsortk o => encV 0x1F 3 o
  | .mand o => encV 0x20 0 o
  | .mor o => encV 0x20 1 o
  | .mxor o => encV 0x20 2 o
  | .mandn o => encV 0x20 3 o
  | .mpopc o => encV 0x21 0 o
  | .mfirst o => encV 0x21 1 o
  | .mset o => encV 0x21 2 o
  | .vmaxi o => encV 0x22 0 o
  | .vmini o => encV 0x22 1 o
  | .vbslice o => encV 0x22 2 o
  | .vbunslice o => encV 0x22 3 o
  | .vld o => encV 0x23 0 o
  | .vlds o => encV 0x23 1 o
  | .vldav o => encV 0x23 2 o
  | .vldg o => encV 0x23 3 o
  | .vldx o => encV 0x24 0 o
  | .vldxu o => encV 0x24 1 o
  | .vldxf o => encV 0x24 2 o
  | .qlds o => encV 0x24 3 o
  | .vst o => encV 0x25 0 o
  | .vsts o => encV 0x25 1 o
  | .vstx o => encV 0x25 2 o
  | .vstxu o => encV 0x25 3 o
  | .vstxadd o => encV 0x26 0 o
  | .vstxmax o => encV 0x26 1 o
  | .vstxmin o => encV 0x26 2 o
  | .mld o => encV 0x27 0 o
  | .mst o => encV 0x27 1 o
  | .vldxc o => encV 0x27 2 o
  | .xopen o => encV 0x28 0 o
  | .xsplit o => encV 0x28 1 o
  | .xcap o => encV 0x28 2 o
  | .xdeadl o => encV 0x28 3 o
  | .rsend o => encV 0x29 0 o
  | .rrun o => encV 0x29 1 o
  | .rend => encV 0x29 2 { vd := 0, vs1 := 0, vs2 := 0, sc := 0, t := 0, m := 0 }
  | .xclose o => encV 0x29 3 o
  | .rrecv o => encV 0x2A 0 o
  | .xwait o => encV 0x2A 1 o
  | .xstat o => encV 0x2A 2 o
  | .xrebal o => encV 0x2A 3 o
  | .shape o => encV 0x2B 0 o
  | .stmld o => encVS 0x2B 1 0 o
  | .stmldShaped o => encVS 0x2B 1 1 o
  | .stmst o => encVS 0x2B 2 0 o
  | .stmstShaped o => encVS 0x2B 2 1 o
  | .stmcp o => encVS 0x2B 3 0 o
  | .stmcpShaped o => encVS 0x2B 3 1 o
  | .stmwait o => encV 0x2C 0 o
  | .stmstat o => encV 0x2C 1 o
  | .stmtl o => encV 0x2C 2 o
  | .stmcancel o => encV 0x2C 3 o
  | .tlaunch o => encV 0x2D 0 o
  | .texit => encV 0x2D 1 { vd := 0, vs1 := 0, vs2 := 0, sc := 0, t := 0, m := 0 }
  | .tyield => encV 0x2D 2 { vd := 0, vs1 := 0, vs2 := 0, sc := 0, t := 0, m := 0 }
  | .twait o => encV 0x2D 3 o
  | .gbar => encV 0x2E 0 { vd := 0, vs1 := 0, vs2 := 0, sc := 0, t := 0, m := 0 }
  | .garrive o => encV 0x2E 1 o
  | .gwait o => encV 0x2E 2 o
  | .lease o => encV 0x2E 3 o
  | .dreg o => encV 0x2F 0 o
  | .dpub o => encV 0x2F 1 o
  | .dfinal o => encV 0x2F 2 o
  | .dstop o => encV 0x2F 3 o
  | .dchk o => encV 0x30 0 o
  | .dwait o => encV 0x30 1 o
  | .hpass o => encV 0x30 2 o
  | .hdone o => encV 0x30 3 o
  | .matt o => encD 0 0 o
  | .mrel => encD 0 1 zeroTile
  | .mzero o => encD 0 2 o
  | .msetlen o => encD 0 3 o
  | .msave o => encD 0 4 o
  | .mload o => encD 0 5 o
  | .opadd o => encD 1 0 o
  | .opsub o => encD 1 1 o
  | .opaddSp o => encD 1 2 o
  | .opaddBs o => encD 1 3 o
  | .opaddQ o => encD 1 4 o
  | .mgrp o => encD 2 0 o
  | .mgrpQ o => encD 2 1 o
  | .mldt o => encD 3 0 o
  | .mldtFf o => encD 3 1 o
  | .mstt o => encD 3 2 o
  | .mrdv o => encD 3 3 o
  | .mwrv o => encD 3 4 o
  | .bst o => encD 4 0 o
  | .bchain o => encD 4 1 o
  | .bsset o => encD 4 2 o
  | .bsget o => encD 4 3 o
  | .queueHeadExecute => none
  | .dispatchSlot => none
  | .copyHandoff => none
  | .levelAging => none
  | .tailWrite => none
  | .queueEnable => none
  | .queueDisable => none
  | .relaunch => none
  | .pipelineArm => none
  | .leasewaitExpiry => none
  | .taskResume => none
  | .hallPassGrant => none
  | .hpwaitExpiry => none
  | .tileGrant => none
  | .streamElementLanding => none
  | .chunkDelivered => none
  | .recordMerge => none
  | .recordArrival => none
  | .closeMarkerArrival => none
  | .batchDeadline => none
  | .roundFailureNotice => none
  | .linkFail => none
  | .transferTimeout => none
  | .gatherPieceResponse => none
  | .flitReceive => none
  | .portRetrain => none
  | .retrainTimeout => none
  | .replicaInvalidate => none
  | .replicaAck => none
  | .replicaAckTimeout => none
  | .replicaCreate => none
  | .ptpSync => none
  | .pdelay => none
  | .noGm => none
  | .timeSet => none
  | .hostRead => none
  | .hostWrite => none
  | .apertureDescriptorWrite => none
  | .msixUnmask => none
  | .corrected => none
  | .poisoned => none
  | .parityError => none
  | .rowRepair => none
  | .fatalError => none
  | .coldReset => none
  | .warmReset => none
  | .bootConfigWrite => none
  | .minVersionRaise => none
  | .load => none
  | .clear => none
  | .transportKeyWrite => none
  | .formQuiesce => none
  | .quiesceLimit => none
  | .fwUpdate => none
  | .budgetWrite => none
  | .getVersion => none
  | .getCapabilities => none
  | .negotiateAlgorithms => none
  | .getDigests => none
  | .getCertificate => none
  | .challenge => none
  | .getMeasurements => none
  | .keyExchange => none
  | .finish => none
  | .haltreq => none
  | .haltComplete => none
  | .haltQuietTimeout => none
  | .resume => none
  | .debugStateAccess => none
  | .invalidate => none
  | .migrate => none
  | .translationOpDone => none
  | .registerWrite => none
  | .illegalInstruction => none
  | .fetchFault => none
  | .retrainDone => none
  | .timeSlew => none
  | .powerLoss => none

/-- The bytes of an encoded instruction, lowest address first (R12, R21). -/
def Encoded.bytes : Encoded → List Byte
  | .half h => leBytes 2 h.toNat
  | .word w => leBytes 4 w.toNat
  | .tile w => leBytes 8 w.toNat

end Sys2Proof
end

