-- ==== Sys2Proof/Config.lean ====
section
/-! DEFINITION. What the part fixes (R1, R2, R213, R235, R240) and the free values: constants without a body, so that
nothing can be proved about the value they take (guide: a free value). -/

namespace Sys2Proof.Config

/-- Packages a group may hold (R380). -/
def maxPackages : Nat := 64

/-- Compute dies of a 7204 (R1). -/
def diesPerPackage : Nat := 4

/-- Forms of a die that carry a logical number (R2, R15). -/
def formsPerDie : Nat := 48

/-- Cores of a package (R2). -/
def coresPerPackage : Nat := 768

/-- Harts of a package (R2). -/
def hartsPerPackage : Nat := 3072

/-- Bytes of one vector register in one cluster, plain mode (R90, R100). -/
def regBytesPlain : Nat := 6144

/-- Bytes of one register slot in one cluster, pipeline mode (R109). -/
def regBytesPipe : Nat := 4096

/-- Bytes between the starts of two registers in the register store: 6,144 bytes in each of 16 clusters. -/
def regStride : Nat := 98304

/-- Entries of a scale register (R57). -/
def scaleEntries : Nat := 512

/-- Depth of the vector queue (R107). -/
def queueDepth : Nat := 32

/-- Bytes of a core's slate (R235). -/
def slateBytes : Nat := 786432

/-- Bytes of a core's scalar data memory (R235). -/
def sdmBytes : Nat := 65536

/-- Whether an element above a faulting one has been performed already (R158, R159, R165); the first argument is the
state's counter, the second the element.  FREE VALUE (log 6). -/
opaque freePick : Nat → Nat → Bool

/-- Which of several values a place takes where the rules leave the choice open (R162): an index below the second
argument.  FREE VALUE (log 7). -/
opaque freeChoice : Nat → Nat → Nat

/-- The clocks one step takes (R18).  FREE VALUE (log 8). -/
opaque freeClocks : Nat → Nat

/-- The nanoseconds one step takes (R15, R391).  FREE VALUE (log 8). -/
opaque freeNs : Nat → Nat

/-- Data, by a counter, that arrive where no rule gives a value.  FREE VALUE (log 6). -/
opaque freeWord : Nat → Word

/-- What the 64 bytes of a line read as under a key other than the one they were encrypted under: the names of the two keys, the
line, and its bytes as a number; AES-256-XTS with the line as its tweak gives it (R409).  FREE VALUE (log 18). -/
opaque freeCipher : Nat → Nat → Nat → Nat → Nat

/-- The row of a die's DRAM that a die-local physical address lies in (R413).  FREE VALUE (log 17). -/
opaque dramRow : Nat → Nat

/-- The start value of the CRC-64 of a flit (R378).  FREE VALUE (log 16). -/
opaque crcStart : Word

end Sys2Proof.Config
end

