-- ==== Sys2Proof/Machine/State.lean ====
section
/-! DEFINITION. The state of a group of Flenar packages: every register, memory, queue and table that the rules give
the machine (INVENTORY.md, State), as plain data, and the state after reset (R15, R20, R399). -/

namespace Sys2Proof.Machine

/-- A sparse table: keys strictly rising, no entry equal to the value an absent key reads as (`SMap.wf`). -/
abbrev SMap (α : Type) := List (Nat × α)

/-- The entry at a key, or the default. -/
def SMap.get {α : Type} (d : α) : SMap α → Nat → α
  | [], _ => d
  | (k, v) :: m, n => if k = n then v else SMap.get d m n

/-- The table with one entry changed; an entry equal to the default is dropped. -/
def SMap.set {α : Type} [DecidableEq α] (d : α) : SMap α → Nat → α → SMap α
  | [], n, v => if v = d then [] else [(n, v)]
  | (k, w) :: m, n, v =>
    if n < k then (if v = d then (k, w) :: m else (n, v) :: (k, w) :: m)
    else if n = k then (if v = d then m else (n, v) :: m)
    else (k, w) :: SMap.set d m n v

/-- Canonical form from a lower bound of the keys. -/
def SMap.wfFrom {α : Type} [DecidableEq α] (d : α) : Nat → SMap α → Bool
  | _, [] => true
  | lo, (k, v) :: m => decide (lo ≤ k) && decide (v ≠ d) && SMap.wfFrom d (k + 1) m

/-- Canonical form: keys strictly rising, no entry equal to the default. -/
def SMap.wf {α : Type} [DecidableEq α] (d : α) (m : SMap α) : Bool := SMap.wfFrom d 0 m

/-- A byte store with poison: bytes by address (zero where unlisted, R399), and the 8-byte words, by address over 8,
that are poisoned (R352). -/
structure Memory where
  cells : List Host.Cell
  pois : SMap Bool
  deriving DecidableEq, Repr

/-- A memory with nothing listed. -/
def Memory.empty : Memory := { cells := [], pois := [] }

/-- The canonical form of a memory. -/
def Memory.wf (m : Memory) : Bool := SMap.wf (0 : Byte) m.cells && SMap.wf false m.pois

/-- The control registers that hold a value of their own (R15), and the SPACE and PTBASE in force until the next TRET
(R362).  HARTID to PKGID, TIMENS, CYCLES, GRANT and MGRANT are read from the state they report. -/
structure Ctl where
  vl : Word
  vcfg : Word
  estart : Word
  vstat : Word
  fstat : Word
  slip : Word
  mlen : Word
  mstat : Word
  retired : Word
  status : Word
  trapvec : Word
  trappc : Word
  trapcause : Word
  trapva : Word
  trapfb : Word
  trapinfo : Word
  vsaveptr : Word
  space : Word
  ptbase : Word
  scratch : Word
  leasewait : Word
  hpwait : Word
  spaceNow : Word
  ptbaseNow : Word
  deriving DecidableEq, Repr

/-- The control registers of a hart before the runtime first uses it (R15). -/
def Ctl.reset : Ctl :=
  { vl := 0, vcfg := 0, estart := 0, vstat := 0, fstat := 0, slip := 0, mlen := 64, mstat := 0, retired := 0,
    status := 0, trapvec := 0, trappc := 0, trapcause := 0, trapva := 0, trapfb := 0, trapinfo := 0,
    vsaveptr := 0, space := 0, ptbase := 0, scratch := 0, leasewait := 200000, hpwait := 20000,
    spaceNow := 0, ptbaseNow := 0 }

/-- How a task was launched (R109, R113, R213). -/
inductive Mode where
  | plain
  | pipeline
  | cohort
  deriving DecidableEq, Repr

/-- An entry of a ring (R111): the bytes of one register slot; the instruction that has popped it and is not complete, and the
one that is filling it, by `Hart.ringTag`. -/
structure RingEntry where
  data : Memory
  reader : Option Nat
  writer : Option Nat
  deriving DecidableEq, Repr

/-- A lease of lane clusters (R91 to R97), with the register storage of its clusters (R90, R102) and its rings (R111). -/
structure Lease where
  held : Nat
  minc : Nat
  prefc : Nat
  /-- The pending target, taken at the next strip boundary (R93). -/
  target : Option Nat
  /-- Clusters of the pending target that are reserved for dispatched copies, so that it may not be raised: each copy's hart, and
  how many (R92, R93). -/
  reserved : List (Nat × Nat)
  /-- Clusters held under a hall pass (R403). -/
  passes : Nat
  /-- Clusters set aside that wait for a hall pass (R91). -/
  setAside : Nat
  /-- MODEL: the count under which the register store is laid out: it follows `held` once the boundary that took a target stands at the
  queue head and redistributes (R93, R103); how many boundaries are queued before that one; and what it gives up there: reserved
  clusters, and hall passes. -/
  lanes : Nat
  before : Nat
  leaving : List (Nat × Nat)
  leavingPasses : Nat
  /-- Register n, byte b of its contents at n · 98,304 + b (R102). -/
  vmem : Memory
  /-- The entries of ring0 to ring3, oldest first (R111). -/
  rings : Vector (List RingEntry) 4
  deriving DecidableEq, Repr

/-- No clusters (R91). -/
def Lease.none : Lease :=
  { held := 0, minc := 0, prefc := 0, target := .none, reserved := [], passes := 0, setAside := 0,
    lanes := 0, before := 0, leaving := [], leavingPasses := 0,
    vmem := Memory.empty, rings := Vector.replicate 4 [] }

/-- A leaf that a walk found (R361): where its entry stands and its value; the die whose walkers found it, the address space, the
page it maps, counted in its own size, and its level (R360, R365). -/
structure LeafAt where
  key : Nat
  /-- The name of the key that the entry's table is encrypted under (R409). -/
  cipher : Option Nat
  pte : Word
  die : Nat
  space : Nat
  page : Nat
  level : Nat
  deriving DecidableEq, Repr

/-- A piece of a remote gather: its home package, the home dies of its elements in ascending index, and its fate: none while it is
under way, else how many of its elements were delivered, none of them lost where `whole` (R385, R386). -/
structure Piece where
  home : Nat
  dies : List Nat
  /-- The packages its request visited after the requester's, over which the response returns (R381). -/
  path : List Nat
  settled : Bool
  whole : Bool
  delivered : Nat
  deriving DecidableEq, Repr

/-- An entry of the vector queue (R107, R343). -/
structure QEntry where
  instr : Instr
  bits : Word
  addr : Word
  /-- The x operand values read at issue, in operand order (R107). -/
  xa : Word
  xb : Word
  /-- The VL and the VCFG it executes under (R343). -/
  vl : Nat
  vcfg : Word
  /-- Progress index, and the ESTART it began with (R343). -/
  p : Nat
  estart0 : Nat
  /-- STATE: the entry is in flight (R343). -/
  begun : Bool
  /-- MODEL: it has taken the entries of its ring sources and opened one of its ring destination (R111). -/
  ringed : Bool
  /-- MODEL: the MLEN it runs under where a handler wrote MLEN while it stood frozen (R421). -/
  mlen : Option Word
  /-- MODEL: a FENCE.VV stands before it, of a level of `scopeLevel` (R83, R250). -/
  fenced : Option Nat
  /-- MODEL: a VLDG that its multicast has left to run by itself (R247). -/
  solo : Bool
  /-- MODEL: the chunks of a VLDXC under way that are set or abandoned, bit c for chunk c (R281). -/
  chunks : Option Nat
  /-- MODEL: the pieces sent to other packages (R385). -/
  pieces : List Piece
  /-- MODEL: the leaves it has translated its pages by, one for each page (R364, R365). -/
  pages : List LeafAt
  deriving DecidableEq, Repr

/-- The matrix side of a hart (R169 to R207). -/
structure Mat where
  /-- Accumulator tiles held, MGRANT (R172). -/
  tiles : Nat
  /-- The tile hall pass is held (R169). -/
  pass : Bool
  /-- Tiles taken for a MATT whose hall pass is awaited; a MATT at the queue head has asked; the reply left for it (R169). -/
  taken : Nat
  asked : Bool
  reply : Option Bool
  /-- Accumulator tile t, entry (i, j) at 4,096 · t + 64 · i + j (R174). -/
  acc : SMap (BitVec 32)
  /-- Poisoned accumulator entries (R352). -/
  accPois : SMap Bool
  /-- bs0 to bs15 (R196). -/
  bs : Vector Word 16
  /-- Stage progress (R203). -/
  block0 : Nat
  stage0 : Nat
  deriving DecidableEq, Repr

/-- No tiles (R172), stride registers zero (R196). -/
def Mat.none : Mat :=
  { tiles := 0, pass := false, taken := 0, asked := false, reply := .none, acc := [], accPois := [], bs := Vector.replicate 16 0, block0 := 0, stage0 := 0 }

/-- A stream slot (R261 to R274, R342). -/
structure Slot where
  /-- The status word as STMSTAT reads it (R262). -/
  status : Word
  /-- Instruction bits, destination and source operands, the recorded address of a fault, and the shape record (R342). -/
  bits : Word
  dst : Word
  src : Word
  recAddr : Word
  shape : BitVec 512
  /-- Origin coordinates of STMTL, x[vs2 + 1] and x[vs2 + 2] (R271). -/
  org0 : Word
  org1 : Word
  /-- The VCFG it was issued under, for the tail of STMTL's mask (R271); issued at user level (R363). -/
  vcfg : Word
  user : Bool
  /-- The elements landed, bit e for element e (R262, R273). -/
  landed : Nat
  /-- Its hall pass is held, or asked for and waited on (R270). -/
  pass : Bool
  asked : Bool
  deriving DecidableEq, Repr

/-- An idle slot (R263). -/
def Slot.idle : Slot :=
  { status := 0, bits := 0, dst := 0, src := 0, recAddr := 0, shape := 0, org0 := 0, org1 := 0, vcfg := 0, user := false,
    landed := 0, pass := false, asked := false }

/-- Whether a hart runs, and what it waits for beside the instruction at its pc. -/
inductive Run where
  /-- No task (R213). -/
  | idle
  /-- Occupied by a copy that does not hold its minimum yet (R92). -/
  | starting
  | running
  deriving DecidableEq, Repr

/-- What identifies the copy a hart runs (R217, R213, R215). -/
structure Task where
  /-- Die of the home queue, as 4 · package + die. -/
  home : Nat
  queue : Nat
  packet : Nat
  rank : Nat
  copies : Nat
  prio : Nat
  /-- The boot task of bring-up (R399). -/
  boot : Bool
  /-- Its context area, by number in the pool (R348, R400). -/
  area : Nat
  deriving DecidableEq, Repr

/-- No task. -/
def Task.none : Task := { home := 0, queue := 0, packet := 0, rank := 0, copies := 0, prio := 0, boot := false, area := 0 }

/-- Where a member stands at a GSETVL of its cohort: not at one, stalled with its AVL and the configuration it installs,
or released with the common VL (R114, R119). -/
inductive GSet where
  | none
  | stalled (avl : Nat) (vcfg : Word)
  | released (vl : Nat)
  deriving DecidableEq, Repr

/-- The exchange side of a hart: its last round (R283, R299, R305, R306). -/
structure Party where
  /-- The status word (R306). -/
  status : Word
  /-- Records emitted, which is the next sequence number, and records written to its residual inbox (R283, R305). -/
  emitted : Nat
  written : Nat
  /-- The key of the last record of the open run (R284). -/
  lastKey : Option Nat
  /-- Batch number, records counted and sample keys at this receiver (R295, R305). -/
  batch : Nat
  counted : Nat
  samples : List Nat
  /-- The exchange hall pass is held (R299). -/
  pass : Bool
  /-- K of its last round, and which round of the XID that was. -/
  receivers : Nat
  serial : Nat
  deriving DecidableEq, Repr

/-- A hart that has joined no round. -/
def Party.none : Party :=
  { status := 0, emitted := 0, written := 0, lastKey := .none, batch := 0, counted := 0, samples := [], pass := false, receivers := 0, serial := 0 }

/-- A scalar load that has given its register a value and may still take a later one from memory: its register, place, length, and
whether it extends the sign (R249, R255, log 65). -/
structure LateLoad where
  d : Reg
  key : Nat
  len : Nat
  signed : Bool
  /-- The name of the key that its leaf gives (R409). -/
  cipher : Option Nat
  deriving DecidableEq, Repr

/-- A hart (R6, R107). -/
structure Hart where
  pc : Word
  x : Vector Word 32
  ctl : Ctl
  /-- The event flag of WFE (R87). -/
  event : Bool
  run : Run
  mode : Mode
  /-- The role in pipeline mode: 0 loader, 1 computer, 2 storer (R109). -/
  role : Nat
  /-- The hart whose lease this one uses: itself, or the loader in pipeline mode (R109). -/
  owner : Nat
  task : Task
  lease : Lease
  /-- m1 to m7 at 1 to 7, bit i of the number for element i; entry 0 is not used (R104, R136). -/
  masks : Vector Nat 8
  /-- Poisoned words of the masks: word w of mn at 16,384 · n + w (R90, R352). -/
  maskPois : SMap Bool
  /-- q0 to q7: entry e of qn at 512 · n + e (R57). -/
  q : SMap (BitVec 32)
  queue : List QEntry
  mat : Mat
  slots : Vector Slot 8
  /-- The GSETVLs and VLDGs issued since launch (R119, R246), and whether VL is that of the latest GSETVL (R247). -/
  gsets : Nat
  vldgs : Nat
  gsetVl : Bool
  /-- Where the hart stands at a GSETVL of its cohort (R114, R119). -/
  gset : GSet
  /-- MODEL: what `gsetVl` was when the vector context was claimed (R345). -/
  claimGset : Bool
  /-- MODEL: the marks of FENCE.VV when the vector context was claimed: `vvFence`, then `fenced` of each queue entry (R83, R345). -/
  claimFences : List (Option Nat)
  /-- The charge of the explicit hall pass held, 0 for none (R405). -/
  hpass : Nat
  /-- A hall-pass or tile request of the instruction at pc waits (R170, R404). -/
  asked : Bool
  /-- The reply the Proctor or Bursar left for the instruction that waits (MODEL). -/
  reply : Option Bool
  /-- DPC (R355). -/
  dpc : Word
  /-- The member's copy of the barrier's phase bit, and whether it has arrived in this phase (R115, R228). -/
  phase : Bool
  arrived : Bool
  /-- The phase a GBAR under way waits to leave (R228). -/
  gbar : Option Bool
  xch : Party
  /-- A pre-emption asked of the task, by its reason (R348, R358); a RESTART stop asked of it (R321). -/
  preempt : Option Nat
  stop : Bool
  /-- The draft whose DWAIT the hart is stalled in (R314, R318). -/
  dwait : Option Nat
  /-- MODEL: its next transfer to another package is lost to a time-out (R382, log 21). -/
  doomed : Bool
  /-- MODEL: a FENCE.VV of a level stands before the next instruction queued (R83). -/
  vvFence : Option Nat
  /-- MODEL: the memory that its fetches read: as it stood at its last FENCE.I, or when its task started (R35, R84, log 9). -/
  code : Memory
  /-- MODEL: its last scalar load, while that may still be performed (R249, log 65). -/
  late : Option LateLoad
  deriving DecidableEq, Repr

/-- A hart before the runtime first uses it (R15). -/
def Hart.reset : Hart :=
  { pc := 0, x := Vector.replicate 32 0, ctl := Ctl.reset, event := false, run := .idle, mode := .plain, role := 0,
    owner := 0, task := Task.none, lease := Lease.none, masks := Vector.replicate 8 0, maskPois := [], q := [], queue := [],
    mat := Mat.none, slots := Vector.replicate 8 Slot.idle, gsets := 0, vldgs := 0, gsetVl := false,
    gset := .none, claimGset := false, claimFences := [], hpass := 0, asked := false, reply := .none, dpc := 0, phase := false, arrived := false, gbar := .none,
    xch := Party.none, preempt := .none, stop := false, dwait := .none, doomed := false, vvFence := .none, code := Memory.empty, late := .none }

/-- A core (R355, R356). -/
structure CoreRec where
  /-- ARMBRK and QUIET of each hart's DCTL, bit j for hart j. -/
  armbrk : BitVec 4
  quiet : BitVec 4
  /-- A halt is asked for and not complete. -/
  halting : Bool
  halted : Bool
  stable : Bool
  unstable : Bool
  /-- REASON: 0 request, 1 BRK. -/
  reason : Nat
  deriving DecidableEq, Repr

/-- A core that runs. -/
def CoreRec.reset : CoreRec :=
  { armbrk := 0, quiet := 0, halting := false, halted := false, stable := false, unstable := false, reason := 0 }

/-- A rollbook event (R357). -/
structure RollEvent where
  time : Word
  source : BitVec 16
  code : BitVec 16
  a0 : BitVec 32
  a1 : Word
  a2 : Word
  deriving DecidableEq, Repr

/-- What a hall pass is asked for (R403). -/
inductive PassKind where
  | tile
  | cluster
  | exchange
  | stream
  | explicit
  deriving DecidableEq, Repr

/-- A hall-pass request that waits (R404). -/
structure PassReq where
  kind : PassKind
  g : Nat
  slot : Nat
  charge : Nat
  deriving DecidableEq, Repr

/-- A form (R90, R170, R411). -/
structure FormRec where
  /-- Lane clusters and accumulator tiles that are free. -/
  clusters : Nat
  tiles : Nat
  /-- Dispatched copies that wait for reserved clusters, each with how many (R92). -/
  awaiting : List (Nat × Nat)
  /-- Harts whose MATT waits for tiles, each with its minimum and maximum (R170). -/
  tileWait : List (Nat × Nat × Nat)
  /-- The hart, by number in the form, that the matrix unit turned to last while several had an instruction for it (R194). -/
  turn : Nat
  /-- Dispatch to the form has stopped; the spare physical form that has taken its number, 0 for none (R411). -/
  quiesced : Bool
  spared : Nat
  deriving DecidableEq, Repr

/-- A form nothing runs on. -/
def FormRec.reset : FormRec :=
  { clusters := 16, tiles := 16, awaiting := [], tileWait := [], turn := 15, quiesced := false, spared := 0 }

/-! ### The exchange (R285 to R297) -/

/-- A record (R283): its time is the TIMENS at which the sender's port accepted it (R294). -/
structure Rec where
  key : Nat
  rank : Nat
  seq : Nat
  len : Nat
  /-- The payload, little-endian. -/
  data : Nat
  cont : Bool
  late : Bool
  badord : Bool
  ovf : Bool
  time : Word
  deriving DecidableEq, Repr

/-- What travels to a receiver: a record, or a close marker (R302), with the merge points still before it. -/
structure Flight where
  /-- The receiver; unknown until the round is armed. -/
  ridx : Option Nat
  hops : Nat
  marker : Bool
  record : Rec
  deriving DecidableEq, Repr

/-- A sender of a round, as its form's port keeps it (R285, R293). -/
structure Sender where
  rank : Nat
  /-- The hart it joined from, its space, root table and level (R293). -/
  g : Nat
  space : Nat
  ptbase : Word
  user : Bool
  /-- Residual inbox: base, length, and bytes written (R293). -/
  base : Word
  size : Nat
  used : Nat
  closed : Bool
  /-- The notice of its round's failure has reached it (R308). -/
  failed : Bool
  deriving DecidableEq, Repr

/-- A receiver of a round, as its port keeps it. -/
structure Receiver where
  ridx : Nat
  g : Nat
  /-- Staging quota (R293). -/
  quota : Nat
  /-- The records of the open batch; closed batches, oldest first, the first being read; how many have closed. -/
  staged : List Rec
  batches : List (List Rec)
  /-- Ranks whose close marker has come; the final batch has closed (R294). -/
  markers : Nat
  final : Bool
  /-- Its port's TIMENS at arming; the instant of the last close (R294). -/
  armedAt : Word
  lastClose : Option Word
  /-- The Vane's count and sample keys (R295). -/
  counted : Nat
  samples : List Nat
  /-- Its task has ended (R309); the notice of its round's failure has reached it (R308). -/
  gone : Bool
  failed : Bool
  deriving DecidableEq, Repr

/-- A round (R285, R286). -/
structure Round where
  /-- Bytes 0 to 15 of the record. -/
  header : Nat
  /-- The splitter table in force once armed, clamped (R287); whether it was clamped; capacity and deadline (R289). -/
  table : Option (List Nat)
  badsplit : Bool
  capacity : Nat
  t0 : Nat
  period : Nat
  senders : List Sender
  receivers : List Receiver
  flights : List Flight
  /-- A run was cut (R284). -/
  order : Bool
  /-- Every final batch has closed and every residual record is written (R286). -/
  closed : Bool
  /-- Which round of its XID it is; the round has failed, and notices are on their way (R394). -/
  serial : Nat
  failed : Bool
  /-- Records returned and not yet written to an inbox, oldest first (R293). -/
  residual : List Rec
  /-- The failed ports and die links of each package at arming, which fix the route set (R393). -/
  links : List (Nat × SMap Bool × SMap Bool)
  deriving DecidableEq, Repr

/-- What the group keeps for an XID (R297): a table with the K it was installed for. -/
structure XidRec where
  table : Option (List Nat)
  capacity : Nat
  t0 : Nat
  period : Nat
  proposal : Option (List Nat)
  /-- Rounds begun, and the one under way. -/
  count : Nat
  round : Option Round
  deriving DecidableEq, Repr

/-- An XID after a group reset (R297). -/
def XidRec.reset : XidRec := { table := .none, capacity := 0, t0 := 0, period := 0, proposal := .none, count := 0, round := .none }

/-! ### Queues, drafts, runs (R209 to R222, R310 to R325) -/

/-- An exact fraction. -/
structure Frac where
  num : Nat
  den : Nat
  deriving DecidableEq, Repr

/-- The fields of a descriptor captured at its enable (R210). -/
structure QCap where
  ptbase : Word
  ring : Word
  space : Nat
  win : Nat
  lsz : Nat
  sup : Bool
  device : Bool
  deriving DecidableEq, Repr

/-- A queue (R209): its descriptor, what was captured, and the packet at HEAD. -/
structure QueueRec where
  desc : BitVec 256
  cap : QCap
  /-- The clock at which the packet at HEAD became ready, and the levels it has risen since (R218). -/
  ready : Option Nat
  age : Nat
  /-- Packets above DONE that are done (R217). -/
  doneAbove : List Nat
  deriving DecidableEq, Repr

/-- A queue after reset (R209). -/
def QueueRec.reset : QueueRec :=
  { desc := 0, cap := { ptbase := 0, ring := 0, space := 0, win := 0, lsz := 0, sup := false, device := false },
    ready := .none, age := 0, doneAbove := [] }

/-- A draft's entry (R310). -/
structure DraftRec where
  bound : Bool
  header : Word
  space : Nat
  ptbase : Word
  /-- The producer: queue and packet index, and its pipeline. -/
  queue : Nat
  packet : Nat
  pipeline : Nat
  version : Nat
  final : Bool
  stopreq : Bool
  abandoned : Bool
  deriving DecidableEq, Repr

/-- An unbound entry. -/
def DraftRec.reset : DraftRec :=
  { bound := false, header := 0, space := 0, ptbase := 0, queue := 0, packet := 0, pipeline := 0, version := 0, final := false,
    stopreq := false, abandoned := false }

/-- What a run's snapshot holds of an input (R319). -/
structure SnapRec where
  rule : Nat
  did : Nat
  status : Word
  deriving DecidableEq, Repr

/-- A run of a packet (R215, R319, R320): from the selection of its first copy, or its relaunch, until it is over. -/
structure RunRec where
  /-- Home queue: 4 · package + die of its home, its number, and the packet's index. -/
  home : Nat
  queue : Nat
  packet : Nat
  /-- The 64 bytes of the packet (R213). -/
  bytes : Nat
  space : Nat
  ptbase : Word
  snap : List SnapRec
  /-- Copies not started, by rank and core; those on dies other than the home one wait there once handed over (R216). -/
  waiting : List (Nat × Nat)
  /-- Dies that have them (R216). -/
  handed : List Nat
  /-- Copies running or pre-empted. -/
  live : Nat
  /-- The packet stands at HEAD still (R216). -/
  atHead : Bool
  /-- A RESTART stop has been decided (R321); a relaunch or re-firing is due (R320). -/
  stopping : Bool
  due : Bool
  /-- The clock its packet became ready, and the levels risen since (R218). -/
  ready : Nat
  age : Nat
  deriving DecidableEq, Repr

/-- A queue group at a level of a die's Registrar (R219). -/
structure GroupRec where
  start : Frac
  finish : Frac
  backlogged : Bool
  /-- One more than the number of the queue last served, 0 for none. -/
  last : Nat
  deriving DecidableEq, Repr

/-- A group that has not been served. -/
def GroupRec.reset : GroupRec := { start := ⟨0, 1⟩, finish := ⟨0, 1⟩, backlogged := false, last := 0 }

/-- A level of a die's Registrar (R219). -/
structure LevelRec where
  virt : Frac
  groups : SMap GroupRec
  deriving DecidableEq, Repr

/-- A level nothing was selected at. -/
def LevelRec.reset : LevelRec := { virt := ⟨0, 1⟩, groups := [] }

/-- A write of a draft's header that waits, because its page is being moved (R311, R363): the draft, the byte, length and value,
and the entry's header, space and root table. -/
structure HeaderWrite where
  draft : Nat
  off : Nat
  len : Nat
  value : Nat
  header : Word
  space : Nat
  ptbase : Word
  deriving DecidableEq, Repr

/-- A compute die and the tables of its Registrar (R209). -/
structure DieRec where
  /-- The Proctor (R402, R404). -/
  budget : Nat
  granted : Nat
  refused : Nat
  waiting : List PassReq
  /-- The hot-page table (R368). -/
  hot : SMap (BitVec 256)
  /-- The translation control block (R369). -/
  tcb : BitVec 256
  /-- The rollbook: events by index, the index, and FROZEN (R414).  The 2 MiB of bonded DRAM that mirror the events have their one home
here, and are no frame of `State.mem` (log 17). -/
  roll : SMap (BitVec 256)
  rollIndex : Nat
  rollFrozen : Bool
  /-- Queues by number mod 16,384, group weights, prefetch map, pipelines and drafts by number mod 16,384 (R209, R221,
  R310, R323). -/
  queues : SMap QueueRec
  weights : SMap Byte
  prefetch : SMap (BitVec 128)
  pipes : SMap (BitVec 256)
  drafts : SMap DraftRec
  /-- The levels of its selection (R219). -/
  levels : SMap LevelRec
  /-- Header writes that wait, oldest first, and pipelines whose settle word waits (R311, R324, R363). -/
  headers : List HeaderWrite
  settling : List Nat
  /-- Version of its Registrar firmware (R412). -/
  firmware : Nat
  /-- Errors corrected in its DRAM: the row of each, and the ns at which it was (R413). -/
  rowErrors : List (Nat × Nat)
  deriving DecidableEq, Repr

/-- A die after reset. -/
def DieRec.reset : DieRec :=
  { budget := 1048575, granted := 0, refused := 0, waiting := [], hot := [], tcb := 0, roll := [], rollIndex := 0, rollFrozen := false,
    queues := [], weights := [], prefetch := [], pipes := [], drafts := [], levels := [], headers := [], settling := [], firmware := 0, rowErrors := [] }

/-- A write on its way to its place, or that its home holds (R253, R389): its writer, place, bytes and value, and whether what it
writes is poisoned (R353). -/
structure HeldWrite where
  writer : Nat
  key : Nat
  len : Nat
  value : Nat
  bad : Bool
  /-- The name of the key it is written under; none on chip (R409). -/
  cipher : Option Nat
  /-- The scope instance, by `scopeLevel`, in which a release or fence has made it visible already; 0 for none (R250, R258). -/
  seen : Nat
  /-- It is the write of an atomic or a combining update (R81, R163). -/
  rmw : Bool
  deriving DecidableEq, Repr

/-- The boot configuration (R400). -/
structure BootCfg where
  /-- Virtual addresses of the Registrar windows of dies 0 to 3; zero for none (log 22). -/
  windows : List Nat
  lp6Cache : Nat
  replPool : Nat
  ctxBase : Nat
  ctxCount : Nat
  portMode : Nat
  budget : Nat
  /-- On a 7101, the die address that the controller names for the boot record, 0 for none (R401, log 2). -/
  recordAt : Nat
  deriving DecidableEq, Repr

/-- The boot configuration of a part the platform has not written one for (log 13). -/
def BootCfg.reset : BootCfg :=
  { windows := [], lp6Cache := 0, replPool := 0, ctxBase := 0, ctxCount := 3072, portMode := 0, budget := 1048575, recordAt := 0 }

/-- The 60 bytes of the boot record (R400). -/
def BootCfg.record (b : BootCfg) : Nat :=
  (List.range 4).foldr (fun d a => b.windows.getD d 0 % 2 ^ 64 + 2 ^ 64 * a) 0
    + (b.lp6Cache + b.replPool * 2 ^ 32 + b.ctxBase * 2 ^ 64 + b.ctxCount * 2 ^ 128 + b.portMode * 2 ^ 160 + b.budget * 2 ^ 192) * 2 ^ 256

/-- A flit that its sender keeps (R378, R379): SEQ, VC, TYPE and PAYLOAD, and how often it was sent. -/
structure Flit where
  seq : Nat
  vc : Nat
  type : Nat
  payload : BitVec 928
  sent : Nat
  deriving DecidableEq, Repr

/-- A port, or one end of a die link, at flit level (R378, R379). -/
structure PortRec where
  /-- The sequence number expected next, whether a flit has been accepted, and whether a NAK is due. -/
  expected : Nat
  heard : Bool
  nak : Bool
  /-- VC, TYPE and PAYLOAD of the last flit accepted. -/
  got : Nat × Nat × BitVec 928
  /-- The sequence number of the next flit sent; flits sent and not acknowledged, oldest first; traffic that waits to be sent, as VC,
  TYPE and PAYLOAD. -/
  next : Nat
  unacked : List Flit
  backlog : List (Nat × Nat × BitVec 928)
  retraining : Bool
  /-- The spare lane is in use (R379). -/
  spared : Bool
  /-- Measured peer delay in ns (R391). -/
  delay : Nat
  deriving DecidableEq, Repr

/-- A port after training. -/
def PortRec.reset : PortRec :=
  { expected := 0, heard := false, nak := false, got := (0, 0, 0), next := 0, unacked := [], backlog := [], retraining := false, spared := false, delay := 0 }

/-- The non-volatile store of a package (R400, R407, R408, R411, R413). -/
structure NvStore where
  boot : BootCfg
  minVersion : Nat
  /-- Leaf counter of the XMSS identity key (R408). -/
  xmss : Nat
  /-- The spare physical forms that have taken the number of a logical form, by 48 · die + form; repaired rows, each with its die
(R411, R413). -/
  spareMap : SMap Nat
  rows : List (Nat × Nat)
  deriving DecidableEq, Repr

/-- A non-volatile store nothing was written to (log 13). -/
def NvStore.reset : NvStore := { boot := BootCfg.reset, minVersion := 0, xmss := 0, spareMap := [], rows := [] }

/-- A package: its hub's units (R376 to R416). -/
structure PkgRec where
  /-- The key that each slot holds, by a name of it; the platform key is 0 (R409, R410). -/
  keys : SMap (Option Nat)
  /-- The names of the keys that lines of 64 bytes of its memory are encrypted under, by memory key over 64 (R409). -/
  cipher : SMap Nat
  /-- The boot configuration in force, and the non-volatile store (R400). -/
  boot : BootCfg
  nv : NvStore
  /-- The bring-up step that failed, 0 for none (R399). -/
  failedStep : Nat
  /-- Failed Heson ports, and failed die links by their number 0 to 9 (R357, R376, R382). -/
  portFailed : SMap Bool
  linkFailed : SMap Bool
  /-- The clocks gone by when its dies were last reset (R18). -/
  resetClk : Nat
  /-- TIMENS less the group's elapsed ns, modulo 2^64 (R391). -/
  timeOff : Word
  /-- Read-duplicated pages homed here, by memory key over 65,536: holders, and holders that have yet to acknowledge an
  invalidate, as sets of packages (R388, R389). -/
  holders : SMap Nat
  awaited : SMap Nat
  /-- Writes that have not been placed yet, oldest first: held until the acknowledgements are in (R389), or on their way (R253). -/
  held : List HeldWrite
  /-- Replica entries held here, by page, oldest first (R388). -/
  replicas : List Nat
  /-- Ports 0 to 19, and the two ends of each die link n as 22 + n and 32 + n, at flit level (R357, R376, R379). -/
  ports : SMap PortRec
  /-- Aperture descriptors (R397). -/
  apertures : SMap (BitVec 256)
  /-- MSI-X vectors masked, and latched, bit v for vector v (R416). -/
  msixMask : Nat
  msixLatch : Nat
  /-- The package runs freely, and the offset in ns it still has to slew by, with the ns of its last correction (R392). -/
  freeRun : Bool
  slew : Int
  slewFrom : Nat
  /-- SPDM: how far the negotiation has come, 0 to 5 for a secured session (R408). -/
  spdm : Nat
  /-- On a 7101, the transport key the controller wrote (R401). -/
  transportKey : Option (BitVec 256)
  /-- On a 7101, the controller has set TIMENS (R401). -/
  timeSet : Bool
  /-- Version of the management core's firmware (R407). -/
  firmware : Nat
  /-- MODEL: the next transfer of its host bridge, or of its Tradewind ports, to another package is lost to a time-out (R382). -/
  doomed : Bool
  deriving DecidableEq, Repr

/-- A package after bring-up: key slot 0 holds the key bring-up generated (R399). -/
def PkgRec.reset : PkgRec :=
  { keys := [(0, some 0)], cipher := [], boot := BootCfg.reset, nv := NvStore.reset, failedStep := 0, portFailed := [], linkFailed := [], resetClk := 0, timeOff := 0, holders := [], awaited := [], held := [],
    replicas := [], ports := [], apertures := [], msixMask := 15, msixLatch := 0, freeRun := false, slew := 0, slewFrom := 0,
    spdm := 0, transportKey := .none, timeSet := false, firmware := 0, doomed := false }

/-- The operands of the event that runs (95_what_each_step_holds): an event row of the table has no field, so what it
acts on stands here, set when the event is taken from `State.events`. -/
structure EvArg where
  pkg : Nat
  die : Nat
  idx : Nat
  aux : Nat
  val : BitVec 256
  data : List Byte
  flag : Bool
  deriving DecidableEq, Repr

/-- No operand. -/
def EvArg.none : EvArg := { pkg := 0, die := 0, idx := 0, aux := 0, val := 0, data := [], flag := false }

/-- An event of an agent, waiting to be taken (log 4). -/
structure Event where
  kind : Instr
  arg : EvArg
  deriving DecidableEq, Repr

/-- How a host read completes (R353, R398). -/
inductive Completion where
  | success
  | unsupported
  | abort
  | poisoned
  deriving DecidableEq, Repr

/-- What the group shows to the outside (R395, R416, R408). -/
inductive Out where
  /-- An MSI-X message of a vector (R416). -/
  | msix (pkg vector : Nat)
  /-- The completion of a host read with its bytes (R353, R398). -/
  | readData (pkg : Nat) (status : Completion) (data : List Byte)
  /-- A reply of the security engine or the management path, by its kind (R408, R355). -/
  | reply (pkg kind : Nat) (value : BitVec 256)
  /-- The signal of a fatal error that a 7101 gives its controller (R401). -/
  | sideband (pkg : Nat)
  /-- A flit that a port or die link sends, its 128 bytes (R378). -/
  | flit (pkg port : Nat) (bytes : BitVec 1024)
  deriving DecidableEq, Repr

/-- Which order number the group is built of (R1). -/
inductive Part where
  | p7204
  | p7101
  deriving DecidableEq, Repr

/-- The machine: a group of packages. -/
structure State where
  /-- The hart whose turn it is (log 4), and its number in the group. -/
  hart : Hart
  cur : Nat
  /-- The other harts; one absent is as `Hart.reset`. -/
  harts : SMap Hart
  /-- Every die's physical memory, every slate and every scalar data memory (R235, R359; keys of `Place.key`). -/
  mem : Memory
  cores : SMap CoreRec
  forms : SMap FormRec
  /-- Pre-empted tasks in order of pre-emption, each with the hart it ran on: what R349 keeps in place, and what its area was written from (R348). -/
  parked : List (Nat × Hart)
  dies : SMap DieRec
  pkgs : SMap PkgRec
  /-- The XIDs of the exchange, and the runs of packets, oldest first. -/
  xids : SMap XidRec
  runs : List RunRec
  /-- A task has been dispatched (R391). -/
  dispatched : Bool
  part : Part
  /-- Packages present (R380). -/
  packages : List Nat
  /-- MODEL: events not yet taken, the operands of the one that runs, whose turns come, and what the outside saw. -/
  events : List Event
  arg : EvArg
  turns : List Nat
  /-- MODEL: the schedule that performs each instruction as soon as it can (log 4). -/
  eager : Bool
  outbox : List Out
  /-- MODEL: the leaves that translation caches hold (R365); none under the eager schedule (log 10). -/
  tlb : List LeafAt
  /-- MODEL: steps taken; free values taken; clocks and ns gone by (log 8). -/
  tick : Nat
  free : Nat
  clk : Nat
  ns : Nat
  deriving DecidableEq, Repr

/-- Why the machine stops. -/
inductive Fault where
  /-- An event names a unit the group does not have; raised by the events; safe. -/
  | absentUnit
  deriving DecidableEq, Repr

/-- Why an instruction has no meaning. -/
inductive Refusal where
  /-- No meaning is written for the instruction; raised by Dispatch; safe. -/
  | notModelled (mnemonic : String)
  deriving DecidableEq, Repr

/-- The first address of scalar data memory past a hart's quarter, the stack pointer at task start (R20, R236). -/
def stackTop (hart : Nat) : Word := BitVec.ofNat 64 (0x7F0000100000 + 16384 * (hart + 1))

/-- Where the boot record stands in the slate of core 0 of a die, its last 64 bytes (R399, log 2). -/
def bootRecordOffset : Nat := Config.slateBytes - 64

/-- The address of the boot record that the boot tasks of a package have in x10 (R399, R401, log 2). -/
def BootCfg.recordVa (b : BootCfg) : Word := BitVec.ofNat 64 (if b.recordAt = 0 then 0x7F0000000000 + bootRecordOffset else b.recordAt)

/-- The boot task of a die of a package, as bring-up starts it on hart 0 of core 0 under a boot configuration, memory being `m` (R399,
R400, log 2). -/
def bootHart (b : BootCfg) (m : Memory) (pkg die : Nat) : Hart :=
  { Hart.reset with
    pc := 0x0000004000000000
    x := (((Vector.replicate 32 0).set 10 b.recordVa).set 12 1).set 30 (stackTop 0)
    ctl := { Ctl.reset with status := 1, ptbase := 1, ptbaseNow := 1, vsaveptr := BitVec.ofNat 64 (b.ctxBase + 4194304 * die) }
    code := m
    run := .running
    owner := 3072 * pkg + 768 * die
    task := { Task.none with home := 4 * pkg + die, queue := 65536, copies := 1, boot := true, area := die }
    lease := { Lease.none with held := 1, lanes := 1, minc := 1, prefc := 1 } }

/-- The bytes of the boot record of `BootCfg.reset` that are not zero, in the slate of a core (R400): CTXCOUNT 3,072 and BUDGET
1,048,575. -/
def bootCells (core : Nat) : List Host.Cell :=
  let at_ := 2 ^ 56 + core * 2 ^ 20 + bootRecordOffset
  [(at_ + 49, 0x0C), (at_ + 56, 0xFF), (at_ + 57, 0xFF), (at_ + 58, 0x0F)]

/-- Memory after a cold reset of one 7204: zero, with the boot record of each die (R399). -/
def Memory.reset : Memory := { cells := [0, 192, 384, 576].flatMap bootCells, pois := [] }

/-- The machine right after a cold reset: one 7204, its boot tasks started (R399, logs 1 to 3). -/
def State.reset : State :=
  let boot := bootHart BootCfg.reset Memory.reset 0
  { hart := boot 0, cur := 0, harts := [(768, boot 1), (1536, boot 2), (2304, boot 3)],
    mem := Memory.reset, cores := [], forms := [0, 48, 96, 144].map fun f => (f, { FormRec.reset with clusters := 15 }), parked := [], dies := [], pkgs := [], xids := [], runs := [], dispatched := false, part := .p7204, packages := [0], events := [],
    arg := EvArg.none, turns := [], eager := true, outbox := [], tlb := [], tick := 0, free := 0, clk := 0, ns := 0 }

end Sys2Proof.Machine
end

