-- ==== Sys2Proof/Machine/Base.lean ====
section
/-! DEFINITION. Reading and writing the parts of the state: bytes and poison, harts, registers, control-register
fields, the program counter.  Everything here is total and changes only the part its name says. -/

namespace Sys2Proof.Machine

/-! ### Tables -/

/-- A table with every entry changed; an entry that becomes the default is dropped. -/
def SMap.mapVals {α : Type} [DecidableEq α] (d : α) (f : α → α) (m : SMap α) : SMap α :=
  m.filterMap fun p => if f p.2 = d then none else some (p.1, f p.2)

/-! ### Bytes -/

/-- The bytes at `k` to `k + n − 1` of a byte table as a little-endian number (R12). -/
def cellsRead (c : List Host.Cell) (k : Nat) : Nat → Nat
  | 0 => 0
  | n + 1 => (SMap.get (0 : Byte) c k).toNat + 256 * cellsRead c (k + 1) n

/-- The byte table with the low `n` bytes of `v` at `k` (R12). -/
def cellsWrite (c : List Host.Cell) (k : Nat) : Nat → Nat → List Host.Cell
  | 0, _ => c
  | n + 1, v => cellsWrite (SMap.set (0 : Byte) c k (BitVec.ofNat 8 v)) (k + 1) n (v / 256)

/-- One byte of a memory. -/
def Memory.byte (m : Memory) (k : Nat) : Byte := SMap.get (0 : Byte) m.cells k

/-- `n` bytes of a memory, little-endian (R12). -/
def Memory.read (m : Memory) (k n : Nat) : Nat := cellsRead m.cells k n

/-- The poison map after a write of `n` bytes at `k`: each of the `j` words from `w` whose eight bytes are all
written loses its poison (R353). -/
def poisClear (p : SMap Bool) (k n : Nat) : Nat → Nat → SMap Bool
  | _, 0 => p
  | w, j + 1 =>
    poisClear (if k ≤ 8 * w ∧ 8 * w + 8 ≤ k + n then SMap.set false p w false else p) k n (w + 1) j

/-- A memory with the low `n` bytes of `v` at `k` (R12, R353). -/
def Memory.write (m : Memory) (k n v : Nat) : Memory :=
  { cells := cellsWrite m.cells k n v, pois := poisClear m.pois k n (k / 8) (n / 8 + 1) }

/-- Whether any of `j` words from `w` is poisoned. -/
def poisAny (p : SMap Bool) : Nat → Nat → Bool
  | _, 0 => false
  | w, j + 1 => SMap.get false p w || poisAny p (w + 1) j

/-- Whether the `n` bytes at `k` hold poisoned data (R352). -/
def Memory.poisoned (m : Memory) (k n : Nat) : Bool :=
  if n = 0 then false else poisAny m.pois (k / 8) ((k + n - 1) / 8 + 1 - k / 8)

/-- A memory whose word at `k` is poisoned (R352). -/
def Memory.poison (m : Memory) (k : Nat) : Memory := { m with pois := SMap.set false m.pois (k / 8) true }

/-- The memory with the `n` bytes at `src` of `from_` copied to `dst`, as one number of `n` bytes. -/
def Memory.copyIn (m : Memory) (dst : Nat) (from_ : Memory) (src n : Nat) : Memory :=
  m.write dst n (from_.read src n)

/-- A number cut to `n` bits. -/
def low (n v : Nat) : Nat := v % 2 ^ n

/-- The bits `lo` to `lo + n − 1` of a number. -/
def bitsOf (v lo n : Nat) : Nat := v / 2 ^ lo % 2 ^ n

/-- A number with its bits `lo` to `lo + n − 1` replaced. -/
def setBits (v lo n f : Nat) : Nat := v - bitsOf v lo n * 2 ^ lo + low n f * 2 ^ lo

/-- The low `w` bits of a number as a two's-complement integer (R42). -/
def toSigned (w v : Nat) : Int :=
  let u := low w v
  if 2 * u < 2 ^ w then (u : Int) else (u : Int) - (2 ^ w : Nat)

/-- The low `w` bits of an integer (R42). -/
def ofInt (w : Nat) (z : Int) : Nat := (z % ((2 ^ w : Nat) : Int)).toNat

/-- The field `lo` to `lo + n − 1` of a register word. -/
def field (v : Word) (lo n : Nat) : Nat := bitsOf v.toNat lo n

/-- A register word with a field replaced. -/
def setField (v : Word) (lo n f : Nat) : Word := BitVec.ofNat 64 (setBits v.toNat lo n f)

/-- The field of a 256-bit table entry. -/
def fieldB (v : BitVec 256) (lo n : Nat) : Nat := bitsOf v.toNat lo n

/-- A 256-bit table entry with a field replaced. -/
def setFieldB (v : BitVec 256) (lo n f : Nat) : BitVec 256 := BitVec.ofNat 256 (setBits v.toNat lo n f)

/-- A number as a word. -/
def wordOf (n : Nat) : Word := BitVec.ofNat 64 n

/-- A truth value as the integer 0 or 1. -/
def bit (b : Bool) : Nat := if b then 1 else 0

/-! ### Harts and tables -/

/-- The package of a hart (R15). -/
def pkgOf (g : Nat) : Nat := g / 3072

/-- The core of a hart in its package, 0 to 767 (R213). -/
def coreOf (g : Nat) : Nat := g % 3072 / 4

/-- The die of a hart in its package (R213). -/
def dieOf (g : Nat) : Nat := coreOf g / 192

/-- The logical form of a hart in its die (R213). -/
def formOf (g : Nat) : Nat := coreOf g % 192 / 4

/-- The key of a die: 4 · package + die. -/
def dieKey (g : Nat) : Nat := 4 * pkgOf g + dieOf g

/-- The key of a core: 768 · package + core. -/
def coreKey (g : Nat) : Nat := g / 4

/-- The key of a form: 48 · (4 · package + die) + form. -/
def formKey (g : Nat) : Nat := 48 * dieKey g + formOf g

/-- The die-local hart number of a rollbook source (R357). -/
def dieHart (g : Nat) : Nat := 4 * (coreOf g % 192) + g % 4

/-- A hart by its number. -/
def State.getHart (s : State) (g : Nat) : Hart := if g = s.cur then s.hart else SMap.get Hart.reset s.harts g

/-- The state with a hart replaced. -/
def State.setHart (s : State) (g : Nat) (h : Hart) : State :=
  if g = s.cur then { s with hart := h } else { s with harts := SMap.set Hart.reset s.harts g h }

/-- The state with the current hart changed. -/
def State.modHart (s : State) (f : Hart → Hart) : State := { s with hart := f s.hart }

/-- The state in which another hart is the current one. -/
def State.switch (s : State) (g : Nat) : State :=
  if g = s.cur then s
  else
    let t := { s with harts := SMap.set Hart.reset s.harts s.cur s.hart }
    { t with hart := SMap.get Hart.reset t.harts g, cur := g, harts := SMap.set Hart.reset t.harts g Hart.reset }

/-- A die's record. -/
def State.die (s : State) (k : Nat) : DieRec := SMap.get DieRec.reset s.dies k

/-- The state with a die's record changed. -/
def State.setDie (s : State) (k : Nat) (d : DieRec) : State := { s with dies := SMap.set DieRec.reset s.dies k d }

/-- A package's record. -/
def State.pkg (s : State) (p : Nat) : PkgRec := SMap.get PkgRec.reset s.pkgs p

/-- The state with a package's record changed. -/
def State.setPkg (s : State) (p : Nat) (r : PkgRec) : State := { s with pkgs := SMap.set PkgRec.reset s.pkgs p r }

/-- A core's record. -/
def State.core (s : State) (k : Nat) : CoreRec := SMap.get CoreRec.reset s.cores k

/-- The state with a core's record changed. -/
def State.setCore (s : State) (k : Nat) (c : CoreRec) : State := { s with cores := SMap.set CoreRec.reset s.cores k c }

/-- Whether a hart's core is halted, or freezes for a halt (R356). -/
def State.stopped (s : State) (g : Nat) : Bool := (s.core (coreKey g)).halted || (s.core (coreKey g)).halting

/-- Compute dies of a package (R1). -/
def State.dieCount (s : State) : Nat := if s.part = .p7101 then 1 else 4

/-- Whether a package is present in the group (R380). -/
def State.present (s : State) (p : Nat) : Bool := s.packages.contains p

/-- Take a fresh free value's number. -/
def State.nextFree (s : State) : State := { s with free := s.free + 1 }

/-! ### Scalar registers -/

/-- `x[n]`; x0 reads as zero (R7). -/
def Hart.readX (h : Hart) (n : Reg) : Word := if n = 0 then 0 else h.x[n.toNat]

/-- `write_x(n, v)`; a write to x0 is discarded (R7). -/
def Hart.writeX (h : Hart) (n : Reg) (v : Word) : Hart :=
  if n = 0 then h else { h with x := h.x.set n.toNat v }

/-- `x[n]` of the current hart (R65). -/
def State.readX (s : State) (n : Reg) : Word := s.hart.readX n

/-- `write_x(n, v)` on the current hart (R65). -/
def State.writeX (s : State) (n : Reg) (v : Word) : State := { s with hart := s.hart.writeX n v }

/-! ### Control-register fields -/

/-- STATUS.PRV: the hart runs at supervisor level (R16). -/
def Hart.prv (h : Hart) : Bool := h.ctl.status.getLsbD 0

/-- STATUS.VFROZEN (R16). -/
def Hart.vfrozen (h : Hart) : Bool := h.ctl.status.getLsbD 2

/-- STATUS.VCLAIMED (R16). -/
def Hart.vclaimed (h : Hart) : Bool := h.ctl.status.getLsbD 3

/-- The rounding modes (R48). -/
inductive Rm where
  | rne
  | rtz
  | rdn
  | rup
  deriving DecidableEq, Repr

/-- A mode from its code (R48). -/
def Rm.ofCode (n : Nat) : Rm :=
  match n % 4 with
  | 0 => .rne
  | 1 => .rtz
  | 2 => .rdn
  | _ => .rup

/-- FSTAT.RM (R17). -/
def Hart.frm (h : Hart) : Rm := Rm.ofCode (field h.ctl.fstat 0 2)

/-- ORs the five flags, NX first, into bits [6:2] of a status word (R58). -/
def orFlags (v : Word) (f : BitVec 5) : Word := v ||| ((0 : BitVec 57) ++ f ++ (0 : BitVec 2))

/-- `raise(f)`: the flags into FSTAT (R65). -/
def Hart.raise (h : Hart) (f : BitVec 5) : Hart := { h with ctl := { h.ctl with fstat := orFlags h.ctl.fstat f } }

/-- The state with bits ORed into VSTAT (R123). -/
def Hart.orVstat (h : Hart) (v : Word) : Hart := { h with ctl := { h.ctl with vstat := h.ctl.vstat ||| v } }

/-- VSTAT.SAT (R123). -/
def vstatSat : Word := 0x001

/-- VSTAT.EMPTY (R123). -/
def vstatEmpty : Word := 0x080

/-- VSTAT.BADARG (R123). -/
def vstatBadarg : Word := 0x100

/-- VSTAT.REMOTE (R123). -/
def vstatRemote : Word := 0x200

/-! ### Completing an instruction -/

/-- RETIRED counts an instruction completed at user level (R18). -/
def Hart.countRetired (h : Hart) : Hart :=
  if h.prv then h else { h with ctl := { h.ctl with retired := h.ctl.retired + 1 } }

/-- The instruction completes: its length is added to PC (R6) and it is counted (R18). -/
def Hart.advance (h : Hart) (len : Nat) : Hart := { h with pc := h.pc + wordOf len }.countRetired

/-- The instruction completes by writing PC; bit 0 of the target is cleared (R6). -/
def Hart.jump (h : Hart) (target : Word) : Hart := { h with pc := target &&& ~~~1 }.countRetired

/-- The current hart's instruction completes. -/
def State.advance (s : State) (len : Nat) : State := { s with hart := s.hart.advance len }

/-- The current hart's control transfer completes. -/
def State.jump (s : State) (target : Word) : State := { s with hart := s.hart.jump target }

/-- A 32-bit instruction that writes one x register completes (R6, R18). -/
def State.finishX (s : State) (d : Reg) (v : Word) (len : Nat) : State := (s.writeX d v).advance len

/-- Sign extension of an immediate to 64 bits (R26). -/
def simm {n : Nat} (v : BitVec n) : Word := v.signExtend 64

/-- What an outcome is when nothing stops it. -/
abbrev Result := Host.Outcome State Fault Refusal

end Sys2Proof.Machine
end

