-- ==== Sys2Proof/Machine/Fabric.lean ====
section
/-! DEFINITION. Time, the rollbook and routes: what every agent uses of the hub and the fabric (R357, R376 to R382, R391,
R414). -/

namespace Sys2Proof.Machine

/-- TIMENS as a package reads it (R391). -/
def State.timeNs (s : State) (p : Nat) : Word := wordOf s.ns + (s.pkg p).timeOff

/-- The state with an event in a die's rollbook, unless it is frozen (R357, R414). -/
def State.roll (s : State) (dk : Nat) (kind index code a0 : Nat) (a1 a2 : Word) : State :=
  let d := s.die dk
  if d.rollFrozen then s
  else
    let e : BitVec 256 :=
      a2 ++ a1 ++ BitVec.ofNat 32 a0 ++ BitVec.ofNat 16 code ++ BitVec.ofNat 4 kind ++ BitVec.ofNat 12 index
        ++ s.timeNs (dk / 4)
    s.setDie dk { d with roll := SMap.set 0 d.roll d.rollIndex e, rollIndex := (d.rollIndex + 1) % 65536 }

/-- A rollbook event of a hart (R357). -/
def State.rollHart (s : State) (g code a0 : Nat) (a1 a2 : Word) : State :=
  s.roll (dieKey g) 0 (dieHart g) code a0 a1 a2

/-- A rollbook event of the hub, written to compute die 0; a 7101 has none (R357). -/
def State.rollHub (s : State) (p index code a0 : Nat) (a1 a2 : Word) : State :=
  if s.part = .p7101 then s else s.roll (4 * p) 5 index code a0 a1 a2

/-- The number of the link between two dies of a package, the hub as 4 (R357). -/
def linkNo (a b : Nat) : Nat :=
  let lo := min a b
  let hi := max a b
  match lo with
  | 0 => hi - 1
  | 1 => hi + 2
  | 2 => hi + 4
  | _ => 9

/-- Whether the link of two dies of a package works (R376). -/
def State.dieLinkUp (s : State) (p a b : Nat) : Bool := (a == b) || !SMap.get false (s.pkg p).linkFailed (linkNo a b)

/-- A package's coordinate in dimension 0 x, 1 y, 2 z (R380). -/
def coord (p d : Nat) : Nat := p / 4 ^ d % 4

/-- The package that differs from `p` by having coordinate `c` in dimension `d` (R380). -/
def withCoord (p d c : Nat) : Nat := p - coord p d * 4 ^ d + c * 4 ^ d

/-- The first of the two bonded ports of `p` toward its neighbour with coordinate `c` in dimension `d` (R380). -/
def portToward (p d c : Nat) : Nat := 6 * d + 2 * (if c < coord p d then c else c - 1)

/-- Whether a port of a present package works (R379). -/
def State.portUp (s : State) (p n : Nat) : Bool := !SMap.get false (s.pkg p).portFailed n

/-- The ports of `p` bonded toward its neighbour `q` in dimension `d`: its two, and 18 and 19 where PORTMODE bonds them there
(R377, R380, R400). -/
def State.portsToward (s : State) (p q d : Nat) : List Nat :=
  let a := portToward p d (coord q d)
  [a, a + 1] ++ (if (s.pkg p).boot.portMode = a / 2 + 1 then [18, 19] else [])

/-- Whether the bonded ports between two neighbours carry traffic in both ends' view (R380, R381); a 7101 has none (R1). -/
def State.hopUp (s : State) (p q d : Nat) : Bool :=
  s.part != .p7101 && s.present p && s.present q &&
    ((s.portsToward p q d).zip (s.portsToward q p d)).any fun r => s.portUp p r.1 && s.portUp q r.2

/-- The first port that works of those from `p` to a neighbour. -/
def State.portOut (s : State) (p q : Nat) : Nat :=
  let d := if coord p 0 ≠ coord q 0 then 0 else if coord p 1 ≠ coord q 1 then 1 else 2
  ((s.portsToward p q d).find? (s.portUp p)).getD 0

/-- The packages a hop from `p` to `q` in dimension `d` visits after `p`: `q`, or a detour first (R381). -/
def State.hop (s : State) (p q d : Nat) : Option (List Nat) :=
  if s.hopUp p q d then some [q]
  else
    match (List.range 4).find? (fun c =>
        let r := withCoord p d c
        r ≠ p && r ≠ q && s.present r && s.hopUp p r d && s.hopUp r q d) with
    | some c => some [withCoord p d c, q]
    | none => none

/-- The packages a request from `p` to `q` visits after `p`, in the order x, y, z (R381). -/
def State.routeFrom (s : State) (p q : Nat) : List Nat → Option (List Nat)
  | [] => some []
  | d :: ds =>
    if coord p d = coord q d then s.routeFrom p q ds
    else
      let n := withCoord p d (coord q d)
      match s.hop p n d with
      | none => none
      | some l =>
        match s.routeFrom n q ds with
        | none => none
        | some l' => some (l ++ l')

/-- The route between two packages (R381). -/
def State.route (s : State) (p q : Nat) : Option (List Nat) := s.routeFrom p q [0, 1, 2]

/-- Whether a transfer from a die can reach another die of the group (R376, R381, R382). -/
def State.reaches (s : State) (fromDie toDie : Nat) : Bool :=
  let p := fromDie / 4
  let q := toDie / 4
  if p = q then s.dieLinkUp p (fromDie % 4) (toDie % 4)
  else s.dieLinkUp p (fromDie % 4) 4 && (s.route p q).isSome && s.dieLinkUp q 4 (toDie % 4)

/-! ### Flits (R378, R379) -/

/-- One bit of the CRC-64, the most significant first (R378, log 16). -/
def crcBit (c : Word) (b : Bool) : Word :=
  let t := c <<< 1
  if c.getMsbD 0 != b then t ^^^ 0x42F0E1EBA9EA3693 else t

/-- The CRC-64 of some bytes. -/
def crcBytes (c : Word) (bs : List Byte) : Word :=
  bs.foldl (fun c b => (List.range 8).foldl (fun c i => crcBit c (b.getMsbD i)) c) c

/-- A port's record. -/
def State.port (s : State) (p n : Nat) : PortRec := SMap.get PortRec.reset (s.pkg p).ports n

/-- The state with a port's record changed. -/
def State.setPort (s : State) (p n : Nat) (v : PortRec) : State :=
  let r := s.pkg p
  s.setPkg p { r with ports := SMap.set PortRec.reset r.ports n v }

/-- The bytes of a number, the lowest first. -/
def bytesOf (v : Nat) : Nat → List Byte
  | 0 => []
  | n + 1 => BitVec.ofNat 8 v :: bytesOf (v / 256) n

/-- A flit as it goes out of a port (R378): its SEQ, VC, TYPE and PAYLOAD, with what the port acknowledges. -/
def PortRec.flit (r : PortRec) (seq vc type : Nat) (payload : BitVec 928) : BitVec 1024 :=
  let ack := (r.expected + 4095) % 4096
  let head := seq % 4096 * 2 ^ 20 + ack * 2 ^ 8 + vc % 8 * 2 ^ 5 + bit r.heard * 2 ^ 4 + bit r.nak * 2 ^ 3 + type % 8
  let body := head + payload.toNat * 2 ^ 32
  BitVec.ofNat 1024 (body + (crcBytes Config.crcStart (bytesOf body 120)).toNat * 2 ^ 960)

/-- A flit put on the wire. -/
def State.wire (s : State) (p n : Nat) (f : BitVec 1024) : State := { s with outbox := s.outbox ++ [.flit p n f] }

/-- Traffic that waits at a port goes out while fewer than 2,048 flits are unacknowledged and the port does not retrain (R379). -/
def State.drainPort (s : State) (p n : Nat) : Nat → State
  | 0 => s
  | m + 1 =>
    let r := s.port p n
    match r.backlog with
    | [] => s
    | (vc, type, load) :: rest =>
      if r.retraining || decide (2048 ≤ r.unacked.length) then s
      else
        let f : Flit := { seq := r.next, vc := vc, type := type, payload := load, sent := 1 }
        ((s.setPort p n { r with next := (r.next + 1) % 4096, unacked := r.unacked ++ [f], backlog := rest, nak := false }).wire p n
          (r.flit f.seq vc type load)).drainPort p n m

/-- A data flit of a VC joins the traffic of a port or of an end of a die link (R378): how a transfer lies in its payload the rules do not
give (log 62). -/
def State.sendFlit (s : State) (p n vc : Nat) : State :=
  let r := s.port p n
  let load := (Config.freeWord s.free).zeroExtend 928
  ((s.nextFree.setPort p n { r with backlog := r.backlog ++ [(vc, 1, load)] }).drainPort p n (r.backlog.length + 1))

/-- The number, among a package's link ends, of die `a`'s end of its link to die `b`, the hub as 4: 22 + n at the lower of the two, 32 + n
at the higher (R376). -/
def linkEnd (a b : Nat) : Nat := (if a < b then 22 else 32) + linkNo a b

/-- A flit of a VC on each hop of a path of packages from `p` (R378, R381). -/
def State.hopFlits (s : State) (vc : Nat) : Nat → List Nat → State
  | _, [] => s
  | p, q :: t => (s.sendFlit p (s.portOut p q) vc).hopFlits vc q t

/-- The way back over a path of packages from `p` (R381). -/
def wayBack (p : Nat) (path : List Nat) : List Nat := (p :: path).reverse.tail

/-- A flit of a VC from die `a` to its hub, over a path of packages, and from the last hub to die `b` (R376, R378). -/
def State.carryAlong (s : State) (a : Nat) (path : List Nat) (b vc : Nat) : State :=
  ((s.sendFlit (a / 4) (linkEnd (a % 4) 4) vc).hopFlits vc (a / 4) path).sendFlit (b / 4) (linkEnd 4 (b % 4)) vc

/-- A flit of a VC from one die to another: over their link, or over the hubs (R376, R378). -/
def State.carry (s : State) (a b vc : Nat) : State :=
  if a = b then s
  else if a / 4 = b / 4 then s.sendFlit (a / 4) (linkEnd (a % 4) (b % 4)) vc
  else
    match s.route (a / 4) (b / 4) with
    | some path => s.carryAlong a path b vc
    | none => s

/-- The flits of a transfer from one die to another that reaches it: a request, and the response over the same way (R378, R381). -/
def State.transfer (s : State) (a b : Nat) : State :=
  if a = b ∨ s.reaches a b = false then s
  else if a / 4 = b / 4 then (s.carry a b 0).carry b a 1
  else
    match s.route (a / 4) (b / 4) with
    | some path => (s.carryAlong a path b 0).carryAlong b (wayBack (a / 4) path) a 1
    | none => s

end Sys2Proof.Machine
end

