-- ==== Sys2Proof/Machine/Bursar.lean ====
section
/-! DEFINITION. What a hart holds of its form and die: hall passes (R402 to R404), the start of copies (R92, R216), lane clusters (R91 to R93), accumulator
tiles (R169 to R171) and stream slots (R261). -/

namespace Sys2Proof.Machine

/-- A form's record. -/
def State.form (s : State) (k : Nat) : FormRec := SMap.get FormRec.reset s.forms k

/-- The state with a form's record changed. -/
def State.setForm (s : State) (k : Nat) (f : FormRec) : State := { s with forms := SMap.set FormRec.reset s.forms k f }

/-! ### Hall passes -/

/-- Charge of a cluster above the minimum, in mW (R403). -/
def clusterCharge : Nat := 200

/-- An event for a die. -/
def dieEvent (k : Instr) (dk idx : Nat) : Event := { kind := k, arg := { EvArg.none with pkg := dk / 4, die := dk % 4, idx := idx } }

/-- An event joins the queue unless it stands there. -/
def State.pushOnce (s : State) (e : Event) : State :=
  if s.events.contains e then s else { s with events := s.events ++ [e] }

/-- The pre-empted tasks of a die may resume (R226, R350): a TASK_RESUME event, if there is one. -/
def State.pokeResume (s : State) (dk : Nat) : State :=
  if s.parked.any fun r => dieKey r.1 = dk then s.pushOnce (dieEvent .taskResume dk 0) else s

/-- The Proctor is asked to look at its oldest request (R404): a HALL_PASS_GRANT event, if a request waits; a task that lacks a pass to
resume may have it (R349). -/
def State.pokeProctor (s : State) (dk : Nat) : State :=
  State.pokeResume (if (s.die dk).waiting.isEmpty then s else s.pushOnce (dieEvent .hallPassGrant dk 0)) dk

/-- A request of a hall pass (R404): granted at once where nothing waits before it and it fits, else it waits. -/
def State.askPass (s : State) (dk : Nat) (r : PassReq) : State × Bool :=
  let d := s.die dk
  if d.waiting.isEmpty && decide (r.charge + d.granted ≤ d.budget) then
    (s.setDie dk { d with granted := d.granted + r.charge }, true)
  else (s.setDie dk { d with waiting := d.waiting ++ [r] }, false)

/-- A hall pass comes back (R403). -/
def State.returnPass (s : State) (dk charge : Nat) : State :=
  let d := s.die dk
  (s.setDie dk { d with granted := d.granted - charge }).pokeProctor dk

/-- Requests are withdrawn (R404). -/
def State.withdraw (s : State) (dk : Nat) (p : PassReq → Bool) : State :=
  let d := s.die dk
  if d.waiting.any p then (s.setDie dk { d with waiting := d.waiting.filter fun r => !p r }).pokeProctor dk else s

/-! ### Launches (R113) -/

/-- Whether two harts run copies of one launch (R113). -/
def Hart.sameLaunch (a b : Hart) : Bool :=
  a.run != .idle && b.run != .idle && a.task.home == b.task.home && a.task.queue == b.task.queue
    && a.task.packet == b.task.packet && !a.task.boot && !b.task.boot

/-- The harts of the group on which something has run, the current one first. -/
def State.known (s : State) : List Nat := s.cur :: s.harts.map Prod.fst

/-- The harts, by number, on which copies of the launch of a hart are (R113). -/
def State.copiesOf (s : State) (h : Hart) : List Nat := s.known.filter fun g => (s.getHart g).sameLaunch h

/-- The state with every copy of a launch changed, pre-empted ones too. -/
def State.mapCopiesOf (s : State) (h : Hart) (f : Hart → Hart) : State :=
  let t := (s.copiesOf h).foldl (fun t g => t.setHart g (f (s.getHart g))) s
  { t with parked := t.parked.map fun p => if p.2.sameLaunch h then (p.1, f p.2) else p }

/-- Every live copy of a launch, pre-empted ones too. -/
def State.liveCopiesOf (s : State) (h : Hart) : List Hart :=
  (s.copiesOf h).map s.getHart ++ (s.parked.map Prod.snd).filter fun p => p.sameLaunch h

/-- The phase of a barrier inverts at a member: its arrival is taken, and its event flag is set (R228). -/
def Hart.flip (h : Hart) : Hart := { h with phase := !h.phase, arrived := false, event := true }

/-- The phase of the barrier of a cohort completes once every live member has arrived (R225, R228). -/
def State.cohortPhase (s : State) (h : Hart) : State :=
  let l := s.liveCopiesOf h
  if h.mode = .cohort ∧ ¬ l.isEmpty ∧ l.all Hart.arrived then s.mapCopiesOf h Hart.flip else s

/-! ### Events of a package -/

/-- The Registrars of a package are due a dispatch slot (R219), and its pre-empted tasks may resume (R226). -/
def State.pokePackage (s : State) (p : Nat) : State :=
  (List.range s.dieCount).foldl (fun s d => (s.pushOnce (dieEvent .dispatchSlot (4 * p + d) 0)).pokeResume (4 * p + d)) s

/-- The harts that start together with one: every member of its cohort, the three of a pipeline copy, or itself (R109,
R216). -/
def State.startSet (s : State) (g : Nat) : List Nat :=
  let h := s.getHart g
  match h.mode with
  | .plain => [g]
  | .pipeline => ((List.range 4).map (4 * coreKey g + ·)).filter fun j => (s.getHart j).task.rank = h.task.rank && (s.getHart j).sameLaunch h
  | .cohort => s.known.filter fun j => (s.getHart j).sameLaunch h

/-- The reserved clusters a copy waits for (R92). -/
def State.awaits (s : State) (g : Nat) : Nat := (((s.form (formKey g)).awaiting.find? fun r => r.1 = g).map Prod.snd).getD 0

/-- Whether a copy that is starting lacks nothing: its lease holds its minimum and its tile pass is answered (R92, R215). -/
def State.canBegin (s : State) (g : Nat) : Bool :=
  let h := s.getHart g
  h.run == .starting && s.awaits h.owner == 0 && (!h.mat.asked || h.mat.reply.isSome)

/-- A hart issues its first instruction next: its tiles are attached, or MGRANT stays 0 where their pass was refused (R215). -/
def Hart.begin (h : Hart) : Hart :=
  let ok := h.mat.asked && h.mat.reply == some true
  { h with
    run := .running
    mat := { h.mat with tiles := if ok then h.mat.taken else 0, pass := ok, taken := 0, asked := false, reply := none } }

/-- The copies that start with a hart begin, if none of them lacks anything (R92, R216). -/
def State.tryStart (s : State) (g : Nat) : State :=
  let l := s.startSet g
  if l.all s.canBegin then l.foldl (fun t j => t.setHart j (t.getHart j).begin) s else s

/-! ### Clusters -/

/-- The harts of a form, in (core, hart) order. -/
def formHarts (fk : Nat) : List Nat := (List.range 16).map fun j => fk / 192 * 3072 + fk % 192 * 16 + j

/-- The count a lease has or will have: its pending target, else what it holds, and what is set aside for it (R91). -/
def Lease.heading (l : Lease) : Nat := l.target.getD l.held + l.setAside

/-- Whether the Bursar may raise a holder (R91, R112, R345), which waits for `due` reserved clusters: it is below its preferred
count, not in pipeline mode, not about to shrink, its vector context not claimed. -/
def Hart.raisable (h : Hart) (due : Nat) : Bool :=
  h.run != .idle && h.mode != .pipeline && !h.vclaimed && decide (h.lease.heading + due < h.lease.prefc)
    && (match h.lease.target with
      | some t => decide (h.lease.held ≤ t)
      | none => true)

/-- The holder a free cluster goes to: the highest priority, then the lowest number (R91). -/
def State.nextHolder (s : State) (fk : Nat) : Option Nat :=
  (formHarts fk).foldl (fun best g =>
    if !(s.getHart g).raisable (s.awaits g) then best
    else
      match best with
      | none => some g
      | some b => if (s.getHart g).task.prio > (s.getHart b).task.prio then some g else best) none

/-- The lease of a hart gains a cluster as a pending target (R91, R93). -/
def Lease.raise (l : Lease) : Lease :=
  { l with target := some (l.target.getD l.held + 1), passes := l.passes + 1 }

/-- One free cluster offered to the next holder, its hall pass asked for (R91). -/
def State.offerOne (s : State) (fk : Nat) : State :=
  let f := s.form fk
  match s.nextHolder fk with
  | none => s
  | some g =>
    if f.clusters = 0 then s
    else
      let (t, ok) := s.askPass (dieKey g) { kind := .cluster, g := g, slot := 1, charge := clusterCharge }
      let t := t.setForm fk { f with clusters := f.clusters - 1 }
      let h := t.getHart g
      t.setHart g { h with lease := if ok then h.lease.raise else { h.lease with setAside := h.lease.setAside + 1 } }

/-- The free clusters of a form offered to its holders (R91). -/
def State.offer (s : State) (fk : Nat) : State := (List.range 16).foldl (fun t _ => t.offerOne fk) s

/-- A lease that no instruction has used yet with `n` more clusters (R91, R92). -/
def Lease.gain (l : Lease) (n : Nat) : Lease := { l with held := l.held + n, lanes := l.held + n, target := l.target.map (· + n) }

/-- A waiting copy receives clusters reserved for it, and starts once it lacks nothing (R92). -/
def State.handOver (s : State) (g n : Nat) : State :=
  let h := s.getHart g
  (s.setHart g { h with lease := h.lease.gain n }).tryStart g

/-- Reserved clusters given to the copies they were reserved for, and to no other holder; what a copy no longer waits for is free
(R92). -/
def State.giveReserved (s : State) (fk : Nat) : List (Nat × Nat) → State
  | [] => s
  | (g, n) :: t =>
    let k := min n (s.awaits g)
    let f := s.form fk
    let s := s.setForm fk { f with
      clusters := f.clusters + (n - k)
      awaiting := (f.awaiting.map fun r => if r.1 = g then (g, r.2 - k) else r).filter fun r => r.2 ≠ 0 }
    (if k = 0 then s else s.handOver g k).giveReserved fk t

/-- How many clusters some reservations name. -/
def reservedSum (r : List (Nat × Nat)) : Nat := r.foldl (fun n q => n + q.2) 0

/-- `n` clusters of a hart's form become free, those of `r` for the copies they are reserved for (R91, R92), with `p` hall passes
returned; a copy may start with them, or a task resume (R219, R226). -/
def State.freeClusters (s : State) (g n : Nat) (r : List (Nat × Nat)) (p : Nat) : State :=
  let fk := formKey g
  let s := s.giveReserved fk r
  let s := s.setForm fk { s.form fk with clusters := (s.form fk).clusters + (n - reservedSum r) }
  let s := if p = 0 then s else s.returnPass (dieKey g) (p * clusterCharge)
  (s.offer fk).pokePackage (pkgOf g)

/-- The lease of a hart is given up: its clusters, its reservations and its requests (R93, R94, R404). -/
def State.releaseLease (s : State) (g : Nat) : State :=
  let h := s.getHart g
  let l := h.lease
  let t := s.setHart g { h with lease := Lease.none }
  let t := t.withdraw (dieKey g) fun r => r.kind == .cluster && r.g == g
  let f := t.form (formKey g)
  let t := t.setForm (formKey g) { f with awaiting := f.awaiting.filter fun r => r.1 ≠ g }
  t.freeClusters g (max l.held l.lanes + l.setAside + (l.target.getD l.held - l.held)) (l.leaving ++ l.reserved) (l.passes + l.leavingPasses)

/-! ### Accumulator tiles (R169 to R171) -/

/-- Charge of a tile hall pass, in mW (R403). -/
def tileCharge : Nat := 4700

/-- The oldest request of a form takes tiles, if its minimum is free, and its hall pass is asked for (R169, R170). -/
def State.serveTiles (s : State) (fk : Nat) : State :=
  let f := s.form fk
  match f.tileWait with
  | [] => s
  | (g, mn, mx) :: rest =>
    if f.tiles < mn then s
    else
      let k := min f.tiles mx
      let t := s.setForm fk { f with tiles := f.tiles - k, tileWait := rest }
      let (t, ok) := t.askPass (dieKey g) { kind := .tile, g := g, slot := 0, charge := tileCharge }
      let h := t.getHart g
      t.setHart g { h with mat := { h.mat with taken := k, reply := if ok then some true else none } }

/-- A form's record asked to serve its oldest tile request: a TILE_GRANT event, if a request waits (R170). -/
def State.pokeTiles (s : State) (fk : Nat) : State :=
  if (s.form fk).tileWait.isEmpty then s
  else s.pushOnce { kind := .tileGrant, arg := { EvArg.none with pkg := fk / 192, die := fk / 48 % 4, idx := fk % 48 } }

/-- `n` tiles of a form become free, or a request has left the queue: the head request is served (R170), and a copy may start
(R215). -/
def State.freeTiles (s : State) (fk n : Nat) : State :=
  let s := (s.setForm fk { s.form fk with tiles := (s.form fk).tiles + n }).pokeTiles fk
  if n = 0 then s else s.pokePackage (fk / 192)

/-- A hart's tiles and their hall pass are given up (R171). -/
def State.releaseTiles (s : State) (g : Nat) : State :=
  let h := s.getHart g
  let t := s.setHart g { h with mat := { h.mat with tiles := 0, pass := false, acc := [], accPois := [] } }
  let t := if h.mat.pass then t.returnPass (dieKey g) tileCharge else t
  t.freeTiles (formKey g) h.mat.tiles

/-- A request among the waiting ones, behind those of its priority (R170). -/
def insertWait (prio : Nat → Nat) (r : Nat × Nat × Nat) : List (Nat × Nat × Nat) → List (Nat × Nat × Nat)
  | [] => [r]
  | q :: t => if prio r.1 > prio q.1 then r :: q :: t else q :: insertWait prio r t

/-- The request of a MATT (R169, R170). -/
def State.askTiles (s : State) (mn mx : Nat) : State :=
  let fk := formKey s.cur
  let f := s.form fk
  let w := insertWait (fun g => (s.getHart g).task.prio) (s.cur, mn, mx) f.tileWait
  let t := State.setForm { s with hart := { s.hart with mat := { s.hart.mat with asked := true } } } fk { f with tileWait := w }
  match w with
  | (g, _, _) :: _ => if g = s.cur then t.serveTiles fk else t
  | [] => t

/-! ### Stream slots (R261 to R263, R270) -/

/-- A slot of a hart (R261). -/
def Hart.slot (h : Hart) (j : Nat) : Slot := h.slots[j % 8]'(Nat.mod_lt _ (by decide))

/-- The hart with a slot replaced. -/
def Hart.setSlot (h : Hart) (j : Nat) (sl : Slot) : Hart := { h with slots := h.slots.set (j % 8) sl (Nat.mod_lt _ (by decide)) }

/-- A slot of a hart replaced. -/
def State.setSlot (s : State) (g j : Nat) (sl : Slot) : State := s.setHart g ((s.getHart g).setSlot j sl)

/-- Charge of a stream's hall pass, in mW (R403). -/
def streamCharge : Nat := 300

/-- The hall pass of a slot comes back, or its request is withdrawn (R270, R404). -/
def State.dropPass (s : State) (g j : Nat) (sl : Slot) : State :=
  if sl.pass then s.returnPass (dieKey g) streamCharge
  else if sl.asked then s.withdraw (dieKey g) fun r => r.kind == .stream && r.g == g && r.slot == j
  else s

/-- The slot stands IDLE (R263, R278). -/
def State.clearSlot (s : State) (g j : Nat) : State :=
  (s.dropPass g j ((s.getHart g).slot j)).setSlot g j Slot.idle

end Sys2Proof.Machine
end

