-- ==== Sys2Proof/Machine/Flags.lean ====
section
/-! DEFINITION. Number formats, rounding and every flag computation (R42 to R64): values are exact dyadic numbers,
an operation is formed exactly and rounded once where its rule says. -/

namespace Sys2Proof.Machine

/-! ### Formats -/

/-- A floating-point format (R44): exponent and fraction bits, bias, and whether it has no infinity (E4M3, R45). -/
structure Fmt where
  ebits : Nat
  fbits : Nat
  bias : Nat
  finiteOnly : Bool
  deriving DecidableEq, Repr

/-- The format of a floating type code 0 to 5 (R31, R44). -/
def Fmt.ofCode (n : Nat) : Fmt :=
  match n with
  | 0 => { ebits := 4, fbits := 3, bias := 7, finiteOnly := true }
  | 1 => { ebits := 5, fbits := 2, bias := 15, finiteOnly := false }
  | 2 => { ebits := 5, fbits := 10, bias := 15, finiteOnly := false }
  | 3 => { ebits := 8, fbits := 7, bias := 127, finiteOnly := false }
  | 4 => { ebits := 8, fbits := 23, bias := 127, finiteOnly := false }
  | _ => { ebits := 11, fbits := 52, bias := 1023, finiteOnly := false }

/-- FP32. -/
def fp32 : Fmt := Fmt.ofCode 4

/-- FP64. -/
def fp64 : Fmt := Fmt.ofCode 5

/-- The width in bits. -/
def Fmt.width (f : Fmt) : Nat := 1 + f.ebits + f.fbits

/-- The width in bits of a floating type code (R31). -/
def fpWidth (code : Nat) : Nat := (Fmt.ofCode code).width

/-- The width in bits of an integer type code: 8, 16, 32, 64 (R31). -/
def intWidth (code : Nat) : Nat := 8 * 2 ^ (code / 2 % 4)

/-- Whether an integer type code is signed (R31). -/
def intSigned (code : Nat) : Bool := code % 2 = 0

/-- What a bit pattern stands for: a NaN, an infinity, or the exact number (−1)^neg · m · 2^e (R44, R45). -/
inductive FVal where
  | nan (signalling : Bool)
  | inf (neg : Bool)
  | fin (neg : Bool) (m : Nat) (e : Int)
  deriving DecidableEq, Repr

/-- The sign bit of a pattern. -/
def Fmt.sign (f : Fmt) (v : Nat) : Bool := bitsOf v (f.ebits + f.fbits) 1 = 1

/-- The pattern below the sign bit. -/
def Fmt.mag (f : Fmt) (v : Nat) : Nat := low (f.ebits + f.fbits) v

/-- A pattern with a sign. -/
def Fmt.withSign (f : Fmt) (neg : Bool) (mag : Nat) : Nat := (if neg then 2 ^ (f.ebits + f.fbits) else 0) + mag

/-- The value of a pattern (R44, R45). -/
def Fmt.value (f : Fmt) (v : Nat) : FVal :=
  let e := bitsOf v f.fbits f.ebits
  let m := low f.fbits v
  let neg := f.sign v
  if f.finiteOnly ∧ e = 2 ^ f.ebits - 1 ∧ m = 2 ^ f.fbits - 1 then .nan false
  else if ¬ f.finiteOnly ∧ e = 2 ^ f.ebits - 1 then
    (if m = 0 then .inf neg else .nan (m < 2 ^ (f.fbits - 1)))
  else if e = 0 then .fin neg m (1 - (f.bias : Int) - f.fbits)
  else .fin neg (2 ^ f.fbits + m) ((e : Int) - f.bias - f.fbits)

/-- The canonical NaN (R46). -/
def Fmt.nan (f : Fmt) : Nat :=
  if f.finiteOnly then 2 ^ (f.ebits + f.fbits) - 1
  else (2 ^ f.ebits - 1) * 2 ^ f.fbits + 2 ^ (f.fbits - 1)

/-- The magnitude of infinity, in a format that has one (R44). -/
def Fmt.infMag (f : Fmt) : Nat := (2 ^ f.ebits - 1) * 2 ^ f.fbits

/-- The magnitude of the largest finite value (R44). -/
def Fmt.maxMag (f : Fmt) : Nat :=
  if f.finiteOnly then 2 ^ (f.ebits + f.fbits) - 2 else f.infMag - 1

/-- Whether a value is a NaN. -/
def FVal.isNan : FVal → Bool
  | .nan _ => true
  | _ => false

/-- Whether a value is a signalling NaN. -/
def FVal.isSnan : FVal → Bool
  | .nan b => b
  | _ => false

/-- The sign of a value that is no NaN. -/
def FVal.neg : FVal → Bool
  | .nan _ => false
  | .inf b => b
  | .fin b _ _ => b

/-- The value with its sign inverted; a NaN stays. -/
def FVal.negate : FVal → FVal
  | .nan b => .nan b
  | .inf b => .inf (!b)
  | .fin b m e => .fin (!b) m e

/-! ### Flags -/

/-- The flags of a result, {NV, DZ, OF, UF, NX} (R58). -/
abbrev FFlags := BitVec 5

/-- Invalid operation. -/
def fNV : FFlags := 16

/-- Division by zero. -/
def fDZ : FFlags := 8

/-- Overflow. -/
def fOF : FFlags := 4

/-- Underflow. -/
def fUF : FFlags := 2

/-- Inexact. -/
def fNX : FFlags := 1

/-- A flag when a condition holds. -/
def flagIf (b : Bool) (f : FFlags) : FFlags := if b then f else 0

/-- A result's bits and the flags it raises. -/
structure FRes where
  bits : Nat
  flags : FFlags
  deriving DecidableEq, Repr

/-! ### Rounding -/

/-- Whether rounding moves the truncated magnitude `n` away from zero (R48): `r` of `2 ^ k` is cut off, and more below
it when `sticky`. -/
def roundsUp (rm : Rm) (neg : Bool) (n r k : Nat) (sticky : Bool) : Bool :=
  match rm with
  | .rne => (2 * r > 2 ^ k) || (2 * r = 2 ^ k && (sticky || n % 2 = 1))
  | .rtz => false
  | .rdn => neg && (r ≠ 0 || sticky)
  | .rup => !neg && (r ≠ 0 || sticky)

/-- The magnitude m · 2^e (and a little more when `sticky`) in units of 2^q, rounded (R48), and whether it changed. -/
def roundAt (rm : Rm) (neg : Bool) (m : Nat) (e q : Int) (sticky : Bool) : Nat × Bool :=
  if q ≤ e then (m * 2 ^ (e - q).toNat, sticky)
  else
    let k := (q - e).toNat
    let n := m / 2 ^ k
    let r := m % 2 ^ k
    (if roundsUp rm neg n r k sticky then n + 1 else n, r ≠ 0 || sticky)

/-- The outcome of an overflow (R50, R53): whether IEEE 754 gives infinity in the mode. -/
def overflowToInf (rm : Rm) (neg : Bool) : Bool :=
  match rm with
  | .rne => true
  | .rtz => false
  | .rdn => neg
  | .rup => !neg

/-- The pattern delivered on overflow (R50, R53). -/
def overflowBits (f : Fmt) (rm : Rm) (sat neg : Bool) : Nat :=
  if sat || !overflowToInf rm neg then f.withSign neg f.maxMag
  else if f.finiteOnly then f.nan
  else f.withSign neg f.infMag

/-- Rounds the nonzero magnitude m · 2^e (a little more when `sticky`) into a format (R48, R50, R53). -/
def roundMag (f : Fmt) (rm : Rm) (sat neg : Bool) (m : Nat) (e : Int) (sticky : Bool) : FRes :=
  let q0 : Int := 1 - (f.bias : Int) - f.fbits
  let qu : Int := e + Nat.log2 m - f.fbits
  let q := if qu < q0 then q0 else qu
  let (n, nx) := roundAt rm neg m e q sticky
  let mag := (q - q0).toNat * 2 ^ f.fbits + n
  if mag > f.maxMag then { bits := overflowBits f rm sat neg, flags := fOF ||| fNX }
  else
    let nu := (roundAt rm neg m e qu sticky).1
    let tiny : Bool := decide (qu < q0) && !(decide (qu = q0 - 1) && decide (nu = 2 ^ (f.fbits + 1)))
    { bits := f.withSign neg mag, flags := flagIf nx fNX ||| flagIf (tiny && nx) fUF }

/-- Rounds a value once into a format (R50 to R53, R56). -/
def roundVal (f : Fmt) (rm : Rm) (sat : Bool) (v : FVal) : FRes :=
  match v with
  | .nan b => { bits := f.nan, flags := flagIf b fNV }
  | .inf neg =>
    if sat then { bits := f.withSign neg f.maxMag, flags := fNX }
    else if f.finiteOnly then { bits := f.nan, flags := fNV }
    else { bits := f.withSign neg f.infMag, flags := 0 }
  | .fin neg m e => if m = 0 then { bits := f.withSign neg 0, flags := 0 } else roundMag f rm sat neg m e false

/-! ### Exact products and sums -/

/-- The exact product of two values; 0 × ∞ is an invalid operation (R51, R56). -/
def mulVal (a b : FVal) : FVal :=
  match a, b with
  | .nan p, .nan q => .nan (p || q)
  | .nan p, _ => .nan p
  | _, .nan q => .nan q
  | .inf p, .inf q => .inf (p != q)
  | .inf p, .fin q m _ => if m = 0 then .nan true else .inf (p != q)
  | .fin p m _, .inf q => if m = 0 then .nan true else .inf (p != q)
  | .fin p m e, .fin q n k => .fin (p != q) (m * n) (e + k)

/-- The least exponent of the terms of a sum, or the start value. -/
def minExp : List FVal → Int → Int
  | [], k => k
  | .fin _ _ e :: t, k => minExp t (if e < k then e else k)
  | _ :: t, k => minExp t k

/-- The sum of the finite terms in units of 2^k. -/
def sumAt (k : Int) : List FVal → Int
  | [] => 0
  | .fin neg m e :: t =>
    (if neg then -((m * 2 ^ (e - k).toNat : Nat) : Int) else ((m * 2 ^ (e - k).toNat : Nat) : Int)) + sumAt k t
  | _ :: t => sumAt k t

/-- Whether every term is a zero of the given sign. -/
def allZeros (neg : Bool) (t : List FVal) : Bool :=
  t.all fun v => match v with
    | .fin b m _ => decide (m = 0) && (b == neg)
    | _ => false

/-- The exact sum of terms (R51, R63): NaNs and infinities first, then the exact finite sum with its zero's sign. -/
def sumVal (rm : Rm) (t : List FVal) : FVal :=
  if t.any FVal.isNan then .nan (t.any FVal.isSnan)
  else
    let pos := t.any fun v => v == .inf false
    let neg := t.any fun v => v == .inf true
    if pos && neg then .nan true
    else if pos then .inf false
    else if neg then .inf true
    else
      let k := minExp t 0
      let z := sumAt k t
      if z = 0 then .fin (allZeros true t && !t.isEmpty || (rm == .rdn && !allZeros false t)) 0 0
      else .fin (decide (z < 0)) z.natAbs k

/-- a + b rounded once (R50, R51). -/
def addF (f : Fmt) (rm : Rm) (a b : Nat) : FRes := roundVal f rm false (sumVal rm [f.value a, f.value b])

/-- a − b rounded once. -/
def subF (f : Fmt) (rm : Rm) (a b : Nat) : FRes := roundVal f rm false (sumVal rm [f.value a, (f.value b).negate])

/-- a × b rounded once. -/
def mulF (f : Fmt) (rm : Rm) (a b : Nat) : FRes := roundVal f rm false (mulVal (f.value a) (f.value b))

/-- a × b + d, exact then once (R63). -/
def fmaF (f : Fmt) (rm : Rm) (a b d : Nat) : FRes :=
  roundVal f rm false (sumVal rm [mulVal (f.value a) (f.value b), f.value d])

/-- d − a × b, exact then once (R63, R75). -/
def fnmaF (f : Fmt) (rm : Rm) (a b d : Nat) : FRes :=
  roundVal f rm false (sumVal rm [(mulVal (f.value a) (f.value b)).negate, f.value d])

/-- The NaN outcome of an operation (R56). -/
def nanRes (f : Fmt) (sig : Bool) : FRes := { bits := f.nan, flags := flagIf sig fNV }

/-- a ÷ b rounded once (R56, R75). -/
def divF (f : Fmt) (rm : Rm) (a b : Nat) : FRes :=
  match f.value a, f.value b with
  | .nan p, .nan q => nanRes f (p || q)
  | .nan p, _ => nanRes f p
  | _, .nan q => nanRes f q
  | .inf _, .inf _ => nanRes f true
  | .inf p, .fin q _ _ => { bits := f.withSign (p != q) f.infMag, flags := 0 }
  | .fin p _ _, .inf q => { bits := f.withSign (p != q) 0, flags := 0 }
  | .fin p m e, .fin q n k =>
    if n = 0 then
      (if m = 0 then nanRes f true else { bits := f.withSign (p != q) f.infMag, flags := fDZ })
    else if m = 0 then { bits := f.withSign (p != q) 0, flags := 0 }
    else
      let j := f.fbits + 4 + Nat.log2 n
      let num := m * 2 ^ j
      roundMag f rm false (p != q) (num / n) (e - k - (j : Int)) (num % n ≠ 0)

/-- The bits of an integer square root below 2^b, from the top (the largest r with r² ≤ n). -/
def isqrtFrom (n : Nat) : Nat → Nat → Nat
  | 0, r => r
  | b + 1, r => isqrtFrom n b (if (r + 2 ^ b) * (r + 2 ^ b) ≤ n then r + 2 ^ b else r)

/-- The integer square root. -/
def isqrt (n : Nat) : Nat := isqrtFrom n (Nat.log2 n / 2 + 1) 0

/-- √a rounded once (R75). -/
def sqrtF (f : Fmt) (rm : Rm) (a : Nat) : FRes :=
  match f.value a with
  | .nan p => nanRes f p
  | .inf neg => if neg then nanRes f true else { bits := f.infMag, flags := 0 }
  | .fin neg m e =>
    if m = 0 then { bits := f.withSign neg 0, flags := 0 }
    else if neg then nanRes f true
    else
      let j0 := 2 * (f.fbits + 4)
      let j := if (e - j0) % 2 = 0 then j0 else j0 + 1
      let n := m * 2 ^ j
      let r := isqrt n
      roundMag f rm false false r ((e - (j : Int)) / 2) (r * r ≠ n)

/-- 1 ÷ √a rounded once (R128). -/
def rsqrtF (f : Fmt) (rm : Rm) (a : Nat) : FRes :=
  match f.value a with
  | .nan p => nanRes f p
  | .inf neg => if neg then nanRes f true else { bits := 0, flags := 0 }
  | .fin neg m e =>
    if m = 0 then { bits := f.withSign neg f.infMag, flags := fDZ }
    else if neg then nanRes f true
    else
      let j0 := Nat.log2 m + 2 * (f.fbits + 4)
      let j := if (e + j0) % 2 = 0 then j0 else j0 + 1
      let n := 2 ^ j
      let r := isqrt (n / m)
      roundMag f rm false false r (-((e + (j : Int)) / 2)) (r * r * m ≠ n)

/-! ### Order, selection, classes -/

/-- A key that orders the patterns of a format that are no NaN, −0 below +0 (R56, R146). -/
def Fmt.key (f : Fmt) (v : Nat) : Int := if f.sign v then -(f.mag v : Int) - 1 else f.mag v

/-- A key that orders values, the two zeros equal (R56). -/
def Fmt.cmpKey (f : Fmt) (v : Nat) : Int := if f.sign v then -(f.mag v : Int) else f.mag v

/-- Minimum or maximum by R56. -/
def minmaxF (f : Fmt) (max : Bool) (a b : Nat) : FRes :=
  let va := f.value a
  let vb := f.value b
  let fl := flagIf (va.isSnan || vb.isSnan) fNV
  if va.isNan && vb.isNan then { bits := f.nan, flags := fl }
  else if va.isNan then { bits := low f.width b, flags := fl }
  else if vb.isNan then { bits := low f.width a, flags := fl }
  else
    let aFirst := if max then decide (f.key a ≥ f.key b) else decide (f.key a ≤ f.key b)
    { bits := low f.width (if aFirst then a else b), flags := fl }

/-- A comparison and its flags (R56): equality is quiet, the ordered ones raise NV on any NaN. -/
inductive Cmp where
  | eq
  | lt
  | le
  deriving DecidableEq, Repr

/-- The truth of a comparison (R56). -/
def cmpF (f : Fmt) (c : Cmp) (a b : Nat) : Bool × FFlags :=
  let va := f.value a
  let vb := f.value b
  if va.isNan || vb.isNan then
    (false, flagIf (match c with
      | .eq => va.isSnan || vb.isSnan
      | _ => true) fNV)
  else
    (match c with
      | .eq => decide (f.cmpKey a = f.cmpKey b)
      | .lt => decide (f.cmpKey a < f.cmpKey b)
      | .le => decide (f.cmpKey a ≤ f.cmpKey b), 0)

/-- The class mask of R77. -/
def classF (f : Fmt) (a : Nat) : Nat :=
  match f.value a with
  | .nan b => if b then 256 else 512
  | .inf neg => if neg then 1 else 128
  | .fin neg m e =>
    if m = 0 then (if neg then 8 else 16)
    else if m < 2 ^ f.fbits ∧ e = 1 - (f.bias : Int) - f.fbits then (if neg then 4 else 32)
    else (if neg then 2 else 64)

/-- The order of selection and sorting (R146): every NaN above everything, NaNs equal. -/
def orderKeyF (f : Fmt) (a : Nat) : Int := if (f.value a).isNan then 2 ^ f.width else f.key a

/-! ### Conversions -/

/-- Between floating formats, rounded once (R52, R53); a conversion to its own format returns the operand but for a NaN (R32,
R52), so that SAT does nothing there. -/
def cvtF (dst src : Fmt) (rm : Rm) (sat : Bool) (a : Nat) : FRes :=
  roundVal dst rm (sat && dst != src) (src.value a)

/-- The least value of an integer type (R42). -/
def intMin (w : Nat) (signed : Bool) : Int := if signed then -(2 ^ (w - 1) : Nat) else 0

/-- The greatest value of an integer type (R42). -/
def intMax (w : Nat) (signed : Bool) : Int := if signed then (2 ^ (w - 1) : Nat) - 1 else (2 ^ w : Nat) - 1

/-- An integer clamped to a type's range, and whether it was. -/
def clampInt (w : Nat) (signed : Bool) (z : Int) : Int × Bool :=
  if z < intMin w signed then (intMin w signed, true)
  else if z > intMax w signed then (intMax w signed, true)
  else (z, false)

/-- The low `w` bits of a pattern read as an integer of a type (R42). -/
def intOf (w : Nat) (signed : Bool) (v : Nat) : Int := if signed then toSigned w v else (low w v : Int)

/-- To an integer type (R54): the integer and its flags. -/
def f2i (src : Fmt) (rm : Rm) (w : Nat) (signed : Bool) (a : Nat) : Int × FFlags :=
  match src.value a with
  | .nan _ => (0, fNV)
  | .inf neg => (if neg then intMin w signed else intMax w signed, fNV)
  | .fin neg m e =>
    let (n, nx) := roundAt rm neg m e 0 false
    let z : Int := if neg then -(n : Int) else n
    let (c, out) := clampInt w signed z
    (c, if out then fNV else flagIf nx fNX)

/-- From an integer (R55). -/
def i2f (dst : Fmt) (rm : Rm) (sat : Bool) (z : Int) : FRes :=
  roundVal dst rm sat (.fin (decide (z < 0)) z.natAbs 0)

/-! ### Sums of many terms -/

/-- The accumulation format of a reduction (R60). -/
def accFmt (code : Nat) : Fmt := if code = 5 then fp64 else fp32

/-- The pattern widened exactly into the accumulation format, and NV for a signalling NaN (R52, R60). -/
def widenAcc (code v : Nat) : FRes :=
  if code ≥ 4 then { bits := v, flags := 0 } else roundVal (accFmt code) .rne false ((Fmt.ofCode code).value v)

/-- One level of the tree: neighbours combined, an absent partner passed through (R61). -/
def treeLevel (op : Nat → Nat → FRes) : List Nat → List Nat × FFlags
  | a :: b :: t =>
    let r := op a b
    let (rest, fl) := treeLevel op t
    (r.bits :: rest, r.flags ||| fl)
  | t => (t, 0)

/-- The tree over a list of leaves, `fuel` levels at most (R61). -/
def treeFold (op : Nat → Nat → FRes) : Nat → List Nat → Option Nat × FFlags
  | _, [] => (none, 0)
  | 0, a :: _ => (some a, 0)
  | fuel + 1, l =>
    match l with
    | [a] => (some a, 0)
    | _ =>
      let (l', fl) := treeLevel op l
      let (r, fl') := treeFold op fuel l'
      (r, fl ||| fl')

/-- The ordered sum of R62 from a start value, with every intermediate sum. -/
def orderedFrom (op : Nat → Nat → FRes) (s : Nat) : List Nat → Nat × FFlags
  | [] => (s, 0)
  | e :: t =>
    let r := op s e
    let (v, fl) := orderedFrom op r.bits t
    (v, r.flags ||| fl)

end Sys2Proof.Machine
end

