-- ==== Sys2Proof/Machine/Merge.lean ====
section
/-! DEFINITION. The pure part of the exchange: records and round records (R283, R285), key ranges (R287), merge points and
paths (R288, R393), combiners and their fold (R290 to R292), the limits of a batch (R293), the Vane's proposal (R295,
R296). -/

namespace Sys2Proof.Machine

/-! ### Records (R283) -/

/-- A payload's length in transport: padded to a multiple of 8 (R283). -/
def padded (len : Nat) : Nat := (len + 7) / 8 * 8

/-- The header of a record (R283). -/
def Rec.header (r : Rec) : Nat :=
  r.key + r.len * 2 ^ 32 + bit r.ovf * 2 ^ 42 + bit r.badord * 2 ^ 43 + bit r.late * 2 ^ 44 + bit r.cont * 2 ^ 45
    + r.rank % 65536 * 2 ^ 48

/-- The comparator of every merge point: (KEY, RANK, sequence) (R289). -/
def Rec.before (a b : Rec) : Bool :=
  decide (a.key < b.key) ||
    (a.key == b.key && (decide (a.rank < b.rank) || (a.rank == b.rank && decide (a.seq ≤ b.seq))))

/-- A record among sorted ones. -/
def insertRec (r : Rec) : List Rec → List Rec
  | [] => [r]
  | q :: t => if r.before q then r :: q :: t else q :: insertRec r t

/-- Records in comparator order (R289). -/
def sortRecs (l : List Rec) : List Rec := l.foldr insertRec []

/-! ### The round record (R285) -/

/-- XID. -/
def hdrXid (h : Nat) : Nat := bitsOf h 0 16
/-- K − 1. -/
def hdrKm1 (h : Nat) : Nat := bitsOf h 16 16
/-- NS. -/
def hdrNs (h : Nat) : Nat := bitsOf h 32 16
/-- COMB. -/
def hdrComb (h : Nat) : Nat := bitsOf h 48 8
/-- CTYPE. -/
def hdrCtype (h : Nat) : Nat := bitsOf h 56 8
/-- SRATE. -/
def hdrSrate (h : Nat) : Nat := bitsOf h 64 8
/-- MODE. -/
def hdrMode (h : Nat) : Nat := bitsOf h 72 8

/-- Whether the role word has SEND (R299). -/
def roleSend (w : Word) : Bool := w.getLsbD 28
/-- Whether the role word has RECV (R299). -/
def roleRecv (w : Word) : Bool := w.getLsbD 29
/-- RANK of a role word. -/
def roleRank (w : Word) : Nat := field w 0 16
/-- RIDX of a role word. -/
def roleRidx (w : Word) : Nat := field w 16 12

/-- Whether the round record `v` (64 bytes) and a role word keep the limits of R285 and R299. -/
def roundRecordOk (v : Nat) (role : Word) : Bool :=
  let comb := hdrComb v
  decide (hdrXid v ≤ 4095) && decide (hdrKm1 v ≤ 4095) && decide (1 ≤ hdrNs v) && decide (comb ≤ 5)
    && (if comb = 1 ∨ comb = 2 ∨ comb = 3 then decide (hdrCtype v ≤ 4) else hdrCtype v == 0)
    && decide (hdrSrate v ≤ 31) && decide (hdrMode v ≤ 1) && bitsOf v 80 48 == 0
    && (!roleRecv role || (bitsOf v 128 64 % 8 == 0 && decide (8 ≤ bitsOf v 128 64)))
    && (!roleSend role || bitsOf v 192 64 % 8 == 0) && bitsOf v 256 64 % 8 == 0 && bitsOf v 320 192 == 0
    && field role 30 34 == 0 && (roleSend role || roleRecv role)

/-! ### Key ranges (R287, R297) -/

/-- The running maximum of a table's keys (R287). -/
def clampTable : Nat → List Nat → List Nat
  | _, [] => []
  | m, k :: t => max m k :: clampTable (max m k) t

/-- The even table for K receivers (R297). -/
def evenTable (k : Nat) : List Nat := (List.range (k - 1)).map fun j => (j + 1) * 2 ^ 32 / k

/-- The receiver of a key: the number of split keys at or below it (R287). -/
def receiverOf (table : List Nat) (key : Nat) : Nat := table.countP (· ≤ key)

/-! ### Merge points and paths (R288, R393) -/

/-- A merge point: the kind of switch (0 form port, 1 to 3 levels, 4 package stage, 5 dimension stage, 6 receiver port),
its number, and its output. -/
structure MergePoint where
  kind : Nat
  unit : Nat
  out : Nat
  deriving DecidableEq, Repr

/-- Down from a die's level 3 to a form's port and a receiver. -/
def descend (dk f ridx : Nat) : List MergePoint :=
  [⟨3, dk, 1 + f / 16⟩, ⟨2, 3 * dk + f / 16, 1 + f / 4 % 4⟩, ⟨1, 12 * dk + f / 4, 1 + f % 4⟩, ⟨6, 48 * dk + f, ridx⟩]

/-- Up from a form's port to the hub. -/
def ascend (dk f : Nat) : List MergePoint := [⟨0, 48 * dk + f, 0⟩, ⟨1, 12 * dk + f / 4, 0⟩, ⟨2, 3 * dk + f / 16, 0⟩, ⟨3, dk, 0⟩]

/-- The dimension in which two packages differ. -/
def dimOf (p q : Nat) : Nat := if coord p 0 ≠ coord q 0 then 0 else if coord p 1 ≠ coord q 1 then 1 else 2

/-- The dimension stages along the packages a route visits (R393). -/
def dimStages : Nat → List Nat → List MergePoint
  | _, [] => []
  | p, n :: t => ⟨5, 3 * p + dimOf p n, n⟩ :: dimStages n t

/-- The merge points a record passes from the hart `a` to receiver `ridx` on the hart `b`; nothing where the hub has no
route (R288, R381, R393). -/
def State.mergePath (s : State) (a b ridx : Nat) : Option (List MergePoint) :=
  let da := dieKey a
  let db := dieKey b
  let fa := formOf a
  let fb := formOf b
  if da = db then
    if fa = fb then some [⟨0, 48 * da + fa, 1⟩, ⟨6, 48 * da + fb, ridx⟩]
    else if fa / 4 = fb / 4 then some (⟨0, 48 * da + fa, 0⟩ :: (descend db fb ridx).drop 2)
    else if fa / 16 = fb / 16 then some ((ascend da fa).take 2 ++ (descend db fb ridx).drop 1)
    else some ((ascend da fa).take 3 ++ descend db fb ridx)
  else if !s.dieLinkUp (da / 4) (da % 4) 4 || !s.dieLinkUp (db / 4) 4 (db % 4) then none
  else if da / 4 = db / 4 then some (ascend da fa ++ [⟨4, da / 4, db % 4⟩] ++ descend db fb ridx)
  else
    match s.route (da / 4) (db / 4) with
    | none => none
    | some l =>
      some (ascend da fa ++ [⟨4, da / 4, 4 + l.head?.getD 0⟩] ++ dimStages (da / 4) l ++ [⟨4, db / 4, db % 4⟩]
        ++ descend db fb ridx)

/-! ### Combiners (R290) -/

/-- Bytes of an element of CTYPE (R285). -/
def ctypeBytes (c : Nat) : Nat :=
  match c with
  | 0 => 4
  | 1 => 2
  | 2 => 8
  | 3 => 4
  | _ => 8

/-- Two elements combined (R290): COMB 1 ADD, 2 MAX, 3 MIN. -/
def combineElem (comb c a b : Nat) : Nat :=
  let w := 8 * ctypeBytes c
  if c ≥ 3 then
    (if comb = 1 then low w (a + b)
     else if comb = 2 then (if toSigned w a < toSigned w b then b else a)
     else if toSigned w b < toSigned w a then b else a)
  else
    let f := if c = 0 then fp32 else if c = 1 then Fmt.ofCode 3 else fp64
    if comb = 1 then (addF f .rne a b).bits else (minmaxF f (comb == 2) a b).bits

/-- The payload of two combined records: elements where both have one, then the bytes of A, then those of B alone (R290). -/
def combineData (comb c : Nat) (a b : Rec) : Nat :=
  let e := 8 * ctypeBytes c
  let n := min (8 * a.len / e) (8 * b.len / e)
  let head := (List.range n).foldr (fun i acc => combineElem comb c (bitsOf a.data (e * i) e) (bitsOf b.data (e * i) e) + 2 ^ e * acc) 0
  let mid := bitsOf a.data (e * n) (8 * a.len - e * n)
  let tail := bitsOf b.data (8 * a.len) (8 * b.len - 8 * a.len)
  head + mid * 2 ^ (e * n) + tail * 2 ^ (8 * a.len)

/-- The earlier of two times. -/
def earlier (a b : Word) : Word := if a.toNat ≤ b.toNat then a else b

/-- Two equal-keyed records, A before B in comparator order, combined (R290). -/
def combineRecs (comb c : Nat) (a b : Rec) : Rec :=
  if comb = 4 then a
  else
    { a with
      len := max a.len b.len, data := combineData comb c a b
      late := a.late || b.late, badord := a.badord || b.badord, ovf := a.ovf || b.ovf, time := earlier a.time b.time }

/-- Records of one key combined left to right. -/
def combineAll (comb c : Nat) : List Rec → List Rec
  | [] => []
  | r :: t => [t.foldl (combineRecs comb c) r]

/-- The fold of R291 at a merge point: each record with the points behind it, nearest first.  The records of each input
become one, and the inputs are combined in ascending (RANK, sequence). -/
def foldAt (comb c : Nat) : Nat → List (List MergePoint × Rec) → List Rec
  | 0, l => combineAll comb c (sortRecs (l.map Prod.snd))
  | n + 1, l =>
    let heads := (l.filterMap fun p => p.1.head?).eraseDups
    let subs := heads.flatMap fun m =>
      foldAt comb c n ((l.filter fun p => p.1.head? = some m).map fun p => (p.1.tail, p.2))
    combineAll comb c (sortRecs (subs ++ (l.filter fun p => p.1.isEmpty).map Prod.snd))

/-- Each hart's records of a key combined in sequence order, at its form's port (R291 step 1). -/
def foldHarts (comb c : Nat) (l : List Rec) : List Rec :=
  (l.map Rec.rank).eraseDups.flatMap fun r => combineAll comb c (sortRecs (l.filter fun q => q.rank = r))

/-- The pieces of a concatenation of `len` bytes: 512 bytes each, the last shorter (R292). -/
def pieces (r : Rec) : Nat → Nat → Nat → Bool → List Rec
  | 0, _, _, _ => []
  | n + 1, len, data, cont =>
    if len ≤ 512 then [{ r with len := len, data := data, cont := cont }]
    else { r with len := 512, data := low 4096 data, cont := cont } :: pieces r n (len - 512) (data / 2 ^ 4096) true

/-- The concatenation of records of one key in comparator order (R292). -/
def concatRecs : List Rec → List Rec
  | [] => []
  | r :: t =>
    let all := r :: t
    let len := all.foldl (fun n q => n + q.len) 0
    let data := all.foldr (fun q acc => low (8 * q.len) q.data + 2 ^ (8 * q.len) * acc) 0
    pieces { r with
      late := all.any Rec.late, badord := all.any Rec.badord, time := t.foldl (fun a q => earlier a q.time) r.time }
      (len / 512 + 1) len data false

/-- What a batch delivers of one key: `path` gives the merge points behind the receiver's port, nearest first (R289 to
R292). -/
def deliverKey (comb c : Nat) (path : Rec → List MergePoint) (l : List Rec) : List Rec :=
  if comb = 0 then sortRecs l
  else if comb = 5 then concatRecs (sortRecs l)
  else foldAt comb c 16 ((foldHarts comb c l).map fun r => (path r, r))

/-- The distinct keys of records, ascending. -/
def keysOf (l : List Rec) : List Nat := ((sortRecs l).map Rec.key).eraseDups

/-- A batch in delivery order (R289, R291, R292). -/
def deliver (comb c : Nat) (path : Rec → List MergePoint) (l : List Rec) : List Rec :=
  (keysOf l).flatMap fun k => deliverKey comb c path (l.filter fun r => r.key = k)

/-! ### Rounds with ORDER set (R284) -/

/-- The records in any order: a free choice (log 7). -/
def shuffle (free : Nat) : Nat → List Rec → List Rec
  | 0, l => l
  | n + 1, l =>
    let i := Config.freeChoice (free + n) l.length % l.length
    match l[i]? with
    | some r => r :: shuffle free n (l.eraseIdx i)
    | none => l

/-- Records of one key put into groups by a free choice, and each group made one in comparator order (R284, R290, R292). -/
def regroup (comb c free : Nat) (l : List Rec) : List Rec :=
  let label (r : Rec) : Nat := Config.freeChoice free (r.rank + 65536 * r.seq)
  ((sortRecs l).map fun r => (r.key, label r)).eraseDups.flatMap fun k =>
    let g := sortRecs (l.filter fun r => (r.key, label r) = k)
    if comb = 5 then concatRecs g else combineAll comb c g

/-- Groups of records combined again and again: what merge points may make of run pieces. -/
def regroups (comb c free : Nat) : Nat → List Rec → List Rec
  | 0, l => l
  | n + 1, l => regroups comb c (free + 1) n (regroup comb c free l)

/-- A batch of a round with ORDER set: any order, equal keys combined in any groups or not (R284, log 7). -/
def deliverAny (comb c free : Nat) (l : List Rec) : List Rec :=
  let g := if comb = 0 then l else if comb = 5 then regroup comb c free l else regroups comb c free l.length l
  shuffle (free + l.length) g.length g

/-! ### The limits of a batch (R293) -/

/-- What becomes of a record of a closed batch (R293). -/
inductive Cut where
  | kept
  | capacity
  | staging
  deriving DecidableEq, Repr

/-- A batch in delivery order cut by the per-key capacity and the staging quota (R293): `seen` holds the keys of the records within
capacity so far, `shut` that one of them did not fit. -/
def cutBatch (cap : Nat) : Nat → Bool → List Nat → List Rec → List (Rec × Cut)
  | _, _, _, [] => []
  | room, shut, seen, r :: t =>
    let n := 8 + padded r.len
    if cap ≠ 0 ∧ cap ≤ seen.count r.key then (r, .capacity) :: cutBatch cap room shut seen t
    else if shut ∨ room < n then (r, .staging) :: cutBatch cap room true (r.key :: seen) t
    else (r, .kept) :: cutBatch cap (room - n) false (r.key :: seen) t

/-! ### The Vane (R295, R296) -/

/-- The keys sampled of a batch: positions 0, 2^SRATE, and so on (R295). -/
def sampleKeys (rate : Nat) (l : List Rec) : List Nat :=
  ((List.range l.length).filter fun i => i % 2 ^ rate = 0).filterMap fun i => (l[i]?).map Rec.key

/-- The weight of the samples at or below a key, times the product of every sample count (R296 step 2). -/
def cumWeight (prod : Nat) (l : List (Nat × List Nat)) (v : Nat) : Nat :=
  l.foldl (fun a r => a + r.1 * (r.2.countP (· ≤ v)) * (if r.2.length = 0 then 0 else prod / r.2.length)) 0

/-- The proposal for K receivers, each with its count and its sample keys; nothing where no sample was kept (R296). -/
def proposal (k : Nat) (l : List (Nat × List Nat)) : Option (List Nat) :=
  let prod := l.foldl (fun a r => if r.2.length = 0 then a else a * r.2.length) 1
  let all := l.flatMap Prod.snd
  let w := l.foldl (fun a r => a + r.1) 0
  let keys := all.foldr (fun v acc => if acc.contains v then acc else v :: acc) []
  if all.isEmpty then none
  else
    some ((List.range (k - 1)).map fun j =>
      ((keys.filter fun v => decide (k * cumWeight prod l v > (j + 1) * w * prod)).min?).getD (2 ^ 32 - 1))

end Sys2Proof.Machine
end

