-- ==== Sys2Proof/Machine/Translate.lean ====
section
/-! DEFINITION. Where an address leads: the address map (R235 to R238), physical placement (R359), the page walk and its
checks (R360 to R363), the accessed and dirty bits (R364), the hot-page counters (R368), and performing reads and
writes at the place, held writes of read-duplicated pages among them (R388, R389). -/

namespace Sys2Proof.Machine

/-- A place that holds a byte: a die's physical memory, a core's slate or its scalar data memory (R235, R359). -/
inductive Place where
  | dram (die pa : Nat)
  | slate (core off : Nat)
  | sdm (core off : Nat)
  deriving DecidableEq, Repr

/-- Where the byte of a place stands in `State.mem`. -/
def Place.key : Place → Nat
  | .dram die pa => pa + 2 ^ 48 * die
  | .slate core off => 2 ^ 56 + core * 2 ^ 20 + off
  | .sdm core off => 2 ^ 57 + core * 2 ^ 16 + off

/-- The package a place is in. -/
def Place.pkg : Place → Nat
  | .dram die _ => die / 4
  | .slate core _ => core / 768
  | .sdm core _ => core / 768

/-- The die, as 4 · package + die, at which a place is. -/
def Place.dieKey : Place → Nat
  | .dram die _ => die
  | .slate core _ => core / 192
  | .sdm core _ => core / 192

/-- The kinds of translated access (R363). -/
inductive Kind where
  | read
  | write
  | fetch
  deriving DecidableEq, Repr

/-- The bits an access of a kind sets in its leaf (R364). -/
def Kind.touches (k : Kind) : Word := if k = .write then 0x60 else 0x20

/-- Who makes an access (R238). -/
inductive Agent where
  | scalar
  | vector
  | matrix
  | stream
  | host
  deriving DecidableEq, Repr

/-- What an access is made under: its kind, level, agent, address space, root table, issuing die and core. -/
structure Access where
  kind : Kind
  user : Bool
  agent : Agent
  space : Nat
  ptbase : Word
  die : Nat
  core : Option Nat
  /-- MODEL: its transfer to another package is lost to a time-out (R382, log 21). -/
  doomed : Bool
  /-- MODEL: the leaves its instruction has translated its pages by already (R365). -/
  pages : List LeafAt
  deriving DecidableEq, Repr

/-- An access of the hart `g` (R363, R362). -/
def State.accessOf (s : State) (g : Nat) (k : Kind) (a : Agent) : Access :=
  let h := s.getHart g
  { kind := k, user := !h.prv, agent := a, space := field h.ctl.spaceNow 0 16, ptbase := h.ctl.ptbaseNow,
    die := dieKey g, core := some (coreKey g), doomed := h.doomed, pages := [] }

/-- An access of the vector queue's front entry: it keeps the leaves it has translated its pages by (R364, R365). -/
def State.frontAccess (s : State) (k : Kind) : Access :=
  { s.accessOf s.cur k .vector with
    pages := match s.hart.queue with
      | e :: _ => e.pages
      | [] => [] }

/-- Whether an address is canonical: bits 63 to 57 equal bit 56 (R11). -/
def canonical (va : Word) : Bool :=
  let t := field va 56 8
  t = 0 || t = 255

/-- What an address leads to: a place (with its leaf, and whether its home cannot be reached), a trap cause, or a wait
(R363, R382). -/
inductive Loc where
  | place (p : Place) (leaf : Option LeafAt) (lost : Bool)
  | bad (cause : Nat)
  | wait
  deriving DecidableEq, Repr

/-- PTE.KEY (R361). -/
def pteKey (e : Word) : Nat := field e 52 12

/-- PTE home as 4 · package + die (R361). -/
def pteHome (e : Word) : Nat := field e 44 8

/-- PTE.FRAME (R361). -/
def pteFrame (e : Word) : Nat := field e 12 32

/-- Whether RD, WR and EX are all zero (R361). -/
def ptePointer (e : Word) : Bool := field e 1 3 = 0

/-- Whether `n` frames from `f` are memory of a die that reserves `cache` GiB of its bonded DRAM (R359, R244).  DESIGN CHOICE
(log 58): a 7101's die has LP6 frames too, as R359 gives them to each die.  DESIGN CHOICE (log 17): the cache is the highest frames of
the bonded DRAM. -/
def framesExist (cache f n : Nat) : Bool :=
  (f + n ≤ 0x80000 - cache * 0x4000) || (0x100000 ≤ f && f + n ≤ 0x400000)

/-- The GiB of bonded DRAM a package's dies reserve as LP6 cache (R244, R400): the boot configuration in force. -/
def State.lp6Cache (s : State) (p : Nat) : Nat := (s.pkg p).boot.lp6Cache

/-- Whether a home, as 4 · package + die, is in the group (R1, R361). -/
def State.homePresent (s : State) (dk : Nat) : Bool := s.present (dk / 4) && decide (dk % 4 < s.dieCount)

/-- Whether a leaf or pointer at a level is malformed (R361). -/
def State.malformed (s : State) (level : Nat) (e : Word) : Bool :=
  let frames := match level with
    | 2 => 2 ^ 20
    | 3 => 512
    | _ => 1
  let p := pteHome e / 4
  (field e 10 2 ≠ 0) || !s.homePresent (pteHome e) ||
    (if ptePointer e then level = 4 || !framesExist (s.lp6Cache p) (pteFrame e) 1
     else level = 1 || (e.getLsbD 2 && !e.getLsbD 1) || pteFrame e % frames ≠ 0
       || !framesExist (s.lp6Cache p) (pteFrame e) frames)

/-- The name of the key that a slot of a package holds (R409, R410). -/
def State.keyName (s : State) (p slot : Nat) : Option Nat := SMap.get none (s.pkg p).keys slot

/-- Whether a key slot of a package holds a key (R410). -/
def State.keyHeld (s : State) (p slot : Nat) : Bool := (s.keyName p slot).isSome

/-! ### Encrypted memory (R409) -/

/-- The package that homes a memory key (R235, R359). -/
def homeOf (k : Nat) : Nat :=
  if k < 2 ^ 56 then k / 2 ^ 48 / 4 else if k < 2 ^ 57 then (k - 2 ^ 56) / 2 ^ 20 / 768 else (k - 2 ^ 57) / 2 ^ 16 / 768

/-- Whether one of the lines of the `n` bytes at a place is encrypted under another key than that of the name `c` (R409). -/
def State.alien (s : State) (c : Option Nat) (k n : Nat) : Bool :=
  match c with
  | none => false
  | some c => (List.range (n / 64 + 2)).any fun j =>
    decide (64 * (k / 64 + j) < k + n) && SMap.get 0 (s.pkg (homeOf k)).cipher (k / 64 + j) != c

/-- A line as it reads under the key `c` (R409). -/
def State.lineUnder (s : State) (c line : Nat) : Nat :=
  let old := SMap.get 0 (s.pkg (homeOf (64 * line))).cipher line
  let v := s.mem.read (64 * line) 64
  if old = c then v else low 512 (Config.freeCipher old c line v)

/-- The bytes at a place as they read under the key `c`. -/
def State.readUnder (s : State) (c k : Nat) : Nat → Nat
  | 0 => 0
  | n + 1 => bitsOf (s.lineUnder c (k / 64)) (8 * (k % 64)) 8 + 256 * s.readUnder c (k + 1) n

/-- The `n` bytes at a place, read under the key `c` (R409). -/
def State.peek (s : State) (c : Option Nat) (k n : Nat) : Nat :=
  if s.alien c k n then s.readUnder (c.getD 0) k n else s.mem.read k n

/-- A line encrypted under the key `c` instead of its own (R409). -/
def State.recipherLine (s : State) (c line : Nat) : State :=
  let p := homeOf (64 * line)
  let r := s.pkg p
  if SMap.get 0 r.cipher line = c then s
  else { s.setPkg p { r with cipher := SMap.set 0 r.cipher line c } with mem := s.mem.write (64 * line) 64 (s.lineUnder c line) }

/-- The state with the lines of `n` bytes at a place encrypted under the key `c` instead of theirs: what is read under any key stays
(R409). -/
def State.recipher (s : State) (c : Option Nat) (k n : Nat) : State :=
  if !s.alien c k n then s
  else
    ((List.range (n / 64 + 2)).map (k / 64 + ·)).foldl (fun t line =>
      if 64 * line < k + n then t.recipherLine (c.getD 0) line else t) s

/-- A memory with `n` bytes of `v` at `k`, the word poisoned where `bad` (R353). -/
def Memory.writeBad (m : Memory) (k n v : Nat) (bad : Bool) : Memory := if bad then (m.write k n v).poison k else m.write k n v

/-- The state with bytes at a place written under the key `c`, with poison where `bad` (R353, R409). -/
def State.putUnder (s : State) (c : Option Nat) (k n v : Nat) (bad : Bool) : State :=
  let t := s.recipher c k n
  { t with mem := t.mem.writeBad k n v bad }

/-! ### Writes that are not placed yet (R249 to R259, R389) -/

/-- The page of a memory key, for read-duplicated pages (R388). -/
def keyPage (k : Nat) : Nat := k / 65536

/-- The number of an agent of a hart as a writer (R249). -/
def agentNo (g : Nat) (a : Agent) : Nat :=
  8 * g + (match a with
    | .scalar => 0
    | .vector => 1
    | .matrix => 2
    | .stream => 3
    | .host => 4)

/-- The number under which a package's host writes (R389). -/
def hostWriter (p : Nat) : Nat := 2 ^ 33 + p

/-- The level of a scope: 1 HART, 2 CORE, 3 FORM, and 4 for DIE and larger, in whose instances a write is visible once it is placed
(R250, log 9). -/
def scopeLevel (scope : Nat) : Nat := min (scope + 1) 4

/-- VCFG.SCOPE of a word of VCFG, as a level (R98, R250). -/
def vcfgLevel (vcfg : Word) : Nat := scopeLevel (field vcfg 7 3)

/-- Whether the agents of two harts are in one scope instance of a level below 4 (R250). -/
def sameInstance (level a b : Nat) : Bool :=
  match level with
  | 0 => false
  | 1 => a == b
  | 2 => coreKey a == coreKey b
  | _ => formKey a == formKey b

/-- Whether a write is visible to a writer before it is placed: it is its own, or a release or fence has made it visible in a scope
instance that holds both (R253, R258). -/
def HeldWrite.binds (w : HeldWrite) (writer : Nat) : Bool :=
  w.writer == writer || (decide (writer < 2 ^ 32) && sameInstance w.seen (w.writer / 8) (writer / 8))

/-- Whether a write touches one of `n` bytes at `k`. -/
def HeldWrite.hits (w : HeldWrite) (k n : Nat) : Bool := decide (w.key < k + n) && decide (k < w.key + w.len)

/-- Whether writes that an agent must order behind are not placed yet (R253, R258, R389). -/
def State.agentHeld (s : State) (writer : Nat) : Bool := s.packages.any fun p => (s.pkg p).held.any fun w => w.binds writer

/-- Whether the page of `k` has replicas, so that its home holds writes to it until they are invalidated (R389). -/
def State.pageHolds (s : State) (k : Nat) : Bool := decide (k < 2 ^ 56) && SMap.get 0 (s.pkg (homeOf k)).holders (keyPage k) != 0

/-- Whether an access of `writer` to `n` bytes at `k` waits for an earlier write that is not placed yet: one to a byte of them that it
must see or follow (R252, R258), or any of its own to the page, where that has replicas (R389). -/
def State.heldBy (s : State) (writer k n : Nat) : Bool :=
  (s.pkg (homeOf k)).held.any fun w =>
    w.binds writer && (w.hits k n || (s.pageHolds k && keyPage w.key == keyPage k))

/-- Whether a write of a hart's agent is on its way for a while, which is open; the eager schedule performs it at once (R253 to R255,
log 9). -/
def State.delays (s : State) (writer k : Nat) : Bool := !s.eager && decide (writer < 2 ^ 32) && Config.freePick s.free k

/-- Whether the write of an atomic to one of `n` bytes at `k` is on its way, behind which every other write falls (R81). -/
def State.atomicOnWay (s : State) (k n : Nat) : Bool := (s.pkg (homeOf k)).held.any fun w => w.rmw && w.hits k n

/-- Whether a write is not placed at once (R81, R252, R253, R389). -/
def State.holds (s : State) (writer k n : Nat) : Bool :=
  s.pageHolds k || s.heldBy writer k n || s.atomicOnWay k n || s.delays writer k

/-- A held write placed: its bytes under its key. -/
def State.placeOne (s : State) (w : HeldWrite) : State := s.putUnder w.cipher w.key w.len w.value w.bad

/-- Where the write of an atomic to one of `n` bytes at `k` is on its way, the writes to them are placed, in their order (R81). -/
def State.settle (s : State) (k n : Nat) : State :=
  if !s.atomicOnWay k n then s
  else
    let r := s.pkg (homeOf k)
    let t := s.setPkg (homeOf k) { r with held := r.held.filter fun w => !w.hits k n }
    (r.held.filter fun w => w.hits k n).foldl State.placeOne t

/-- The writes that bind some writers made visible in their scope instance of a level (R258). -/
def State.makeSeen (s : State) (writers : List Nat) (level : Nat) : State :=
  if writers.any s.agentHeld then
    s.packages.foldl (fun t p =>
      let r := t.pkg p
      t.setPkg p { r with held := r.held.map fun w => if writers.any w.binds then { w with seen := max w.seen level } else w }) s
  else s

/-- A release or fence of a level orders the earlier writes of some writers (R83, R255, R258): at DIE and larger it waits until they are
placed; below, they become visible in the instance, but for those to a page with replicas, which it waits for (R389).  Nothing where it
waits. -/
def State.order (s : State) (writers : List Nat) (level : Nat) : Option State :=
  let waits (w : HeldWrite) : Bool := writers.any w.binds && (decide (4 ≤ level) || s.pageHolds w.key)
  if s.packages.any fun p => (s.pkg p).held.any waits then none else some (s.makeSeen writers level)

/-! ### The page walk -/

/-- What a walk ends in: a leaf with its level, or a cause (R363 step 1). -/
inductive Walk where
  | leaf (l : LeafAt) (level : Nat)
  | bad (cause : Nat)
  deriving DecidableEq, Repr

/-- The walk, for an access from a die, from the table that `ptr` names, through the levels left: (level, lowest index bit, index bits)
(R360); an entry that no route leads to is a lost transfer, cause 14 (R382). -/
def State.walkFrom (s : State) (die : Nat) (va : Word) : List (Nat × Nat × Nat) → Word → Walk
  | [], _ => .bad 6
  | (level, lo, n) :: rest, ptr =>
    let key := (Place.dram (pteHome ptr) (pteFrame ptr * 65536 + 8 * field va lo n)).key
    let e := wordOf (s.peek (s.keyName (pteHome ptr / 4) (pteKey ptr)) key 8)
    if !s.reaches die (pteHome ptr) then .bad 14
    else if e.getLsbD 0 = false ∨ s.malformed level e then .bad 6
    else if ptePointer e then (if s.keyHeld (pteHome e / 4) (pteKey e) then s.walkFrom die va rest e else .bad 7)
    else .leaf { key := key, cipher := s.keyName (pteHome ptr / 4) (pteKey ptr), pte := e, die := 0, space := 0, page := 0, level := level } level

/-- The levels of the table (R360). -/
def levels : List (Nat × Nat × Nat) := [(1, 47, 10), (2, 36, 11), (3, 25, 11), (4, 16, 9)]

/-- The walk of an address from a root, for an access from a die (R360 to R363 step 1). -/
def State.walk (s : State) (die : Nat) (root va : Word) : Walk :=
  if root.getLsbD 0 = false ∨ ¬ s.homePresent (pteHome root)
      ∨ ¬ framesExist (s.lp6Cache (pteHome root / 4)) (pteFrame root) 1 then .bad 6
  else s.walkFrom die va levels root

/-- The offset bits of a leaf (R360). -/
def pageBits (level : Nat) : Nat :=
  match level with
  | 2 => 36
  | 3 => 25
  | _ => 16

/-- Whether a leaf maps a read-duplicated page: REPL on a 64 KiB leaf (R388). -/
def LeafAt.repl (l : LeafAt) : Bool := l.level == 4 && l.pte.getLsbD 8

/-- The page of a leaf's frame (R388). -/
def LeafAt.framePage (l : LeafAt) : Nat := keyPage (Place.dram (pteHome l.pte) (pteFrame l.pte * 65536)).key

/-- Whether a read from a package is served from a replica its hub holds (R388). -/
def State.replicated (s : State) (p : Nat) (l : LeafAt) : Bool :=
  l.repl && p != pteHome l.pte / 4 && (s.pkg p).replicas.contains l.framePage

/-- Whether a time-out loses the transfer of an access to another package: that of a scalar access certainly; of an instruction's
many transfers which, is open (R382, log 21). -/
def State.timesOut (s : State) (a : Access) (p : Nat) (va : Word) : Bool :=
  a.doomed && decide (p ≠ a.die / 4) && (a.agent == .scalar || Config.freePick s.free va.toNat)

/-- Whether the transfer of an access to its home is lost: no route, or a time-out; a read that a replica serves stays in its
package, at die HDIE (R376, R382, R388). -/
def State.lostTo (s : State) (a : Access) (va : Word) (l : LeafAt) : Bool :=
  let p := a.die / 4
  if a.kind != .write && s.replicated p l then !s.reaches a.die (4 * p + pteHome l.pte % 4)
  else !s.reaches a.die (pteHome l.pte) || s.timesOut a (pteHome l.pte / 4) va

/-- Steps 2 to 5 of R363 on a leaf, for memory at `va`; an accessed or dirty bit that no route leads to is a lost transfer (R364,
R382). -/
def State.checkLeaf (s : State) (a : Access) (va : Word) (l : LeafAt) (level : Nat) : Loc :=
  let e := l.pte
  if e.getLsbD 9 then .wait
  else if a.user && !e.getLsbD 4 then .bad 7
  else if (match a.kind with
      | .read => !e.getLsbD 1
      | .write => !e.getLsbD 2
      | .fetch => !e.getLsbD 3) then .bad 7
  else if !s.keyHeld (pteHome e / 4) (pteKey e) then .bad 7
  else if e ||| a.kind.touches != e && !s.reaches a.die (l.key / 2 ^ 48) then .bad 14
  else
    let l := { l with die := a.die, space := a.space, page := va.toNat / 2 ^ pageBits level, level := level }
    .place (.dram (pteHome e) (pteFrame e * 65536 + field va 0 (pageBits level))) (some l) (s.lostTo a va l)

/-- Whether a leaf translated before holds for an address in an access's space (R365). -/
def LeafAt.maps (l : LeafAt) (a : Access) (va : Word) : Bool :=
  (l.space == a.space || l.pte.getLsbD 7) && l.page == va.toNat / 2 ^ pageBits l.level

/-- Whether the entry a leaf was read from holds it still, but for its accessed and dirty bits (R364). -/
def State.holdsLeaf (s : State) (l : LeafAt) : Bool :=
  ((wordOf (s.peek l.cipher l.key 8) ^^^ l.pte) &&& ~~~0x60) == 0

/-- Whether a leaf translated before may be used by an access of a kind: it needs no bit set, or is what memory holds (R364). -/
def State.usable (s : State) (k : Kind) (l : LeafAt) : Bool := l.pte ||| k.touches == l.pte || s.holdsLeaf l

/-- A leaf of a translation cache that the access may use in place of a walk; whether the cache serves it is open (R364 to R366,
log 10). -/
def State.cached (s : State) (a : Access) (va : Word) : Option LeafAt :=
  s.tlb.find? fun l => l.die == a.die && l.maps a va && Config.freePick s.free l.page && s.usable a.kind l

/-- The leaf an access uses: its instruction's own, a cached one, or one that a walk finds (R363, R365). -/
def State.findLeaf (s : State) (a : Access) (va : Word) : Walk :=
  match a.pages.find? fun l => l.maps a va && s.usable a.kind l with
  | some l => .leaf l l.level
  | none =>
    match s.cached a va with
    | some l => .leaf l l.level
    | none => s.walk a.die a.ptbase va

/-- Whether a task of a space is resident on a core: running, stalled or pre-empted there (R237). -/
def State.resident (s : State) (core space : Nat) : Bool :=
  ((List.range 4).any fun j =>
    let h := s.getHart (4 * core + j)
    h.run != .idle && field h.ctl.spaceNow 0 16 == space)
  || s.parked.any fun p => p.1 / 4 == core && field p.2.ctl.spaceNow 0 16 == space

/-- The slate or scalar data memory at an offset of a core's window (R235 to R238). -/
def windowPlace (agent : Agent) (core off : Nat) (lost : Bool) : Loc :=
  if off < Config.slateBytes then .place (.slate core off) none lost
  else if 0x100000 ≤ off ∧ off < 0x100000 + Config.sdmBytes then
    (if agent = .scalar then .place (.sdm core (off - 0x100000)) none lost else .bad 3)
  else .bad 3

/-- Where an address leads (R11, R235 to R238, R363). -/
def State.locate (s : State) (a : Access) (va : Word) : Loc :=
  let v := va.toNat
  if !canonical va then .bad 3
  else if 0x7E0000000000 ≤ v ∧ v ≤ 0x7FFFFFFFFFFF then
    if a.kind = .fetch then .bad 3
    else if 0x7F0000000000 ≤ v then
      match a.core with
      | some c => if v < 0x7F0000110000 then windowPlace a.agent c (v - 0x7F0000000000) false else .bad 3
      | none => .bad 3
    else if v < 0x7E2000000000 then
      let o := v - 0x7E0000000000
      let p := o / 2 ^ 31
      let c := o % 2 ^ 31 / 2 ^ 21
      if c ≥ 192 * s.dieCount ∨ ¬ s.present p then .bad 3
      else
        let core := 768 * p + c
        match windowPlace a.agent core (o % 2 ^ 21) (!s.reaches a.die (4 * p + c / 192) || s.timesOut a p va) with
        | .place pl l lost =>
          if a.user && a.core != some core && !s.resident core a.space then .bad 2 else .place pl l lost
        | r => r
    else .bad 3
  else
    match s.findLeaf a va with
    | .bad c => .bad c
    | .leaf l level => s.checkLeaf a va l level

/-- The state with the accessed bit of a leaf set, and for a write the dirty bit, if the entry holds the leaf still (R364); the write
of an atomic that is on its way to the entry is placed first (R81). -/
def State.mark (s : State) (k : Kind) (l : LeafAt) : State :=
  let s := s.settle l.key 8
  let m := wordOf (s.peek l.cipher l.key 8)
  if !s.holdsLeaf l || m ||| k.touches == m then s
  else s.putUnder l.cipher l.key 8 (m ||| k.touches).toNat false

/-- A leaf that an access has used stands in the translation caches, except under the eager schedule (R365, log 10). -/
def State.remember (s : State) (l : LeafAt) : State :=
  if s.eager || s.tlb.contains l then s else { s with tlb := s.tlb ++ [l] }

/-- The event that the hub of a package takes a replica of a page that one of its reads found read-duplicated (R388). -/
def replicaEvent (p page : Nat) : Event := { kind := .replicaCreate, arg := { EvArg.none with pkg := p, idx := page, flag := true } }

/-- Whether a page has a write that its home holds, or replicas that are being invalidated (R389). -/
def State.pageBusy (s : State) (page : Nat) : Bool :=
  let r := s.pkg (homeOf (page * 65536))
  (r.held.any fun w => keyPage w.key == page) || SMap.get 0 r.awaited page != 0

/-- A read of a read-duplicated page performed at its home, from another package: its hub takes a replica next (R388), unless a write
to the page is held (R390). -/
def State.replicate (s : State) (k : Kind) (l : LeafAt) : State :=
  let p := l.die / 4
  if k = .write || !l.repl || p == pteHome l.pte / 4 || s.replicated p l || s.pageBusy l.framePage
      || s.events.contains (replicaEvent p l.framePage) then s
  else { s with events := s.events ++ [replicaEvent p l.framePage] }

/-- A performed access has used a leaf (R364, R365, R388). -/
def State.touch (s : State) (k : Kind) (leaf : Option LeafAt) : State :=
  match leaf with
  | none => s
  | some l => ((s.mark k l).remember { l with pte := l.pte ||| k.touches }).replicate k l

/-- The die that serves an access of a die to a place: its home, or for a read of a page whose replica the package holds the die of the
same number here (R383, R388). -/
def State.serverOf (s : State) (die : Nat) (pl : Place) (k : Kind) (leaf : Option LeafAt) : Nat :=
  if k != .write && (leaf.map (s.replicated (die / 4))).getD false then 4 * (die / 4) + pl.dieKey % 4 else pl.dieKey

/-- An access of a die to a place performed: its transfer goes there and back, and its leaf is used (R364, R365, R378, R383, R388). -/
def State.visit (s : State) (die : Nat) (pl : Place) (k : Kind) (leaf : Option LeafAt) : State :=
  (s.transfer die (s.serverOf die pl k leaf)).touch k leaf

/-- Which counter of the hot-page table an instruction's elements add to (R368). -/
inductive Hot where
  | unit
  | strided
  | indexed
  deriving DecidableEq, Repr

/-- The lowest bit of a counter (R368). -/
def Hot.lo : Hot → Nat
  | .unit => 48
  | .strided => 24
  | .indexed => 0

/-- One performed element counted in the issuing die's hot-page table (R368); only translated memory has a page. -/
def State.countHot (s : State) (die space : Nat) (va : Word) (leaf : Option LeafAt) (k : Hot) : State :=
  if leaf.isNone then s
  else
    let d := s.die die
    let i := Nat.xor (field va 16 16) space
    let e := SMap.get 0 d.hot i
    let vpn := field va 16 41
    let e := if fieldB e 192 1 = 1 ∧ fieldB e 199 41 = vpn ∧ fieldB e 240 16 = space then e
      else setFieldB (setFieldB (setFieldB 0 192 1 1) 199 41 vpn) 240 16 space
    let n := fieldB e k.lo 24
    let e := if n = 2 ^ 24 - 1 then e else setFieldB e k.lo 24 (n + 1)
    s.setDie die { d with hot := SMap.set 0 d.hot i e }

/-! ### Performing an access -/

/-- The event that an invalidate reaches a holder (R389). -/
def invalidateEvent (page holder : Nat) : Event :=
  { kind := .replicaInvalidate, arg := { EvArg.none with pkg := holder, idx := page } }

/-- Each holder of the page of `k` is sent an invalidate, unless that is under way (R389). -/
def State.invalidateReplicas (s : State) (k : Nat) : State :=
  let q := homeOf k
  let p := s.pkg q
  let page := keyPage k
  let holders := SMap.get 0 p.holders page
  if holders = 0 ∨ SMap.get 0 p.awaited page ≠ 0 then s
  else
    let t := s.setPkg q { p with awaited := SMap.set 0 p.awaited page holders }
    { t with events := t.events ++ ((List.range 64).filter (fun j => holders.testBit j)).map (invalidateEvent page) }

/-- The name of the key that the home of a leaf's page encrypts it under; none on chip (R361, R409). -/
def State.leafKey (s : State) (leaf : Option LeafAt) : Option Nat := leaf.bind fun l => s.keyName (pteHome l.pte / 4) (pteKey l.pte)

/-- The `n` bytes at a place that a leaf leads to (R409). -/
def State.readAt (s : State) (leaf : Option LeafAt) (k n : Nat) : Nat := s.peek (s.leafKey leaf) k n

/-- A write put behind those on their way; where its page has replicas each holder is sent an invalidate (R253, R389). -/
def State.hold (s : State) (w : HeldWrite) : State :=
  let r := s.pkg (homeOf w.key)
  State.invalidateReplicas (s.setPkg (homeOf w.key) { r with held := r.held ++ [w] }) w.key

/-- A write performed at its place: at once, or on its way, or held at the home of a read-duplicated page that has replicas, which
sends each holder an invalidate (R253, R389); `bad` for poisoned data (R353). -/
def State.placeBad (s : State) (writer : Nat) (leaf : Option LeafAt) (k n v : Nat) (bad : Bool) : State :=
  let c := s.leafKey leaf
  if s.holds writer k n then
    s.hold { writer := writer, key := k, len := n, value := v, bad := bad, cipher := c, seen := 0, rmw := false }
  else s.putUnder c k n v bad

/-- A write of good data performed at its place. -/
def State.place (s : State) (writer : Nat) (leaf : Option LeafAt) (k n v : Nat) : State := s.placeBad writer leaf k n v false

/-- The write of an atomic or a combining update to a page without replicas, right after its read: no other write falls between (R81,
R163); it may be on its way for a while, as one that acquires may not (R82, R255). -/
def State.update (s : State) (writer : Nat) (acquires : Bool) (leaf : Option LeafAt) (k n v : Nat) : State :=
  let c := s.leafKey leaf
  if s.delays writer k && !acquires then
    s.hold { writer := writer, key := k, len := n, value := v, bad := false, cipher := c, seen := 0, rmw := true }
  else s.putUnder c k n v false

end Sys2Proof.Machine
end

