-- ==== Sys2Proof/Machine/Rounds.lean ====
section
/-! DEFINITION. The rounds of the exchange (R286 to R297, R308, R309, R394): parties, arming, transport, batches, the
residual path, closing, failure, and what becomes of a binding when its task ends. -/

namespace Sys2Proof.Machine

/-! ### Parties (R286, R306) -/

/-- XID of the last binding. -/
def Party.xid (p : Party) : Nat := field p.status 52 12
/-- RANK. -/
def Party.rank (p : Party) : Nat := field p.status 36 16
/-- RIDX. -/
def Party.ridx (p : Party) : Nat := field p.status 24 12
/-- RSTATE: 0 UNBOUND, 1 WAITING, 2 OPEN, 3 READY, 4 END. -/
def Party.rstate (p : Party) : Nat := field p.status 17 3
/-- SEND. -/
def Party.send (p : Party) : Bool := p.status.getLsbD 16
/-- RECV. -/
def Party.recv (p : Party) : Bool := p.status.getLsbD 15
/-- CLOSED. -/
def Party.closed (p : Party) : Bool := p.status.getLsbD 14
/-- FAILED. -/
def Party.failed (p : Party) : Bool := p.status.getLsbD 12
/-- Whether the binding has not ended (R286). -/
def Party.bound (p : Party) : Bool := 1 ≤ p.rstate && p.rstate ≤ 3
/-- The party in another RSTATE. -/
def Party.enter (p : Party) (v : Nat) : Party := { p with status := setField p.status 17 3 v }
/-- The party with flags of its status word set. -/
def Party.flag (p : Party) (v : Word) : Party := { p with status := p.status ||| v }

/-- EOB. -/
def xEOB : Word := 0x2000
/-- FAILED. -/
def xFAILED : Word := 0x1000
/-- ORDER. -/
def xORDER : Word := 0x800
/-- FULL. -/
def xFULL : Word := 0x400
/-- LOST. -/
def xLOST : Word := 0x200
/-- BADSPLIT. -/
def xBADSPLIT : Word := 0x100
/-- OVF. -/
def xOVF : Word := 0x080
/-- LATE. -/
def xLATE : Word := 0x040
/-- PROPOSED. -/
def xPROPOSED : Word := 0x020

/-- What tells a party from the others of its round. -/
def Party.ident (p : Party) : Nat := field p.status 15 2 + 4 * p.ridx + 16384 * p.rank

/-- A bound party of a round. -/
def Party.inRound (p : Party) (xid : Nat) : Bool := p.bound && p.xid == xid

/-- Whether a party took part in a round of an XID, by its number: it is its last round, ended or not (R305). -/
def Party.tookPart (p : Party) (xid serial : Nat) : Bool := p.rstate != 0 && p.xid == xid && p.serial == serial

/-- The sender of a rank in a round, whether its own part has ended or not, unless the notice of a failure has reached it (R305,
R308). -/
def Party.wasSender (p : Party) (xid serial rank : Nat) : Bool := p.tookPart xid serial && p.send && p.rank == rank && !p.failed

/-- A receiver of a round. -/
def Party.isReceiver (p : Party) (xid ridx : Nat) : Bool := p.inRound xid && p.recv && p.ridx == ridx

/-- A hart with its party changed where a test holds. -/
def Hart.modParty (h : Hart) (t : Party → Bool) (f : Party → Party) : Hart := if t h.xch then { h with xch := f h.xch } else h

/-- The state with every party that passes a test changed, those of pre-empted tasks among them. -/
def State.modParties (s : State) (t : Party → Bool) (f : Party → Party) : State :=
  { s with
    hart := s.hart.modParty t f
    harts := SMap.mapVals Hart.reset (Hart.modParty · t f) s.harts
    parked := s.parked.map fun p => (p.1, p.2.modParty t f) }

/-- The harts with tasks, pre-empted ones among them, each with its number. -/
def State.allHarts (s : State) : List (Nat × Hart) := (s.cur, s.hart) :: s.harts ++ s.parked

/-- Charge of an exchange hall pass, in mW (R403). -/
def exchangeCharge : Nat := 500

/-- Every party that passes a test ends its round: its state becomes END and its hall pass comes back (R286, R299). -/
def State.endParties (s : State) (t : Party → Bool) (f : Party → Party) : State :=
  let gs := (s.allHarts.filter fun p => t p.2.xch && p.2.xch.pass).map Prod.fst
  let s := s.modParties t fun p => { (f p).enter 4 with pass := false }
  gs.foldl (fun s g => s.returnPass (dieKey g) exchangeCharge) s

/-! ### XIDs and rounds -/

/-- What the group keeps for an XID (R297). -/
def State.xid (s : State) (n : Nat) : XidRec := SMap.get XidRec.reset s.xids n

/-- The state with an XID's record changed. -/
def State.setXid (s : State) (n : Nat) (r : XidRec) : State := { s with xids := SMap.set XidRec.reset s.xids n r }

/-- The state with the round of an XID changed. -/
def State.setRound (s : State) (n : Nat) (r : Round) : State := s.setXid n { s.xid n with round := some r }

/-- The lowest-numbered bridging package, else package 0 (R391). -/
def State.grandmaster (s : State) : Nat := (s.packages.filter fun p => (s.pkg p).boot.portMode = 0).min?.getD 0

/-- The package whose hub keeps an XID (R394). -/
def State.xidHub (s : State) (n : Nat) : Nat := if s.present (n % 64) then n % 64 else s.grandmaster

/-- Whether a hart reaches the hub of a package (R376, R381, R394); a 7101 keeps its rounds on the die (R401). -/
def State.reachesHub (s : State) (g q : Nat) : Bool :=
  s.part == .p7101 || (s.dieLinkUp (pkgOf g) (dieOf g) 4 && (s.route (pkgOf g) q).isSome)

/-- An event about an XID. -/
def xidEvent (k : Instr) (xid aux : Nat) : Event := { kind := k, arg := { EvArg.none with idx := xid, aux := aux } }

/-- The sender of a rank. -/
def Round.sender (r : Round) (rank : Nat) : Option Sender := r.senders.find? fun x => x.rank = rank

/-- The receiver of an index. -/
def Round.receiver (r : Round) (ridx : Nat) : Option Receiver := r.receivers.find? fun x => x.ridx = ridx

/-- The round with a receiver replaced. -/
def Round.setReceiver (r : Round) (v : Receiver) : Round :=
  { r with receivers := r.receivers.map fun x => if x.ridx = v.ridx then v else x }

/-- Whether every party of a round has joined (R286, R299). -/
def Round.full (r : Round) : Bool := decide (r.senders.length ≥ hdrNs r.header) && decide (r.receivers.length ≥ hdrKm1 r.header + 1)

/-- The state with the links as they worked when a round was armed (R393). -/
def State.atArming (s : State) (r : Round) : State :=
  r.links.foldl (fun s p => s.setPkg p.1 { s.pkg p.1 with portFailed := p.2.1, linkFailed := p.2.2 }) s

/-- The merge points from a sender to a receiver of a round, by its route set (R393). -/
def State.roundPath (s : State) (r : Round) (rank ridx : Nat) : Option (List MergePoint) :=
  match r.sender rank, r.receiver ridx with
  | some a, some b => (s.atArming r).mergePath a.g b.g ridx
  | _, _ => none

/-- A failed round that holds no party is over, and its XID free (R308). -/
def State.freeFailed (s : State) (xid : Nat) : State :=
  match (s.xid xid).round with
  | none => s
  | some r =>
    if r.failed && !s.allHarts.any fun p => p.2.xch.inRound xid then s.setXid xid { s.xid xid with round := none } else s

/-- The event that the notice of a failed round reaches a party of it (R394). -/
def noticeEvent (xid serial ident : Nat) : Event :=
  { kind := .roundFailureNotice, arg := { EvArg.none with idx := xid, aux := ident, val := BitVec.ofNat 256 serial } }

/-- The round fails: a notice is sent to every party that has had none, those whose own part has ended among them (R308, R394). -/
def State.failRound (s : State) (xid : Nat) : State :=
  match (s.xid xid).round with
  | none => s
  | some r =>
    let s := s.setRound xid { r with failed := true }
    let s := (s.allHarts.filter fun p => p.2.xch.tookPart xid r.serial && !p.2.xch.failed).foldl
      (fun s p => s.pushOnce (noticeEvent xid r.serial p.2.xch.ident)) s
    s.freeFailed xid

/-- The next events of a round's transport. -/
def State.pokeRound (s : State) (xid : Nat) : State :=
  match (s.xid xid).round with
  | none => s
  | some r =>
    if r.table.isNone then s
    else
    let s := if r.flights.any fun f => f.ridx.isSome && decide (0 < f.hops) then s.pushOnce (xidEvent .recordMerge xid 0) else s
    let s := if r.flights.any fun f => f.ridx.isSome && f.hops == 0 && !f.marker then s.pushOnce (xidEvent .recordArrival xid 0) else s
    if r.flights.any fun f => f.ridx.isSome && f.hops == 0 && f.marker then s.pushOnce (xidEvent .closeMarkerArrival xid 0) else s

/-- A record or marker that waits at its sender's port sets out once the round is armed (R286, R301): its receiver and the
merge points before it. -/
def State.launchFlight (s : State) (r : Round) (f : Flight) : Flight :=
  match r.table with
  | none => f
  | some t =>
    let j := f.ridx.getD (receiverOf t f.record.key)
    { f with ridx := some j, hops := ((s.roundPath r f.record.rank j).map List.length).getD 0 }

/-- The flits of records and markers that set out, over the hubs where sender and receiver are on different dies (R288, R378). -/
def State.shipFlights (s : State) (r : Round) (fs : List Flight) : State :=
  fs.foldl (fun s f =>
    match r.sender f.record.rank, r.receiver (f.ridx.getD 0) with
    | some a, some b =>
      if dieKey a.g = dieKey b.g then s
      else s.carryAlong (dieKey a.g) (((s.atArming r).route (pkgOf a.g) (pkgOf b.g)).getD []) (dieKey b.g) 2
    | _, _ => s) s

/-- Records and markers enter the transport behind those before them; a hub without a route drops them and fails the round
(R301, R394). -/
def State.sendFlights (s : State) (xid : Nat) (fs : List Flight) : State :=
  match (s.xid xid).round with
  | none => s
  | some r =>
    let fs := if r.table.isSome then fs.map (s.launchFlight r) else fs
    let lost := r.table.isSome && fs.any fun f => f.hops = 0
    let t := (if r.table.isSome then s.shipFlights r fs else s).setRound xid { r with flights := r.flights ++ fs } |>.pokeRound xid
    if lost then t.failRound xid else t

/-- The markers of a sender, one for every receiver (R302). -/
def markersOf (k rank : Nat) : List Flight :=
  (List.range k).map fun j =>
    { ridx := some j, hops := 0, marker := true
      record := { key := 0, rank := rank, seq := 0, len := 0, data := 0, cont := false, late := false, badord := false, ovf := false, time := 0 } }

/-- The close marker of a sender goes out; it is CLOSED (R302). -/
def State.closeSender (s : State) (xid rank : Nat) : State :=
  match (s.xid xid).round with
  | none => s
  | some r =>
    let r' := { r with senders := r.senders.map fun x => if x.rank = rank then { x with closed := true } else x }
    (s.setRound xid r').sendFlights xid (markersOf (hdrKm1 r.header + 1) rank)

/-! ### Arming (R286, R287, R289, R294) -/

/-- The deadline's next instant after a moment (R294); none where no deadline is set or it has passed. -/
def nextInstant (t0 p after : Nat) : Option Nat :=
  if t0 = 0 then none
  else if after < t0 then some t0
  else if p = 0 then none
  else some (t0 + ((after - t0) / p + 1) * p)

/-- The K-th receiver has joined: the table, the capacity and the deadline are fixed and every party is OPEN (R286). -/
def State.armRound (s : State) (xid : Nat) : State :=
  let x := s.xid xid
  match x.round with
  | none => s
  | some r =>
    let k := hdrKm1 r.header + 1
    let raw := match x.table with
      | some t => if t.length + 1 = k then t else evenTable k
      | none => evenTable k
    let table := clampTable 0 raw
    let r : Round := { r with
      table := some table, badsplit := decide (table ≠ raw), capacity := x.capacity, t0 := x.t0, period := x.period
      receivers := r.receivers.map fun j : Receiver => { j with armedAt := s.timeNs (pkgOf j.g) }
      links := s.packages.map fun p => (p, (s.pkg p).portFailed, (s.pkg p).linkFailed) }
    let flights := r.flights.map (s.launchFlight r)
    let lost := flights.any fun f => f.hops = 0
    let s := (s.shipFlights r flights).setRound xid { r with flights := flights }
    let s := s.modParties (·.inRound xid) fun p => (p.enter 2).flag (if r.badsplit then xBADSPLIT else 0)
    let s := if r.t0 = 0 then s else r.receivers.foldl (fun s j => s.pushOnce (xidEvent .batchDeadline xid j.ridx)) s
    let s := s.pokeRound xid
    if lost then s.failRound xid else s

/-! ### The residual path (R293) -/

/-- The words of a returned record: its header and its padded payload. -/
def residualWords (r : Rec) : List Nat := r.header :: (List.range (padded r.len / 8)).map fun i => bitsOf r.data (64 * i) 64

/-- Where a word of a sender's inbox leads (R293): the access is the Tradewind port's, under the task's space and level. -/
def State.residualLoc (s : State) (a : Sender) (va : Word) : Loc :=
  let acc : Access :=
    { kind := .write, user := a.user, agent := .stream, space := a.space, ptbase := a.ptbase, die := dieKey a.g
      core := some (coreKey a.g), doomed := (s.pkg (pkgOf a.g)).doomed, pages := [] }
  match s.locate acc va with
  | .place p l lost =>
    if lost then .bad 14 else if s.mem.poisoned p.key 8 then .bad 8 else if s.pageHolds p.key then .wait else .place p l lost
  | r => r

/-- What becomes of a returned record (R293). -/
inductive Inbox where
  /-- It is discarded, and LOST is set. -/
  | lost
  /-- A page of the inbox is being moved (R363), or has replicas (R389): it waits. -/
  | wait
  | fits (at_ : List (Place × Option LeafAt))
  deriving DecidableEq, Repr

/-- The inbox's words from `i` on, `n` of them, before any is written. -/
def State.inbox (s : State) (a : Sender) : Nat → Nat → Inbox
  | _, 0 => .fits []
  | i, n + 1 =>
    match s.residualLoc a (a.base + wordOf (a.used + 8 * i)) with
    | .bad _ => .lost
    | .wait => .wait
    | .place p l _ =>
      match s.inbox a (i + 1) n with
      | .fits t => .fits ((p, l) :: t)
      | r => r

/-- The pages of an inbox that have replicas are sent invalidates (R389). -/
def State.clearInbox (s : State) (a : Sender) (n : Nat) : State :=
  (List.range n).foldl (fun s i =>
    match s.locate { kind := .write, user := a.user, agent := .stream, space := a.space, ptbase := a.ptbase, die := dieKey a.g
                     core := some (coreKey a.g), doomed := false, pages := [] } (a.base + wordOf (a.used + 8 * i)) with
    | .place p _ _ => if s.pageHolds p.key then s.invalidateReplicas p.key else s
    | _ => s) s

/-- A returned record written to its sender's inbox (R293): whether it has been dealt with, and the state.  A sender whose round has
failed gets none (R308). -/
def State.writeResidual (s : State) (xid : Nat) (r : Rec) : Bool × State :=
  match (s.xid xid).round with
  | none => (true, s)
  | some rd =>
    match rd.sender r.rank with
    | none => (true, s)
    | some a =>
      let ws := residualWords r
      let n := 8 * ws.length
      if a.failed then (true, s)
      else
        match (if a.size < a.used + n then .lost else s.inbox a 0 ws.length) with
        | .wait => (false, s.clearInbox a ws.length)
        | .lost =>
          let p := pkgOf a.g
          (true, (s.modParties (·.wasSender xid rd.serial r.rank) (·.flag xLOST)).setPkg p { s.pkg p with doomed := false })
        | .fits l =>
          let s := (l.zip ws).foldl (fun s w =>
            ((s.visit (dieKey a.g) w.1.1 .write w.1.2).settle w.1.1.key 8).putUnder (s.leafKey w.1.2) w.1.1.key 8 w.2 false) s
          let s := s.setRound xid { rd with
            senders := rd.senders.map fun x => if x.rank = a.rank then { a with used := a.used + n } else x }
          (true, s.modParties (·.wasSender xid rd.serial r.rank) fun p => { p with written := p.written + 1 })

/-- Returned records in order, each dealt with or kept; a record waits behind one of the same sender (R293). -/
def State.writeAll (s : State) (xid : Nat) (kept : List Rec) : List Rec → State × List Rec
  | [] => (s, kept)
  | r :: t =>
    if kept.any fun q => q.rank == r.rank then s.writeAll xid (kept ++ [r]) t
    else
      let (done, s) := s.writeResidual xid r
      s.writeAll xid (if done then kept else kept ++ [r]) t

/-- The returned records of a round that can be are written, and an event stands for the rest (R293). -/
def State.writeResiduals (s : State) (xid : Nat) : State :=
  match (s.xid xid).round with
  | none => s
  | some r =>
    let (s, kept) := s.writeAll xid [] r.residual
    match (s.xid xid).round with
    | none => s
    | some r =>
      let s := s.setRound xid { r with residual := kept }
      if kept.isEmpty then s else s.pushOnce (xidEvent .recordArrival xid 1)

/-- A record beyond a limit is returned to the inbox of its rank's sender (R293). -/
def State.returnRecord (s : State) (xid : Nat) (r : Rec) : State :=
  match (s.xid xid).round with
  | none => s
  | some rd =>
    (s.setRound xid { rd with residual := rd.residual ++ [{ r with ovf := true }] }).modParties
      (·.wasSender xid rd.serial r.rank) (·.flag xOVF)

/-! ### Closing (R286, R293 to R296) -/

/-- An armed round closes once every final batch has and every returned record is written: the Vane proposes, sender-only parties
end, and a round of which every party has ended frees its XID (R286, R296). -/
def State.closeRound (s : State) (xid : Nat) : State :=
  let x := s.xid xid
  match x.round with
  | none => s
  | some r =>
    if r.table.isNone || r.closed || r.failed || !r.receivers.all Receiver.final || !r.residual.isEmpty then s
    else
      let prop := (proposal (hdrKm1 r.header + 1) (r.receivers.map fun j => (j.counted, j.samples))).getD (r.table.getD [])
      let s := s.setXid xid { x with
        proposal := some prop, table := if hdrMode r.header = 1 then some prop else x.table
        round := some { r with closed := true } }
      let s := s.modParties (·.tookPart xid r.serial) fun p => p.flag xPROPOSED
      s.endParties (fun p => p.inRound xid && !p.recv) id

/-- A round whose parties have all ended is over and its XID free (R286, R308). -/
def State.freeXid (s : State) (xid : Nat) : State :=
  match (s.xid xid).round with
  | none => s
  | some r =>
    if r.closed && !s.allHarts.any fun p => p.2.xch.inRound xid then s.setXid xid { s.xid xid with round := none } else s

/-- A batch closes at a receiver (R293 to R295). -/
def State.closeBatch (s : State) (xid ridx : Nat) (final : Bool) (instant : Word) : State :=
  match (s.xid xid).round with
  | none => s
  | some r =>
    match r.receiver ridx with
    | none => s
    | some j =>
      if j.final then s
      else
        let comb := hdrComb r.header
        let path (q : Rec) : List MergePoint := (((s.roundPath r q.rank ridx).getD []).reverse).tail
        let all := if r.order then deliverAny comb (hdrCtype r.header) s.free j.staged
          else deliver comb (hdrCtype r.header) path j.staged
        let cut := cutBatch r.capacity j.quota false [] all
        let kept := (cut.filter fun q => q.2 == .kept).map Prod.fst
        let back := (cut.filter fun q => q.2 != .kept).map Prod.fst
        let full := cut.any fun q => q.2 == .staging
        let samples := (j.samples ++ sampleKeys (hdrSrate r.header) all).take 64
        let j' := { j with
          staged := [], batches := if j.gone || j.failed then [] else j.batches ++ [kept], final := final, lastClose := some instant
          counted := j.counted + all.length, samples := samples }
        let s := s.setRound xid (r.setReceiver j')
        let s := { s with free := s.free + 2 * j.staged.length + 1 }
        let s := (back.foldl (fun s q => s.returnRecord xid q) s).writeResiduals xid
        let s := s.modParties (·.isReceiver xid ridx) fun (p : Party) =>
          let p : Party := { p with counted := j'.counted, samples := samples }
          let p := if back.isEmpty then p else p.flag xOVF
          let p := if full then p.flag xFULL else p
          if p.rstate = 2 then p.enter 3 else p
        (s.closeRound xid).freeXid xid

/-- The non-final closes that are due at a receiver by now (R294). -/
def State.closeDue (s : State) (xid ridx : Nat) : Nat → State
  | 0 => s
  | n + 1 =>
    match (s.xid xid).round with
    | none => s
    | some r =>
      match r.receiver ridx with
      | none => s
      | some j =>
        match nextInstant r.t0 r.period (j.lastClose.getD j.armedAt).toNat with
        | none => s
        | some t =>
          if t < (s.timeNs (pkgOf j.g)).toNat then (s.closeBatch xid ridx false (wordOf t)).closeDue xid ridx n else s

/-- How many instants of a deadline may have gone by at a receiver: a bound. -/
def State.dueCount (s : State) (xid ridx : Nat) : Nat :=
  match (s.xid xid).round with
  | none => 0
  | some r =>
    match r.receiver ridx with
    | none => 0
    | some j => ((s.timeNs (pkgOf j.g)).toNat - (j.lastClose.getD j.armedAt).toNat) / (if r.period = 0 then 1 else r.period) + 1

/-- Every close that is due at a receiver takes place (R294). -/
def State.settleDeadline (s : State) (xid ridx : Nat) : State := s.closeDue xid ridx (s.dueCount xid ridx)

/-! ### Arrival (R294, R309) -/

/-- A record reaches its receiver's port (R294): it joins the open batch, LATE where its sender's port accepted it at or
before the last close; one for a receiver whose task has ended is dropped with an event (R309). -/
def State.arriveRecord (s : State) (xid ridx : Nat) (q : Rec) : State :=
  let s := s.settleDeadline xid ridx
  match (s.xid xid).round with
  | none => s
  | some r =>
    match r.receiver ridx with
    | none => s
    | some j =>
      if j.failed then s
      else if j.gone then s.roll (dieKey j.g) 2 (formOf j.g) 0x13 xid (wordOf q.key) 0
      else
        let late := match j.lastClose with
          | some t => decide (q.time.toNat ≤ t.toNat)
          | none => false
        let s := s.setRound xid (r.setReceiver { j with staged := j.staged ++ [{ q with late := late }] })
        if late then s.modParties (·.isReceiver xid ridx) (·.flag xLATE) else s

/-- A close marker reaches a receiver; the last one closes its batch finally (R294). -/
def State.arriveMarker (s : State) (xid ridx : Nat) : State :=
  let s := s.settleDeadline xid ridx
  match (s.xid xid).round with
  | none => s
  | some r =>
    match r.receiver ridx with
    | none => s
    | some j =>
      let j' := { j with markers := j.markers + 1 }
      let s := s.setRound xid (r.setReceiver j')
      if j'.markers ≥ hdrNs r.header then s.closeBatch xid ridx true (s.timeNs (pkgOf j.g)) else s

/-! ### Leaving (R308, R309) -/

/-- What a hart keeps of its last round when its task ends (R305, R309, log 36): a sender is CLOSED, and bound until the round is closed;
a receiver, whose part is abandoned, is at END. -/
def Party.left (p : Party) : Party :=
  let p := { p with pass := false, lastKey := .none }
  if !p.bound then p
  else
    let p := if p.send then p.flag 0x4000 else p
    if p.recv then p.enter 4 else p

/-- The binding of a hart `h` whose task ends: its sender part closes as by XCLOSE and its receiver part is abandoned
(R309).  The hart itself is cleared by the caller, which then frees the XID. -/
def State.leaveRound (s : State) (h : Hart) : State :=
  let p := h.xch
  if !p.bound then s
  else
    let xid := p.xid
    let s := if p.send && !p.closed then s.closeSender xid p.rank else s
    match (s.xid xid).round with
    | some r =>
      (match r.receiver p.ridx with
        | some j => if p.recv then s.setRound xid (r.setReceiver { j with gone := true, staged := [], batches := [] }) else s
        | none => s)
    | none => s

/-- The round with the undelivered records of a party that a failure notice has reached discarded (R308). -/
def Round.dropParty (r : Round) (ident : Nat) : Round :=
  { r with
    receivers := r.receivers.map fun j =>
      if ident % 2 = 0 ∨ j.ridx ≠ ident / 4 % 4096 then j else { j with staged := [], batches := [], failed := true }
    senders := r.senders.map fun a => if ident / 2 % 2 = 0 ∨ a.rank ≠ ident / 16384 then a else { a with failed := true } }

/-- A failure notice of the `serial`-th round of an XID reaches a party: FAILED, its undelivered records discarded, its pass returned;
with the last party the XID is free (R308). -/
def State.failParty (s : State) (xid serial ident : Nat) : State :=
  let s := s.endParties (fun p => p.tookPart xid serial && p.ident == ident) (·.flag xFAILED)
  match (s.xid xid).round with
  | none => s
  | some r => if r.serial = serial then (s.setRound xid (r.dropParty ident)).freeFailed xid else s

end Sys2Proof.Machine
end

