-- ==== Sys2Proof/Machine/Registrar.lean ====
section
/-! DEFINITION. The Registrar's tables: queues and packets (R209 to R214), drafts, their headers, firing and settling (R310,
R311, R319 to R325), and the memory accesses a Registrar makes. -/

namespace Sys2Proof.Machine

/-! ### Parts and numbers (R209, R310, R422) -/

/-- Queues, drafts and pipeline numbers of a package (R209, R310). -/
def State.idCount (s : State) : Nat := 16384 * s.dieCount

/-- The home die of a queue, a draft or a pipeline of a package (R209, R310, R323). -/
def homeDie (p n : Nat) : Nat := 4 * p + n / 16384

/-- A queue of a package (R422). -/
def State.queue (s : State) (p q : Nat) : QueueRec := SMap.get QueueRec.reset (s.die (homeDie p q)).queues (q % 16384)

/-- The state with a queue changed. -/
def State.setQueue (s : State) (p q : Nat) (r : QueueRec) : State :=
  let d := s.die (homeDie p q)
  s.setDie (homeDie p q) { d with queues := SMap.set QueueRec.reset d.queues (q % 16384) r }

/-- A draft of a package (R422). -/
def State.draft (s : State) (p d : Nat) : DraftRec := SMap.get DraftRec.reset (s.die (homeDie p d)).drafts (d % 16384)

/-- The state with a draft's entry changed. -/
def State.setDraft (s : State) (p d : Nat) (r : DraftRec) : State :=
  let e := s.die (homeDie p d)
  s.setDie (homeDie p d) { e with drafts := SMap.set DraftRec.reset e.drafts (d % 16384) r }

/-- A pipeline's entry (R323). -/
def State.pipe (s : State) (p n : Nat) : BitVec 256 := SMap.get 0 (s.die (homeDie p n)).pipes (n % 16384)

/-- The state with a pipeline's entry changed. -/
def State.setPipe (s : State) (p n : Nat) (v : BitVec 256) : State :=
  let e := s.die (homeDie p n)
  s.setDie (homeDie p n) { e with pipes := SMap.set 0 e.pipes (n % 16384) v }

/-! ### Descriptor fields (R209) -/

/-- DONE. -/
def QueueRec.done (q : QueueRec) : Nat := fieldB q.desc 224 32
/-- HEAD. -/
def QueueRec.head (q : QueueRec) : Nat := fieldB q.desc 192 32
/-- TAIL. -/
def QueueRec.tail (q : QueueRec) : Nat := fieldB q.desc 160 32
/-- EN. -/
def QueueRec.enabled (q : QueueRec) : Bool := fieldB q.desc 0 1 = 1
/-- Packets held, modulo 2^32 (R209). -/
def QueueRec.count (q : QueueRec) : Nat := (q.tail + 2 ^ 32 - q.head) % 2 ^ 32
/-- The queue with a field of its descriptor changed. -/
def QueueRec.put (q : QueueRec) (lo n v : Nat) : QueueRec := { q with desc := setFieldB q.desc lo n v }
/-- The address of packet n (R209). -/
def QueueRec.slot (q : QueueRec) (n : Nat) : Word := q.cap.ring + wordOf (64 * (n % 2 ^ q.cap.lsz))

/-- An MSI-X vector of a package's bridge is raised: latched while it is masked (R416).  A 7101 signals its controller on the sideband
in place of vector 0 (R401). -/
def State.raiseMsix (s : State) (p v : Nat) : State :=
  let r := s.pkg p
  if s.part = .p7101 then (if v = 0 then { s with outbox := s.outbox ++ [.sideband p] } else s)
  else if r.boot.portMode ≠ 0 then s
  else if r.msixMask.testBit v then s.setPkg p { r with msixLatch := r.msixLatch ||| 2 ^ v }
  else { s with outbox := s.outbox ++ [.msix p v] }

/-! ### A Registrar's memory accesses (log 23) -/

/-- An access of a die's Registrar under a space and a root table, at supervisor level. -/
def regAccess (dk space : Nat) (ptbase : Word) (k : Kind) : Access :=
  { kind := k, user := false, agent := .host, space := space, ptbase := ptbase, die := dk, core := none, doomed := false, pages := [] }

/-- What an access of a Registrar ends in: done, a fault or poison, or a wait while a page is being moved (R363) or an earlier
write of the same Registrar is not placed (R252, R389). -/
inductive RegRes (α : Type) where
  | ok (v : α)
  | fail
  | wait

/-- The number of a die's Registrar as a writer (R249). -/
def regWriter (dk : Nat) : Nat := 2 ^ 32 + dk

/-- Whether a Registrar of a package has written a header or settle word that is not placed yet, which its releases wait for (R231,
R256, R389). -/
def State.regHeld (s : State) (p : Nat) : Bool := (List.range s.dieCount).any fun d => s.agentHeld (regWriter (4 * p + d))

/-- Where the 8-byte words of `n` words at an address are, if every one can be accessed (R211, R311, R324): poison is a failure where
`strict`. -/
def State.regPlaces (s : State) (a : Access) (strict : Bool) (va : Word) : Nat → RegRes (List (Place × Option LeafAt))
  | 0 => .ok []
  | n + 1 =>
    match s.locate a va with
    | .bad _ => .fail
    | .wait => .wait
    | .place p l lost =>
      if lost || (strict && s.mem.poisoned p.key 8) then .fail
      else if a.kind == .read && s.heldBy (regWriter a.die) p.key 8 then .wait
      else
        match s.regPlaces a strict (va + 8) n with
        | .ok t => .ok ((p, l) :: t)
        | r => r

/-- `n` words read by a Registrar, and the state with their accessed bits (R211). -/
def State.regRead (s : State) (dk space : Nat) (ptbase va : Word) (n : Nat) : RegRes (Nat × State) :=
  match s.regPlaces (regAccess dk space ptbase .read) true va n with
  | .ok l => .ok (l.foldr (fun p a => s.readAt p.2 p.1.key 8 + 2 ^ 64 * a) 0, l.foldl (fun s p => s.visit dk p.1 .read p.2) s)
  | .fail => .fail
  | .wait => .wait

/-- `n` bytes written by a Registrar within aligned 8-byte words: poison that stands there fails where `strict`, else a whole word
clears it (R224, R311, R324, R353). -/
def State.regWrite (s : State) (dk space : Nat) (ptbase : Word) (strict : Bool) (va : Word) (n v : Nat) : RegRes State :=
  match s.regPlaces (regAccess dk space ptbase .write) strict va ((n + 7) / 8) with
  | .ok l =>
    .ok (((List.range l.length).zip l).foldl (fun s r =>
      (s.visit dk r.2.1 .write r.2.2).place (regWriter dk) r.2.2 r.2.1.key (min 8 (n - 8 * r.1)) (bitsOf v (64 * r.1) 64)) s)
  | .fail => .fail
  | .wait => .wait

/-! ### Errors (R211) -/

/-- A queue's error: ERR, EN cleared, an event, MSI-X vector 1 (R211, R415, R416). -/
def State.queueErr (s : State) (p q err : Nat) : State :=
  let r := s.queue p q
  let s := s.setQueue p q { ((r.put 21 8 err).put 0 1 0) with ready := none, age := 0 }
  (s.roll (homeDie p q) 1 0 0x10 q (wordOf err) 0).raiseMsix p 1

/-! ### Packets (R213, R214) -/

/-- ENTRY. -/
def pkEntry (b : Nat) : Nat := bitsOf b 0 64
/-- ARG. -/
def pkArg (b : Nat) : Nat := bitsOf b 64 64
/-- MASK. -/
def pkMask (b : Nat) : Nat := bitsOf b 128 64
/-- CBASE. -/
def pkBase (b : Nat) : Nat := bitsOf b 192 10
/-- MINC. -/
def pkMinc (b : Nat) : Nat := bitsOf b 202 5
/-- PREFC. -/
def pkPrefc (b : Nat) : Nat := bitsOf b 207 5
/-- PRIO. -/
def pkPrio (b : Nat) : Nat := bitsOf b 212 3
/-- POLICY: FOLLOW. -/
def pkFollow (b : Nat) : Bool := bitsOf b 215 1 = 1
/-- GROUP. -/
def pkGroup (b : Nat) : Nat := bitsOf b 216 8
/-- MODE. -/
def pkMode (b : Nat) : Nat := bitsOf b 224 2
/-- COHORT. -/
def pkCohort (b : Nat) : Nat := bitsOf b 226 6
/-- TILES. -/
def pkTiles (b : Nat) : Nat := bitsOf b 232 5
/-- PIPELINE. -/
def pkPipeline (b : Nat) : Nat := bitsOf b 237 16
/-- PFTAG. -/
def pkTag (b : Nat) : Nat := bitsOf b 256 32
/-- RULE of input j. -/
def pkRule (b j : Nat) : Nat := bitsOf b (340 + 32 * j) 2
/-- DID of input j. -/
def pkDid (b j : Nat) : Nat := bitsOf b (320 + 32 * j) 20

/-- The mode a packet launches in (R213). -/
def pkLaunch (b : Nat) : Mode :=
  match pkMode b with
  | 1 => .pipeline
  | 2 => .cohort
  | _ => .plain

/-- The copies of a packet: rank and core, in rank order (R213, R215). -/
def pkCopies (b : Nat) : List (Nat × Nat) :=
  let cores := ((List.range 64).filter (pkMask b).testBit).map (pkBase b + ·)
  (List.range cores.length).zip cores

/-- Whether a packet is invalid in a queue with SUP = `sup`, among `dies` compute dies (R214, R310). -/
def pkInvalid (dies : Nat) (sup : Bool) (b : Nat) : Bool :=
  let cs := pkCopies b
  bitsOf b 253 3 ≠ 0 || bitsOf b 288 32 ≠ 0 || bitsOf b 448 64 ≠ 0 || (List.range 4).any (fun j => bitsOf b (342 + 32 * j) 10 ≠ 0)
    || bitsOf b 0 1 = 1 || pkMode b = 3 || pkMask b = 0 || cs.any (fun c => decide (192 * dies ≤ c.2))
    || decide (pkMinc b > pkPrefc b) || decide (pkPrefc b > 16) || decide (pkTiles b > 16)
    || (pkMode b = 1 && pkMinc b = 0)
    || (pkMode b = 2 && ((cs.map fun c => c.2 / 192).eraseDups.length ≠ 1 || pkCohort b ≠ cs.length % 64))
    || (pkMode b ≠ 2 && pkCohort b ≠ 0)
    || (pkPrio b = 7 && !sup)
    || (List.range 4).any fun j =>
        pkRule b j = 3 || (pkRule b j = 0 && pkDid b j ≠ 0) || (pkRule b j ≠ 0 && decide (16384 * dies ≤ pkDid b j))

/-! ### Drafts (R310, R311) -/

/-- Bits [34:0] of a draft's header and status word (R311, R317). -/
def DraftRec.word (d : DraftRec) : Word :=
  wordOf (d.version + bit d.final * 2 ^ 32 + bit d.stopreq * 2 ^ 33 + bit d.abandoned * 2 ^ 34)

/-- The status word of no draft (R317). -/
def draftNone : Word := 0x8000000000000000

/-- A write of a header made; one that fails is dropped with an event; nothing where it has to wait (R311, R363). -/
def State.headerGo (s : State) (dk : Nat) (w : HeaderWrite) : Option State :=
  match s.regWrite dk w.space w.ptbase true (w.header + wordOf w.off) w.len w.value with
  | .ok t => some t
  | .fail => some (s.roll dk 1 0 0x1B w.draft w.header 0)
  | .wait => none

/-- A write of a header that joins those of its die that wait. -/
def State.headerLater (s : State) (dk : Nat) (w : HeaderWrite) : State :=
  (s.setDie dk { s.die dk with headers := (s.die dk).headers ++ [w] }).pushOnce (dieEvent .dispatchSlot dk 0)

/-- Waiting header writes tried in order; one stays behind an earlier one of its draft (R311). -/
def State.headersGo (s : State) (dk : Nat) : List HeaderWrite → State
  | [] => s
  | w :: t =>
    if (s.die dk).headers.any fun q => q.draft == w.draft then (s.headerLater dk w).headersGo dk t
    else
      match s.headerGo dk w with
      | some u => u.headersGo dk t
      | none => (s.headerLater dk w).headersGo dk t

/-- A write of a header, from its byte `off`, behind those of its draft that wait (R311). -/
def State.headerWrite (s : State) (p d off n v : Nat) : State :=
  let e := s.draft p d
  let dk := homeDie p d
  let w : HeaderWrite := { draft := d, off := off, len := n, value := v, header := e.header, space := e.space, ptbase := e.ptbase }
  if (s.die dk).headers.any fun q => q.draft == d then s.headerLater dk w else (s.headerGo dk w).getD (s.headerLater dk w)

/-- Bytes 0 to 7 of the header written after a change (R311). -/
def State.mirror (s : State) (p d : Nat) : State := s.headerWrite p d 0 8 (s.draft p d).word.toNat

/-- Bytes 8 to 11 of the header written at registration: TAGI and TAGQ (R311). -/
def State.tag (s : State) (p d : Nat) : State :=
  s.headerWrite p d 8 4 ((s.draft p d).packet % 65536 + 65536 * ((s.draft p d).queue % 65536))

/-- Whether an input fires by its RULE (R319). -/
def DraftRec.fires (d : DraftRec) (rule : Nat) : Bool :=
  rule == 0 || (d.bound && (if rule = 1 then decide (1 ≤ d.version) || d.abandoned else d.final || d.abandoned))

/-- Whether every input of a packet has fired (R319). -/
def State.fired (s : State) (p b : Nat) : Bool := (List.range 4).all fun j => (s.draft p (pkDid b j)).fires (pkRule b j)

/-- The snapshot of a packet's inputs (R319). -/
def State.snapshot (s : State) (p b : Nat) : List SnapRec :=
  ((List.range 4).filter fun j => pkRule b j ≠ 0).map fun j =>
    let d := s.draft p (pkDid b j)
    { rule := pkRule b j, did := pkDid b j, status := if d.bound then d.word else draftNone }

/-- FINAL in a snapshot. -/
def SnapRec.final (r : SnapRec) : Bool := r.status.getLsbD 32

/-- Whether some input of a run is newer than its snapshot (R320). -/
def State.newer (s : State) (r : RunRec) : Bool :=
  r.snap.any fun i =>
    let d := s.draft (r.home / 4) i.did
    i.rule == 1 && !i.final && d.bound && decide (d.version > field i.status 0 32)

/-- The drafts of a package, by id. -/
def State.draftsOf (s : State) (p : Nat) : List (Nat × DraftRec) :=
  (List.range s.dieCount).flatMap fun d => (s.die (4 * p + d)).drafts.map fun r => (16384 * d + r.1, r.2)

/-! ### Settling (R323 to R325) -/

/-- The event flag of every task that passes a test set, of pre-empted ones too (R87). -/
def State.wakeAll (s : State) (t : Nat → Hart → Bool) : State :=
  let f (g : Nat) (h : Hart) : Hart := if t g h then { h with event := true } else h
  let u := s.known.foldl (fun u g => u.setHart g (f g (u.getHart g))) s
  { u with parked := u.parked.map fun p => (p.1, f p.1 p.2) }

/-- The event flag of a hart is set, for the task it runs and for those pre-empted on it (R87, log 59). -/
def State.wake (s : State) (g : Nat) : State := (s.setHart g { s.getHart g with event := true }).wakeAll fun j _ => j == g

/-- Whether pipeline `n` of a package has settled (R324). -/
def State.settled (s : State) (p n : Nat) : Bool :=
  let ds := (s.draftsOf p).filter fun r => r.2.bound && r.2.pipeline = n
  !ds.isEmpty && ds.all (fun r => r.2.final || r.2.abandoned)
    && !s.runs.any fun r => r.home / 4 == p && pkPipeline r.bytes == n && r.snap.any fun i => !i.final

/-- The condition evaluated: an armed pipeline that has settled reports it, in one step; where the page of its settle word is being
moved that step waits (R324, R325, R363, R415, R416). -/
def State.settleCheck (s : State) (p n : Nat) : State :=
  let e := s.pipe p n
  if n = 0 ∨ fieldB e 0 2 ≠ 1 ∨ ¬ s.settled p n then s
  else
    let w := if ((s.draftsOf p).filter fun r => r.2.bound && r.2.pipeline = n).all fun r => r.2.final then 1 else 2
    let dk := homeDie p n
    let before := s
    let s := s.setPipe p n (setFieldB e 0 2 2)
    let addr := wordOf (fieldB e 128 64)
    let r := if addr.toNat % 8 ≠ 0 then .fail else s.regWrite dk (fieldB e 112 16) (wordOf (fieldB e 192 64)) true addr 8 w
    match r with
    | .wait =>
      (before.setDie dk { before.die dk with settling := (before.die dk).settling.filter (· ≠ n) ++ [n] }).pushOnce
        (dieEvent .dispatchSlot dk 0)
    | _ =>
    let (s, ok) := match r with
      | .ok t => (t, true)
      | _ => (s, false)
    let s := if fieldB e 99 1 = 1 then s.wake (3072 * p + fieldB e 100 12) else s
    let s := s.roll dk 1 0 0x12 n (if ok then wordOf w else BitVec.allOnes 64) 0
    if ok then s.raiseMsix p 2 else s

end Sys2Proof.Machine
end

