-- ==== Sys2Proof/Machine/Launch.lean ====
section
/-! DEFINITION. Runs and copies: how a copy gets its hart, clusters and tiles (R91, R92, R215, R216), the Registrar's
selection (R218, R219), and how a task ends (R217, R225, R320 to R322, R340). -/

namespace Sys2Proof.Machine

/-! ### Runs (R319, R320) -/

/-- Whether a run is of a packet. -/
def RunRec.isOf (r : RunRec) (home queue packet : Nat) : Bool := r.home == home && r.queue == queue && r.packet == packet

/-- Whether a hart runs a copy of a run. -/
def Hart.ofRun (h : Hart) (r : RunRec) : Bool :=
  h.run != .idle && !h.task.boot && r.isOf h.task.home h.task.queue h.task.packet

/-- The run whose copy a hart runs. -/
def State.runOf (s : State) (h : Hart) : Option RunRec := s.runs.find? h.ofRun

/-- The state with a run replaced. -/
def State.setRun (s : State) (r : RunRec) : State :=
  { s with runs := s.runs.map fun q => if q.isOf r.home r.queue r.packet then r else q }

/-- The effective level of a packet (R218). -/
def levelOf (prio age : Nat) : Nat := if prio = 7 then 7 else min 6 (prio + age)

/-- Levels risen since a clock, one every 2^20 (R218). -/
def agedTo (ready now : Nat) : Nat := (now - ready) / 2 ^ 20

/-- The effective level of a run's packet (R218). -/
def State.runLevel (s : State) (r : RunRec) : Nat := levelOf (pkPrio r.bytes) (max r.age (agedTo r.ready s.clk))

/-- The event that copies handed over arrive at a die (R216). -/
def handoffEvent (r : RunRec) (die : Nat) : Event :=
  { kind := .copyHandoff, arg := { EvArg.none with pkg := r.home / 4, die := die, idx := r.queue, aux := r.packet } }

/-- The event that a stopped run is started afresh (R320). -/
def relaunchEvent (r : RunRec) : Event :=
  { kind := .relaunch, arg := { EvArg.none with pkg := r.home / 4, die := r.home % 4, idx := r.queue, aux := r.packet } }

/-- The copies of a run on dies other than the home one are handed over (R216). -/
def State.handOff (s : State) (r : RunRec) : State :=
  ((r.waiting.map fun c => c.2 / 192).eraseDups.filter fun d => d ≠ r.home % 4).foldl (fun s d => s.pushOnce (handoffEvent r d)) s

/-- The packet is fired again: every copy waits to start, with a fresh snapshot (R320). -/
def State.refire (s : State) (r : RunRec) : State :=
  let p := r.home / 4
  let r' := { r with
    snap := s.snapshot p r.bytes, waiting := pkCopies r.bytes, handed := [], stopping := false, due := false, ready := s.clk, age := 0 }
  ((((s.setRun r').handOff r').settleCheck p (pkPipeline r.bytes)).pokePackage p).pushOnce (dieEvent .levelAging r.home 0)

/-! ### Changes of drafts (R311, R320, R322, R324) -/

/-- The tail of every change of a draft: the header, the settling of its pipeline, and the Registrars' next look (R311,
R319, R324). -/
def State.draftTail (s : State) (p d : Nat) : State :=
  ((s.mirror p d).settleCheck p (s.draft p d).pipeline).pokePackage p

/-- Every draft a packet registered that is neither FINAL nor ABANDONED becomes ABANDONED (R322). -/
def State.abandon (s : State) (home queue packet : Nat) : State :=
  let p := home / 4
  ((s.draftsOf p).filter fun r =>
      r.2.bound && r.2.queue == queue && r.2.packet == packet && !r.2.final && !r.2.abandoned).foldl
    (fun s r => (s.setDraft p r.1 { r.2 with abandoned := true }).draftTail p r.1) s

/-! ### The end of a run (R217, R320, R322) -/

/-- DONE after the packets above it that are done (R217). -/
def advanceDone (above : List Nat) : Nat → Nat → Nat
  | 0, d => d
  | n + 1, d => if above.contains d then advanceDone above n ((d + 1) % 2 ^ 32) else d

/-- A packet is done: DONE advances when the gap closes, and its unfinished drafts are ABANDONED (R217, R322). -/
def State.packetDone (s : State) (r : RunRec) : State :=
  let p := r.home / 4
  let q := s.queue p r.queue
  let above := r.packet :: q.doneAbove
  let done := advanceDone above above.length q.done
  let s := s.setQueue p r.queue { (q.put 224 32 done) with doneAbove := above.filter fun n => decide ((n + 2 ^ 32 - done) % 2 ^ 32 < 2 ^ 31) }
  let s := { s with runs := s.runs.filter fun x => !x.isOf r.home r.queue r.packet }
  ((s.abandon r.home r.queue r.packet).settleCheck p (pkPipeline r.bytes)).pokePackage p

/-- Whether a run has no copy left, and none to start. -/
def RunRec.spent (r : RunRec) : Bool := r.live == 0 && !r.due && (r.waiting.isEmpty || r.stopping)

/-- A run that has no copy left: relaunched when it was stopped, fired again when an input is newer, else over (R320); the advance of
DONE is a release, which waits until the Registrars' writes are placed (R231, R256). -/
def State.runCheck (s : State) (r : RunRec) : State :=
  if !r.spent then s
  else if r.stopping then (s.setRun { r with due := true }).pushOnce (relaunchEvent r)
  else if s.newer r then s.refire r
  else if s.regHeld (r.home / 4) then s.pushOnce (dieEvent .dispatchSlot r.home 0)
  else s.packetDone r

/-! ### The end of a task (R225, R321, R340) -/

/-- A hart's tiles, its request for tiles and their hall pass are given up (R171, R404). -/
def State.dropTiles (s : State) (g : Nat) (h : Hart) : State :=
  let fk := formKey g
  let f := s.form fk
  let s := s.setForm fk { f with tileWait := f.tileWait.filter fun r => r.1 ≠ g }
  let s := s.withdraw (dieKey g) fun r => r.kind == .tile && r.g == g
  let s := if h.mat.pass || h.mat.reply == some true then s.returnPass (dieKey g) tileCharge else s
  s.freeTiles fk (h.mat.tiles + (if h.mat.asked then h.mat.taken else 0))

/-- A task's explicit and exchange passes come back and its binding ends (R309, R404). -/
def State.dropPasses (s : State) (g : Nat) (h : Hart) : State :=
  let s := if h.hpass = 0 then s else s.returnPass (dieKey g) h.hpass
  let s := if h.xch.pass then s.returnPass (dieKey g) exchangeCharge else s
  s.leaveRound h

/-- What a task holds beside its lease is given up: streams, tiles, passes, its binding (R225, R280, R309, R340, R404). -/
def State.dropHeld (s : State) (g : Nat) (h : Hart) : State :=
  let s := (List.range 8).foldl (fun s j => s.dropPass g j (h.slot j)) s
  let s := s.dropTiles g h
  (s.withdraw (dieKey g) fun r => (r.kind == .explicit || r.kind == .exchange) && r.g == g).dropPasses g h

/-- What a pre-empted task has kept in place is given up (R349); its hart's requests are those of another task. -/
def State.dropKept (s : State) (g : Nat) (h : Hart) : State :=
  let s := (List.range 8).foldl (fun s j => if (h.slot j).pass then s.returnPass (dieKey g) streamCharge else s) s
  let s := if h.mat.pass then s.returnPass (dieKey g) tileCharge else s
  (s.freeTiles (formKey g) h.mat.tiles).dropPasses g h

/-- A hart whose task has ended or been pre-empted: what no rule clears stays as the task left it (R225). -/
def Hart.cleared (h : Hart) : Hart :=
  { Hart.reset with
    pc := h.pc, x := h.x, ctl := h.ctl, event := h.event, masks := h.masks, q := h.q, mat := { Mat.none with bs := h.mat.bs }
    dpc := h.dpc }

/-- The other harts of a pipeline copy that still run (R109, R225). -/
def State.partners (s : State) (g : Nat) (h : Hart) : List Nat :=
  if h.mode = .pipeline then
    ((List.range 4).map (4 * coreKey g + ·)).filter fun j =>
      j ≠ g && (s.getHart j).task.rank = h.task.rank && (s.getHart j).sameLaunch h
  else []

/-- What is reserved and awaited for the copy of hart `g` is from now on for that of `heir`, or for none (R92). -/
def State.reKeyClusters (s : State) (g : Nat) (heir : Option Nat) : State :=
  let change (l : List (Nat × Nat)) : List (Nat × Nat) := l.filterMap fun r => if r.1 = g then heir.map (·, r.2) else some r
  let s := s.setForm (formKey g) { s.form (formKey g) with awaiting := change (s.form (formKey g)).awaiting }
  (formHarts (formKey g)).foldl (fun s j =>
    let h := s.getHart j
    if (h.lease.leaving ++ h.lease.reserved).any fun r => r.1 == g then
      s.setHart j { h with lease := { h.lease with leaving := change h.lease.leaving, reserved := change h.lease.reserved } }
    else s) s

/-- The lease of a pipeline copy passes to the partners that remain when its holder leaves (R225). -/
def State.passLease (s : State) (g : Nat) (h : Hart) : State :=
  match s.partners g h with
  | [] => s
  | o :: t =>
    if h.owner ≠ g then s
    else
      let s := s.setHart o { s.getHart o with lease := h.lease }
      let s := (o :: t).foldl (fun s j => s.setHart j { s.getHart j with owner := o }) s
      let s := s.reKeyClusters g (some o)
      let d := s.die (dieKey g)
      s.setDie (dieKey g) { d with waiting := d.waiting.map fun r => if r.kind == .cluster && r.g == g then { r with g := o } else r }

/-- The next spare physical form of a die: they are numbered from 48 up, in the order in which they are taken (R411, log 66). -/
def NvStore.nextSpare (n : NvStore) (die : Nat) : Nat :=
  ((n.spareMap.filter fun e => e.1 / 48 == die).map fun e => e.2 + 1).foldl max 48

/-- Once a form that is to be replaced is empty, a spare takes its number: slates, scalar data memories and accumulators
zero, dispatch resumes (R411). -/
def State.spareForm (s : State) (fk : Nat) : State :=
  let f := s.form fk
  let busy := (formHarts fk).any (fun g => (s.getHart g).run != .idle) || s.parked.any fun p => formKey p.1 = fk
  if !f.quiesced || busy then s
  else
    let cores := (List.range 4).map fun c => fk / 192 * 768 + fk % 192 * 4 + c
    let own (k : Nat) : Bool := cores.any fun c =>
      (decide (2 ^ 56 + c * 2 ^ 20 ≤ k) && decide (k < 2 ^ 56 + (c + 1) * 2 ^ 20))
        || (decide (2 ^ 57 + c * 2 ^ 16 ≤ k) && decide (k < 2 ^ 57 + (c + 1) * 2 ^ 16))
    let s := { s with mem :=
      { cells := s.mem.cells.filter fun c => !own c.1, pois := s.mem.pois.filter fun c => !own (8 * c.1) } }
    let r := s.pkg (fk / 192)
    let n := r.nv.nextSpare (fk / 48 % 4)
    let s := s.setForm fk { f with quiesced := false, spared := n }
    let s := s.setPkg (fk / 192) { r with nv := { r.nv with spareMap := SMap.set 0 r.nv.spareMap (fk % 192) n } }
    (s.roll (fk / 48) 1 0 0x18 (fk % 48) (wordOf n) 0).pokePackage (fk / 192)

/-- A hart's task ends there (R225, R321, R340): everything it holds is given up and the hart is idle.  The lease of a
pipeline copy goes with the last of its harts. -/
def State.endHart (s : State) (g : Nat) : State :=
  let h := s.getHart g
  let s := s.dropHeld g h
  let s := if (s.partners g h).isEmpty then (s.reKeyClusters g none).releaseLease g else s.passLease g h
  let s := (((s.setHart g { h.cleared with xch := h.xch.left }).freeXid h.xch.xid).freeFailed h.xch.xid).cohortPhase h
  (s.spareForm (formKey g)).pokePackage (pkgOf g)

/-- Whether another hart of a pipeline copy is pre-empted with it (R348). -/
def State.parkedPartner (s : State) (g : Nat) (h : Hart) : Bool :=
  h.mode == .pipeline && s.parked.any fun p => coreKey p.1 == coreKey g && p.2.task.rank == h.task.rank && p.2.sameLaunch h

/-- A copy's end is counted by its run (R217, R321), once, with the last hart of a pipeline copy; `h` is what its hart was. -/
def State.copyEnded (s : State) (g : Nat) (h : Hart) : State :=
  if !(s.partners g h).isEmpty || s.parkedPartner g h then s
  else
    match s.runs.find? h.ofRun with
    | none => s
    | some r =>
      let r := { r with live := r.live - 1 }
      (s.setRun r).runCheck r

/-- The task of a hart ends by TEXIT, or by a stop (R225, R321). -/
def State.endTask (s : State) (g : Nat) : State :=
  let h := s.getHart g
  (s.endHart g).copyEnded g h

/-- The harts of a task: three in pipeline mode (R340). -/
def State.taskHarts (s : State) (g : Nat) : List Nat := g :: s.partners g (s.getHart g)

/-- One hart of a killed task ends, with a KILL event; its drafts are ABANDONED at once (R322, R340, R358). -/
def State.killHart (s : State) (g cause : Nat) (pc : Word) : State :=
  let h := s.getHart g
  let s := s.rollHart g 8 cause pc (wordOf (h.task.packet + h.task.queue * 2 ^ 32))
  let s := if h.task.boot then s else s.abandon h.task.home h.task.queue h.task.packet
  s.endTask g

/-- A pre-empted task's hart is gone: what it kept is given up, and its cohort and its run go on without it (R225, R321, R349). -/
def State.endParked (s : State) (g : Nat) (h : Hart) : State :=
  let s := { s with parked := s.parked.filter fun p => p.2.task ≠ h.task ∨ p.1 ≠ g }
  (((((s.dropKept g h).freeXid h.xch.xid).freeFailed h.xch.xid).cohortPhase h).spareForm (formKey g)).copyEnded g h

/-- The tasks of a pre-empted hart end with the die (R414), or because it cannot be restored (R350). -/
def State.killParked (s : State) (g : Nat) (h : Hart) (cause : Nat) : State :=
  let s := s.rollHart g 8 cause h.pc (wordOf (h.task.packet + h.task.queue * 2 ^ 32))
  (if h.task.boot then s else s.abandon h.task.home h.task.queue h.task.packet).endParked g h

/-- A fatal error of a die: the event, the rollbook frozen behind it, MSI-X vector 0, and the die's tasks killed (R414). -/
def State.fatal (s : State) (dk unit : Nat) (detail : Word) : State :=
  let s := s.roll dk 1 0 0x1F unit detail 0
  let s := s.setDie dk { s.die dk with rollFrozen := true }
  let s := s.raiseMsix (dk / 4) 0
  let s := (s.known.filter fun g => dieKey g = dk && (s.getHart g).run != .idle).foldl
    (fun s g => if (s.getHart g).run = .idle then s else s.killHart g 0 (s.getHart g).pc) s
  (s.parked.filter fun p => dieKey p.1 = dk).foldl (fun s p => s.killParked p.1 p.2 0) s

/-- The kill of the task of a hart (R340): every hart of it; that of a boot task is a fatal error of its die (R399). -/
def State.kill (s : State) (g cause : Nat) (pc : Word) : State :=
  let boot := (s.getHart g).task.boot
  let gs := s.taskHarts g
  let t := gs.foldl (fun s j => s.killHart j cause (if j = g then pc else (s.getHart j).pc)) s
  if boot then t.fatal (dieKey g) (dieHart g) (wordOf cause) else t

/-! ### RESTART stops (R320, R321) -/

/-- A RESTART run is to be stopped (R321): copies not started are dropped, pre-empted ones end at once, and each running
hart is asked to stop. -/
def State.stopRun (s : State) (r : RunRec) : State :=
  let r := { r with stopping := true, waiting := [], handed := [] }
  let s := s.setRun r
  let s := (s.parked.filter fun p => p.2.ofRun r).foldl (fun s p => s.endParked p.1 p.2) s
  let gs := s.known.filter fun g => (s.getHart g).ofRun r
  let s := (gs.filter fun g => (s.getHart g).run = .starting).foldl (fun s g => s.endTask g) s
  let s := (gs.filter fun g => (s.getHart g).run = .running).foldl (fun s g => s.setHart g { s.getHart g with stop := true }) s
  match s.runs.find? fun x => x.isOf r.home r.queue r.packet with
  | some x => s.runCheck x
  | none => s

/-- After a publication: the RESTART runs that a newer input stops (R320). -/
def State.stopNewer (s : State) (p : Nat) : State :=
  (s.runs.filter fun r => r.home / 4 == p && !pkFollow r.bytes && !r.stopping && !r.due && s.newer r).foldl State.stopRun s

/-- A change of a draft's entry takes effect (R311, R314, R319 to R322, R324). -/
def State.draftChanged (s : State) (p d : Nat) : State := (s.draftTail p d).stopNewer p

/-! ### Clusters for a copy (R91, R92) -/

/-- Clusters of a holder, which waits for `due` reserved ones, above its minimum that the Bursar may take back: at once those of a
raise not yet taken, and at its next boundary those it holds (R91, R112, R345). -/
def Hart.revocable (h : Hart) (due : Nat) : Nat × Nat :=
  let l := h.lease
  let t := l.target.getD l.held
  if h.vclaimed then (0, 0)
  else if h.mode = .pipeline then (0, l.held + due - l.minc - reservedSum l.reserved)
  else (t - l.held, min l.held t + due - l.minc)

/-- What the Bursar may take back from the holder of a hart. -/
def State.revocable (s : State) (g : Nat) : Nat × Nat := (s.getHart g).revocable (s.awaits g)

/-- The holders of a form that a copy of a priority may take from: the lowest priority first, among equals the highest
number (R91). -/
def State.victims (s : State) (fk prio : Nat) : List Nat :=
  let gs := (formHarts fk).filter fun g =>
    let h := s.getHart g
    h.run != .idle && h.owner == g && decide (h.task.prio < prio)
  (List.range 8).flatMap fun q => (gs.filter fun g => (s.getHart g).task.prio = q).reverse

/-- A holder gives up to `n` clusters for the copy of hart `c`: those of an untaken raise become free at once, with their hall
passes; the rest become its pending target, reserved for that copy (R92, R93). -/
def State.revokeFrom (s : State) (c g n : Nat) : State × Nat × Nat :=
  let h := s.getHart g
  let (now, later) := s.revocable g
  let a := min n now
  let b := min (n - a) later
  let l := h.lease
  let kept := if b = 0 then l.reserved else l.reserved ++ [(c, b)]
  let l := if a = 0 ∧ b = 0 then l
    else if h.mode = .pipeline then { l with reserved := kept }
    else
      let t := l.target.getD l.held - a - b
      { l with target := if t = l.held then .none else some t, reserved := kept, passes := l.passes - a }
  let s := s.setHart g { h with lease := l }
  (if a = 0 then s else s.returnPass (dieKey g) (a * clusterCharge), a, b)

/-- The clusters of a copy's minimum: how many it holds at once and how many it awaits; nothing where the minimum cannot be
met (R91, R92). -/
def State.takeMinimum (s : State) (fk g minc prio : Nat) : Option (State × Nat) :=
  let f := s.form fk
  if minc ≤ f.clusters then some (s.setForm fk { f with clusters := f.clusters - minc }, minc)
  else
    let need := minc - f.clusters
    let vs := s.victims fk prio
    let total := vs.foldl (fun n v => n + (s.revocable v).1 + (s.revocable v).2) 0
    if total < need then none
    else
      let (s, now, left) := vs.foldl (fun (acc : State × Nat × Nat) v =>
        let (s, a, b) := acc.1.revokeFrom g v acc.2.2
        (s, acc.2.1 + a, acc.2.2 - a - b)) (s, 0, need)
      let await := need - now - left
      let f' := s.form fk
      some (s.setForm fk { f' with clusters := 0, awaiting := if await = 0 then f'.awaiting else f'.awaiting ++ [(g, await)] },
        f.clusters + now)

/-- Free clusters beyond the minimum taken for a copy, each with its hall pass asked for (R91). -/
def State.takeExtra (s : State) (fk g : Nat) : Nat → State
  | 0 => s
  | n + 1 =>
    let f := s.form fk
    if f.clusters = 0 then s
    else
      let (t, ok) := s.askPass (dieKey g) { kind := .cluster, g := g, slot := 0, charge := clusterCharge }
      let t := t.setForm fk { f with clusters := f.clusters - 1 }
      let h := t.getHart g
      let l := h.lease
      (t.setHart g { h with lease :=
        if ok then { l.gain 1 with passes := l.passes + 1 } else { l with setAside := l.setAside + 1 } }).takeExtra fk g n

/-! ### Starting a copy (R20, R215, R216) -/

/-- The `n` lowest-numbered context areas of a package that no hart has (R348, log 24). -/
def State.freeAreas (s : State) (p n : Nat) : List Nat :=
  let used := (s.allHarts.filter fun h => pkgOf h.1 = p && h.2.run != .idle).map fun h => h.2.task.area
  ((List.range (min (s.pkg p).boot.ctxCount (used.length + n))).filter fun i => !used.contains i).take n

/-- The address of a context area (R400). -/
def State.areaAddr (s : State) (p i : Nat) : Word := wordOf ((s.pkg p).boot.ctxBase + 4194304 * i)

/-- A hart in the state of R20 for a copy of a run, waiting to begin. -/
def State.copyHart (s : State) (r : RunRec) (g rank owner role area : Nat) : Hart :=
  let old := s.getHart g
  let b := r.bytes
  { Hart.reset with
    pc := wordOf (pkEntry b)
    x := ((((Vector.replicate 32 0).set 10 (wordOf (pkArg b))).set 11 (wordOf rank)).set 12 (wordOf (pkCopies b).length)).set 13 (wordOf role)
      |>.set 30 (stackTop (g % 4))
    ctl := { Ctl.reset with
      trapvec := old.ctl.trapvec, scratch := old.ctl.scratch, space := wordOf r.space, ptbase := r.ptbase &&& 0x000FFFFFFFFFF001
      spaceNow := wordOf r.space, ptbaseNow := r.ptbase &&& 0x000FFFFFFFFFF001, vsaveptr := s.areaAddr (pkgOf g) area
      vcfg := if pkMode b = 1 then 0x1000000 else 0 }
    run := .starting, mode := pkLaunch b, role := role, owner := owner
    task := { home := r.home, queue := r.queue, packet := r.packet, rank := rank, copies := (pkCopies b).length, prio := pkPrio b, boot := false, area := area }
    lease := { Lease.none with minc := pkMinc b, prefc := pkPrefc b }
    dpc := old.dpc, xch := old.xch, code := s.mem }

/-- The tiles of a copy attached as by MATT, ahead of every request that waits (R215). -/
def State.startTiles (s : State) (g n : Nat) : State :=
  if n = 0 then s
  else
    let fk := formKey g
    let f := s.form fk
    let s := s.setForm fk { f with tiles := f.tiles - n }
    let (s, ok) := s.askPass (dieKey g) { kind := .tile, g := g, slot := 0, charge := tileCharge }
    let h := s.getHart g
    s.setHart g { h with mat := { h.mat with taken := n, asked := true, reply := if ok then some true else none } }

/-- The idle harts of a core, lowest first (R215). -/
def State.idleHarts (s : State) (core : Nat) : List Nat :=
  ((List.range 4).map (4 * core + ·)).filter fun g => (s.getHart g).run = .idle

/-- One copy of a run given its hart, its minimum and its tiles, if they are to be had (R215): the state, and the hart that holds its
lease. -/
def State.startCopy (s : State) (r : RunRec) (rank core : Nat) : Option (State × Nat) :=
  let p := r.home / 4
  let ck := 768 * p + core
  let n := if pkMode r.bytes = 1 then 3 else 1
  let hs := (s.idleHarts ck).take n
  let g := hs.headD 0
  let fk := formKey g
  if hs.length < n || (s.freeAreas p n).length < n || (s.form fk).quiesced || (s.core ck).halted || (s.core ck).halting
      || decide ((s.form fk).tiles < pkTiles r.bytes) then none
  else
    let areas := s.freeAreas p n
    match s.takeMinimum fk g (pkMinc r.bytes) (pkPrio r.bytes) with
    | some (t, held) =>
      let t := (hs.zip (List.range n)).foldl (fun t h =>
        let c := t.copyHart r h.1 rank g h.2 (areas.getD h.2 0)
        t.setHart h.1 (if h.1 = g then { c with lease := { c.lease with held := held, lanes := held } } else c)) t
      some (t.startTiles (hs.getD (n - 1 - (n - 1) / 2) g) (pkTiles r.bytes), g)
    | none => none

/-- The clusters beyond its minimum that a copy takes once its dispatch has succeeded (R91). -/
def State.extras (s : State) (r : RunRec) (g : Nat) : State := s.takeExtra (formKey g) g (pkPrefc r.bytes - pkMinc r.bytes)

/-- Copies of a run on a die started, up to `n` of those that can start (R218, R219): the state and how many did. -/
def State.startSome (s : State) (r : RunRec) : List (Nat × Nat) → Nat → List (Nat × Nat) → State × List (Nat × Nat)
  | [], _, did => (s, did)
  | c :: t, n, did =>
    if n = 0 then (s, did)
    else
      match s.startCopy r c.1 c.2 with
      | some (s', g) => (s'.extras r g).startSome r t (n - 1) (did ++ [c])
      | none => s.startSome r t n did

/-- Every member of a cohort started, or none (R216): the state, and the harts that hold their leases. -/
def State.startAll (s : State) (r : RunRec) : List (Nat × Nat) → Option (State × List Nat)
  | [] => some (s, [])
  | c :: t =>
    match s.startCopy r c.1 c.2 with
    | some (s', g) => (s'.startAll r t).map fun p => (p.1, g :: p.2)
    | none => none

/-- The copies of a run started in one slot, of those given (R216, R219). -/
def State.startSlot (s : State) (r : RunRec) (cs : List (Nat × Nat)) : State × List (Nat × Nat) :=
  if pkMode r.bytes = 2 then
    match s.startAll r cs with
    | some (t, gs) => (gs.foldl (fun t g => t.extras r g) t, cs)
    | none => (s, [])
  else s.startSome r cs 4 []

/-- HEAD advances once the packet's last copy has started, on whatever die, and the home die is due a slot (R216, R219). -/
def State.leaveHead (s : State) (r : RunRec) : State :=
  if r.atHead && r.waiting.isEmpty then
    let p := r.home / 4
    let q := s.queue p r.queue
    ((s.setQueue p r.queue { (q.put 192 32 ((r.packet + 1) % 2 ^ 32)) with ready := none, age := 0 }).setRun { r with atHead := false }).pushOnce
      (dieEvent .dispatchSlot r.home 0)
  else s

/-- Copies have started: they begin where nothing is lacking, the run counts them, and the packet may leave HEAD (R215,
R216). -/
def State.started (s : State) (r : RunRec) (did : List (Nat × Nat)) : State :=
  let r := { r with waiting := r.waiting.filter fun c => !did.contains c, live := r.live + did.length }
  let s := { (s.setRun r).leaveHead r with dispatched := s.dispatched || !did.isEmpty }
  (s.known.filter fun g => (s.getHart g).ofRun r && (s.getHart g).run = .starting).foldl (fun s g => s.tryStart g) s

/-! ### Selection (R218, R219) -/

/-- A ready packet at HEAD: its queue, its run as it would be, and its effective level. -/
structure Cand where
  queue : Nat
  run : RunRec
  level : Nat
  deriving DecidableEq, Repr

/-- The packet at the HEAD of a queue looked at (R211, R214, R218): an error, or the state with its readiness noted and the
packet as a candidate. -/
def State.look (s : State) (dk i : Nat) : State × Option Cand :=
  let p := dk / 4
  let qn := 16384 * (dk % 4) + i
  let q := s.queue p qn
  if !q.enabled || q.count = 0 || s.runs.any (fun r => r.home == dk && r.queue == qn && r.atHead) then (s, none)
  else
    match s.regRead dk q.cap.space q.cap.ptbase (q.slot q.head) 8 with
    | .fail => (s.queueErr p qn 3, none)
    | .wait => (s.pushOnce (dieEvent .dispatchSlot dk 0), none)
    | .ok (b, t) =>
      if pkInvalid s.dieCount q.cap.sup b then (t.queueErr p qn 1, none)
      else if !s.fired p b then (t.setQueue p qn { q with ready := none, age := 0 }, none)
      else
        let ready := q.ready.getD s.clk
        let t := if q.ready.isNone then t.pushOnce (dieEvent .levelAging dk 0) else t
        (t.setQueue p qn { q with ready := some ready },
          some {
            queue := qn, level := levelOf (pkPrio b) (max q.age (agedTo ready s.clk))
            run := {
              home := dk, queue := qn, packet := q.head, bytes := b, space := q.cap.space, ptbase := q.cap.ptbase
              snap := [], waiting := pkCopies b, handed := [], live := 0, atHead := true, stopping := false, due := false
              ready := ready, age := q.age } })

/-- Every queue of a die looked at, in queue-number order. -/
def State.lookAll (s : State) (dk : Nat) : State × List Cand :=
  ((s.die dk).queues.map Prod.fst).foldl (fun acc i =>
    let (t, c) := acc.1.look dk i
    (t, acc.2 ++ c.toList)) (s, [])

/-- The copies of a run on a die. -/
def RunRec.onDie (r : RunRec) (dk : Nat) : List (Nat × Nat) := r.waiting.filter fun c => c.2 / 192 = dk % 4

/-- Whether a candidate is dispatchable on its home die: some copy there can start, or none is there (R218, log 25). -/
def State.dispatchable (s : State) (dk : Nat) (c : Cand) : Bool :=
  let cs := c.run.onDie dk
  cs.isEmpty || !(s.startSlot c.run cs).2.isEmpty

/-- The cost of a packet on a die in slots (R219). -/
def Cand.cost (dk : Nat) (c : Cand) : Nat := max 1 (((c.run.onDie dk).length + 3) / 4)

/-- A fraction in lowest terms. -/
def Frac.mk' (n d : Nat) : Frac := ⟨n / Nat.gcd n d, d / Nat.gcd n d⟩

/-- The sum of two fractions. -/
def Frac.add (a b : Frac) : Frac := Frac.mk' (a.num * b.den + b.num * a.den) (a.den * b.den)

/-- Whether a fraction is at most another. -/
def Frac.le (a b : Frac) : Bool := decide (a.num * b.den ≤ b.num * a.den)

/-- The greater of two fractions. -/
def Frac.max (a b : Frac) : Frac := if a.le b then b else a

/-- The weight of a queue group on a die: 0 acts as 1 (R209). -/
def State.groupWeight (s : State) (dk g : Nat) : Nat :=
  let w := (SMap.get (0 : Byte) (s.die dk).weights g).toNat
  if w = 0 then 1 else w

/-- The next candidate of a group: the first queue after the last-served one, wrapping (R219). -/
def nextOf (last : Nat) (cs : List Cand) : Option Cand :=
  match cs.find? fun c => decide (last ≤ c.queue) with
  | some c => some c
  | none => cs.head?

/-- A level's record with the groups backlogged now (R219): each that was not takes its tags. -/
def State.backlog (s : State) (dk : Nat) (l : LevelRec) (cs : List Cand) : LevelRec :=
  let groups := (cs.map fun c => pkGroup c.run.bytes).eraseDups
  let l := { l with groups := l.groups.map fun g => (g.1, { g.2 with backlogged := g.2.backlogged && groups.contains g.1 }) }
  groups.foldl (fun l g =>
    let r := SMap.get GroupRec.reset l.groups g
    if r.backlogged then l
    else
      let cost := ((nextOf r.last (cs.filter fun c => pkGroup c.run.bytes = g)).map (Cand.cost dk)).getD 1
      let start := Frac.max l.virt r.finish
      let r' := { r with start := start, finish := start.add (Frac.mk' cost (s.groupWeight dk g)), backlogged := true }
      { l with groups := SMap.set GroupRec.reset l.groups g r' }) l

/-- The group served next: eligible ones by the least finish tag, ties to the lowest number; V as it then stands (R219). -/
def pickGroup (l : LevelRec) (groups : List Nat) : Option (Nat × Frac) :=
  let tag g := SMap.get GroupRec.reset l.groups g
  let least (f : Nat → Frac) (gs : List Nat) : Option Nat :=
    gs.foldl (fun b g => match b with
      | none => some g
      | some x => if (f x).le (f g) ∧ (¬ (f g).le (f x) ∨ x ≤ g) then some x else some g) none
  let virt := if groups.any fun g => (tag g).start.le l.virt then l.virt
    else ((least (fun g => (tag g).start) groups).map fun g => (tag g).start).getD l.virt
  (least (fun g => (tag g).finish) (groups.filter fun g => (tag g).start.le virt)).map fun g => (g, virt)

/-- A candidate is selected: its snapshot is taken, its copies on this die start and the others are handed over (R216,
R219, R319). -/
def State.fire (s : State) (dk : Nat) (c : Cand) : State :=
  let r := { c.run with snap := s.snapshot (dk / 4) c.run.bytes }
  let s := { s with runs := s.runs ++ [r] }
  let (s, did) := s.startSlot r (r.onDie dk)
  let s := s.started r did
  (s.handOff r).settleCheck (dk / 4) (pkPipeline r.bytes)

/-- A selection at a level among the dispatchable candidates of that level (R219). -/
def State.select (s : State) (dk level : Nat) (cs : List Cand) : State :=
  let l := s.backlog dk (SMap.get LevelRec.reset (s.die dk).levels level) cs
  let groups := (cs.map fun c => pkGroup c.run.bytes).eraseDups
  match pickGroup l groups with
  | none => s
  | some (g, virt) =>
    let r := SMap.get GroupRec.reset l.groups g
    match nextOf r.last (cs.filter fun c => pkGroup c.run.bytes = g) with
    | none => s
    | some c =>
      let sum := groups.foldl (fun n h => n + s.groupWeight dk h) 0
      let virt := virt.add (Frac.mk' (c.cost dk) sum)
      let (t, rest) := (s.fire dk c).lookAll dk
      let rest := rest.filter fun x => x.level = level && pkGroup x.run.bytes = g && t.dispatchable dk x
      let last := c.queue + 1
      let r := match nextOf last rest with
        | some x => { r with start := r.finish, finish := r.finish.add (Frac.mk' (x.cost dk) (s.groupWeight dk g)), last := last }
        | none => { r with backlogged := false, last := last }
      let d := t.die dk
      t.setDie dk { d with levels := SMap.set LevelRec.reset d.levels level { l with virt := virt, groups := SMap.set GroupRec.reset l.groups g r } }

/-- The runs with copies that wait on a die (R216, R219, R320).  DESIGN CHOICE (log 25): a packet selected and handed to another die is
owed there also where its queue is disabled before any copy has started (R210). -/
def State.owed (s : State) (dk : Nat) : List RunRec :=
  s.runs.filter fun r => r.home / 4 == dk / 4 && !r.stopping && !r.due && (r.home == dk || r.handed.contains (dk % 4)) && !(r.onDie dk).isEmpty

/-- The first of some runs of which a copy can start on a die, with the state in which up to four have (R219). -/
def State.startOwed (s : State) (dk : Nat) : List RunRec → Option State
  | [] => none
  | r :: t =>
    let (u, did) := s.startSlot r (r.onDie dk)
    if did.isEmpty then s.startOwed dk t else some (u.started r did)

/-- Whether a copy waits for a core at a level or above and finds no hart there idle (R226). -/
def State.copyWaits (s : State) (core level : Nat) : Bool :=
  let p := core / 768
  let here (r : RunRec) : Bool := r.waiting.any fun c => 768 * p + c.2 = core
  (s.idleHarts core).isEmpty &&
    ((s.runs.any fun r => r.home / 4 == p && !r.stopping && !r.due && here r && decide (level ≤ s.runLevel r))
      || (List.range s.dieCount).any fun d => (s.lookAll (4 * p + d)).2.any fun c => here c.run && decide (level ≤ c.level))

/-- A pre-emption asked of the task of a hart, on every hart of it (R348). -/
def State.askPreempt (s : State) (g reason : Nat) : State :=
  (s.taskHarts g).foldl (fun s j => s.setHart j { s.getHart j with preempt := some reason }) s

/-- A level 7 copy that finds no idle hart in its core pre-empts the core's task of the lowest priority, the highest hart
number on ties (R218). -/
def State.levelSeven (s : State) (core : Nat) : State :=
  let gs := ((List.range 4).map (4 * core + ·)).filter fun g => (s.getHart g).run = .running
  if gs.any fun g => (s.getHart g).preempt.isSome then s
  else
    match gs.foldl (fun b g => match b with
        | none => some g
        | some x => if (s.getHart g).task.prio ≤ (s.getHart x).task.prio then some g else some x) (none : Option Nat) with
    | some g => s.askPreempt g 2
    | none => s

/-- The cores for which a level 7 copy waits on a die, without a hart.  DESIGN CHOICE (log 25): a pipeline copy, which needs three harts,
finds none where fewer than three are idle (R218). -/
def State.sevenCores (s : State) (dk : Nat) (cs : List Cand) : List Nat :=
  let p := dk / 4
  let rs := (s.owed dk).filter (fun r => s.runLevel r = 7) ++ (cs.filter fun c => c.level = 7).map Cand.run
  (rs.flatMap fun r =>
    ((r.onDie dk).filter fun c => decide ((s.idleHarts (768 * p + c.2)).length < (if pkMode r.bytes = 1 then 3 else 1))).map
      fun c => 768 * p + c.2).eraseDups

/-- The tags of every level of a die with the groups backlogged now, so that a group that has ceased to be takes new ones when it is
again (R219). -/
def State.noteBacklog (s : State) (dk : Nat) (cs : List Cand) : State :=
  (List.range 8).foldl (fun s n =>
    let d := s.die dk
    let l := s.backlog dk (SMap.get LevelRec.reset d.levels n) (cs.filter fun c => c.level = n)
    s.setDie dk { d with levels := SMap.set LevelRec.reset d.levels n l }) s

/-- What waited for a page that was being moved is tried again: header writes and settle words (R311, R324, R363), and DONE of packets
whose runs are over (R231). -/
def State.retry (s : State) (dk : Nat) : State :=
  let d := s.die dk
  let s := (s.setDie dk { d with headers := [], settling := [] }).headersGo dk d.headers
  let s := d.settling.foldl (fun s n => s.settleCheck (dk / 4) n) s
  (s.runs.filter fun r => r.home == dk && r.spent).foldl State.runCheck s

/-- A dispatch slot of a die (R218, R219): a level 7 copy that finds no idle hart in its core pre-empts a task there; copies that are
owed start ahead of every selection at their level or below, else the highest level with a dispatchable packet is served.  A start is a
release, which waits until the Registrars' writes are placed (R231, R256). -/
def State.dispatchSlot (s : State) (dk : Nat) : State :=
  let s := s.retry dk
  if s.regHeld (dk / 4) then s.pushOnce (dieEvent .dispatchSlot dk 0)
  else
  let (s, all) := s.lookAll dk
  let s := (s.sevenCores dk all).foldl State.levelSeven s
  let cs := all.filter fun c => s.dispatchable dk c
  let s := s.noteBacklog dk cs
  let best := cs.foldl (fun b c => max b (c.level + 1)) 0
  let again := dieEvent .dispatchSlot dk 0
  match s.startOwed dk ((s.owed dk).filter fun r => decide (best ≤ s.runLevel r + 1)) with
  | some t => t.pushOnce again
  | none => if best = 0 then s else (s.select dk (best - 1) (cs.filter fun c => c.level + 1 = best)).pushOnce again

end Sys2Proof.Machine
end

