-- ==== Sys2Proof/Machine/Window.lean ====
section
/-! DEFINITION. The Registrar windows (R209, R210, R221, R323, R368, R369, R402, R414): what a read of them gives and what a
write of them does, for the hosts and for supervisor code. -/

namespace Sys2Proof.Machine

/-- Bytes of a Registrar window (R396). -/
def windowBytes : Nat := 0x2000000

/-- The parts of a window. -/
inductive WinPart where
  | queue (i : Nat)
  | weights
  | prefetch (i : Nat)
  | pipeline (i : Nat)
  | tcb
  | proctor
  | hot (i : Nat)
  | rollIndex
  | roll (i : Nat)
  deriving DecidableEq, Repr

/-- The part of a window at an offset; nothing where none is assigned. -/
def winPart (off : Nat) : Option WinPart :=
  if off < 0x80000 then some (.queue (off / 32))
  else if 0x200000 ≤ off ∧ off < 0x200100 then some .weights
  else if 0x400000 ≤ off ∧ off < 0x410000 then some (.prefetch ((off - 0x400000) / 16))
  else if 0x600000 ≤ off ∧ off < 0x680000 then some (.pipeline ((off - 0x600000) / 32))
  else if 0x800000 ≤ off ∧ off < 0x800020 then some .tcb
  else if 0xA00000 ≤ off ∧ off < 0xA00008 then some .proctor
  else if 0x1000000 ≤ off ∧ off < 0x1200000 then some (.hot ((off - 0x1000000) / 32))
  else if 0x1400000 ≤ off ∧ off < 0x1400008 then some .rollIndex
  else if 0x1800000 ≤ off ∧ off < 0x1A00000 then some (.roll ((off - 0x1800000) / 32))
  else none

/-- The Proctor's register (R402). -/
def DieRec.proctor (d : DieRec) : Nat := min d.refused (2 ^ 20 - 1) + low 20 d.budget * 2 ^ 20 + low 20 d.granted * 2 ^ 44

/-- The value of a part of a window, and the offset its bits start at. -/
def State.winValue (s : State) (dk : Nat) (p : WinPart) : Nat × Nat :=
  let d := s.die dk
  match p with
  | .queue i => ((SMap.get QueueRec.reset d.queues i).desc.toNat, 32 * i)
  | .weights => (((List.range 256).foldr (fun g a => (SMap.get (0 : Byte) d.weights g).toNat + 256 * a) 0), 0x200000)
  | .prefetch i => ((SMap.get 0 d.prefetch i).toNat, 0x400000 + 16 * i)
  | .pipeline i => ((SMap.get 0 d.pipes i).toNat, 0x600000 + 32 * i)
  | .tcb => (d.tcb.toNat, 0x800000)
  | .proctor => (d.proctor, 0xA00000)
  | .hot i => ((SMap.get 0 d.hot i).toNat, 0x1000000 + 32 * i)
  | .rollIndex => (d.rollIndex + bit d.rollFrozen * 2 ^ 63, 0x1400000)
  | .roll i => ((SMap.get 0 d.roll i).toNat, 0x1800000 + 32 * i)

/-- `n` bytes of a window at an offset, naturally aligned (R209). -/
def State.winRead (s : State) (dk off n : Nat) : Option Nat :=
  match winPart off with
  | none => none
  | some p =>
    let v := s.winValue dk p
    some (bitsOf v.1 (8 * (off - v.2)) (8 * n))

/-- A value with the bits of a mask that lie in `n` bytes from byte `b` taken from `v`. -/
def mergeBytes (mask old b n v : Nat) : Nat :=
  let m := Nat.land mask ((2 ^ (8 * n) - 1) * 2 ^ (8 * b))
  (old - Nat.land old m) + Nat.land (low (8 * n) v * 2 ^ (8 * b)) m

/-- The bits `lo` to `lo + n − 1`. -/
def ones (lo n : Nat) : Nat := (2 ^ n - 1) * 2 ^ lo

/-- The writable fields of a descriptor beside TAIL (R209). -/
def queueMask : Nat := ones 10 150 + ones 0 3

/-- The fields captured when a queue is enabled (R210). -/
def QueueRec.capture (q : QueueRec) : QCap :=
  { ptbase := wordOf (fieldB q.desc 96 64)
    ring := (BitVec.ofNat 51 (fieldB q.desc 45 51) ++ (0 : BitVec 6)).signExtend 64
    space := fieldB q.desc 29 16, win := fieldB q.desc 15 6, lsz := fieldB q.desc 10 5
    sup := fieldB q.desc 2 1 = 1, device := fieldB q.desc 1 1 = 1 }

/-- A write of TAIL (R210, R211). -/
def State.tailWrite (s : State) (p qn v : Nat) : State :=
  let q := s.queue p qn
  let lsz := if q.enabled then q.cap.lsz else fieldB q.desc 10 5
  if q.enabled && q.cap.device then s.roll (homeDie p qn) 1 0 0x11 qn (wordOf v) 0
  else if (v + 2 ^ 32 - q.head) % 2 ^ 32 > 2 ^ lsz then s.queueErr p qn 2
  else (s.setQueue p qn (q.put 160 32 v)).pokePackage p

/-- A write of `n` bytes at byte `b` of a descriptor (R210): enabling captures the fields, or leaves EN = 0 for a bad LSZ;
disabling stops selection. -/
def State.queueWrite (s : State) (p qn b n v : Nat) : State :=
  let q := s.queue p qn
  let q' := { q with desc := BitVec.ofNat 256 (mergeBytes queueMask q.desc.toNat b n v) }
  let lsz := fieldB q'.desc 10 5
  let q' := if q'.enabled && !q.enabled then
      (if 4 ≤ lsz ∧ lsz ≤ 16 then { q' with cap := q'.capture, ready := none, age := 0 } else q'.put 0 1 0)
    else q'
  let s := (s.setQueue p qn q').pokePackage p
  if b < 24 ∧ 20 < b + n then s.tailWrite p qn (bitsOf (mergeBytes (ones 160 32) q'.desc.toNat b n v) 160 32) else s

/-- A write to the translation control block (R369).  DESIGN CHOICE (log 40): a write is one of DONE where it gives DONE another value;
DONE stays and ERR becomes 1, and the other fields are written. -/
def State.tcbWrite (s : State) (dk b n v : Nat) : State :=
  let d := s.die dk
  if fieldB d.tcb 5 1 = 1 then s.setDie dk { d with tcb := setFieldB d.tcb 6 2 1 }
  else
    let t := BitVec.ofNat 256 (mergeBytes (ones 48 208 + ones 6 2 + ones 2 2) d.tcb.toNat b n v)
    let go := b = 0 && v.testBit 4
    let op := fieldB t 2 2
    let t := if bitsOf (mergeBytes (ones 8 32) d.tcb.toNat b n v) 8 32 = fieldB d.tcb 8 32 then t else setFieldB t 6 2 1
    if go && (op = 1 || op = 2) then
      (s.setDie dk { d with tcb := setFieldB t 5 1 1 }).pushOnce (dieEvent (if op = 1 then .invalidate else .migrate) dk 0)
    else s.setDie dk { d with tcb := t }

/-- A write of `n` bytes of a window at an offset, naturally aligned; nothing happens where none is assigned. -/
def State.winWrite (s : State) (dk off n v : Nat) : State :=
  let d := s.die dk
  match winPart off with
  | none => s
  | some p =>
    let old := s.winValue dk p
    let b := off - old.2
    match p with
    | .queue i => s.queueWrite (dk / 4) (16384 * (dk % 4) + i) b n v
    | .weights =>
      s.setDie dk { d with weights := (List.range n).foldl (fun m j => SMap.set 0 m (b + j) (BitVec.ofNat 8 (v / 256 ^ j))) d.weights }
    | .prefetch i =>
      s.setDie dk { d with prefetch := SMap.set 0 d.prefetch i (BitVec.ofNat 128 (mergeBytes (ones 6 122) old.1 b n v)) }
    | .pipeline i =>
      let e := BitVec.ofNat 256 (mergeBytes (ones 99 157 + ones 0 2) old.1 b n v)
      let s := s.setDie dk { d with pipes := SMap.set 0 d.pipes i e }
      if fieldB e 0 2 = 1 ∧ bitsOf old.1 0 2 ≠ 1 then s.settleCheck (dk / 4) (16384 * (dk % 4) + i) else s
    | .tcb => s.tcbWrite dk b n v
    | .proctor => (s.setDie dk { d with budget := bitsOf (mergeBytes (ones 20 20) old.1 b n v) 20 20 }).pokeProctor dk
    | .hot i =>
      s.setDie dk { d with hot := SMap.set 0 d.hot i (BitVec.ofNat 256 (mergeBytes (ones 0 72 + ones 192 1 + ones 199 57) old.1 b n v)) }
    | .rollIndex => s
    | .roll _ => s

/-! ### The windows in supervisor code's addresses (R209, R400, log 22) -/

/-- The window, as its die and an offset, that an aligned access of the current hart at a canonical address leads to: supervisor
level only (R11, R209). -/
def State.windowAt (s : State) (va : Word) (n : Nat) : Option (Nat × Nat) :=
  let p := pkgOf s.cur
  if !s.hart.prv || !canonical va || va.toNat % n ≠ 0 then none
  else
    (((s.pkg p).boot.windows.zip (List.range s.dieCount)).find? fun w =>
      w.1 ≠ 0 && decide (w.1 ≤ va.toNat) && decide (va.toNat < w.1 + windowBytes)).bind fun w =>
      (winPart (va.toNat - w.1)).map fun _ => (4 * p + w.2, va.toNat - w.1)

/-- What a load of the current hart from a window gives. -/
def State.windowValue (s : State) (va : Word) (n : Nat) : Option Nat :=
  (s.windowAt va n).bind fun w => s.winRead w.1 w.2 n

end Sys2Proof.Machine
end

