-- ==== Sys2Proof/Machine/Ops.lean ====
section
/-! DEFINITION. The shared operations of the scalar side: taking a trap and returning from one (R334 to R340, R86), the
fetch of an instruction (R21, R35, R36), scalar memory access (R70, R71, R80, R387). -/

namespace Sys2Proof.Machine

/-! ### Causes (R334) -/

/-- ILLEGAL. -/
def cILLEGAL : Nat := 1
/-- PRIVILEGE. -/
def cPRIVILEGE : Nat := 2
/-- ADDRESS. -/
def cADDRESS : Nat := 3
/-- MISALIGN_ISSUE. -/
def cMISALIGN_ISSUE : Nat := 4
/-- MISALIGN_ELEM. -/
def cMISALIGN_ELEM : Nat := 5
/-- PAGE. -/
def cPAGE : Nat := 6
/-- PROTECT. -/
def cPROTECT : Nat := 7
/-- POISON. -/
def cPOISON : Nat := 8
/-- NO_LEASE. -/
def cNO_LEASE : Nat := 9
/-- ROLE_REG. -/
def cROLE_REG : Nat := 10
/-- NO_TILE. -/
def cNO_TILE : Nat := 11
/-- BADSHAPE. -/
def cBADSHAPE : Nat := 12
/-- BOUNDS. -/
def cBOUNDS : Nat := 13
/-- REMOTE_LOST. -/
def cREMOTE_LOST : Nat := 14
/-- DRAFT_ORDER. -/
def cDRAFT_ORDER : Nat := 15
/-- VSTATE. -/
def cVSTATE : Nat := 16
/-- TRAP. -/
def cTRAP : Nat := 17
/-- BREAK. -/
def cBREAK : Nat := 18

/-! ### Traps -/

/-- What a trap reports: cause, where it arose (0 scalar side, 1 vector queue, 2 matrix entry, 3 stream slot) and
the slot, TRAPFB, TRAPVA and TRAPINFO (R334, R335). -/
structure TrapInfo where
  cause : Nat
  src : Nat
  slot : Nat
  fb : Word
  va : Word
  info : Word
  deriving DecidableEq, Repr

/-- TRAPCAUSE of a trap (R335). -/
def TrapInfo.word (t : TrapInfo) : Word := wordOf (t.cause + 256 * t.slot + 4096 * t.src)

/-- The registers of a hart that enters its handler (R338 step 5). -/
def Hart.enterTrap (h : Hart) (t : TrapInfo) (pc : Word) : Hart :=
  { h with
    pc := h.ctl.trapvec &&& ~~~1, doomed := false, dwait := none, late := none
    ctl := { h.ctl with
      trapcause := t.word, trappc := pc, trapfb := t.fb, trapva := t.va, trapinfo := t.info
      status := (h.ctl.status &&& ~~~0xF) ||| (if h.vclaimed then 8 else 0) ||| 5 } }

/-- A double fault: the task is killed and a DOUBLE event records the new cause, the pc concerned and the first trap's
TRAPPC (R339). -/
def State.doubleFault (s : State) (t : TrapInfo) (pc : Word) : State :=
  let s := s.rollHart s.cur 2 t.cause pc s.hart.ctl.trappc
  s.kill s.cur t.cause pc

/-- The hall-pass request of the instruction at the pc, which will run again, is withdrawn, or its pass comes back (R337,
R404). -/
def State.dropAsk (s : State) : State :=
  let g := s.cur
  let h := s.hart
  if !h.asked then s
  else
    let s := s.withdraw (dieKey g) fun r => (r.kind == .explicit || r.kind == .exchange) && r.g == g
    let open_ := h.xch.pass && !h.xch.bound
    let back := if h.reply ≠ some true then 0 else if open_ then exchangeCharge else h.hpass
    let s := if back = 0 then s else s.returnPass (dieKey g) back
    { s with hart := { s.hart with
        asked := false, reply := none, hpass := if back ≠ 0 ∧ ¬ open_ then 0 else h.hpass
        xch := if open_ then { h.xch with pass := false } else h.xch } }

/-- Taking a trap at `pc`, the first instruction the scalar side has not completed (R336 to R339): at user level the
handler is entered and a TRAP event written, once a MATT that waits for tiles has completed (R194, R338); at supervisor level it is a
double fault. -/
def State.takeTrap (s : State) (t : TrapInfo) (pc : Word) : State :=
  if s.hart.prv then s.doubleFault t (if t.src = 0 then pc else t.fb)
  else if s.hart.mat.asked then s
  else
    let s := s.dropAsk
    let s := { s with hart := s.hart.enterTrap t pc }
    s.rollHart s.cur 1 t.word.toNat t.fb t.va

/-- An issue trap: TRAPPC = TRAPFB = the instruction's address, SRC 0 (R336). -/
def State.trapIssue (s : State) (cause : Nat) (va info : Word) : State :=
  s.takeTrap { cause := cause, src := 0, slot := 0, fb := s.hart.pc, va := va, info := info } s.hart.pc

/-- The return from a trap (R86), its checks made: PC, level and the frozen queue; a SPACE and PTBASE the supervisor
wrote come into force (R362). -/
def Hart.returnFromTrap (h : Hart) : Hart :=
  { h with
    pc := h.ctl.trappc &&& ~~~1
    ctl := { h.ctl with
      status := (h.ctl.status &&& ~~~0x7) ||| (if h.ctl.status.getLsbD 1 then 1 else 0)
      spaceNow := h.ctl.space, ptbaseNow := h.ctl.ptbase } }

/-- The bits of an instruction, zero-extended, as a trap reports them (R33, R334). -/
def instrBits (i : Instr) : Word :=
  match encode i with
  | some (.half h) => h.zeroExtend 64
  | some (.word w) => w.zeroExtend 64
  | some (.tile w) => w
  | none => 0

/-- An issue trap whose TRAPINFO is the instruction's bits, TRAPVA zero (R334). -/
def State.trapBits (s : State) (cause : Nat) (i : Instr) : State := s.trapIssue cause 0 (instrBits i)

/-- An issue trap of an access: PRIVILEGE reports the instruction's bits (R334, R237). -/
def State.trapAccess (s : State) (bits : Word) (cause : Nat) (va : Word) : State :=
  s.trapIssue cause va (if cause = cPRIVILEGE then bits else 0)

/-- The bits of a 16-bit form (R23). -/
def halfBits (cop : BitVec 5) (o : HOp) : Word := ((0 : BitVec 1) ++ cop ++ o.ra ++ o.rb).zeroExtend 64

/-! ### Fetch -/

/-- What fetching ends in: the bytes and the state with accessed bits set, a fault at an address, or a wait. -/
inductive Fetched where
  | bytes (bs : List Byte) (s : State)
  | bad (cause : Nat) (va : Word)
  | wait

/-- Where a parcel is fetched (R35, R36). -/
def State.fetchLoc (s : State) (va : Word) : Loc :=
  match s.locate (s.accessOf s.cur .fetch .scalar) va with
  | .place p l lost =>
    if lost then .bad cREMOTE_LOST
    else if s.hart.code.poisoned p.key 2 then .bad cPOISON
    else .place p l lost
  | r => r

/-- The two bytes that a fetch at a place reads (R35, R84): those of the memory that the hart fetches from, and nothing stored since its
last FENCE.I or its task's start (log 9); under another key than theirs they are garbled as any read is (R409). -/
def State.parcelAt (s : State) (leaf : Option LeafAt) (k : Nat) : Nat :=
  State.readAt { s with mem := s.hart.code } leaf k 2

/-- The parcels of an instruction from `va`, `n` of them (R35, R36): none changes the state unless all are fetched. -/
def State.fetchParcels (s : State) (va : Word) : Nat → Fetched
  | 0 => .bytes [] s
  | n + 1 =>
    match s.fetchLoc va with
    | .bad c => .bad c va
    | .wait => .wait
    | .place p l _ =>
      match s.fetchParcels (va + 2) n with
      | .bytes bs t =>
        .bytes (BitVec.ofNat 8 (s.parcelAt l p.key) :: BitVec.ofNat 8 (s.parcelAt l p.key / 256) :: bs) (t.visit (dieKey s.cur) p .fetch l)
      | r => r

/-- The bytes of the instruction at the current hart's pc, its length from its first parcel (R21, R35). -/
def State.fetch (s : State) : Fetched :=
  match s.fetchLoc s.hart.pc with
  | .bad c => .bad c s.hart.pc
  | .wait => .wait
  | .place p l _ => s.fetchParcels s.hart.pc (parcelLength (BitVec.ofNat 16 (s.parcelAt l p.key)) / 2)

/-! ### Scalar memory -/

/-- Where a scalar access of `n` bytes leads, its checks in the order of R71. -/
def State.scalarLoc (s : State) (k : Kind) (va : Word) (n : Nat) : Loc :=
  if !canonical va then .bad cADDRESS
  else if va.toNat % n ≠ 0 then .bad cMISALIGN_ISSUE
  else
    match s.locate (s.accessOf s.cur k .scalar) va with
    | .place p l lost => if s.heldBy (agentNo s.cur .scalar) p.key n then .wait else .place p l lost
    | r => r

/-- The low `n` bytes of a number sign-extended to 64 bits (R65). -/
def sextBytes (n v : Nat) : Word := BitVec.ofInt 64 (toSigned (8 * n) v)

/-- The register value of the `n` bytes of a load, its sign extended or not (R65, R70). -/
def loaded (signed : Bool) (n v : Nat) : Word := if signed then sextBytes n v else wordOf v

/-- The last scalar load is performed for good where it touches one of `n` bytes at `k`, which another scalar access touches next
(R252). -/
def State.closeLate (s : State) (k n : Nat) : State :=
  match s.hart.late with
  | some l => if l.key < k + n ∧ k < l.key + l.len then { s with hart := { s.hart with late := none } } else s
  | none => s

/-- The last scalar load is performed for good. -/
def State.dropLate (s : State) : State := { s with hart := { s.hart with late := none } }

/-- A scalar load that has given its register a value may still be performed later, which is open; the eager schedule performs it at
once (R249, R255, log 65). -/
def State.openLate (s : State) (d : Reg) (leaf : Option LeafAt) (k n : Nat) (signed : Bool) : State :=
  if s.eager || d = 0 || !Config.freePick s.free k then s
  else { s with hart := { s.hart with late := some { d := d, key := k, len := n, signed := signed, cipher := s.leafKey leaf } } }

/-- The last scalar load performed again while nothing has used its register: its register takes what memory holds now (R249, R255, log
65). -/
def State.lateRead (s : State) : State :=
  match s.hart.late with
  | some l =>
    let t := { s with hart := { s.hart with late := none } }
    if s.mem.poisoned l.key l.len || s.heldBy (agentNo s.cur .scalar) l.key l.len then t
    else t.writeX l.d (loaded l.signed l.len (s.peek l.cipher l.key l.len))
  | none => s

/-- A scalar load of `n` bytes by an instruction of some bits (R70, R71, R209, R387). -/
def State.load (s : State) (bits : Word) (n : Nat) (signed : Bool) (d : Reg) (va : Word) (len : Nat) : Result :=
  match s.windowValue va n with
  | some v => .next (s.finishX d (loaded signed n v) len)
  | none =>
  match s.scalarLoc .read va n with
  | .bad c => .next (s.trapAccess bits c va)
  | .wait => .next s
  | .place p l lost =>
    if lost then .next (s.trapIssue cREMOTE_LOST va 0)
    else if s.mem.poisoned p.key n then .next (s.trapIssue cPOISON va 0)
    else .next ((((s.visit (dieKey s.cur) p .read l).closeLate p.key n).openLate d l p.key n signed).finishX d (loaded signed n (s.readAt l p.key n)) len)

/-- A scalar store of the low `n` bytes of `v` (R70, R71, R209, R387). -/
def State.store (s : State) (bits : Word) (n : Nat) (v : Word) (va : Word) (len : Nat) : Result :=
  match s.windowAt va n with
  | some (dk, off) => .next ((s.dropLate.winWrite dk off n v.toNat).advance len)
  | none =>
  match s.scalarLoc .write va n with
  | .bad c => .next (s.trapAccess bits c va)
  | .wait => .next s
  | .place p l lost =>
    let t := (((s.visit (dieKey s.cur) p .write l).closeLate p.key n).place (agentNo s.cur .scalar) l p.key n v.toNat)
    if lost then
      (if Config.freePick s.free 0 then .next (t.nextFree.trapIssue cREMOTE_LOST va 0)
       else .next (s.nextFree.trapIssue cREMOTE_LOST va 0))
    else .next (t.advance len)

/-- A release by the current hart's scalar agent of a level (R82, R230, R255): nothing where it waits. -/
def State.release (s : State) (level : Nat) : Option State := s.order [agentNo s.cur .scalar] level

/-- An atomic on `n` bytes (R80, R81, R387): `op` gives the new value, or nothing where none is written; `out` makes
the register value of the old one.  One that releases does so at its scope first (R82, R255); where writes to its bytes by an atomic are
on their way they are placed before it. -/
def State.atomic (s : State) (bits : Word) (n : Nat) (rel acq : Bool) (op : Nat → Option Nat) (out : Nat → Word) (d : Reg) (va : Word) :
    Result :=
  match (if rel then s.release (vcfgLevel s.hart.ctl.vcfg) else some s) with
  | none => .next s
  | some s =>
  match s.windowAt va n with
  | some (dk, off) =>
    let old := (s.winRead dk off n).getD 0
    .next (State.finishX (match op old with
      | some v => s.dropLate.winWrite dk off n v
      | none => s) d (out old) 4)
  | none =>
  match s.scalarLoc .write va n with
  | .bad c => .next (s.trapAccess bits c va)
  | .wait => .next s
  | .place p l lost =>
    let bad := s.mem.poisoned p.key n
    if bad && !lost then .next (s.trapIssue cPOISON va 0)
    else if s.pageHolds p.key then .next (s.invalidateReplicas p.key)
    else if lost && s.hart.mat.asked then .next s
    else
      let t := ((s.visit (dieKey s.cur) p .write l).closeLate p.key n).settle p.key n
      let old := t.readAt l p.key n
      let t := match op old with
        | some v => t.update (agentNo s.cur .scalar) acq l p.key n v
        | none => t
      if lost then
        (if Config.freePick s.free 0 && !bad then .next (t.nextFree.trapIssue cREMOTE_LOST va 0)
         else .next (s.nextFree.trapIssue cREMOTE_LOST va 0))
      else .next (t.finishX d (out old) 4)

/-- A hart stalled at an instruction that may wait: a RESTART stop takes it at once (R321); where the wait yields, a copy that
waits for its core has it pre-empted (R226); else it waits on. -/
def State.stall (s : State) (yields : Bool) : Result :=
  if s.hart.stop then .next (s.endTask s.cur)
  else if yields && !s.hart.prv && s.copyWaits (coreKey s.cur) s.hart.task.prio then .next (s.askPreempt s.cur 0)
  else .next s

/-- Whether the current hart's vector queue holds nothing that an instruction ordered with it must wait for: it is
empty, or its entries stand frozen (R89, R421). -/
def State.queueQuiet (s : State) : Bool := s.hart.queue.isEmpty || (s.hart.vfrozen && !s.hart.vclaimed)

end Sys2Proof.Machine
end

