-- ==== Sys2Proof/Machine/Operands.lean ====
section
/-! DEFINITION. The vector side's operands (R98 to R111, R121, R122): configuration, groups and their checks, elements,
masks, rings; the issue of an instruction into the vector queue and its run at the queue's head (R107, R336); and the
element-wise engine. -/

namespace Sys2Proof.Machine

/-! ### Configuration -/

/-- The vector configuration an instruction runs under (R98, R100). -/
structure VCtx where
  vl : Nat
  /-- SEW code. -/
  sew : Nat
  /-- Registers a group. -/
  grp : Nat
  tail : Bool
  maskz : Bool
  rm : Rm
  blk : Nat
  /-- Clusters held. -/
  c : Nat
  /-- Bytes of one register in all clusters held. -/
  reg : Nat
  pipe : Bool
  deriving DecidableEq, Repr

/-- The lease the current hart uses (R90, R109). -/
def State.lease (s : State) : Lease :=
  if s.hart.owner = s.cur then s.hart.lease else (s.getHart s.hart.owner).lease

/-- The state with the current hart's lease replaced. -/
def State.setLease (s : State) (l : Lease) : State :=
  if s.hart.owner = s.cur then { s with hart := { s.hart with lease := l } }
  else s.setHart s.hart.owner { s.getHart s.hart.owner with lease := l }

/-- Bytes of one register for `c` clusters (R100, R102). -/
def regBytes (pipe : Bool) (c : Nat) : Nat := (if pipe then Config.regBytesPipe else Config.regBytesPlain) * c

/-- The clusters that an instruction issues under: those held, or while a handler has claimed the vector context those that its registers
are laid out for (R93, R345, log 11). -/
def State.clusters (s : State) : Nat := if s.hart.vclaimed then s.lease.lanes else s.lease.held

/-- The configuration of `c` clusters, a VL and a VCFG value on the current hart (R98). -/
def State.vctxOf (s : State) (c vl : Nat) (vcfg : Word) : VCtx :=
  let pipe := s.hart.mode == .pipeline
  { vl := vl, sew := field vcfg 0 3, grp := 2 ^ field vcfg 3 2, tail := field vcfg 5 1 = 1, maskz := field vcfg 6 1 = 1,
    rm := Rm.ofCode (field vcfg 22 2), blk := field vcfg 18 4, c := c, reg := regBytes pipe c, pipe := pipe }

/-- The configuration of a queued instruction, under the count that the registers are laid out for (R93, R343). -/
def State.vctx (s : State) (e : QEntry) : VCtx := s.vctxOf s.lease.lanes e.vl e.vcfg

/-- The configuration an instruction issues under. -/
def State.vctxNow (s : State) : VCtx := s.vctxOf s.clusters s.hart.ctl.vl.toNat s.hart.ctl.vcfg

/-- The width in bits of a SEW code (R98). -/
def sewBits (sew : Nat) : Nat := 8 * 2 ^ sew

/-- VLMAX for a configuration; a SEW code without a meaning gives none (R99, R100). -/
def vlmax (grp sew reg : Nat) : Nat := if sew < 4 then grp * reg * 8 / sewBits sew else 0

/-- VLMAX (R100). -/
def VCtx.vlmax (x : VCtx) : Nat := Machine.vlmax x.grp x.sew x.reg

/-- The effective group size at an element width in bits, where it is 1, 2, 4 or 8 (R101). -/
def VCtx.group (x : VCtx) (w : Nat) : Option Nat :=
  let n := x.grp * w
  if n % sewBits x.sew ≠ 0 then none
  else
    let g := n / sewBits x.sew
    if g = 1 ∨ g = 2 ∨ g = 4 ∨ g = 8 then some g else none

/-- Elements of `wb` bytes that a group of a legal size holds: G·E (R102, R104). -/
def VCtx.capacity (x : VCtx) (wb : Nat) : Nat :=
  match x.group (8 * wb) with
  | some g => g * x.reg / wb
  | none => 0

/-- A vector register operand: its number and the width in bits of its elements. -/
abbrev VReg := Reg × Nat

/-- Whether a group is legal (R101). -/
def VCtx.groupOk (x : VCtx) (v : VReg) : Bool :=
  match x.group v.2 with
  | some g => v.1.toNat % g = 0
  | none => false

/-- The registers of a role (R109): first and one past the last. -/
def rolePart (role : Nat) : Nat × Nat :=
  match role with
  | 0 => (0, 8)
  | 1 => (8, 24)
  | _ => (24, 28)

/-- Whether a group lies in the role's partition, or is a ring named alone (R110). -/
def VCtx.roleOk (x : VCtx) (role : Nat) (v : VReg) : Bool :=
  let n := v.1.toNat
  let g := (x.group v.2).getD 1
  if n ≥ 28 then g = 1 else decide ((rolePart role).1 ≤ n) && decide (n + g ≤ (rolePart role).2)

/-- What an issue check found (R336). -/
structure IssueTrap where
  cause : Nat
  va : Word
  /-- TRAPINFO is the instruction's bits (R334). -/
  bits : Bool
  deriving DecidableEq, Repr

/-- A trap that reports the instruction's bits. -/
def bitsTrap (cause : Nat) : Option IssueTrap := some { cause := cause, va := 0, bits := true }

/-- The issue checks of an instruction with vector operands (R34, R95, R99, R101, R110): its configuration, `bad` for
what its own rule adds at step 4, a lease, and the roles. -/
def State.vecCheck (s : State) (ops : List VReg) (bad : Bool) : Option IssueTrap :=
  let x := s.vctxNow
  if x.sew ≥ 4 ∨ x.vl > x.vlmax ∧ x.c ≠ 0 ∨ ¬ ops.all x.groupOk ∨ bad then bitsTrap cILLEGAL
  else if x.c = 0 then bitsTrap cNO_LEASE
  else if x.pipe && !ops.all (x.roleOk s.hart.role) then bitsTrap cROLE_REG
  else none

/-! ### The queue -/

/-- What the run of a queue entry at the head ends in: it completed, it traps (and stays), or it waits. -/
inductive HeadRes where
  | done (s : State)
  | trap (s : State) (t : TrapInfo)
  | wait (s : State)

/-- Whether the vector unit stands frozen (R338, R421). -/
def Hart.frozen (h : Hart) : Bool := h.vfrozen && !h.vclaimed

/-- The queue with its front entry replaced. -/
def State.setFront (s : State) (e : QEntry) : State :=
  { s with hart := { s.hart with queue := e :: s.hart.queue.tail } }

/-- Whether an entry is a strip boundary (R93). -/
def QEntry.boundary (e : QEntry) : Bool :=
  match e.instr with
  | .setvl _ => true
  | .setvli _ => true
  | .setcfg _ => true
  | .gsetvl _ => true
  | .hSetvl _ => true
  | _ => false

/-- The front entry leaves the queue. -/
def State.popFront (s : State) : State := { s with hart := { s.hart with queue := s.hart.queue.tail } }

/-- The mask an ACTIVE STMTL of a slot will write, 0 for none (R271). -/
def Slot.pendingMask (sl : Slot) : Nat :=
  let f := splitWord (sl.bits.setWidth 32)
  if field sl.status 60 4 = 1 ∧ f.mj = 0x2C ∧ f.v.sc = 1 then f.v.t.toNat else 0

/-- The mask registers an entry names (R25, R135, R168). -/
def QEntry.masks (e : QEntry) : List Nat :=
  match e.instr with
  | .mand o | .mor o | .mxor o | .mandn o => [o.vd.toNat, o.vs1.toNat, o.vs2.toNat]
  | .mpopc o | .mfirst o => [o.vs1.toNat, o.m.toNat]
  | .mset o | .mld o | .mst o => [o.vd.toNat]
  | .vcmpeq o | .vcmpne o | .vcmplt o | .vcmple o | .vfcmpeq o | .vfcmplt o | .vfcmple o => [o.vd.toNat, o.m.toNat]
  | .vrank o => [o.vs1.toNat, o.m.toNat]
  | .setvl _ | .setvli _ | .setcfg _ | .gsetvl _ => []
  | _ => if field e.bits 14 2 = 3 then [field e.bits 31 3] else [field e.bits 0 3]

/-- The mask registers an entry reads (R25, R135, R168). -/
def QEntry.maskReads (e : QEntry) : List Nat :=
  match e.instr with
  | .mand o | .mor o | .mxor o | .mandn o => [o.vs1.toNat, o.vs2.toNat]
  | .mpopc o | .mfirst o | .vrank o => [o.vs1.toNat, o.m.toNat]
  | .mst o => [o.vd.toNat]
  | .mset _ | .mld _ | .vldxc _ => []
  | .vcmpeq o | .vcmpne o | .vcmplt o | .vcmple o | .vfcmpeq o | .vfcmplt o | .vfcmple o => [o.m.toNat]
  | _ => e.masks

/-- The mask that governs what an entry writes of a mask register (R126, R137): none but for the compares. -/
def QEntry.maskGoverns (e : QEntry) : List Nat :=
  match e.instr with
  | .vcmpeq o | .vcmpne o | .vcmplt o | .vcmple o | .vfcmpeq o | .vfcmplt o | .vfcmple o => [o.m.toNat]
  | _ => []

/-- The mask register an entry writes (R25, R135, R281); none for most. -/
def QEntry.maskWritten (e : QEntry) : Option Nat :=
  match e.instr with
  | .mand o | .mor o | .mxor o | .mandn o | .mset o | .mld o => some o.vd.toNat
  | .vcmpeq o | .vcmpne o | .vcmplt o | .vcmple o | .vfcmpeq o | .vfcmplt o | .vfcmple o => some o.vd.toNat
  | .vldxc o => some o.m.toNat
  | _ => none

/-- The key of word w of mask mn. -/
def maskWord (n w : Nat) : Nat := 16384 * n + w

/-- The first of `words` words of mask mn from word `w` that is poisoned (R352). -/
def poisonedWord (p : SMap Bool) (n : Nat) : Nat → Nat → Option Nat
  | 0, _ => none
  | k + 1, w => if SMap.get false p (maskWord n w) then some w else poisonedWord p n k (w + 1)

/-- The bits of its masks that an entry reads: its VL's, or a tile line's (R104, R175). -/
def QEntry.maskLen (e : QEntry) : Nat := if parcelLength (e.bits.setWidth 16) = 8 then 64 else e.vl

/-- The lowest bit of the poisoned words of its masks that an entry reads (R142, R352, R354). -/
def Hart.maskBad (h : Hart) (e : QEntry) : Option Nat :=
  if h.maskPois.isEmpty then none
  else
    ((e.maskReads.filter (· ≠ 0)).filterMap fun n => poisonedWord h.maskPois n ((e.maskLen + 63) / 64) 0).min?.map (64 * ·)

/-- Whether the word of mask mn that holds bit `i` is poisoned (R352). -/
def Hart.maskWordBad (h : Hart) (n i : Nat) : Bool := n ≠ 0 && SMap.get false h.maskPois (maskWord n (i / 64))

/-- Whole words that an entry has written of its mask lose their poison, where there was some, `bad` (R353): every bit below VL is
written where no mask governs, or under MASKPOL, and under TAIL every one from there to the end of its group (R104). -/
def State.healMask (s : State) (e : QEntry) (bad : SMap Bool) : State :=
  if bad.isEmpty then s
  else
    match e.maskWritten with
    | none => s
    | some n =>
      let whole := e.maskGoverns.all (· = 0) || field e.vcfg 6 1 = 1
      let ends := if field e.vcfg 5 1 = 1 && e.vl ≠ 0 then max e.vl (s.vctx e).vlmax else e.vl
      let gone (k : Nat) : Bool := whole && k / 16384 = n && decide (64 * (k % 16384) + 64 ≤ ends)
      { s with hart := { s.hart with maskPois := s.hart.maskPois.filter fun p => !gone p.1 } }

/-- Whether an entry is a form that starts at ESTART (R160). -/
def QEntry.precise (e : QEntry) : Bool :=
  match e.instr with
  | .vldx _ | .vldxu _ | .vst _ | .vsts _ | .vstx _ | .vstxu _ | .vstxadd _ | .vstxmax _ | .vstxmin _ => true
  | _ => false

/-- Whether an entry finds a poisoned mask word itself: a load or store at the element that the word's lowest bit governs (R156, R158,
R354), a matrix instruction behind the test of its tiles (R173). -/
def QEntry.ownMask (e : QEntry) : Bool :=
  match e.instr with
  | .vld _ | .vlds _ | .vldav _ | .vldg _ | .vldxf _ | .vldx _ | .vldxu _ | .vst _ | .vsts _ | .vstx _ | .vstxu _ => true
  | .mzero _ | .opadd _ | .opsub _ | .opaddSp _ | .opaddBs _ | .opaddQ _ | .mgrp _ | .mgrpQ _ | .mldt _ | .mldtFf _ | .mstt _ | .mrdv _ | .mwrv _ => true
  | _ => false

/-- The element a precise form starts at: its own progress once begun, else ESTART (R160). -/
def State.startAt (s : State) (e : QEntry) : Nat := if e.begun then e.p else s.hart.ctl.estart.toNat

/-- A poisoned mask word is consumed by an entry that reads it (R354): at the word's lowest bit, before anything is done
(DESIGN CHOICE, log 64); a form that starts at ESTART stays there (R160). -/
def State.maskTrap (s : State) (e : QEntry) (k : Nat) : HeadRes :=
  .trap (s.setFront { e with begun := true, p := if e.precise then s.startAt e else e.p, pieces := [], pages := [] })
    { cause := cPOISON, src := if parcelLength (e.bits.setWidth 16) = 8 then 2 else 1, slot := 0, fb := e.addr, va := 0, info := wordOf k }

/-- What an entry does once its masks have been looked at. -/
def State.overMasks (s : State) (e : QEntry) (head : QEntry → State → HeadRes) : HeadRes :=
  match s.hart.maskBad e with
  | some k => s.maskTrap e k
  | none => head e s

/-- What an entry at the head does. -/
def State.headRes (s : State) (e : QEntry) (head : QEntry → State → HeadRes) : HeadRes :=
  if e.ownMask then head e s else s.overMasks e head

/-- A FENCE.VV before an entry orders what its hart's vector agent wrote (R83): nothing where it waits. -/
def State.behindFence (s : State) (e : QEntry) : Option State :=
  match e.fenced with
  | some level => s.order [agentNo s.cur .vector] level
  | none => some s

/-- Whether an entry names a mask that a stream has yet to write (R271). -/
def Hart.maskOwed (h : Hart) (e : QEntry) : Bool :=
  !h.frozen && h.slots.toList.any fun sl => sl.pendingMask ≠ 0 && e.masks.contains sl.pendingMask

/-- The state in which an entry sees the MLEN it was frozen under (R421). -/
def State.withMlen (s : State) (e : QEntry) : State :=
  match e.mlen with
  | some m => { s with hart := { s.hart with ctl := { s.hart.ctl with mlen := m } } }
  | none => s

/-- What such an entry makes of MLEN holds for the frozen entries behind it; the value a handler wrote stands (R421). -/
def State.keepMlen (s : State) (e : QEntry) (old : Word) : State :=
  match e.mlen with
  | some _ =>
    let m := s.hart.ctl.mlen
    { s with hart := { s.hart with
        ctl := { s.hart.ctl with mlen := old }
        queue := s.hart.queue.map fun q => if q.mlen.isSome then { q with mlen := some m } else q } }
  | none => s

/-- The front entry runs (R107, R336): completed it leaves, trapped it stays, the lanes realign by `slip` (R344) and the trap is taken
at the scalar side's pc, waiting it stays. -/
def State.runFrontWith (s : State) (slip : State → State) (head : QEntry → State → HeadRes) : State :=
  match s.hart.queue with
  | [] => s
  | e :: _ =>
    if s.hart.maskOwed e then s
    else
    match s.behindFence e with
    | none => s
    | some s =>
    match (s.withMlen e).headRes e head with
    | .done t => ((t.keepMlen e s.hart.ctl.mlen).healMask e s.hart.maskPois).popFront
    | .trap t ti => (slip (t.keepMlen e s.hart.ctl.mlen)).takeTrap ti t.hart.pc
    | .wait t => t.keepMlen e s.hart.ctl.mlen

/-- The front entry runs, nothing being queued behind it. -/
def State.runFront (s : State) (head : QEntry → State → HeadRes) : State := s.runFrontWith id head

/-- The entry an instruction makes at issue (R107, R343). -/
def State.entryOf (s : State) (i : Instr) (xa xb : Word) : QEntry :=
  { instr := i, bits := instrBits i, addr := s.hart.pc, xa := xa, xb := xb, vl := s.hart.ctl.vl.toNat,
    vcfg := s.hart.ctl.vcfg, p := 0, estart0 := s.hart.ctl.estart.toNat, begun := false, ringed := false, mlen := none, fenced := s.hart.vvFence, solo := false, chunks := none, pieces := [], pages := [] }

/-- The issue of a queued instruction (R107, R336): its trap, or a stall at a full queue, or the entry, which where `now` runs in
the same step where the vector side is eager and has nothing before it (log 4). -/
def State.issueNow (s : State) (now : Bool) (i : Instr) (len : Nat) (chk : Option IssueTrap) (xa xb : Word)
    (head : QEntry → State → HeadRes) : Result :=
  match chk with
  | some t => .next (s.trapIssue t.cause t.va (if t.bits then instrBits i else 0))
  | none =>
    if s.hart.queue.length ≥ Config.queueDepth then .next s
    else
      let t := s.advance len
      let t := { t with hart := { t.hart with queue := t.hart.queue ++ [s.entryOf i xa xb], vvFence := none } }
      .next (if now && s.eager && s.hart.queue.isEmpty && !s.hart.frozen then t.runFront head else t)

/-- The issue of a queued vector instruction. -/
def State.issue (s : State) (i : Instr) (len : Nat) (chk : Option IssueTrap) (xa xb : Word)
    (head : QEntry → State → HeadRes) : Result := s.issueNow true i len chk xa xb head

/-- A queue trap of an entry that stays with progress `p` (R336, R344). -/
def State.queueTrap (s : State) (e : QEntry) (src cause : Nat) (va : Word) (info p : Nat) : HeadRes :=
  .trap (s.setFront { e with p := p, begun := true, pieces := [], pages := [] })
    { cause := cause, src := src, slot := 0, fb := e.addr, va := va, info := if cause = cPRIVILEGE then e.bits else wordOf info }

/-- Whether an entry is a V-form of majors 0x11 to 0x30 (R29). -/
def QEntry.isV (e : QEntry) : Bool :=
  let m := (splitWord (e.bits.setWidth 32)).mj
  parcelLength (e.bits.setWidth 16) = 4 && decide (0x11 ≤ m) && decide (m ≤ 0x30)

/-- The state with ESTART 0 (R160). -/
def State.noEstart (s : State) : State := { s with hart := { s.hart with ctl := { s.hart.ctl with estart := 0 } } }

/-- A V-form instruction of the scalar side completes: ESTART becomes 0 in the vector side's order, so that one queued before it
still begins where it stands and itself leaves 0 (R160). -/
def State.endV (s : State) : State := if !s.hart.frozen && s.hart.queue.any QEntry.isV then s else s.noEstart

/-- A V-form of the scalar side completes with a result in an x register (R160). -/
def State.finishV (s : State) (d : Reg) (v : Word) : State := s.endV.finishX d v 4

/-- A V-form of the scalar side completes without a result (R160). -/
def State.advanceV (s : State) : State := s.endV.advance 4

/-- A V-form instruction completes: ESTART becomes 0 (R160). -/
def State.doneV (s : State) : HeadRes := .done s.noEstart

/-! ### Elements -/

/-- The place of byte `b` of the group at register `n` in the register store (R102). -/
def vkey (reg n b : Nat) : Nat := (n + b / reg) * Config.regStride + b % reg

/-- Element `i` of `wb` bytes of the group at register `n` (R102). -/
def velem (m : Memory) (reg n wb i : Nat) : Nat := m.read (vkey reg n (i * wb)) wb

/-- The register store with element `i` written (R102). -/
def vset (m : Memory) (reg n wb i v : Nat) : Memory := m.write (vkey reg n (i * wb)) wb v

/-- Whether element `i` holds poisoned data (R352). -/
def vpoisoned (m : Memory) (reg n wb i : Nat) : Bool := m.poisoned (vkey reg n (i * wb)) wb

/-- A memory with the `n` bytes at `k` zero and their whole words free of poison. -/
def Memory.clear (m : Memory) (k n : Nat) : Memory :=
  { cells := m.cells.filter fun c => !(decide (k ≤ c.1) && decide (c.1 < k + n))
    pois := m.pois.filter fun w => !(decide (k ≤ 8 * w.1) && decide (8 * w.1 + 8 ≤ k + n)) }

/-- The bytes `lo` to `hi − 1` of the group at register `n` cleared, register by register. -/
def vclear (m : Memory) (reg n lo hi : Nat) : Nat → Memory
  | 0 => m
  | j + 1 =>
    let m := vclear m reg n lo hi j
    let a := max lo (j * reg)
    let b := min hi ((j + 1) * reg)
    if a < b then m.clear (vkey reg n a) (b - a) else m

/-- The tail of a destination group: elements from `from_` to the group's end become 0 under TAIL = 1, unless VL is 0
(R104, R122). -/
def VCtx.tailZero (x : VCtx) (m : Memory) (n wb from_ : Nat) : Memory :=
  if x.tail && x.vl ≠ 0 then vclear m x.reg n (from_ * wb) (x.capacity wb * wb) 8 else m

/-- Bit `i` of a mask register; m0 reads as ones (R104, R136). -/
def Hart.maskBit (h : Hart) (n i : Nat) : Bool := if n = 0 then true else (h.masks[n % 8]'(Nat.mod_lt _ (by decide))).testBit i

/-- A hart with a mask register replaced; m0 cannot be written (R136). -/
def Hart.setMask (h : Hart) (n v : Nat) : Hart :=
  if n = 0 then h else { h with masks := h.masks.set (n % 8) v (Nat.mod_lt _ (by decide)) }

/-- A mask with the bits from `lo` to `hi − 1` cleared. -/
def maskClear (v lo hi : Nat) : Nat := if lo < hi then v - bitsOf v lo (hi - lo) * 2 ^ lo else v

/-- A mask with one bit written. -/
def maskPut (v i : Nat) (b : Bool) : Nat := if v.testBit i = b then v else if b then v + 2 ^ i else v - 2 ^ i

/-- The register number results go to: an open ring entry stands beside the popped one (R111). -/
def VCtx.dreg (x : VCtx) (n : Reg) : Nat := if x.pipe ∧ n.toNat ≥ 28 then n.toNat + 8 else n.toNat

/-- The register store of the current hart's lease. -/
def State.vmem (s : State) : Memory := s.lease.vmem

/-- The state with the register store replaced. -/
def State.setVmem (s : State) (m : Memory) : State := s.setLease { s.lease with vmem := m }

/-- The state with bits ORed into VSTAT (R123). -/
def State.orVstat (s : State) (v : Word) : State := { s with hart := s.hart.orVstat v }

/-! ### Rings (R111) -/

/-- Copies the bytes and the poison of one store into another at an offset. -/
def Memory.paste (m : Memory) (base : Nat) (e : Memory) : Memory :=
  { cells := e.cells.foldl (fun c b => SMap.set (0 : Byte) c (base + b.1) b.2) m.cells
    pois := e.pois.foldl (fun c b => SMap.set false c (base / 8 + b.1) b.2) m.pois }

/-- The `n` bytes at `base` of a store as a store of their own. -/
def Memory.cut (m : Memory) (base n : Nat) : Memory :=
  { cells := (m.cells.filter fun c => decide (base ≤ c.1) && decide (c.1 < base + n)).map fun c => (c.1 - base, c.2)
    pois := (m.pois.filter fun c => decide (base ≤ 8 * c.1) && decide (8 * c.1 < base + n)).map
      fun c => (c.1 - base / 8, c.2) }

/-- The rings, 0 to 3, that a list of registers names, each once (R111). -/
def ringsOf (rs : List Reg) : List Nat :=
  (List.range 4).filter fun j => rs.any fun r => r.toNat = 28 + j

/-- The entries of a ring. -/
def Lease.ring (l : Lease) (j : Nat) : List RingEntry := l.rings[j % 4]'(Nat.mod_lt _ (by decide))

/-- The lease with the entries of a ring replaced. -/
def Lease.setRing (l : Lease) (j : Nat) (es : List RingEntry) : Lease :=
  { l with rings := l.rings.set (j % 4) es (Nat.mod_lt _ (by decide)) }

/-- By what the entries that a hart's instruction has popped or opened are known: a handler that has claimed the vector
context has its own (R345). -/
def State.ringTag (s : State) : Nat := 2 * s.cur + bit s.hart.vclaimed

/-- The oldest entry that nobody has popped is popped (R111). -/
def takeFirst (tag : Nat) : List RingEntry → List RingEntry
  | [] => []
  | e :: es => if e.reader.isNone then { e with reader := some tag } :: es else e :: takeFirst tag es

/-- Whether the oldest entry that nobody has popped stands there, complete (R111). -/
def canPop (es : List RingEntry) : Bool :=
  match es.find? (·.reader.isNone) with
  | some e => e.writer.isNone
  | .none => false

/-- An instruction pops the oldest entry of a ring (R111). -/
def Lease.popRing (tag : Nat) (l : Lease) (j : Nat) : Lease := l.setRing j (takeFirst tag (l.ring j))

/-- A fresh entry is opened for a ring destination (R111).  DESIGN CHOICE (log 57): its bytes are zero. -/
def Lease.openRing (tag : Nat) (l : Lease) (j : Nat) : Lease :=
  l.setRing j (l.ring j ++ [{ data := Memory.empty, reader := .none, writer := some tag }])

/-- One entry of a ring laid into a slot of the register store, for the run of the instruction that holds it. -/
def Lease.showEntry (l : Lease) (slot j : Nat) (p : RingEntry → Bool) : Lease :=
  let base := slot * Config.regStride
  match (l.ring j).find? p with
  | some e => { l with vmem := (l.vmem.clear base Config.regStride).paste base e.data }
  | .none => l

/-- The entries an instruction has popped stand as the registers it reads, the one it fills beside them (R111). -/
def Lease.showRings (tag : Nat) (pops push : List Nat) (l : Lease) : Lease :=
  push.foldl (fun l j => l.showEntry (36 + j) j fun e => e.writer == some tag)
    (pops.foldl (fun l j => l.showEntry (28 + j) j fun e => e.reader == some tag) l)

/-- What an instruction has filled goes back into its entries. -/
def Lease.hideRings (tag : Nat) (pops push : List Nat) (l : Lease) : Lease :=
  let l := push.foldl (fun l j =>
    let base := (36 + j) * Config.regStride
    let l := l.setRing j ((l.ring j).map fun e => if e.writer = some tag then { e with data := l.vmem.cut base Config.regStride } else e)
    { l with vmem := l.vmem.clear base Config.regStride }) l
  pops.foldl (fun l j => { l with vmem := l.vmem.clear ((28 + j) * Config.regStride) Config.regStride }) l

/-- The instruction is complete: what it popped is gone, what it filled has joined its ring (R111). -/
def Lease.closeRings (tag : Nat) (l : Lease) : Lease :=
  { l with rings := l.rings.map fun es =>
      (es.filter fun e => e.reader ≠ some tag).map fun e => if e.writer = some tag then { e with writer := .none } else e }

/-- Runs the body of an instruction that has its ring entries: it sees them as registers, and what it has written of a
destination stays in the open entry if it does not complete (R111, R344). -/
def State.inRings (s : State) (e : QEntry) (pops push : List Nat) (body : QEntry → State → HeadRes) : HeadRes :=
  let tag := s.ringTag
  match body e (s.setLease (s.lease.showRings tag pops push)) with
  | .done t => .done (t.setLease ((t.lease.hideRings tag pops push).closeRings tag))
  | .trap t ti => .trap (t.setLease (t.lease.hideRings tag pops push)) ti
  | .wait t => .wait (t.setLease (t.lease.hideRings tag pops push))

/-- Whether an instruction waits at its rings: no entry to pop, or no room to push; it pops before it pushes (R111). -/
def Lease.ringStalls (l : Lease) (pops push : List Nat) : Bool :=
  pops.any (fun j => !canPop (l.ring j)) || push.any fun j => decide ((l.ring j).length ≥ 4 + bit (pops.contains j))

/-- Runs an instruction that may name rings: it waits for an entry of each ring it reads and for room in each ring it
writes, pops before it pushes, and pushes when it completes (R111). -/
def State.withRingsAll (s : State) (e : QEntry) (srcs dsts : List Reg)
    (body : QEntry → State → HeadRes) : HeadRes :=
  if s.hart.mode ≠ .pipeline then body e s
  else
    let pops := ringsOf srcs
    let push := ringsOf dsts
    if pops.isEmpty && push.isEmpty then body e s
    else if e.ringed then s.inRings e pops push body
    else if s.lease.ringStalls pops push then .wait s
    else
      let e' := { e with ringed := true }
      let l := push.foldl (Lease.openRing s.ringTag) (pops.foldl (Lease.popRing s.ringTag) s.lease)
      ((s.setLease l).setFront e').inRings e' pops push body

/-- As `withRingsAll`, with one destination or none. -/
def State.withRings (s : State) (e : QEntry) (srcs : List Reg) (dst : Option Reg) (body : QEntry → State → HeadRes) : HeadRes :=
  s.withRingsAll e srcs dst.toList body

/-! ### The element-wise engine (R122) -/

/-- A result element and the VSTAT bits it raises. -/
structure EOut where
  val : Nat
  stat : Word
  deriving DecidableEq, Repr

/-- An element with IEEE flags. -/
def EOut.ofF (r : FRes) : EOut := { val := r.bits, stat := orFlags 0 r.flags }

/-- An element without flags. -/
def EOut.plain (v : Nat) : EOut := { val := v, stat := 0 }

/-- `n` elements from `i` written in order: active ones by `f`, masked-off ones zeroed under MASKPOL (R122); and the
VSTAT bits raised. -/
def writeElems (x : VCtx) (dst wb : Nat) (act : Nat → Bool) (f : Nat → EOut) :
    Nat → Nat → Memory × Word → Memory × Word
  | 0, _, r => r
  | n + 1, i, (m, st) =>
    let r := if act i then (vset m x.reg dst wb i (f i).val, st ||| (f i).stat)
      else if x.maskz then (vset m x.reg dst wb i 0, st)
      else (m, st)
    writeElems x dst wb act f n (i + 1) r

/-- The first index from `i` among `n` that satisfies a test. -/
def firstIdx (t : Nat → Bool) : Nat → Nat → Option Nat
  | 0, _ => none
  | n + 1, i => if t i then some i else firstIdx t n (i + 1)

/-- An element-wise instruction with a vector destination (R122): `srcs` are the operand groups read, as register number
and bytes an element; an active element that reads poison traps there, with no element of the instruction performed (R344, log 5). -/
def State.elementwise (s : State) (e : QEntry) (vd : Reg) (wb mask : Nat) (srcs : List (Nat × Nat))
    (f : Memory → Nat → EOut) : HeadRes :=
  let x := s.vctx e
  let m := s.vmem
  let act := s.hart.maskBit mask
  let d := x.dreg vd
  match firstIdx (fun i => act i && srcs.any fun r => vpoisoned m x.reg r.1 r.2 i) (x.vl - e.p) e.p with
  | some k => s.queueTrap e 1 cPOISON 0 k e.p
  | none =>
    let (m', st) := writeElems x d wb act (f m) (x.vl - e.p) e.p (m, 0)
    ((s.setVmem (x.tailZero m' d wb x.vl)).orVstat st).doneV

/-- `n` mask bits from `i` written: active ones by `f`, others zeroed under MASKPOL (R104, R122). -/
def writeBits (maskz : Bool) (act : Nat → Bool) (f : Nat → Bool × Word) : Nat → Nat → Nat × Word → Nat × Word
  | 0, _, r => r
  | n + 1, i, (v, st) =>
    let r := if act i then (maskPut v i (f i).1, st ||| (f i).2) else if maskz then (maskPut v i false, st) else (v, st)
    writeBits maskz act f n (i + 1) r

/-- An element-wise instruction with a mask destination (R104, R126): the group is taken at `wb` bytes. -/
def State.elementMask (s : State) (e : QEntry) (md : Nat) (wb mask : Nat) (srcs : List (Nat × Nat))
    (f : Memory → Nat → Bool × Word) : HeadRes :=
  let x := s.vctx e
  let m := s.vmem
  let act := s.hart.maskBit mask
  let old := s.hart.masks[md % 8]'(Nat.mod_lt _ (by decide))
  match firstIdx (fun i => act i && srcs.any fun r => vpoisoned m x.reg r.1 r.2 i) (x.vl - e.p) e.p with
  | some k => s.queueTrap e 1 cPOISON 0 k e.p
  | none =>
    let (v, st) := writeBits x.maskz act (f m) (x.vl - e.p) e.p (old, 0)
    let v := if x.tail && x.vl ≠ 0 then maskClear v x.vl (x.capacity wb) else v
    ({ s with hart := s.hart.setMask md v }.orVstat st).doneV

/-- Bytes of an integer type code (R31). -/
def intBytes (t : BitVec 3) : Nat := 2 ^ (t.toNat / 2)

/-- Bytes of a floating type code (R31). -/
def fpBytes (t : BitVec 3) : Nat := fpWidth t.toNat / 8

end Sys2Proof.Machine
end

