-- ==== Sys2Proof/Machine/VConfig.lean ====
section
/-! DEFINITION. Strip boundaries (R93, R103) and the configuration instructions (R116 to R119), the cohort's GSETVL
(R114) among them. -/

namespace Sys2Proof.Machine

/-! ### Redistribution (R103) -/

/-- Elements `0` to `keep − 1` of the group at register `n` copied from the placement of `ro` bytes a register into that
of `rn`, with their poison. -/
def carryGroup (old : Memory) (ro rn n wb : Nat) : Nat → Memory → Memory
  | 0, m => m
  | k + 1, m =>
    let m := carryGroup old ro rn n wb k m
    let m := vset m rn n wb k (velem old ro n wb k)
    if vpoisoned old ro n wb k then m.poison (vkey rn n (k * wb)) else m

/-- The register store after a change of count (R103): the carried groups alone. -/
def redistribute (old : Memory) (ro rn grp wb keep : Nat) (carry : Nat) : Memory :=
  ((List.range 8).filter fun k => k % grp = 0 && carry.testBit k).foldl
    (fun m k => carryGroup old ro rn (24 + k) wb keep m) Memory.empty

/-- The registers and masks of a hart whose count changes from `c` to `c'` at a boundary that finds the VL `vl` and the VCFG `old` and
installs `vcfg` (R103). -/
def Hart.redistributed (h : Hart) (c c' vl : Nat) (old vcfg : Word) : Hart :=
  let sew := field old 0 3
  let grp := 2 ^ field old 3 2
  let same := field old 0 5 = field vcfg 0 5 ∧ sew < 4
  let keep := if same then min vl (vlmax grp sew (regBytes false c')) else 0
  let m := if same then redistribute h.lease.vmem (regBytes false c) (regBytes false c') grp (sewBits sew / 8) keep (field vcfg 10 8)
    else Memory.empty
  { h with lease := { h.lease with vmem := m }, masks := h.masks.map (low keep)
           maskPois := h.maskPois.filter fun p => decide (64 * (p.1 % 16384) < keep) }

/-! ### The boundary -/

/-- Whether a boundary samples a pending target: not in pipeline mode (R112), nor while the vector context is claimed
(R345) or the queue stands frozen (log 11). -/
def Hart.samples (h : Hart) : Bool := h.mode != .pipeline && !h.vclaimed && !h.vfrozen

/-- A lease whose boundary, with `n` others queued before it, takes the pending target (R93 step 1): what it gives up stays until the
registers are redistributed. -/
def Lease.sample (l : Lease) (n : Nat) : Lease :=
  match l.target with
  | .none => l
  | some c =>
    let p := min l.passes (l.held - c)
    { l with
      held := c, target := .none, reserved := [], passes := l.passes - p, before := n
      leaving := if c < l.held then l.reserved else [], leavingPasses := p }

/-- Whether a hart's registers are still laid out for another count than it holds (R93). -/
def Hart.resizing (h : Hart) : Bool := h.lease.lanes != h.lease.held

/-- Whether a hart has a target that its boundary has to leave until an earlier one has redistributed (log 11). -/
def Hart.targetWaits (h : Hart) : Bool := h.lease.target.isSome && h.samples && h.resizing

/-- Step 1 of R93 for a hart: its pending target becomes its count. -/
def State.takeTarget (s : State) (g : Nat) : State :=
  let h := s.getHart g
  if h.samples && h.lease.target.isSome then
    s.setHart g { h with lease := h.lease.sample (h.queue.filter QEntry.boundary).length }
  else s

/-- Step 4 of R93 for the current hart: the registers are redistributed, for a boundary that found the VL `vl` and the VCFG `old` and
installed `vcfg`, and clusters given up become free. -/
def State.resize (s : State) (vl : Nat) (old vcfg : Word) : State :=
  let h := s.hart
  let l := h.lease
  let h' := h.redistributed l.lanes l.held vl old vcfg
  let t := { s with hart := { h' with lease := { h'.lease with lanes := l.held, before := 0, leaving := [], leavingPasses := 0 } } }
  if l.lanes ≤ l.held then t else t.freeClusters s.cur (l.lanes - l.held) l.leaving l.leavingPasses

/-- VLMAX of the current hart under a configuration (R100). -/
def State.vlmaxOf (s : State) (vcfg : Word) : Nat := (s.vctxOf s.clusters 0 vcfg).vlmax

/-- VCFG with SEW, GRP, TAIL and MASKPOL from a configuration immediate (R116, R117). -/
def installImm (vcfg : Word) (imm : BitVec 11) : Word :=
  setField (setField vcfg 0 5 ((imm.extractLsb' 0 2).toNat + 8 * (imm.extractLsb' 2 2).toNat)) 5 2
    (imm.extractLsb' 4 2).toNat

/-- The writable fields of VCFG taken from a register (R98, R118). -/
def installReg (vcfg v : Word) : Word := (vcfg &&& ~~~0xFFFFFF) ||| (v &&& 0xFFFFFF)

/-- The configuration that a queued boundary has installed (R116 to R118); the 16-bit form installs what it finds. -/
def QEntry.installed (e : QEntry) : Word :=
  match e.instr with
  | .setvl o => if parcelLength (e.bits.setWidth 16) = 2 then e.vcfg else installImm e.vcfg o.imm
  | .setvli o | .gsetvl o => installImm e.vcfg o.imm
  | .setcfg _ => installReg e.vcfg e.xa
  | _ => e.vcfg

/-- A strip boundary at the queue head (R93, R103): the one that has taken a target redistributes the registers, once no stream has a mask
to write (R271). -/
def headBoundary (e : QEntry) (s : State) : HeadRes :=
  if !s.hart.resizing || s.hart.vclaimed then .done s
  else if s.hart.lease.before ≠ 0 then
    .done { s with hart := { s.hart with lease := { s.hart.lease with before := s.hart.lease.before - 1 } } }
  else if s.hart.slots.toList.any fun sl => sl.pendingMask ≠ 0 then .wait s
  else .done (s.resize e.vl e.vcfg e.installed)

/-- The boundary stands in the queue behind earlier instructions, so that a trim ends there (R157), and where it has a redistribution to
make (R93); else it has nothing to wait for. -/
def State.markBoundary (s : State) (e : QEntry) : State :=
  if s.hart.queue.isEmpty && !s.hart.resizing then s
  else
    let t := { s with hart := { s.hart with queue := s.hart.queue ++ [e] } }
    if s.hart.queue.isEmpty && !s.hart.frozen then t.runFront headBoundary else t

/-- VL, VCFG and xd written at the issue of a boundary (R93, R117). -/
def State.setLength (s : State) (vl : Nat) (vcfg : Word) (d : Reg) : State :=
  ({ s with hart := { s.hart with ctl := { s.hart.ctl with vl := wordOf vl, vcfg := vcfg }, gsetVl := false } }).writeX d
    (wordOf vl)

/-- A strip boundary of some bits that reads `xa` (R93, R117, R343): one that would take a target waits until an earlier one has
redistributed (log 11); a RESTART stop takes the hart at it (R321). -/
def State.boundary (s : State) (i : Instr) (bits vcfg xa : Word) (avl : Nat) (d : Reg) (len : Nat) : Result :=
  if s.hart.stop then .next (s.endTask s.cur)
  else if s.hart.targetWaits then .next s
  else if s.hart.queue.length ≥ Config.queueDepth then .next s
  else
    let e := { s.entryOf i xa 0 with bits := bits }
    let t := s.takeTarget s.cur
    .next (((t.setLength (min avl (t.vlmaxOf vcfg)) vcfg d).advance len).markBoundary e)

/-- SETVL (R117). -/
def execSetvl (o : IOp) (s : State) : Result :=
  s.boundary (.setvl o) (instrBits (.setvl o)) (installImm s.hart.ctl.vcfg o.imm) (s.readX o.a) (s.readX o.a).toNat o.d 4

/-- SETVLI: AVL is the a field (R117). -/
def execSetvli (o : IOp) (s : State) : Result :=
  s.boundary (.setvli o) (instrBits (.setvli o)) (installImm s.hart.ctl.vcfg o.imm) 0 o.a.toNat o.d 4

/-- H.SETVL: as SETVL with the configuration VCFG holds; ILLEGAL while SEW has no meaning (R24, R99, R117). -/
def execHSetvl (o : HOp) (s : State) : Result :=
  if field s.hart.ctl.vcfg 0 3 ≥ 4 then
    .next (s.trapIssue cILLEGAL 0 (halfBits 18 o))
  else
    s.boundary (.setvl { d := o.ra, a := o.rb, imm := 0 }) (halfBits 18 o) s.hart.ctl.vcfg (s.readX o.rb) (s.readX o.rb).toNat o.ra 2

/-- SETCFG: every writable field from x[a], AVL the VL in force, so that it waits for the queue's trims; a field value
without a meaning is ILLEGAL (R118). -/
def execSetcfg (o : IOp) (s : State) : Result :=
  let v := s.readX o.a
  if field v 0 3 ≥ 4 ∨ field v 18 4 > 10 ∨ field v 7 3 > 5 then .next (s.trapBits cILLEGAL (.setcfg o))
  else if !s.queueQuiet then .next s
  else s.boundary (.setcfg o) (instrBits (.setcfg o)) (installReg s.hart.ctl.vcfg v) v s.hart.ctl.vl.toNat o.d 4

/-! ### Cohorts (R114, R119) -/

/-- The harts, by number, on which copies of the current hart's launch are (R113). -/
def State.copies (s : State) : List Nat := s.copiesOf s.hart

/-- The state with every copy of the current hart's launch changed, pre-empted ones too. -/
def State.mapCopies (s : State) (f : Hart → Hart) : State := s.mapCopiesOf s.hart f

/-- Every live copy of the current hart's launch, pre-empted ones too. -/
def State.liveCopies (s : State) : List Hart := s.liveCopiesOf s.hart

/-- What a member stalled at a GSETVL allows: min(AVL, VLMAX) under the count it holds (R114). -/
def Hart.gsetLimit (h : Hart) : Option Nat :=
  match h.gset with
  | .stalled avl vcfg =>
    let sew := field vcfg 0 3
    some (min avl (vlmax (2 ^ field vcfg 3 2) sew (regBytes false h.lease.held)))
  | _ => none

/-- A member released with the common VL; one not stalled stays (R114). -/
def Hart.release (vl : Nat) (h : Hart) : Hart :=
  match h.gset with
  | .stalled _ _ => { h with gset := .released vl }
  | _ => h

/-- The targets of the stalled members taken (R114). -/
def State.gsetTargets (s : State) : State :=
  s.copies.foldl (fun t g =>
    match (t.getHart g).gset with
    | .stalled _ _ => t.takeTarget g
    | _ => t) s

/-- The cohort's boundary, if every live member of the current hart's launch stalls at it (R114, R119); a stalled member tries it
again, so that one that has exited or been killed is no longer waited for (R225). -/
def State.gsetTry (s : State) : State :=
  if s.liveCopies.all fun h => h.gsetLimit.isSome && !h.targetWaits then
    let t := s.gsetTargets
    let vl := (t.liveCopies.filterMap Hart.gsetLimit).min?.getD 0
    t.mapCopies (Hart.release vl)
  else s

/-- GSETVL: SETVL outside a cohort; in one, a boundary of every live member (R114, R117, R119). -/
def execGsetvl (o : IOp) (s : State) : Result :=
  let vcfg := installImm s.hart.ctl.vcfg o.imm
  if s.hart.stop then .next (s.endTask s.cur)
  else if s.hart.mode ≠ .cohort then
    s.boundary (.gsetvl o) (instrBits (.gsetvl o)) vcfg (s.readX o.a) (s.readX o.a).toNat o.d 4
  else if s.hart.queue.length ≥ Config.queueDepth then .next s
  else
    let e := s.entryOf (.gsetvl o) (s.readX o.a) 0
    let s := match s.hart.gset with
      | .none => ({ s with hart := { s.hart with gset := .stalled (s.readX o.a).toNat vcfg, gsets := s.hart.gsets + 1 } }).gsetTry
      | .stalled _ _ => s.gsetTry
      | .released _ => s
    match s.hart.gset with
    | .released vl =>
      let t := s.setLength vl vcfg o.d
      .next ((State.advance { t with hart := { t.hart with gset := .none, gsetVl := true } } 4).markBoundary e)
    | _ => .next s

end Sys2Proof.Machine
end

