-- ==== Sys2Proof/Machine/ScalarMem.lean ====
section
/-! DEFINITION. Scalar loads and stores (R70, R71) and atomics (R80 to R82). -/

namespace Sys2Proof.Machine

/-- The effective address of a load (R70). -/
def State.eaI (s : State) (o : IOp) : Word := s.readX o.a + simm o.imm

/-- The effective address of a store (R70). -/
def State.eaS (s : State) (o : SOp) : Word := s.readX o.a + simm o.imm

/-- LDB. -/
def execLdb (o : IOp) (s : State) : Result := s.load (instrBits (.ldb o)) 1 true o.d (s.eaI o) 4
/-- LDH. -/
def execLdh (o : IOp) (s : State) : Result := s.load (instrBits (.ldh o)) 2 true o.d (s.eaI o) 4
/-- LDW. -/
def execLdw (o : IOp) (s : State) : Result := s.load (instrBits (.ldw o)) 4 true o.d (s.eaI o) 4
/-- LDD. -/
def execLdd (o : IOp) (s : State) : Result := s.load (instrBits (.ldd o)) 8 false o.d (s.eaI o) 4
/-- LDBU. -/
def execLdbu (o : IOp) (s : State) : Result := s.load (instrBits (.ldbu o)) 1 false o.d (s.eaI o) 4
/-- LDHU. -/
def execLdhu (o : IOp) (s : State) : Result := s.load (instrBits (.ldhu o)) 2 false o.d (s.eaI o) 4
/-- LDWU. -/
def execLdwu (o : IOp) (s : State) : Result := s.load (instrBits (.ldwu o)) 4 false o.d (s.eaI o) 4
/-- STB. -/
def execStb (o : SOp) (s : State) : Result := s.store (instrBits (.stb o)) 1 (s.readX o.b) (s.eaS o) 4
/-- STH. -/
def execSth (o : SOp) (s : State) : Result := s.store (instrBits (.sth o)) 2 (s.readX o.b) (s.eaS o) 4
/-- STW. -/
def execStw (o : SOp) (s : State) : Result := s.store (instrBits (.stw o)) 4 (s.readX o.b) (s.eaS o) 4
/-- STD. -/
def execStd (o : SOp) (s : State) : Result := s.store (instrBits (.std o)) 8 (s.readX o.b) (s.eaS o) 4

/-! ### Atomics -/

/-- The bytes of an atomic: 4 or 8 (R80). -/
def amoBytes (o : AOp) : Nat := if o.w = 0 then 4 else 8

/-- Whether an atomic's ordering releases: REL or AR (R82). -/
def relOf (o : AOp) : Bool := o.o.getLsbD 1

/-- Whether an atomic's ordering acquires: ACQ or AR (R82). -/
def acqOf (o : AOp) : Bool := o.o.getLsbD 0

/-- An atomic whose new value is `f` of the width, the old value and the operand (R80). -/
def State.amo (s : State) (i : Instr) (o : AOp) (f : Nat → Nat → Nat → Nat) : Result :=
  let n := amoBytes o
  s.atomic (instrBits i) n (relOf o) (acqOf o) (fun old => some (low (8 * n) (f (8 * n) old (low (8 * n) (s.readX o.b).toNat))))
    (sextBytes n) o.d (s.readX o.a)

/-- The smaller or larger of two patterns, by a reading of them. -/
def pickBy (key : Nat → Int) (larger : Bool) (a b : Nat) : Nat :=
  if larger then (if key a < key b then b else a) else (if key b < key a then b else a)

/-- AMOSWAP. -/
def execAmoswap (o : AOp) (s : State) : Result := s.amo (.amoswap o) o fun _ _ b => b
/-- AMOADD. -/
def execAmoadd (o : AOp) (s : State) : Result := s.amo (.amoadd o) o fun _ a b => a + b
/-- AMOAND. -/
def execAmoand (o : AOp) (s : State) : Result := s.amo (.amoand o) o fun _ a b => Nat.land a b
/-- AMOOR. -/
def execAmoor (o : AOp) (s : State) : Result := s.amo (.amoor o) o fun _ a b => Nat.lor a b
/-- AMOXOR. -/
def execAmoxor (o : AOp) (s : State) : Result := s.amo (.amoxor o) o fun _ a b => Nat.xor a b
/-- AMOMIN. -/
def execAmomin (o : AOp) (s : State) : Result := s.amo (.amomin o) o fun w a b => pickBy (toSigned w) false a b
/-- AMOMAX. -/
def execAmomax (o : AOp) (s : State) : Result := s.amo (.amomax o) o fun w a b => pickBy (toSigned w) true a b
/-- AMOMINU. -/
def execAmominu (o : AOp) (s : State) : Result := s.amo (.amominu o) o fun _ a b => min a b
/-- AMOMAXU. -/
def execAmomaxu (o : AOp) (s : State) : Result := s.amo (.amomaxu o) o fun _ a b => max a b

/-- AMOCAS: the comparand is x[d], and nothing is stored where it differs (R80). -/
def execAmocas (o : AOp) (s : State) : Result :=
  let n := amoBytes o
  let want := low (8 * n) (s.readX o.d).toNat
  s.atomic (instrBits (.amocas o)) n (relOf o) (acqOf o) (fun old => if old = want then some (low (8 * n) (s.readX o.b).toNat) else none)
    (sextBytes n) o.d (s.readX o.a)

/-- AMOFADD: FP32 or FP64, rounded to nearest even, no flag; a 32-bit old value is zero-extended (R80). -/
def execAmofadd (o : AOp) (s : State) : Result :=
  let n := amoBytes o
  let f := if n = 4 then fp32 else fp64
  s.atomic (instrBits (.amofadd o)) n (relOf o) (acqOf o) (fun old => some (addF f .rne old (low (8 * n) (s.readX o.b).toNat)).bits) wordOf o.d (s.readX o.a)

end Sys2Proof.Machine
end

