-- ==== Sys2Proof/Machine/VArith.lean ====
section
/-! DEFINITION. Element-wise integer arithmetic and compares (R124 to R126), merges, moves and indices (R139). -/

namespace Sys2Proof.Machine

/-- A binary integer operation on elements: width, signedness, old destination and the two operands. -/
abbrev IntOp := Nat → Bool → Nat → Nat → Nat → EOut

/-- The second operand of element `i`: the vs2 element, or the broadcast register read at issue (R121). -/
def secondOp (x : VCtx) (o : VOp) (e : QEntry) (wb : Nat) (m : Memory) (i : Nat) : Nat :=
  if o.sc = 1 then low (8 * wb) e.xa.toNat else velem m x.reg o.vs2.toNat wb i

/-- The vector sources of a binary operation (R121). -/
def binSrcs (o : VOp) : List Reg := if o.sc = 1 then [o.vs1] else [o.vs1, o.vs2]

/-- Register numbers with an element size, for the poison check. -/
def srcsAt (rs : List Reg) (wb : Nat) : List (Nat × Nat) := rs.map fun r => (r.toNat, wb)

/-- A binary operation at the queue head (R122); `acc` when it also reads the old destination element. -/
def State.headBin (s : State) (o : VOp) (e : QEntry) (wb : Nat) (acc : Bool) (f : Nat → Nat → Nat → EOut) : HeadRes :=
  s.withRings e (binSrcs o) (some o.vd) fun e s =>
    let x := s.vctx e
    let d := x.dreg o.vd
    s.elementwise e o.vd wb o.m.toNat (srcsAt (binSrcs o) wb ++ (if acc then [(d, wb)] else [])) fun m i =>
      f (if acc then velem m x.reg d wb i else 0) (velem m x.reg o.vs1.toNat wb i) (secondOp x o e wb m i)

/-- The issue of a binary operation whose operands all have one width (R121, R122). -/
def State.issueBin (s : State) (i : Instr) (o : VOp) (wb : Nat) (head : QEntry → State → HeadRes) : Result :=
  s.issue i 4 (s.vecCheck ((o.vd :: binSrcs o).map fun r => (r, 8 * wb)) false)
    (if o.sc = 1 then s.readX o.vs2 else 0) 0 head

/-- A binary integer operation at the queue head (R124). -/
def State.headInt (s : State) (o : VOp) (e : QEntry) (acc : Bool) (f : IntOp) : HeadRes :=
  s.headBin o e (intBytes o.t) acc (f (intWidth o.t.toNat) (intSigned o.t.toNat))

/-- An integer result taken modulo 2^W (R124). -/
def wrapOut (w : Nat) (z : Int) : EOut := EOut.plain (ofInt w z)

/-- An integer result clamped to the range of its type, SAT set when it was (R124). -/
def satOut (w : Nat) (sg : Bool) (z : Int) : EOut :=
  let r := clampInt w sg z
  { val := ofInt w r.1, stat := if r.2 then vstatSat else 0 }

/-- VDIV of two elements (R125). -/
def divElem (w : Nat) (sg : Bool) (a b : Nat) : EOut :=
  if low w b = 0 then EOut.plain (2 ^ w - 1)
  else wrapOut w ((intOf w sg a).tdiv (intOf w sg b))

/-- VREM of two elements (R125). -/
def remElem (w : Nat) (sg : Bool) (a b : Nat) : EOut :=
  if low w b = 0 then EOut.plain (low w a)
  else wrapOut w ((intOf w sg a).tmod (intOf w sg b))

/-- VADD at the queue head (R124). -/
def headVadd (o : VOp) (e : QEntry) (s : State) : HeadRes :=
  s.headInt o e false fun w sg _ a b => wrapOut w (intOf w sg a + intOf w sg b)
/-- VADD (R124). -/
def execVadd (o : VOp) (s : State) : Result := s.issueBin (.vadd o) o (intBytes o.t) (headVadd o)

/-- VSUB at the queue head (R124). -/
def headVsub (o : VOp) (e : QEntry) (s : State) : HeadRes :=
  s.headInt o e false fun w sg _ a b => wrapOut w (intOf w sg a - intOf w sg b)
/-- VSUB (R124). -/
def execVsub (o : VOp) (s : State) : Result := s.issueBin (.vsub o) o (intBytes o.t) (headVsub o)

/-- VMUL at the queue head (R124). -/
def headVmul (o : VOp) (e : QEntry) (s : State) : HeadRes :=
  s.headInt o e false fun w sg _ a b => wrapOut w (intOf w sg a * intOf w sg b)
/-- VMUL (R124). -/
def execVmul (o : VOp) (s : State) : Result := s.issueBin (.vmul o) o (intBytes o.t) (headVmul o)

/-- VMULH: the high half of the product at the queue head (R124). -/
def headVmulh (o : VOp) (e : QEntry) (s : State) : HeadRes :=
  s.headInt o e false fun w sg _ a b => wrapOut w (intOf w sg a * intOf w sg b / (2 ^ w : Nat))
/-- VMULH (R124). -/
def execVmulh (o : VOp) (s : State) : Result := s.issueBin (.vmulh o) o (intBytes o.t) (headVmulh o)

/-- VMIN at the queue head (R124). -/
def headVmin (o : VOp) (e : QEntry) (s : State) : HeadRes :=
  s.headInt o e false fun w sg _ a b => EOut.plain (pickBy (intOf w sg) false a b)
/-- VMIN (R124). -/
def execVmin (o : VOp) (s : State) : Result := s.issueBin (.vmin o) o (intBytes o.t) (headVmin o)

/-- VMAX at the queue head (R124). -/
def headVmax (o : VOp) (e : QEntry) (s : State) : HeadRes :=
  s.headInt o e false fun w sg _ a b => EOut.plain (pickBy (intOf w sg) true a b)
/-- VMAX (R124). -/
def execVmax (o : VOp) (s : State) : Result := s.issueBin (.vmax o) o (intBytes o.t) (headVmax o)

/-- VDIV (R125) at the queue head (R124). -/
def headVdiv (o : VOp) (e : QEntry) (s : State) : HeadRes :=
  s.headInt o e false fun w sg _ a b => divElem w sg a b
/-- VDIV (R124). -/
def execVdiv (o : VOp) (s : State) : Result := s.issueBin (.vdiv o) o (intBytes o.t) (headVdiv o)

/-- VREM (R125) at the queue head (R124). -/
def headVrem (o : VOp) (e : QEntry) (s : State) : HeadRes :=
  s.headInt o e false fun w sg _ a b => remElem w sg a b
/-- VREM (R124). -/
def execVrem (o : VOp) (s : State) : Result := s.issueBin (.vrem o) o (intBytes o.t) (headVrem o)

/-- VAND at the queue head (R124). -/
def headVand (o : VOp) (e : QEntry) (s : State) : HeadRes :=
  s.headInt o e false fun _ _ _ a b => EOut.plain (Nat.land a b)
/-- VAND (R124). -/
def execVand (o : VOp) (s : State) : Result := s.issueBin (.vand o) o (intBytes o.t) (headVand o)

/-- VOR at the queue head (R124). -/
def headVor (o : VOp) (e : QEntry) (s : State) : HeadRes :=
  s.headInt o e false fun _ _ _ a b => EOut.plain (Nat.lor a b)
/-- VOR (R124). -/
def execVor (o : VOp) (s : State) : Result := s.issueBin (.vor o) o (intBytes o.t) (headVor o)

/-- VXOR at the queue head (R124). -/
def headVxor (o : VOp) (e : QEntry) (s : State) : HeadRes :=
  s.headInt o e false fun _ _ _ a b => EOut.plain (Nat.xor a b)
/-- VXOR (R124). -/
def execVxor (o : VOp) (s : State) : Result := s.issueBin (.vxor o) o (intBytes o.t) (headVxor o)

/-- VSLL: by the amount modulo W at the queue head (R124). -/
def headVsll (o : VOp) (e : QEntry) (s : State) : HeadRes :=
  s.headInt o e false fun w _ _ a b => EOut.plain (low w (a * 2 ^ (b % w)))
/-- VSLL (R124). -/
def execVsll (o : VOp) (s : State) : Result := s.issueBin (.vsll o) o (intBytes o.t) (headVsll o)

/-- VSR: copies of the sign for signed T, zeros for unsigned at the queue head (R124). -/
def headVsr (o : VOp) (e : QEntry) (s : State) : HeadRes :=
  s.headInt o e false fun w sg _ a b => wrapOut w (intOf w sg a / (2 ^ (b % w) : Nat))
/-- VSR (R124). -/
def execVsr (o : VOp) (s : State) : Result := s.issueBin (.vsr o) o (intBytes o.t) (headVsr o)

/-- VSADD: saturating at the queue head (R124). -/
def headVsadd (o : VOp) (e : QEntry) (s : State) : HeadRes :=
  s.headInt o e false fun w sg _ a b => satOut w sg (intOf w sg a + intOf w sg b)
/-- VSADD (R124). -/
def execVsadd (o : VOp) (s : State) : Result := s.issueBin (.vsadd o) o (intBytes o.t) (headVsadd o)

/-- VSSUB: saturating at the queue head (R124). -/
def headVssub (o : VOp) (e : QEntry) (s : State) : HeadRes :=
  s.headInt o e false fun w sg _ a b => satOut w sg (intOf w sg a - intOf w sg b)
/-- VSSUB (R124). -/
def execVssub (o : VOp) (s : State) : Result := s.issueBin (.vssub o) o (intBytes o.t) (headVssub o)

/-- VMAC: the old destination element plus the product at the queue head (R124). -/
def headVmac (o : VOp) (e : QEntry) (s : State) : HeadRes :=
  s.headInt o e true fun w sg d a b => wrapOut w (intOf w sg d + intOf w sg a * intOf w sg b)
/-- VMAC (R124). -/
def execVmac (o : VOp) (s : State) : Result := s.issueBin (.vmac o) o (intBytes o.t) (headVmac o)

/-- A compare at the queue head: one mask bit an element (R126, R129). -/
def State.headCmp (s : State) (o : VOp) (e : QEntry) (wb : Nat) (f : Nat → Nat → Bool × Word) : HeadRes :=
  s.withRings e (binSrcs o) none fun e s =>
    let x := s.vctx e
    s.elementMask e o.vd.toNat wb o.m.toNat (srcsAt (binSrcs o) wb) fun m i =>
      f (velem m x.reg o.vs1.toNat wb i) (secondOp x o e wb m i)

/-- The issue of a compare: its destination is a mask, sized at the width of T (R126). -/
def State.issueCmp (s : State) (i : Instr) (o : VOp) (wb : Nat) (head : QEntry → State → HeadRes) : Result :=
  s.issue i 4 (s.vecCheck ((binSrcs o).map fun r => (r, 8 * wb)) false) (if o.sc = 1 then s.readX o.vs2 else 0) 0 head

/-- An integer compare at the queue head (R126). -/
def State.headIntCmp (s : State) (o : VOp) (e : QEntry) (f : Int → Int → Bool) : HeadRes :=
  let w := intWidth o.t.toNat
  let sg := intSigned o.t.toNat
  s.headCmp o e (intBytes o.t) fun a b => (f (intOf w sg a) (intOf w sg b), 0)

/-- VCMPEQ at the queue head (R126). -/
def headVcmpeq (o : VOp) (e : QEntry) (s : State) : HeadRes := s.headIntCmp o e fun a b => decide (a = b)
/-- VCMPEQ (R126). -/
def execVcmpeq (o : VOp) (s : State) : Result := s.issueCmp (.vcmpeq o) o (intBytes o.t) (headVcmpeq o)

/-- VCMPNE at the queue head (R126). -/
def headVcmpne (o : VOp) (e : QEntry) (s : State) : HeadRes := s.headIntCmp o e fun a b => decide (a ≠ b)
/-- VCMPNE (R126). -/
def execVcmpne (o : VOp) (s : State) : Result := s.issueCmp (.vcmpne o) o (intBytes o.t) (headVcmpne o)

/-- VCMPLT at the queue head (R126). -/
def headVcmplt (o : VOp) (e : QEntry) (s : State) : HeadRes := s.headIntCmp o e fun a b => decide (a < b)
/-- VCMPLT (R126). -/
def execVcmplt (o : VOp) (s : State) : Result := s.issueCmp (.vcmplt o) o (intBytes o.t) (headVcmplt o)

/-- VCMPLE at the queue head (R126). -/
def headVcmple (o : VOp) (e : QEntry) (s : State) : HeadRes := s.headIntCmp o e fun a b => decide (a ≤ b)
/-- VCMPLE (R126). -/
def execVcmple (o : VOp) (s : State) : Result := s.issueCmp (.vcmple o) o (intBytes o.t) (headVcmple o)

/-! ### Merges, moves and indices (R139) -/

/-- VMERGE at the queue head: the mask selects, so every element below VL is written (R139). -/
def headVmerge (o : VOp) (e : QEntry) (s : State) : HeadRes :=
  s.withRings e (binSrcs o) (some o.vd) fun e s =>
    let x := s.vctx e
    let wb := intBytes o.t
    s.elementwise e o.vd wb 0 (srcsAt (binSrcs o) wb) fun m i =>
      EOut.plain (if s.hart.maskBit o.m.toNat i then secondOp x o e wb m i else velem m x.reg o.vs1.toNat wb i)
/-- VMERGE (R139). -/
def execVmerge (o : VOp) (s : State) : Result := s.issueBin (.vmerge o) o (intBytes o.t) (headVmerge o)

/-- The sources of VMV (R135): vs1, or none when a register is broadcast. -/
def vmvSrcs (o : VOp) : List Reg := if o.sc = 1 then [] else [o.vs1]

/-- VMV at the queue head (R139). -/
def headVmv (o : VOp) (e : QEntry) (s : State) : HeadRes :=
  s.withRings e (vmvSrcs o) (some o.vd) fun e s =>
    let x := s.vctx e
    let wb := intBytes o.t
    s.elementwise e o.vd wb o.m.toNat (srcsAt (vmvSrcs o) wb) fun m i =>
      EOut.plain (if o.sc = 1 then low (8 * wb) e.xa.toNat else velem m x.reg o.vs1.toNat wb i)
/-- VMV (R139). -/
def execVmv (o : VOp) (s : State) : Result :=
  s.issue (.vmv o) 4 (s.vecCheck ((o.vd :: vmvSrcs o).map fun r => (r, 8 * intBytes o.t)) false)
    (if o.sc = 1 then s.readX o.vs2 else 0) 0 (headVmv o)

/-- VID at the queue head: element i becomes i modulo 2^W (R139). -/
def headVid (o : VOp) (e : QEntry) (s : State) : HeadRes :=
  s.withRings e [] (some o.vd) fun e s =>
    s.elementwise e o.vd (intBytes o.t) o.m.toNat [] fun _ i => EOut.plain (low (intWidth o.t.toNat) i)
/-- VID (R139). -/
def execVid (o : VOp) (s : State) : Result :=
  s.issue (.vid o) 4 (s.vecCheck [(o.vd, 8 * intBytes o.t)] false) 0 0 (headVid o)

end Sys2Proof.Machine
end

