-- ==== Sys2Proof/Machine/VFloat.lean ====
section
/-! DEFINITION. Element-wise floating-point arithmetic, compares and classes (R127 to R129). -/

namespace Sys2Proof.Machine

/-- A binary floating operation at the queue head, rounded in VCFG.FRM (R127). -/
def State.headFp (s : State) (o : VOp) (e : QEntry) (acc : Bool) (f : Fmt → Rm → Nat → Nat → Nat → FRes) : HeadRes :=
  s.headBin o e (fpBytes o.t) acc fun d a b => EOut.ofF (f (Fmt.ofCode o.t.toNat) (s.vctx e).rm d a b)

/-- VFADD at the queue head (R127). -/
def headVfadd (o : VOp) (e : QEntry) (s : State) : HeadRes := s.headFp o e false fun f rm _ a b => addF f rm a b
/-- VFADD (R127). -/
def execVfadd (o : VOp) (s : State) : Result := s.issueBin (.vfadd o) o (fpBytes o.t) (headVfadd o)

/-- VFSUB at the queue head (R127). -/
def headVfsub (o : VOp) (e : QEntry) (s : State) : HeadRes := s.headFp o e false fun f rm _ a b => subF f rm a b
/-- VFSUB (R127). -/
def execVfsub (o : VOp) (s : State) : Result := s.issueBin (.vfsub o) o (fpBytes o.t) (headVfsub o)

/-- VFMUL at the queue head (R127). -/
def headVfmul (o : VOp) (e : QEntry) (s : State) : HeadRes := s.headFp o e false fun f rm _ a b => mulF f rm a b
/-- VFMUL (R127). -/
def execVfmul (o : VOp) (s : State) : Result := s.issueBin (.vfmul o) o (fpBytes o.t) (headVfmul o)

/-- VFDIV at the queue head (R127). -/
def headVfdiv (o : VOp) (e : QEntry) (s : State) : HeadRes := s.headFp o e false fun f rm _ a b => divF f rm a b
/-- VFDIV (R127). -/
def execVfdiv (o : VOp) (s : State) : Result := s.issueBin (.vfdiv o) o (fpBytes o.t) (headVfdiv o)

/-- VFMA at the queue head (R127). -/
def headVfma (o : VOp) (e : QEntry) (s : State) : HeadRes := s.headFp o e true fun f rm d a b => fmaF f rm a b d
/-- VFMA (R127). -/
def execVfma (o : VOp) (s : State) : Result := s.issueBin (.vfma o) o (fpBytes o.t) (headVfma o)

/-- VFNMA at the queue head (R127). -/
def headVfnma (o : VOp) (e : QEntry) (s : State) : HeadRes := s.headFp o e true fun f rm d a b => fnmaF f rm a b d
/-- VFNMA (R127). -/
def execVfnma (o : VOp) (s : State) : Result := s.issueBin (.vfnma o) o (fpBytes o.t) (headVfnma o)

/-- VFMIN at the queue head (R127). -/
def headVfmin (o : VOp) (e : QEntry) (s : State) : HeadRes := s.headFp o e false fun f _ _ a b => minmaxF f false a b
/-- VFMIN (R127). -/
def execVfmin (o : VOp) (s : State) : Result := s.issueBin (.vfmin o) o (fpBytes o.t) (headVfmin o)

/-- VFMAX at the queue head (R127). -/
def headVfmax (o : VOp) (e : QEntry) (s : State) : HeadRes := s.headFp o e false fun f _ _ a b => minmaxF f true a b
/-- VFMAX (R127). -/
def execVfmax (o : VOp) (s : State) : Result := s.issueBin (.vfmax o) o (fpBytes o.t) (headVfmax o)

/-- A unary operation at the queue head, `db` bytes a destination and `sb` a source element (R121, R122). -/
def State.headUn (s : State) (o : VOp) (e : QEntry) (db sb : Nat) (f : Rm → Nat → Nat → EOut) : HeadRes :=
  s.withRings e [o.vs1] (some o.vd) fun e s =>
    let x := s.vctx e
    s.elementwise e o.vd db o.m.toNat [(o.vs1.toNat, sb)] fun m i => f x.rm i (velem m x.reg o.vs1.toNat sb i)

/-- The issue of a unary operation (R121, R122); `bad` is what its own rule adds at step 4 of R34. -/
def State.issueUn (s : State) (i : Instr) (o : VOp) (db sb : Nat) (bad : Bool) (head : QEntry → State → HeadRes) :
    Result :=
  s.issue i 4 (s.vecCheck [(o.vd, 8 * db), (o.vs1, 8 * sb)] bad) 0 0 head

/-- A unary floating operation at the queue head (R127). -/
def State.headFp1 (s : State) (o : VOp) (e : QEntry) (f : Fmt → Rm → Nat → FRes) : HeadRes :=
  s.headUn o e (fpBytes o.t) (fpBytes o.t) fun rm _ a => EOut.ofF (f (Fmt.ofCode o.t.toNat) rm a)

/-- VFSQRT at the queue head (R127, R128). -/
def headVfsqrt (o : VOp) (e : QEntry) (s : State) : HeadRes := s.headFp1 o e sqrtF
/-- VFSQRT (R127, R128). -/
def execVfsqrt (o : VOp) (s : State) : Result := s.issueUn (.vfsqrt o) o (fpBytes o.t) (fpBytes o.t) false (headVfsqrt o)

/-- VFRSQRT at the queue head (R127, R128). -/
def headVfrsqrt (o : VOp) (e : QEntry) (s : State) : HeadRes := s.headFp1 o e rsqrtF
/-- VFRSQRT (R127, R128). -/
def execVfrsqrt (o : VOp) (s : State) : Result := s.issueUn (.vfrsqrt o) o (fpBytes o.t) (fpBytes o.t) false (headVfrsqrt o)

/-- VFABS at the queue head (R127, R128). -/
def headVfabs (o : VOp) (e : QEntry) (s : State) : HeadRes := s.headFp1 o e (fun f _ a => { bits := f.mag a, flags := 0 })
/-- VFABS (R127, R128). -/
def execVfabs (o : VOp) (s : State) : Result := s.issueUn (.vfabs o) o (fpBytes o.t) (fpBytes o.t) false (headVfabs o)

/-- VFNEG at the queue head (R127, R128). -/
def headVfneg (o : VOp) (e : QEntry) (s : State) : HeadRes := s.headFp1 o e (fun f _ a => { bits := f.withSign (!f.sign a) (f.mag a), flags := 0 })
/-- VFNEG (R127, R128). -/
def execVfneg (o : VOp) (s : State) : Result := s.issueUn (.vfneg o) o (fpBytes o.t) (fpBytes o.t) false (headVfneg o)

/-- A floating compare at the queue head (R129). -/
def State.headFpCmp (s : State) (o : VOp) (e : QEntry) (c : Cmp) : HeadRes :=
  s.headCmp o e (fpBytes o.t) fun a b =>
    let r := cmpF (Fmt.ofCode o.t.toNat) c a b
    (r.1, orFlags 0 r.2)

/-- VFCMPEQ at the queue head (R129). -/
def headVfcmpeq (o : VOp) (e : QEntry) (s : State) : HeadRes := s.headFpCmp o e .eq
/-- VFCMPEQ (R129). -/
def execVfcmpeq (o : VOp) (s : State) : Result := s.issueCmp (.vfcmpeq o) o (fpBytes o.t) (headVfcmpeq o)

/-- VFCMPLT at the queue head (R129). -/
def headVfcmplt (o : VOp) (e : QEntry) (s : State) : HeadRes := s.headFpCmp o e .lt
/-- VFCMPLT (R129). -/
def execVfcmplt (o : VOp) (s : State) : Result := s.issueCmp (.vfcmplt o) o (fpBytes o.t) (headVfcmplt o)

/-- VFCMPLE at the queue head (R129). -/
def headVfcmple (o : VOp) (e : QEntry) (s : State) : HeadRes := s.headFpCmp o e .le
/-- VFCMPLE (R129). -/
def execVfcmple (o : VOp) (s : State) : Result := s.issueCmp (.vfcmple o) o (fpBytes o.t) (headVfcmple o)

/-- VFCLASS at the queue head: one UINT16 element a source element (R129). -/
def headVfclass (o : VOp) (e : QEntry) (s : State) : HeadRes :=
  s.headUn o e 2 (fpBytes o.t) fun _ _ a => EOut.plain (classF (Fmt.ofCode o.t.toNat) a)
/-- VFCLASS (R129). -/
def execVfclass (o : VOp) (s : State) : Result := s.issueUn (.vfclass o) o 2 (fpBytes o.t) false (headVfclass o)

/-! ### Conversions (R130 to R132) -/

/-- The second type of a conversion: vs2[2:0] (R130). -/
def vsrc (o : VOp) : Nat := (o.vs2.extractLsb' 0 3).toNat

/-- SAT of a conversion: vs2[3] (R130). -/
def vsat (o : VOp) : Bool := o.vs2.getLsbD 3

/-- VFCVT at the queue head (R131). -/
def headVfcvt (o : VOp) (e : QEntry) (s : State) : HeadRes :=
  s.headUn o e (fpBytes o.t) (fpWidth (vsrc o) / 8) fun rm _ a =>
    EOut.ofF (cvtF (Fmt.ofCode o.t.toNat) (Fmt.ofCode (vsrc o)) rm (vsat o) a)
/-- VFCVT (R131). -/
def execVfcvt (o : VOp) (s : State) : Result :=
  s.issueUn (.vfcvt o) o (fpBytes o.t) (fpWidth (vsrc o) / 8) false (headVfcvt o)

/-- The source type of a scaled VFCVT: FP32 when it quantises, vs2[3] when it dequantises (R132). -/
def scaledSrc (o : VOp) : Nat := if o.t.toNat ≤ 1 then 4 else if vsat o then 1 else 0

/-- The scale of element `i`: entry i >> BLK of a scale register (R57, R132). -/
def Hart.scale (h : Hart) (n blk i : Nat) : Nat := (SMap.get 0 h.q (512 * n + i / 2 ^ blk)).toNat

/-- VFCVT scaled, at the queue head: the exact product with the block scale, rounded once (R132). -/
def headVfcvtScaled (o : VOp) (e : QEntry) (s : State) : HeadRes :=
  let src := Fmt.ofCode (scaledSrc o)
  s.headUn o e (fpBytes o.t) (fpWidth (scaledSrc o) / 8) fun rm i a =>
    EOut.ofF (roundVal (Fmt.ofCode o.t.toNat) rm (decide (o.t.toNat ≤ 1) && vsat o)
      (mulVal (src.value a) (fp32.value (s.hart.scale (vsrc o) (s.vctx e).blk i))))
/-- VFCVT scaled (R132): an element without a scale entry, or a BLK without a meaning, is ILLEGAL at step 4.  DESIGN CHOICE (log 61):
the check takes the VL that stands at issue, whatever an earlier queued load may trim. -/
def execVfcvtScaled (o : VOp) (s : State) : Result :=
  let x := s.vctxNow
  s.issueUn (.vfcvtScaled o) o (fpBytes o.t) (fpWidth (scaledSrc o) / 8)
    (decide (x.blk > 10) || (decide (x.vl > 0) && decide ((x.vl - 1) / 2 ^ x.blk > 511))) (headVfcvtScaled o)

/-- VF2I at the queue head (R131). -/
def headVf2i (o : VOp) (e : QEntry) (s : State) : HeadRes :=
  let w := intWidth o.t.toNat
  s.headUn o e (intBytes o.t) (fpWidth (vsrc o) / 8) fun rm _ a =>
    let r := f2i (Fmt.ofCode (vsrc o)) rm w (intSigned o.t.toNat) a
    { val := ofInt w r.1, stat := orFlags 0 r.2 }
/-- VF2I (R131). -/
def execVf2i (o : VOp) (s : State) : Result :=
  s.issueUn (.vf2i o) o (intBytes o.t) (fpWidth (vsrc o) / 8) false (headVf2i o)

/-- VI2F at the queue head (R131). -/
def headVi2f (o : VOp) (e : QEntry) (s : State) : HeadRes :=
  let w := intWidth (vsrc o)
  s.headUn o e (fpBytes o.t) (w / 8) fun rm _ a =>
    EOut.ofF (i2f (Fmt.ofCode o.t.toNat) rm (vsat o) (intOf w (intSigned (vsrc o)) a))
/-- VI2F (R131). -/
def execVi2f (o : VOp) (s : State) : Result :=
  s.issueUn (.vi2f o) o (fpBytes o.t) (intWidth (vsrc o) / 8) false (headVi2f o)

/-- VIEXT at the queue head (R131). -/
def headViext (o : VOp) (e : QEntry) (s : State) : HeadRes :=
  let w := intWidth o.t.toNat
  let sw := intWidth (vsrc o)
  s.headUn o e (intBytes o.t) (sw / 8) fun _ _ a =>
    let z := intOf sw (intSigned (vsrc o)) a
    if vsat o then satOut w (intSigned o.t.toNat) z else wrapOut w z
/-- VIEXT (R131). -/
def execViext (o : VOp) (s : State) : Result :=
  s.issueUn (.viext o) o (intBytes o.t) (intWidth (vsrc o) / 8) false (headViext o)

end Sys2Proof.Machine
end

