-- ==== Sys2Proof/Machine/VReduce.lean ====
section
/-! DEFINITION. Reductions to an x register (R133, R134). -/

namespace Sys2Proof.Machine

/-- The indices below VL at which a mask bit is set. -/
def State.active (s : State) (vl mask : Nat) : List Nat := (List.range vl).filter (s.hart.maskBit mask)

/-- A reduction at the queue head (R133): the active elements and the VL reach `f`, whose result goes to an x register
with its VSTAT bits; a poisoned element traps (R122). -/
def State.headRed (s : State) (o : VOp) (e : QEntry) (wb : Nat) (f : List Nat → Word × Word) : HeadRes :=
  s.withRings e [o.vs1] none fun e s =>
    let x := s.vctx e
    let m := s.vmem
    let idx := s.active x.vl o.m.toNat
    match idx.find? (vpoisoned m x.reg o.vs1.toNat wb) with
    | some k => s.queueTrap e 1 cPOISON 0 k e.p
    | none =>
      let r := f (idx.map (velem m x.reg o.vs1.toNat wb))
      ((s.writeX o.vd r.1).orVstat r.2).doneV

/-- The issue of a reduction (R133): the initial value is read then (R107). -/
def State.issueRed (s : State) (i : Instr) (o : VOp) (wb : Nat) (head : QEntry → State → HeadRes) : Result :=
  s.issue i 4 (s.vecCheck [(o.vs1, 8 * wb)] false) (if o.sc = 1 then s.readX o.vs2 else 0) 0 head

/-- An element extended to 64 bits (R133). -/
def ext64 (t : BitVec 3) (v : Nat) : Word := BitVec.ofInt 64 (intOf (intWidth t.toNat) (intSigned t.toNat) v)

/-- The initial value of an integer reduction, if there is one (R133). -/
def redInit (o : VOp) (e : QEntry) : List Word := if o.sc = 1 then [e.xa] else []

/-- An integer reduction at the queue head: the elements and the initial value folded from a start value (R133, R134). -/
def State.headRedInt (s : State) (o : VOp) (e : QEntry) (start : Word) (f : Word → Word → Word) : HeadRes :=
  s.headRed o e (intBytes o.t) fun l => ((l.map (ext64 o.t) ++ redInit o e).foldl f start, 0)

/-- The start of a minimum or maximum that has no effect on any 64-bit value compared as T is, used when there is an
initial value; without one the bound of T (R134). -/
def redBound (o : VOp) (larger : Bool) : Word :=
  let sg := intSigned o.t.toNat
  let w := if o.sc = 1 then 64 else intWidth o.t.toNat
  BitVec.ofInt 64 (if larger then intMin w sg else intMax w sg)

/-- The smaller or larger of two 64-bit values, compared as T is (R133). -/
def redPick (o : VOp) (larger : Bool) (a b : Word) : Word :=
  let lt := if intSigned o.t.toNat then a.slt b else a.ult b
  if larger then (if lt then b else a) else (if lt then a else b)

/-- VREDSUM at the queue head (R133). -/
def headVredsum (o : VOp) (e : QEntry) (s : State) : HeadRes := s.headRedInt o e 0 (· + ·)
/-- VREDSUM (R133). -/
def execVredsum (o : VOp) (s : State) : Result := s.issueRed (.vredsum o) o (intBytes o.t) (headVredsum o)

/-- VREDMIN at the queue head (R133). -/
def headVredmin (o : VOp) (e : QEntry) (s : State) : HeadRes := s.headRedInt o e (redBound o false) (redPick o false)
/-- VREDMIN (R133). -/
def execVredmin (o : VOp) (s : State) : Result := s.issueRed (.vredmin o) o (intBytes o.t) (headVredmin o)

/-- VREDMAX at the queue head (R133). -/
def headVredmax (o : VOp) (e : QEntry) (s : State) : HeadRes := s.headRedInt o e (redBound o true) (redPick o true)
/-- VREDMAX (R133). -/
def execVredmax (o : VOp) (s : State) : Result := s.issueRed (.vredmax o) o (intBytes o.t) (headVredmax o)

/-- VREDOR at the queue head (R133). -/
def headVredor (o : VOp) (e : QEntry) (s : State) : HeadRes := s.headRedInt o e 0 (· ||| ·)
/-- VREDOR (R133). -/
def execVredor (o : VOp) (s : State) : Result := s.issueRed (.vredor o) o (intBytes o.t) (headVredor o)

/-- The elements widened into the accumulation format, with NV for a signalling NaN (R60, R133). -/
def widenAll (code : Nat) : List Nat → List Nat × FFlags
  | [] => ([], 0)
  | v :: t =>
    let r := widenAcc code v
    let (l, fl) := widenAll code t
    (r.bits :: l, r.flags ||| fl)

/-- A value rounded into the accumulation format it stands in: only a NaN changes, to the canonical one, with NV for a signalling
one (R46, R56); a lone initial value or element of a sum (R61, R134). -/
def roundAcc (f : Fmt) (v : Nat) : FRes := roundVal f .rne false (f.value v)

/-- VFREDSUM over widened leaves (R61). -/
def treeSum (f : Fmt) (l : List Nat) (init : Option Nat) : Nat × FFlags :=
  let (t, fl) := treeFold (addF f .rne) l.length l
  match init, t with
  | none, none => (0, 0)
  | none, some v => let r := roundAcc f v; (r.bits, fl ||| r.flags)
  | some i, none => let r := roundAcc f i; (r.bits, r.flags)
  | some i, some v => let r := addF f .rne i v; (r.bits, fl ||| r.flags)

/-- VFREDOSUM over widened leaves (R62). -/
def orderedSum (f : Fmt) (l : List Nat) (init : Option Nat) : Nat × FFlags :=
  match init, l with
  | none, [] => (0, 0)
  | none, v :: t =>
    let s := orderedFrom (addF f .rne) v t
    let r := roundAcc f s.1
    (r.bits, s.2 ||| r.flags)
  | some i, [] => let r := roundAcc f i; (r.bits, r.flags)
  | some i, l => orderedFrom (addF f .rne) i l

/-- An operand that no other meets: its bits, a NaN made canonical (R46, R56). -/
def quietLone (f : Fmt) (v : Nat) : FRes :=
  if (f.value v).isNan then nanRes f (f.value v).isSnan else { bits := low f.width v, flags := 0 }

/-- A floating minimum or maximum over elements, the initial value combined last (R133, R134); what no second operand meets
becomes canonical where it is a NaN, with NV for a signalling one (R46, R56). -/
def minmaxRed (f : Fmt) (larger : Bool) (l : List Nat) (init : Option Nat) : Nat × FFlags :=
  let (t, fl) := treeFold (minmaxF f larger) l.length l
  match init, t with
  | none, none => (if f.finiteOnly then f.withSign larger f.nan else f.withSign larger f.infMag, 0)
  | none, some v => let r := quietLone f v; (r.bits, fl ||| r.flags)
  | some i, none => let r := quietLone f i; (r.bits, r.flags)
  | some i, some v => let r := minmaxF f larger v i; (r.bits, fl ||| r.flags)

/-- The initial value of a floating reduction at a width (R133). -/
def fredInit (o : VOp) (e : QEntry) (w : Nat) : Option Nat := if o.sc = 1 then some (low w e.xa.toNat) else none

/-- A floating sum at the queue head (R133). -/
def State.headRedF (s : State) (o : VOp) (e : QEntry) (f : Fmt → List Nat → Option Nat → Nat × FFlags) : HeadRes :=
  let acc := accFmt o.t.toNat
  s.headRed o e (fpBytes o.t) fun l =>
    let (l', fl) := widenAll o.t.toNat l
    let r := f acc l' (fredInit o e acc.width)
    (wordOf r.1, orFlags 0 (fl ||| r.2))

/-- A floating minimum or maximum at the queue head (R133). -/
def State.headRedM (s : State) (o : VOp) (e : QEntry) (larger : Bool) : HeadRes :=
  let f := Fmt.ofCode o.t.toNat
  s.headRed o e (fpBytes o.t) fun l =>
    let r := minmaxRed f larger l (fredInit o e f.width)
    (wordOf r.1, orFlags 0 r.2)

/-- VFREDSUM at the queue head (R133). -/
def headVfredsum (o : VOp) (e : QEntry) (s : State) : HeadRes := s.headRedF o e treeSum
/-- VFREDSUM (R133). -/
def execVfredsum (o : VOp) (s : State) : Result := s.issueRed (.vfredsum o) o (fpBytes o.t) (headVfredsum o)

/-- VFREDOSUM at the queue head (R133). -/
def headVfredosum (o : VOp) (e : QEntry) (s : State) : HeadRes := s.headRedF o e orderedSum
/-- VFREDOSUM (R133). -/
def execVfredosum (o : VOp) (s : State) : Result := s.issueRed (.vfredosum o) o (fpBytes o.t) (headVfredosum o)

/-- VFREDMIN at the queue head (R133). -/
def headVfredmin (o : VOp) (e : QEntry) (s : State) : HeadRes := s.headRedM o e false
/-- VFREDMIN (R133). -/
def execVfredmin (o : VOp) (s : State) : Result := s.issueRed (.vfredmin o) o (fpBytes o.t) (headVfredmin o)

/-- VFREDMAX at the queue head (R133). -/
def headVfredmax (o : VOp) (e : QEntry) (s : State) : HeadRes := s.headRedM o e true
/-- VFREDMAX (R133). -/
def execVfredmax (o : VOp) (s : State) : Result := s.issueRed (.vfredmax o) o (fpBytes o.t) (headVfredmax o)

end Sys2Proof.Machine
end

