-- ==== Sys2Proof/Machine/VPerm.lean ====
section
/-! DEFINITION. Masks (R136 to R138), scan, permutes, slides, compress and rank (R140 to R145), selection and sorting
(R146 to R149), the vector butterfly stage (R150) and bit-slice packing (R151). -/

namespace Sys2Proof.Machine

/-! ### Shapes of the whole-vector instructions (R142) -/

/-- The first of some elements of a group, in ascending index, that holds poison (R142). -/
def State.poisonedAt (s : State) (x : VCtx) (n wb : Nat) (idx : List Nat) : Option Nat :=
  idx.find? (vpoisoned s.vmem x.reg n wb)

/-- The lower of two indices that may be absent. -/
def minIdx : Option Nat → Option Nat → Option Nat
  | none, b => b
  | a, none => a
  | some a, some b => some (min a b)

/-- Runs a whole-vector instruction unless a source element it reads is poisoned (R142). -/
def State.whole (s : State) (e : QEntry) (bad : Option Nat) (body : State → HeadRes) : HeadRes :=
  match bad with
  | some k => s.queueTrap e 1 cPOISON 0 k e.p
  | none => body s

/-- Writes elements 0 to VL − 1 of a destination group under a mask and its policies, the tail by TAIL (R122). -/
def State.writeGroup (s : State) (x : VCtx) (vd : Reg) (wb mask : Nat) (f : Nat → EOut) : State :=
  let d := x.dreg vd
  let (m, st) := writeElems x d wb (s.hart.maskBit mask) f x.vl 0 (s.vmem, 0)
  (s.setVmem (x.tailZero m d wb x.vl)).orVstat st

/-- The current hart's mask register as a number. -/
def Hart.mask (h : Hart) (n : Nat) : Nat := h.masks[n % 8]'(Nat.mod_lt _ (by decide))

/-! ### Masks -/

/-- The vector checks of an instruction without a vector operand: its width is SEW (R136). -/
def State.maskCheck (s : State) : Option IssueTrap := s.vecCheck [] false

/-- A mask from a test of each index below VL, its tail by TAIL (R136, R137). -/
def State.headMask (s : State) (md : Reg) (e : QEntry) (f : Nat → Bool) : HeadRes :=
  let x := s.vctx e
  let (v, _) := writeBits false (fun _ => true) (fun i => (f i, 0)) (x.vl - e.p) e.p (s.hart.mask md.toNat, 0)
  let v := if x.tail && x.vl ≠ 0 then maskClear v x.vl (x.capacity (sewBits x.sew / 8)) else v
  State.doneV { s with hart := s.hart.setMask md.toNat v }

/-- A combination of two masks at the queue head (R137). -/
def State.headMask2 (s : State) (o : VOp) (e : QEntry) (f : Bool → Bool → Bool) : HeadRes :=
  s.headMask o.vd e fun i => f (s.hart.maskBit o.vs1.toNat i) (s.hart.maskBit o.vs2.toNat i)

/-- MAND at the queue head. -/
def headMand (o : VOp) (e : QEntry) (s : State) : HeadRes := s.headMask2 o e (· && ·)
/-- MAND (R137). -/
def execMand (o : VOp) (s : State) : Result := s.issue (.mand o) 4 s.maskCheck 0 0 (headMand o)
/-- MOR at the queue head. -/
def headMor (o : VOp) (e : QEntry) (s : State) : HeadRes := s.headMask2 o e (· || ·)
/-- MOR (R137). -/
def execMor (o : VOp) (s : State) : Result := s.issue (.mor o) 4 s.maskCheck 0 0 (headMor o)
/-- MXOR at the queue head. -/
def headMxor (o : VOp) (e : QEntry) (s : State) : HeadRes := s.headMask2 o e (· != ·)
/-- MXOR (R137). -/
def execMxor (o : VOp) (s : State) : Result := s.issue (.mxor o) 4 s.maskCheck 0 0 (headMxor o)
/-- MANDN at the queue head. -/
def headMandn (o : VOp) (e : QEntry) (s : State) : HeadRes := s.headMask2 o e (fun a b => a && !b)
/-- MANDN (R137). -/
def execMandn (o : VOp) (s : State) : Result := s.issue (.mandn o) 4 s.maskCheck 0 0 (headMandn o)
/-- MSET at the queue head: bit i is set when i is below x[s] (R137). -/
def headMset (o : VOp) (e : QEntry) (s : State) : HeadRes := s.headMask o.vd e fun i => decide (i < e.xa.toNat)
/-- MSET (R137). -/
def execMset (o : VOp) (s : State) : Result := s.issue (.mset o) 4 s.maskCheck (s.readX o.vs2) 0 (headMset o)

/-- The indices below VL at which both masks are set (R138). -/
def State.bothSet (s : State) (o : VOp) (vl : Nat) : List Nat :=
  (List.range vl).filter fun i => s.hart.maskBit o.vs1.toNat i && s.hart.maskBit o.m.toNat i

/-- MPOPC at the queue head (R138). -/
def headMpopc (o : VOp) (e : QEntry) (s : State) : HeadRes :=
  (s.writeX o.vd (wordOf (s.bothSet o e.vl).length)).doneV
/-- MPOPC (R138). -/
def execMpopc (o : VOp) (s : State) : Result := s.issue (.mpopc o) 4 s.maskCheck 0 0 (headMpopc o)
/-- MFIRST at the queue head: the lowest index, or all ones (R138). -/
def headMfirst (o : VOp) (e : QEntry) (s : State) : HeadRes :=
  (s.writeX o.vd (match s.bothSet o e.vl with
    | [] => -1
    | i :: _ => wordOf i)).doneV
/-- MFIRST (R138). -/
def execMfirst (o : VOp) (s : State) : Result := s.issue (.mfirst o) 4 s.maskCheck 0 0 (headMfirst o)

/-! ### One element, scan, permutes -/

/-- VMVX at the queue head (R140). -/
def headVmvx (o : VOp) (e : QEntry) (s : State) : HeadRes :=
  s.withRings e [o.vs1] none fun e s =>
    let x := s.vctx e
    let wb := intBytes o.t
    let j := e.xa.toNat
    if j < x.vl then
      s.whole e (s.poisonedAt x o.vs1.toNat wb [j]) fun s =>
        (s.writeX o.vd (ext64 o.t (velem s.vmem x.reg o.vs1.toNat wb j))).doneV
    else ((s.writeX o.vd 0).orVstat vstatBadarg).doneV
/-- VMVX (R140). -/
def execVmvx (o : VOp) (s : State) : Result :=
  s.issue (.vmvx o) 4 (s.vecCheck [(o.vs1, 8 * intBytes o.t)] false) (s.readX o.vs2) 0 (headVmvx o)

/-- The class of T that S selects: floating for 1 (R135). -/
def clsBytes (o : VOp) : Nat := if o.sc = 1 then fpBytes o.t else intBytes o.t

/-- The running sums of VSCAN over the elements at the active indices: the result and flags at each (R141). -/
def scanFrom (step : Option Nat → Nat → Nat × Nat × FFlags) : Option Nat → List (Nat × Nat) → List (Nat × EOut)
  | _, [] => []
  | acc, (i, v) :: t =>
    let (s, r, fl) := step acc v
    (i, { val := r, stat := orFlags 0 fl }) :: scanFrom step (some s) t

/-- One step of VSCAN: the new sum, the element's result, the flags (R141). -/
def scanStep (o : VOp) (acc : Option Nat) (v : Nat) : Nat × Nat × FFlags :=
  if o.sc = 1 then
    let f := accFmt o.t.toNat
    let wv := widenAcc o.t.toNat v
    let sum := match acc with
      | none => { wv with flags := 0 }
      | some a => addF f .rne a wv.bits
    let r := roundVal (Fmt.ofCode o.t.toNat) .rne false (f.value sum.bits)
    (sum.bits, r.bits, wv.flags ||| sum.flags ||| r.flags)
  else
    let w := intWidth o.t.toNat
    let sum := low w (acc.getD 0 + v)
    (sum, sum, 0)

/-- The result for an index in a list of results by index. -/
def lookOut (l : List (Nat × EOut)) (i : Nat) : EOut :=
  match l.find? (fun p => p.1 = i) with
  | some p => p.2
  | none => EOut.plain 0

/-- VSCAN at the queue head (R141). -/
def headVscan (o : VOp) (e : QEntry) (s : State) : HeadRes :=
  s.withRings e [o.vs1] (some o.vd) fun e s =>
    let x := s.vctx e
    let wb := clsBytes o
    let idx := s.active x.vl o.m.toNat
    s.whole e (s.poisonedAt x o.vs1.toNat wb idx) fun s =>
      let init := if o.vs2 = 0 then none
        else some (low (if o.sc = 1 then (accFmt o.t.toNat).width else 8 * wb) e.xa.toNat)
      let l := scanFrom (scanStep o) init (idx.map fun i => (i, velem s.vmem x.reg o.vs1.toNat wb i))
      (s.writeGroup x o.vd wb o.m.toNat (lookOut l)).doneV
/-- VSCAN (R141). -/
def execVscan (o : VOp) (s : State) : Result :=
  s.issue (.vscan o) 4 (s.vecCheck [(o.vd, 8 * clsBytes o), (o.vs1, 8 * clsBytes o)] false) (s.readX o.vs2) 0 (headVscan o)

/-- The registers VPERM reads: data, and indices unless a register is broadcast (R143). -/
def vpermSrcs (o : VOp) : List Reg := if o.sc = 1 then [o.vs1] else [o.vs1, o.vs2]

/-- VPERM at the queue head (R143).  DESIGN CHOICE (log 64): a poisoned index element leads to the data element that its stored bits
name, which counts as read. -/
def headVperm (o : VOp) (e : QEntry) (s : State) : HeadRes :=
  s.withRings e (vpermSrcs o) (some o.vd) fun e s =>
    let x := s.vctx e
    let wb := intBytes o.t
    let idx := s.active x.vl o.m.toNat
    let at_ (m : Memory) (i : Nat) : Nat := if o.sc = 1 then e.xa.toNat else velem m x.reg o.vs2.toNat 4 i
    let m := s.vmem
    let bad := minIdx (if o.sc = 1 then none else s.poisonedAt x o.vs2.toNat 4 idx)
      ((idx.filter fun i => decide (at_ m i < x.vl) && vpoisoned m x.reg o.vs1.toNat wb (at_ m i)).map (at_ m)
        |>.min?)
    s.whole e bad fun s =>
      (s.writeGroup x o.vd wb o.m.toNat fun i =>
        let j := at_ m i
        if j < x.vl then EOut.plain (velem m x.reg o.vs1.toNat wb j) else { val := 0, stat := vstatBadarg }).doneV
/-- VPERM (R143). -/
def execVperm (o : VOp) (s : State) : Result :=
  let w := 8 * intBytes o.t
  s.issue (.vperm o) 4 (s.vecCheck ([(o.vd, w), (o.vs1, w)] ++ (if o.sc = 1 then [] else [(o.vs2, 32)])) false)
    (if o.sc = 1 then s.readX o.vs2 else 0) 0 (headVperm o)

/-- A slide at the queue head: elements from `lo` take part, and `src` is where an active one reads (R144). -/
def State.headSlide (s : State) (o : VOp) (e : QEntry) (lo : Nat) (src : Nat → Option Nat) : HeadRes :=
  s.withRings e [o.vs1] (some o.vd) fun e s =>
    let x := s.vctx e
    let wb := intBytes o.t
    let m := s.vmem
    let reads := ((s.active x.vl o.m.toNat).filter fun i => decide (lo ≤ i)).filterMap src
    s.whole e (s.poisonedAt x o.vs1.toNat wb reads) fun s =>
      let d := x.dreg o.vd
      (s.setVmem (x.tailZero (writeElems x d wb (s.hart.maskBit o.m.toNat) (fun i =>
          match src i with
          | some j => EOut.plain (velem m x.reg o.vs1.toNat wb j)
          | none => EOut.plain 0) (x.vl - lo) lo (m, 0)).1 d wb x.vl)).doneV

/-- VSLIDEUP at the queue head (R144). -/
def headVslideup (o : VOp) (e : QEntry) (s : State) : HeadRes :=
  let k := e.xa.toNat
  s.headSlide o e k (fun i => some (i - k))
/-- VSLIDEUP (R144). -/
def execVslideup (o : VOp) (s : State) : Result :=
  s.issue (.vslideup o) 4 (s.vecCheck [(o.vd, 8 * intBytes o.t), (o.vs1, 8 * intBytes o.t)] false) (s.readX o.vs2) 0
    (headVslideup o)
/-- VSLIDEDN at the queue head (R144). -/
def headVslidedn (o : VOp) (e : QEntry) (s : State) : HeadRes :=
  let k := e.xa.toNat
  s.headSlide o e 0 (fun i => if i + k < e.vl then some (i + k) else none)
/-- VSLIDEDN (R144). -/
def execVslidedn (o : VOp) (s : State) : Result :=
  s.issue (.vslidedn o) 4 (s.vecCheck [(o.vd, 8 * intBytes o.t), (o.vs1, 8 * intBytes o.t)] false) (s.readX o.vs2) 0
    (headVslidedn o)

/-- Values written to consecutive elements from `i`. -/
def putFrom (reg d wb : Nat) : Nat → List Nat → Memory → Memory
  | _, [], m => m
  | i, v :: t, m => putFrom reg d wb (i + 1) t (vset m reg d wb i v)

/-- VCOMPRESS at the queue head (R145). -/
def headVcompress (o : VOp) (e : QEntry) (s : State) : HeadRes :=
  s.withRings e [o.vs1] (some o.vd) fun e s =>
    let x := s.vctx e
    let wb := intBytes o.t
    let idx := s.active x.vl o.m.toNat
    s.whole e (s.poisonedAt x o.vs1.toNat wb idx) fun s =>
      let d := x.dreg o.vd
      let m := putFrom x.reg d wb 0 (idx.map (velem s.vmem x.reg o.vs1.toNat wb)) s.vmem
      (s.setVmem (x.tailZero m d wb idx.length)).doneV
/-- VCOMPRESS (R145). -/
def execVcompress (o : VOp) (s : State) : Result :=
  s.issueUn (.vcompress o) o (intBytes o.t) (intBytes o.t) false (headVcompress o)

/-- VRANK at the queue head: how many lower indices are set in both masks (R145). -/
def headVrank (o : VOp) (e : QEntry) (s : State) : HeadRes :=
  s.withRings e [] (some o.vd) fun e s =>
    let x := s.vctx e
    let both := s.bothSet o x.vl
    (s.writeGroup x o.vd (intBytes o.t) o.m.toNat fun i =>
      EOut.plain (low (intWidth o.t.toNat) (both.filter (· < i)).length)).doneV
/-- VRANK (R145). -/
def execVrank (o : VOp) (s : State) : Result :=
  s.issue (.vrank o) 4 (s.vecCheck [(o.vd, 8 * intBytes o.t)] false) 0 0 (headVrank o)

/-! ### Selection and sorting -/

/-- The order of R146 as a key of a pattern. -/
def selKey (o : VOp) (v : Nat) : Int :=
  if o.sc = 1 then orderKeyF (Fmt.ofCode o.t.toNat) v else intOf (intWidth o.t.toNat) (intSigned o.t.toNat) v

/-- The value of an empty selection (R147). -/
def emptyVal (o : VOp) (max : Bool) : Nat :=
  if o.sc = 1 then
    let f := Fmt.ofCode o.t.toNat
    if f.finiteOnly then f.withSign max f.nan else f.withSign max f.infMag
  else
    let w := intWidth o.t.toNat
    ofInt w (if max then intMin w (intSigned o.t.toNat) else intMax w (intSigned o.t.toNat))

/-- The first of the best pairs (index, value) by the order of R146 (R147). -/
def selBest (o : VOp) (max : Bool) : List (Nat × Nat) → Option (Nat × Nat)
  | [] => none
  | p :: t =>
    match selBest o max t with
    | none => some p
    | some q =>
      let better := if max then decide (selKey o p.2 ≥ selKey o q.2) else decide (selKey o p.2 ≤ selKey o q.2)
      some (if better then p else q)

/-- VMAXI and VMINI at the queue head (R147). -/
def State.headSelect (s : State) (o : VOp) (e : QEntry) (max : Bool) : HeadRes :=
  s.withRings e [o.vs1] none fun e s =>
    let x := s.vctx e
    let wb := clsBytes o
    let idx := s.active x.vl o.m.toNat
    s.whole e (s.poisonedAt x o.vs1.toNat wb idx) fun s =>
      match selBest o max (idx.map fun i => (i, velem s.vmem x.reg o.vs1.toNat wb i)) with
      | none => (((s.writeX o.vd (-1)).writeX (o.vd + 1) (wordOf (emptyVal o max))).orVstat vstatEmpty).doneV
      | some (j, v) =>
        let t := (s.writeX o.vd (wordOf j)).writeX (o.vd + 1) (wordOf v)
        State.doneV { t with hart := t.hart.setMask o.m.toNat (maskPut (t.hart.mask o.m.toNat) j false) }

/-- VMAXI at the queue head. -/
def headVmaxi (o : VOp) (e : QEntry) (s : State) : HeadRes := s.headSelect o e true
/-- VMAXI (R147). -/
def execVmaxi (o : VOp) (s : State) : Result :=
  s.issue (.vmaxi o) 4 (s.vecCheck [(o.vs1, 8 * clsBytes o)] false) 0 0 (headVmaxi o)
/-- VMINI at the queue head. -/
def headVmini (o : VOp) (e : QEntry) (s : State) : HeadRes := s.headSelect o e false
/-- VMINI (R147). -/
def execVmini (o : VOp) (s : State) : Result :=
  s.issue (.vmini o) 4 (s.vecCheck [(o.vs1, 8 * clsBytes o)] false) 0 0 (headVmini o)

/-- Inserts an index into a list sorted by key, after its equals (R149). -/
def insertSorted (key : Nat → Int) (i : Nat) : List Nat → List Nat
  | [] => [i]
  | j :: t => if key i < key j then i :: j :: t else j :: insertSorted key i t

/-- A stable ascending sort of indices by key (R149). -/
def sortIdx (key : Nat → Int) (l : List Nat) : List Nat := l.foldl (fun acc i => insertSorted key i acc) []

/-- VSORTK at the queue head (R149). -/
def headVsortk (o : VOp) (e : QEntry) (s : State) : HeadRes :=
  s.withRings e [o.vs1] (some o.vd) fun e s =>
    let x := s.vctx e
    let wb := clsBytes o
    let idx := s.active x.vl o.m.toNat
    s.whole e (s.poisonedAt x o.vs1.toNat wb idx) fun s =>
      let sorted := sortIdx (fun i => selKey o (velem s.vmem x.reg o.vs1.toNat wb i)) idx
      let rest := (List.range x.vl).filter fun i => !s.hart.maskBit o.m.toNat i
      let d := x.dreg o.vd
      (s.setVmem (x.tailZero (putFrom x.reg d 4 0 (sorted ++ rest) s.vmem) d 4 x.vl)).doneV
/-- VSORTK (R149). -/
def execVsortk (o : VOp) (s : State) : Result := s.issueUn (.vsortk o) o 4 (clsBytes o) false (headVsortk o)

/-! ### Vector butterfly stage (R150) -/

/-- Whether a number is a power of two. -/
def isPow2 (n : Nat) : Bool := n ≠ 0 && 2 ^ Nat.log2 n = n

/-- VBFLY at the queue head (R150): every element of vd below VL is read, the weights of the active elements.  DESIGN CHOICE
(log 57): a ring named as vd is popped for the old elements, and a fresh entry is pushed. -/
def headVbfly (o : VOp) (e : QEntry) (s : State) : HeadRes :=
  s.withRings e [o.vs1, o.vd] (some o.vd) fun e s =>
    let x := s.vctx e
    let wb := fpBytes o.t
    let f := Fmt.ofCode o.t.toNat
    let st := e.xa.toNat
    if !isPow2 st then (s.orVstat vstatBadarg).doneV
    else
      let m := s.vmem
      let idx := s.active x.vl o.m.toNat
      let bad := minIdx (s.poisonedAt x o.vs1.toNat wb (idx.flatMap fun i => [2 * i, 2 * i + 1]))
        (s.poisonedAt x o.vd.toNat wb (List.range x.vl))
      s.whole e bad fun s =>
        (s.writeGroup x o.vd wb o.m.toNat fun i =>
          let p := Nat.xor i st
          let w j := f.value (velem m x.reg o.vs1.toNat wb j)
          let d j := f.value (velem m x.reg o.vd.toNat wb j)
          let xp := if p < x.vl then d p else .fin false 0 0
          let r := roundVal f x.rm false (sumVal x.rm [mulVal (w (2 * i)) (d i), mulVal (w (2 * i + 1)) xp])
          { val := r.bits, stat := orFlags (if p < x.vl then 0 else vstatBadarg) r.flags }).doneV
/-- VBFLY (R150): the weight group is twice the size of the data group. -/
def execVbfly (o : VOp) (s : State) : Result :=
  let w := 8 * fpBytes o.t
  let x := s.vctxNow
  s.issue (.vbfly o) 4 (s.vecCheck [(o.vd, w), (o.vs1, 2 * w)] (match x.group w with
    | some g => decide (2 * g > 8)
    | none => true)) (s.readX o.vs2) 0 (headVbfly o)

/-! ### Bit-slice packing (R151) -/

/-- The width of a bit-sliced form: vs2[3:0] + 1 (R151). -/
def sliceW (o : VOp) : Nat := (o.vs2.extractLsb' 0 4).toNat + 1

/-- Bits of one plane: VL rounded up to a multiple of 64 (R151). -/
def planeLen (vl : Nat) : Nat := (vl + 63) / 64 * 64

/-- Whether the planes do not fit their group (R151).  DESIGN CHOICE (log 61): the check takes the VL that stands at issue, which a load
queued before may still trim (R157). -/
def State.planesOver (s : State) (o : VOp) : Bool :=
  let x := s.vctxNow
  decide (sliceW o * planeLen x.vl > 8 * x.capacity 1)

/-- The bit `q` of a plane group (R151). -/
def planeBit (m : Memory) (reg n q : Nat) : Bool := (velem m reg n 1 (q / 8)).testBit (q % 8)

/-- The number of eight test results, the first least significant. -/
def byteOf (t : Nat → Bool) : Nat := (List.range 8).foldl (fun a j => a + (if t j then 2 ^ j else 0)) 0

/-- VBSLICE at the queue head (R151). -/
def headVbslice (o : VOp) (e : QEntry) (s : State) : HeadRes :=
  s.withRings e [o.vs1] (some o.vd) fun e s =>
    let x := s.vctx e
    let wb := intBytes o.t
    let w := sliceW o
    let len := planeLen x.vl
    let m := s.vmem
    let sg := intSigned o.t.toNat
    let idx := s.active x.vl o.m.toNat
    s.whole e (s.poisonedAt x o.vs1.toNat wb idx) fun s =>
      let clamp i := clampInt w sg (intOf (8 * wb) sg (velem m x.reg o.vs1.toNat wb i))
      let bitAt q :=
        let i := q % len
        decide (i < x.vl) && s.hart.maskBit o.m.toNat i && (ofInt w (clamp i).1).testBit (q / len)
      let d := x.dreg o.vd
      let bytes := (List.range (w * len / 8)).map fun b => byteOf fun j => bitAt (8 * b + j)
      let t := s.setVmem (x.tailZero (putFrom x.reg d 1 0 bytes m) d 1 (w * len / 8))
      (t.orVstat (if idx.any fun i => (clamp i).2 then vstatSat else 0)).doneV
/-- VBSLICE (R151). -/
def execVbslice (o : VOp) (s : State) : Result :=
  s.issueUn (.vbslice o) o 1 (intBytes o.t) (s.planesOver o) (headVbslice o)

/-- The bytes of the plane group that hold a bit of an active element, in ascending order of plane and element (R151). -/
def planeBytes (w len : Nat) (idx : List Nat) : List Nat :=
  (List.range w).flatMap fun p => idx.map fun i => (p * len + i) / 8

/-- VBUNSLICE at the queue head (R151): its source elements are the UINT8 elements of the plane group (R142). -/
def headVbunslice (o : VOp) (e : QEntry) (s : State) : HeadRes :=
  s.withRings e [o.vs1] (some o.vd) fun e s =>
    let x := s.vctx e
    let w := sliceW o
    let len := planeLen x.vl
    let m := s.vmem
    let idx := s.active x.vl o.m.toNat
    s.whole e (s.poisonedAt x o.vs1.toNat 1 (planeBytes w len idx)) fun s =>
      (s.writeGroup x o.vd (intBytes o.t) o.m.toNat fun i =>
        let v := (List.range w).foldl (fun a p => a + (if planeBit m x.reg o.vs1.toNat (p * len + i) then 2 ^ p else 0)) 0
        EOut.plain (ofInt (intWidth o.t.toNat) (intOf w (intSigned o.t.toNat) v))).doneV
/-- VBUNSLICE (R151). -/
def execVbunslice (o : VOp) (s : State) : Result :=
  s.issueUn (.vbunslice o) o (intBytes o.t) 1 (s.planesOver o) (headVbunslice o)

end Sys2Proof.Machine
end

