-- ==== Sys2Proof/Machine/Guard.lean ====
section
/-! DEFINITION. Stream slots (R261 to R274): their states, their elements' addresses, and what the streams of a slate guard. -/

namespace Sys2Proof.Machine

/-! ### Shape records (R264, R265) -/

/-- TYPE (R264). -/
def shapeType (v : BitVec 512) : Nat := bitsOf v.toNat 0 8
/-- RANK (R264). -/
def shapeRank (v : BitVec 512) : Nat := bitsOf v.toNat 8 8
/-- SIZE[d] (R264). -/
def shapeSize (v : BitVec 512) (d : Nat) : Nat := bitsOf v.toNat (64 + 32 * d) 32
/-- STRIDE[d] (R264). -/
def shapeStride (v : BitVec 512) (d : Nat) : Nat := bitsOf v.toNat (192 + 64 * d) 64
/-- TILE[d] (R264). -/
def shapeTile (v : BitVec 512) (d : Nat) : Nat := bitsOf v.toNat (448 + 16 * d) 16

/-- The product of TILE[lo] to TILE[RANK − 1]. -/
def shapeTiles (v : BitVec 512) (lo : Nat) : Nat :=
  ((List.range (min (shapeRank v) 4)).filter (lo ≤ ·)).foldl (fun a d => a * shapeTile v d) 1

/-- The number of the first failing check of a record at an address, 0 when every check passes (R265). -/
def shapeCode (va : Word) (v : BitVec 512) : Nat :=
  let r := shapeRank v
  let dims := List.range (min r 4)
  let rest := (List.range 4).filter (r ≤ ·)
  if va.toNat % 64 ≠ 0 then 1
  else if shapeType v > 3 ∨ bitsOf v.toNat 16 48 ≠ 0 then 2
  else if r = 0 ∨ r > 4 then 3
  else if rest.any fun d => shapeSize v d ≠ 0 || shapeStride v d ≠ 0 || shapeTile v d ≠ 0 then 4
  else if dims.any fun d => shapeSize v d = 0 then 5
  else if dims.any fun d => shapeTile v d = 0 || decide (shapeTile v d > shapeSize v d) then 6
  else if dims.any fun d => shapeStride v d % 2 ^ shapeType v ≠ 0 then 7
  else if shapeTiles v 1 > 4096 then 8
  else 0

/-- The byte offset of coordinates counted from dimension `d` on, the first varying fastest (R264): `n` dimensions. -/
def shapeOffset (v : BitVec 512) : Nat → Nat → Nat → Word
  | 0, _, _ => 0
  | n + 1, d, e =>
    let t := shapeTile v d
    wordOf (e % t) * wordOf (shapeStride v d) + shapeOffset v n (d + 1) (e / t)

/-- Whether the row `r` of an STMTL lies within the bounds of dimensions `d` on (R271). -/
def rowIn (v : BitVec 512) (org : Nat → Nat) : Nat → Nat → Nat → Bool
  | 0, _, _ => true
  | n + 1, d, r =>
    let t := shapeTile v d
    decide (org d + r % t < shapeSize v d) && rowIn v org n (d + 1) (r / t)

/-! ### Slots (R262, R263) -/

/-- The states of a slot (R262). -/
inductive SlotState where
  | idle
  | active
  | done
  | faulted
  | retry
  | error
  | cancelled
  | other
  deriving DecidableEq, Repr

/-- A state's code (R262). -/
def SlotState.code : SlotState → Nat
  | .idle => 0
  | .active => 1
  | .done => 2
  | .faulted => 3
  | .retry => 4
  | .error => 5
  | .cancelled => 6
  | .other => 7

/-- A state from its code (R262). -/
def SlotState.ofCode (n : Nat) : SlotState :=
  match n with
  | 0 => .idle
  | 1 => .active
  | 2 => .done
  | 3 => .faulted
  | 4 => .retry
  | 5 => .error
  | 6 => .cancelled
  | _ => .other

/-- STATE (R262). -/
def Slot.state (sl : Slot) : SlotState := SlotState.ofCode (field sl.status 60 4)
/-- CAUSE (R262). -/
def Slot.cause (sl : Slot) : Nat := field sl.status 48 8
/-- N (R262). -/
def Slot.count (sl : Slot) : Nat := field sl.status 24 24
/-- AVAIL (R262). -/
def Slot.avail (sl : Slot) : Nat := field sl.status 0 24

/-- A status word (R262). -/
def slotWord (st : SlotState) (err cause n avail : Nat) : Word :=
  wordOf (avail % 2 ^ 24 + n % 2 ^ 24 * 2 ^ 24 + cause % 256 * 2 ^ 48 + err % 16 * 2 ^ 56 + st.code * 2 ^ 60)

/-- The slot in another state, its counts kept (R262, R263). -/
def Slot.enter (sl : Slot) (st : SlotState) (err cause : Nat) : Slot :=
  { sl with status := slotWord st err cause sl.count sl.avail }

/-- What a stream does: load, store, copy, or a tile with bounds (R266). -/
inductive StreamOp where
  | load
  | store
  | copy
  | tile
  deriving DecidableEq, Repr

/-- The fields of the instruction a slot was issued by. -/
def Slot.fields (sl : Slot) : WordFields := splitWord (sl.bits.setWidth 32)

/-- What the slot's instruction does (R266). -/
def Slot.op (sl : Slot) : StreamOp :=
  if sl.fields.mj = 0x2C then .tile
  else if sl.fields.op2 = 2 then .store
  else if sl.fields.op2 = 3 then .copy
  else .load

/-- Whether it is shaped (R266). -/
def Slot.shaped (sl : Slot) : Bool := sl.fields.v.sc = 1

/-- Bytes of an element (R267). -/
def Slot.width (sl : Slot) : Nat := if sl.shaped then 2 ^ (shapeType sl.shape % 4) else intBytes sl.fields.v.t

/-- Origin coordinate d (R271). -/
def Slot.org (sl : Slot) (d : Nat) : Nat :=
  match d with
  | 0 => field sl.org0 0 32
  | 1 => field sl.org0 32 32
  | 2 => field sl.org1 0 32
  | _ => field sl.org1 32 32

/-- Rows of an STMTL (R271). -/
def Slot.rows (sl : Slot) : Nat := shapeTiles sl.shape 1

/-- Elements of a row of an STMTL (R271). -/
def Slot.rowLen (sl : Slot) : Nat := sl.count / sl.rows

/-- Dimensions of the shape beyond the innermost. -/
def Slot.outer (sl : Slot) : Nat := min (shapeRank sl.shape) 4 - 1

/-- Whether row r of an STMTL is in bounds (R271). -/
def Slot.rowIn (sl : Slot) (r : Nat) : Bool := Machine.rowIn sl.shape sl.org sl.outer 1 r

/-- The address element e is written to (R268, R271). -/
def Slot.dstAddr (sl : Slot) (e : Nat) : Word :=
  if sl.op = .store ∧ sl.shaped then sl.dst + shapeOffset sl.shape (sl.outer + 1) 0 e else sl.dst + wordOf (e * sl.width)

/-- The address element e is read from, none for a row out of bounds (R268, R271). -/
def Slot.srcAddr (sl : Slot) (e : Nat) : Option Word :=
  match sl.op with
  | .store => some (sl.src + wordOf (e * sl.width))
  | .tile =>
    let r := e / sl.rowLen
    if sl.rowIn r then
      some (sl.src + wordOf (e % sl.rowLen) * wordOf (shapeStride sl.shape 0) + shapeOffset sl.shape sl.outer 1 r)
    else none
  | _ =>
    if sl.shaped then some (sl.src + shapeOffset sl.shape (sl.outer + 1) 0 e) else some (sl.src + wordOf (e * sl.width))

/-! ### Guards (R273, R274) -/

/-- The slate byte an address names for a hart, as core and offset (R235, R237). -/
def slateOf (g : Nat) (va : Word) : Option (Nat × Nat) :=
  let v := va.toNat
  if 0x7F0000000000 ≤ v ∧ v < 0x7F0000000000 + Config.slateBytes then some (coreKey g, v - 0x7F0000000000)
  else if 0x7E0000000000 ≤ v ∧ v < 0x7E2000000000 then
    let o := v - 0x7E0000000000
    if o % 2 ^ 21 < Config.slateBytes then some (768 * (o / 2 ^ 31) + o % 2 ^ 31 / 2 ^ 21, o % 2 ^ 21) else none
  else none

/-- The slate words of a core that elements of a stream are written to, with the element (R273). -/
def Slot.dstWords (sl : Slot) (g core : Nat) : List (Nat × Nat) :=
  (List.range sl.count).filterMap fun e =>
    match slateOf g (sl.dstAddr e) with
    | some (c, off) => if c = core then some (e, off / 8) else none
    | none => none

/-- Whether a stream guards `n` bytes at an offset of a core's slate (R273, R274). -/
def Slot.guards (sl : Slot) (g core off n : Nat) : Bool :=
  match sl.state with
  | .active =>
    (List.range sl.count).any fun e =>
      match slateOf g (sl.dstAddr e) with
      | some (c, o) => c = core && decide (o < off + n) && decide (off < o + sl.width)
          && (sl.dstWords g core).any fun p => p.2 % 192 = o / 8 % 192 && decide (p.2 ≤ o / 8) && !sl.landed.testBit p.1
      | none => false
  | .faulted | .retry =>
    (List.range sl.count).any fun e =>
      decide (sl.avail ≤ e) &&
        (match slateOf g (sl.dstAddr e) with
          | some (c, o) => c = core && decide (o < off + n) && decide (off < o + sl.width)
          | none => false)
  | _ => false

/-- What a vector load or a stream meets at bytes of a slate (R274). -/
inductive Guard where
  | free
  | wait
  | faulted (g slot : Nat)
  deriving DecidableEq, Repr

/-- The slots of the group that are not idle, by hart and number. -/
def State.liveSlots (s : State) : List (Nat × Nat) :=
  (s.cur :: s.harts.map Prod.fst).flatMap fun g =>
    ((List.range 8).filter fun j => ((s.getHart g).slot j).state ≠ .idle).map fun j => (g, j)

/-- The guard on `n` bytes at a place, by any stream but one (R274, log 20). -/
def State.guardBut (s : State) (skip : Option (Nat × Nat)) (p : Place) (n : Nat) : Guard :=
  match p with
  | .slate core off =>
    match s.liveSlots.find? fun r => some r ≠ skip && ((s.getHart r.1).slot r.2).guards r.1 core off n with
    | some (g, j) => if ((s.getHart g).slot j).state = .active then .wait else .faulted g j
    | none => .free
  | _ => .free

/-- The guard on `n` bytes at a place for vector loads (R274). -/
def State.guard (s : State) (p : Place) (n : Nat) : Guard := s.guardBut none p n

/-- Whether a hart has a stream under way (R263). -/
def Hart.streaming (h : Hart) : Bool := h.slots.toList.any fun sl => sl.state = .active

/-- Whether no stream of the current hart is under way (R263). -/
def State.streamsQuiet (s : State) : Bool := !s.hart.streaming

/-! ### The copy engine's moves -/

/-- The event of a slot's next landing. -/
def landingEvent (g j : Nat) : Event :=
  { kind := .streamElementLanding, arg := { EvArg.none with idx := g, aux := j } }

/-- A slot enters DONE, FAULTED or ERROR: the hart's event flag is set (R263). -/
def State.finishSlot (s : State) (g j : Nat) (sl : Slot) : State :=
  s.setHart g { (s.getHart g).setSlot j sl with event := true }

/-- A slot resumes at element AVAIL (R263, R279). -/
def Slot.resume (sl : Slot) : Slot := { sl.enter .active 0 0 with landed := 2 ^ sl.avail - 1 }

/-- Every RETRY slot of the current hart becomes ACTIVE (R279). -/
def State.resumeStreams (s : State) : State :=
  (List.range 8).foldl (fun s j =>
    let sl := s.hart.slot j
    if sl.state = .retry then (s.setSlot s.cur j sl.resume).pushOnce (landingEvent s.cur j) else s) s

end Sys2Proof.Machine
end

