-- ==== Sys2Proof/Machine/VMem.lean ====
section
/-! DEFINITION. Vector loads and stores (R152 to R167): addresses, checks, fault-only-first and precise forms, combining
scatters, scale and mask loads and stores. -/

namespace Sys2Proof.Machine

/-- What the checks of one element find (R155, R274, R382). -/
inductive ECheck where
  | ok (p : Place) (leaf : Option LeafAt)
  | lost (p : Place) (leaf : Option LeafAt) (va : Word)
  | bad (cause : Nat) (va : Word)
  | stream (g slot : Nat)
  | guarded
  | wait
  deriving DecidableEq, Repr

/-- The checks of one element's access, items 4 to 7 of R155, an address no vector access may have being item 4 (R235, R238):
`indexed` asks for the alignment of an indexed element, `fate`
says of a package whether the element's transfer from there is lost (R382, R386). -/
def State.elemCheckAt (s : State) (k : Kind) (fate : Nat → Bool → Bool) (indexed : Bool) (wb : Nat) (va : Word) : ECheck :=
  if !canonical va then .bad cADDRESS va
  else
    let l := s.locate (s.frontAccess k) va
    if indexed && decide (va.toNat % wb ≠ 0) then .bad (if l = .bad cADDRESS then cADDRESS else cMISALIGN_ELEM) va
    else
    match l with
    | .bad c => .bad c va
    | .wait => .wait
    | .place p l lost =>
      if s.heldBy (agentNo s.cur .vector) p.key wb then .wait
      else if fate p.pkg lost then .lost p l va
      else if k = .read then
        (match s.guard p wb with
          | .wait => .guarded
          | .faulted g j => .stream g j
          | .free => if s.mem.poisoned p.key wb then .bad cPOISON va else .ok p l)
      else .ok p l

/-- The checks of one element's access that is sent by itself. -/
def State.elemCheck (s : State) (k : Kind) (indexed : Bool) (wb : Nat) (va : Word) : ECheck :=
  s.elemCheckAt k (fun _ l => l) indexed wb va

/-- A vector memory instruction: how element `i` is checked, and which counter its elements add to (R368). -/
structure VAcc where
  wb : Nat
  hot : Hot
  addr : Nat → Word
  check : Nat → ECheck

/-- The accesses of an instruction under mask mn: an element whose mask bit stands in a poisoned word consumes that (R354). -/
def State.overMask (s : State) (n : Nat) (a : VAcc) : VAcc :=
  { a with check := fun i => if s.hart.maskWordBad n i then .bad cPOISON 0 else a.check i }

/-- One performed element's transfer, its A and D bits and its count (R364, R368). -/
def State.performed (s : State) (k : Kind) (hot : Hot) (va : Word) (pl : Place) (leaf : Option LeafAt) : State :=
  (s.visit (dieKey s.cur) pl k leaf).countHot (dieKey s.cur) (field s.hart.ctl.spaceNow 0 16) va leaf hot

/-- One performed element that came in a piece: its A bit and its count (R364, R368, R385). -/
def State.pieced (s : State) (hot : Hot) (va : Word) (leaf : Option LeafAt) : State :=
  (s.touch .read leaf).countHot (dieKey s.cur) (field s.hart.ctl.spaceNow 0 16) va leaf hot

/-- The elements among `n` from `i` that are active and satisfy a test. -/
def activeFrom (act : Nat → Bool) (i n : Nat) : List Nat := ((List.range n).map (· + i)).filter act

/-- The first element of a list whose check is not good, with the check. -/
def firstBad (c : Nat → ECheck) : List Nat → Option (Nat × ECheck)
  | [] => none
  | i :: t =>
    match c i with
    | .ok _ _ => firstBad c t
    | r => some (i, r)

/-- Whether a check found that the access has to wait (R363 step 2, R389). -/
def ECheck.waits : ECheck → Bool
  | .wait => true
  | _ => false

/-- Whether a check found bytes that an ACTIVE stream guards (R274). -/
def ECheck.held : ECheck → Bool
  | .guarded => true
  | _ => false

/-- Whether a check found nothing. -/
def ECheck.good : ECheck → Bool
  | .ok _ _ => true
  | _ => false

/-- Whether the first element of a list whose check is not good has to wait: what lies behind a fault is not waited for (R367). -/
def waitsFirst (c : Nat → ECheck) (l : List Nat) : Bool := ((firstBad c l).map fun r => r.2.waits || r.2.held).getD false

/-- The accesses of some elements performed, as their pages and counters see it (R364, R368). -/
def performAll (k : Kind) (a : VAcc) : List Nat → State → State
  | [], s => s
  | i :: t, s =>
    performAll k a t
      (match a.check i with
        | .ok p l => if k = .read ∧ p.pkg ≠ pkgOf s.cur then s.pieced a.hot (a.addr i) l else s.performed k a.hot (a.addr i) p l
        | .lost p l _ => if k = .write then s.performed k a.hot (a.addr i) p l else s
        | _ => s)

/-- The values of elements that can be read put into a register group, in order. -/
def fillElems (a : VAcc) (reg d : Nat) : List Nat → State → State
  | [], s => s
  | i :: t, s =>
    fillElems a reg d t
      (match a.check i with
        | .ok p l => s.setVmem (vset s.vmem reg d a.wb i (s.readAt l p.key a.wb))
        | _ => s)

/-- Elements loaded into a register group, in order (R156, R158). -/
def loadElems (a : VAcc) (reg d : Nat) (l : List Nat) (s : State) : State := performAll .read a l (fillElems a reg d l s)

/-- Elements zeroed: those of a range whose mask bit is clear, under MASKPOL (R104). -/
def State.zeroMasked (s : State) (x : VCtx) (d wb mask i n : Nat) : State :=
  if x.maskz then
    s.setVmem ((activeFrom (fun j => !s.hart.maskBit mask j) i n).foldl (fun m j => vset m x.reg d wb j 0) s.vmem)
  else s

/-- The queued entries up to the next strip boundary take a trimmed VL, which is also the VL in force before that boundary (R103,
R157). -/
def trimEntries (k : Nat) : List QEntry → List QEntry
  | [] => []
  | e :: t => { e with vl := k } :: (if e.boundary then t else trimEntries k t)

/-- A trim of VL by the front entry: for every instruction queued after it and none before (R157). -/
def State.trim (s : State) (k : Nat) : State :=
  match s.hart.queue with
  | [] => s
  | e :: t =>
    let h := { s.hart with queue := e :: trimEntries k t }
    let h := if t.any QEntry.boundary then h
      else { h with ctl := { h.ctl with vl := wordOf k }, gsetVl := false }
    { s with hart := h }

/-- A stream's recorded fault taken by a vector load: the slot enters RETRY, SRC is 3 (R274, R279, R336). -/
def State.streamTrap (s : State) (e : QEntry) (g j k p : Nat) : HeadRes :=
  let sl := (s.getHart g).slot j
  let t := s.setSlot g j (sl.enter .retry 0 sl.cause)
  .trap (t.setFront { e with p := p, begun := true, pieces := [], pages := [] })
    { cause := sl.cause, src := 3, slot := j, fb := e.addr, va := sl.recAddr, info := wordOf k }

/-- The trap for an element check that is not good, the entry staying with progress `p`. -/
def State.elemTrap (s : State) (e : QEntry) (c : ECheck) (k p : Nat) : HeadRes :=
  match c with
  | .bad cause va => s.queueTrap e 1 cause va k p
  | .lost _ _ va => s.queueTrap e 1 cREMOTE_LOST va k p
  | .stream g j => s.streamTrap e g j k p
  | .guarded => .wait s
  | .ok _ _ => .wait s
  | .wait => .wait s

/-- The elements that a load or store under mask mn looks at, from `b` on: the active ones, and those whose mask bit stands in a
poisoned word. -/
def State.takenFrom (s : State) (n : Nat) (e : QEntry) (b : Nat) : List Nat :=
  activeFrom (fun i => s.hart.maskBit n i || s.hart.maskWordBad n i) b ((s.vctx e).vl - b)

/-- The elements that a load looks at, from `b` on. -/
def State.loadIdx (s : State) (o : VOp) (e : QEntry) (b : Nat) : List Nat := s.takenFrom o.m.toNat e b

/-- The destination of a fault-only-first load without a fault (R156). -/
def State.fofFill (s : State) (o : VOp) (e : QEntry) (a : VAcc) : State :=
  let x := s.vctx e
  let d := x.dreg o.vd
  let t := (fillElems a x.reg d (s.loadIdx o e e.p) s).zeroMasked x d a.wb o.m.toNat e.p (x.vl - e.p)
  t.setVmem (x.tailZero t.vmem d a.wb x.vl)

/-- A fault-only-first load without a fault (R156). -/
def State.fofAll (s : State) (o : VOp) (e : QEntry) (a : VAcc) : State :=
  performAll .read a (s.loadIdx o e e.p) (s.fofFill o e a)

/-- What a fault-only-first load that trims VL to `k` leaves in its destination and of VL (R156, R157): where TAIL is 0 elements above
may hold the value loaded for them. -/
def State.trimFill (s : State) (o : VOp) (e : QEntry) (a : VAcc) (k : Nat) : State :=
  let x := s.vctx e
  let d := x.dreg o.vd
  let idx := s.loadIdx o e e.p
  let t := (fillElems a x.reg d (idx.filter (· < k)) s).zeroMasked x d a.wb o.m.toNat e.p (k - e.p)
  let t := State.trim { t with hart := { t.hart with doomed := false } } k
  if x.tail then t.setVmem (VCtx.tailZero { x with vl := k } t.vmem d a.wb k)
  else (fillElems a x.reg d (idx.filter fun i => decide (k < i) && Config.freePick s.free i) t).nextFree

/-- A fault-only-first load that trims VL to `k` (R156, R157): no element from `k` on counts as performed (R367). -/
def State.fofTrim (s : State) (o : VOp) (e : QEntry) (a : VAcc) (k : Nat) : State :=
  performAll .read a ((s.loadIdx o e e.p).filter (· < k)) (s.trimFill o e a k)

/-- A fault-only-first load at the queue head (R156, R386); `av` is for VLDAV, which trims at a guarded element above
element 0 (R275). -/
def State.loadFof (s : State) (o : VOp) (e : QEntry) (a : VAcc) (av : Bool) : HeadRes :=
  let a := s.overMask o.m.toNat a
  match firstBad a.check (s.loadIdx o e e.p) with
  | some (k, c) =>
    if c.waits || (!av && c.held) then .wait s
    else if k = 0 then s.elemTrap e c 0 0
    else (s.fofTrim o e a k).doneV
  | none => (s.fofAll o e a).doneV

/-- The state at the trap of a precise form: ESTART = k (R158). -/
def State.setEstart (s : State) (k : Nat) : State :=
  { s with hart := { s.hart with ctl := { s.hart.ctl with estart := wordOf k } } }

/-- What a precise load leaves above a fault at `k`: each element its old value or its final one (R159). -/
def State.loadAbove (s : State) (x : VCtx) (a : VAcc) (d mask k : Nat) (pick : Nat → Bool) : State :=
  let above := (List.range (x.capacity a.wb - (k + 1))).map (· + (k + 1))
  above.foldl (fun s i =>
    if !pick i then s
    else if i < x.vl then
      (if s.hart.maskBit mask i then loadElems a x.reg d [i] s
       else if x.maskz then s.setVmem (vset s.vmem x.reg d a.wb i 0) else s)
    else if x.tail then s.setVmem (vset s.vmem x.reg d a.wb i 0) else s) s

/-- A precise load at the queue head (R158 to R161). -/
def State.loadPrecise (s : State) (o : VOp) (e : QEntry) (a : VAcc) : HeadRes :=
  let x := s.vctx e
  let d := x.dreg o.vd
  let mask := o.m.toNat
  let b := s.startAt e
  let a := s.overMask mask a
  let idx := s.takenFrom mask e b
  if waitsFirst a.check idx then .wait s
  else
    match firstBad a.check idx with
    | some (k, c) =>
      let t := (loadElems a x.reg d (idx.filter (· < k)) s).zeroMasked x d a.wb mask b (k - b)
      let pick i := Config.freePick s.free i && !s.hart.maskWordBad mask i
      ((t.loadAbove x a d mask k pick).nextFree.setEstart k).elemTrap e c k k
    | none =>
      let t := (loadElems a x.reg d idx s).zeroMasked x d a.wb mask b (x.vl - b)
      (t.setVmem (x.tailZero t.vmem d a.wb x.vl)).doneV

/-- The data of elements placed, in the order of the list. -/
def placeElems (a : VAcc) (reg n : Nat) (m : Memory) : List Nat → State → State
  | [], s => s
  | i :: t, s =>
    placeElems a reg n m t
      (match a.check i with
        | .ok p l => s.place (agentNo s.cur .vector) l p.key a.wb (velem m reg n a.wb i)
        | .lost p l _ => s.place (agentNo s.cur .vector) l p.key a.wb (velem m reg n a.wb i)
        | _ => s)

/-- Elements stored from a register group, in the order of the list (R158, R161): their pages' bits are set before any is written
(R364). -/
def storeElems (a : VAcc) (reg n : Nat) (m : Memory) (l : List Nat) (s : State) : State :=
  placeElems a reg n m l (performAll .write a l s)

/-- A precise store at the queue head: `order` is the order in which elements are performed (R158 to R162, R387). -/
def State.storePrecise (s : State) (o : VOp) (e : QEntry) (a : VAcc) (order : List Nat → List Nat) : HeadRes :=
  let x := s.vctx e
  let mask := o.m.toNat
  let b := s.startAt e
  let m := s.vmem
  let a := s.overMask mask a
  let idx := s.takenFrom mask e b
  if waitsFirst a.check idx then .wait s
  else
    match firstBad a.check idx with
    | some (k, c) =>
      let mayDo := match c with
        | .lost _ _ _ => k
        | _ => k + 1
      let does i := decide (i < k) || (decide (mayDo ≤ i) && Config.freePick s.free i)
      ((storeElems a x.reg o.vd.toNat m (order (idx.filter does)) s).nextFree.setEstart k).elemTrap e c k k
    | none => (storeElems a x.reg o.vd.toNat m (order idx) s).nextFree.doneV

/-! ### Addresses (R154) -/

/-- Unit-stride element addresses. -/
def addrUnit (e : QEntry) (wb i : Nat) : Word := e.xa + wordOf (i * wb)

/-- Strided element addresses. -/
def addrStride (e : QEntry) (i : Nat) : Word := e.xa + wordOf i * e.xb

/-- Indexed element addresses. -/
def addrIndex (e : QEntry) (m : Memory) (reg n wb i : Nat) : Word := e.xa + wordOf (velem m reg n 4 i * wb)

/-- The addresses of an indexed form of its type's width. -/
def State.indexAddr (s : State) (o : VOp) (e : QEntry) : Nat → Word :=
  addrIndex e s.vmem (s.vctx e).reg o.vs2.toNat (intBytes o.t)

/-- Whether the transfer of an element from a package is lost. -/
abbrev Fates := Nat → Nat → Bool → Bool

/-- Every element sent by itself. -/
def Fates.own : Fates := fun _ _ l => l

/-- The accesses of a unit-stride or strided load (R154, R155). -/
def State.accLoad (s : State) (fate : Fates) (wb : Nat) (hot : Hot) (addr : Nat → Word) : VAcc :=
  { wb := wb, hot := hot, addr := addr, check := fun i => s.elemCheckAt .read (fate i) false wb (addr i) }

/-- The accesses of an indexed load: a poisoned index is consumed first (R354). -/
def State.accLoadX (s : State) (fate : Fates) (o : VOp) (e : QEntry) : VAcc :=
  let x := s.vctx e
  let wb := intBytes o.t
  let m := s.vmem
  let addr := addrIndex e m x.reg o.vs2.toNat wb
  { wb := wb, hot := .indexed, addr := addr
    check := fun i => if vpoisoned m x.reg o.vs2.toNat 4 i then .bad cPOISON 0 else s.elemCheckAt .read (fate i) true wb (addr i) }

/-! ### Pieces of remote gathers (R385, R386) -/

/-- The elements of a load homed on other packages and not served from a replica, each with its home die and its leaf (R385,
R388). -/
def State.homes (s : State) (addr : Nat → Word) (idx : List Nat) : List (Nat × Nat × Option LeafAt) :=
  let own := pkgOf s.cur
  idx.filterMap fun i =>
    match s.locate (s.frontAccess .read) (addr i) with
    | .place p l _ => if p.pkg = own || (l.map (s.replicated own)).getD false then none else some (i, p.dieKey, l)
    | _ => none

/-- Whether an element of a home is lost: it lies in a lost piece beyond what was delivered (R385, R386). -/
def pieceFate (ps : List Piece) (hs : List (Nat × Nat × Option LeafAt)) : Fates := fun i q lost =>
  if (hs.find? fun h => h.1 = i).isNone then lost
  else
    match ps.find? fun r => r.home = q with
    | none => lost
    | some r => !r.whole && decide (r.delivered ≤ (hs.filter fun h => h.2.1 / 4 = q && decide (h.1 < i)).length)

/-- The event that a home answers a piece (R385). -/
def pieceEvent (g home : Nat) : Event := { kind := .gatherPieceResponse, arg := { EvArg.none with idx := g, aux := home } }

/-- The piece for the elements homed on package `q`: it has no route, or goes out (R381, R382, R385). -/
def State.newPiece (s : State) (hs : List (Nat × Nat × Option LeafAt)) (q : Nat) : Piece :=
  let own := dieKey s.cur
  let dies := (hs.filter fun h => h.2.1 / 4 = q).map fun h => h.2.1
  match (if s.dieLinkUp (own / 4) (own % 4) 4 then s.route (own / 4) q else none) with
  | some path => { home := q, dies := dies, path := path, settled := false, whole := false, delivered := 0 }
  | none => { home := q, dies := dies, path := [], settled := true, whole := false, delivered := 0 }

/-- A piece goes over its route to its home, whose hub hands the elements to their dies, and its answer is due (R378, R385). -/
def State.sendPiece (s : State) (r : Piece) : State :=
  let p := pkgOf s.cur
  let t := (s.sendFlit p (linkEnd (dieOf s.cur) 4) 0).hopFlits 0 p r.path
  (r.dies.eraseDups.foldl (fun t d => t.sendFlit r.home (linkEnd 4 (d % 4)) 0) t).pushOnce (pieceEvent s.cur r.home)

/-- A load sends a piece to every other package that homes elements of it, and runs once each is answered or lost (R385), by the
leaves it had then (R364, R365); a hub without a route loses its piece at once (R382). -/
def State.withPieces (s : State) (e : QEntry) (addr : Nat → Word) (idx : List Nat) (body : Fates → QEntry → State → HeadRes) :
    HeadRes :=
  let hs := s.homes addr idx
  if hs.isEmpty then body Fates.own e s
  else if e.pieces.isEmpty then
    let ps := ((hs.map fun h => h.2.1 / 4).eraseDups).map (s.newPiece hs)
    let e' := { e with pieces := ps, pages := (hs.filterMap fun h => h.2.2).eraseDups }
    if ps.all Piece.settled then body (pieceFate ps hs) e' (s.setFront e')
    else .wait ((ps.filter fun r => !r.settled).foldl State.sendPiece (s.setFront e'))
  else if e.pieces.all Piece.settled then body (pieceFate e.pieces hs) e s
  else .wait s

/-- A store's check: after its address its data are consumed, before they are sent (R354, R387). -/
def State.storeCheck (s : State) (x : VCtx) (vd wb : Nat) (m : Memory) (indexed : Bool) (addr : Nat → Word) (i : Nat) :
    ECheck :=
  match s.elemCheck .write indexed wb (addr i) with
  | .ok p l => if vpoisoned m x.reg vd wb i then .bad cPOISON 0 else .ok p l
  | .lost p l va => if vpoisoned m x.reg vd wb i then .bad cPOISON 0 else .lost p l va
  | r => r

/-- The accesses of a unit-stride or strided store. -/
def State.accStore (s : State) (o : VOp) (e : QEntry) (hot : Hot) (addr : Nat → Word) : VAcc :=
  let m := s.vmem
  { wb := intBytes o.t, hot := hot, addr := addr
    check := s.storeCheck (s.vctx e) o.vd.toNat (intBytes o.t) m false addr }

/-- The accesses of an indexed store of `wb` bytes an element. -/
def State.accStoreX (s : State) (o : VOp) (e : QEntry) (wb : Nat) : VAcc :=
  let x := s.vctx e
  let m := s.vmem
  let addr := addrIndex e m x.reg o.vs2.toNat wb
  { wb := wb, hot := .indexed, addr := addr
    check := fun i => if vpoisoned m x.reg o.vs2.toNat 4 i then .bad cPOISON 0
      else s.storeCheck x o.vd.toNat wb m true addr i }

/-! ### Issue -/

/-- The issue checks of a unit-stride or strided form: R155 items 1 and 2.  DESIGN CHOICE (log 61): item 2's VL > 0 takes the VL that
stands at issue, which an earlier load or RRECV in the queue may still change (R157, R303). -/
def State.memCheck (s : State) (ops : List VReg) (bad : Bool) (wb : Nat) (base stride : Word) : Option IssueTrap :=
  match s.vecCheck ops bad with
  | some t => some t
  | none =>
    if s.hart.ctl.vl ≠ 0 ∧ (base.toNat % wb ≠ 0 ∨ stride.toNat % wb ≠ 0) then
      some { cause := cMISALIGN_ISSUE, va := base, bits := false }
    else none

/-- The issue of a unit-stride form. -/
def State.issueUnit (s : State) (i : Instr) (o : VOp) (head : QEntry → State → HeadRes) : Result :=
  let wb := intBytes o.t
  s.issue i 4 (s.memCheck [(o.vd, 8 * wb)] false wb (s.readX o.vs1) 0) (s.readX o.vs1) 0 head

/-- The issue of a strided form. -/
def State.issueStride (s : State) (i : Instr) (o : VOp) (head : QEntry → State → HeadRes) : Result :=
  let wb := intBytes o.t
  s.issue i 4 (s.memCheck [(o.vd, 8 * wb)] false wb (s.readX o.vs1) (s.readX o.vs2)) (s.readX o.vs1) (s.readX o.vs2) head

/-- Whether the data group of an indexed load shares a register with its index group (R153). -/
def State.overlaps (s : State) (o : VOp) : Bool :=
  let x := s.vctxNow
  let g1 := (x.group (8 * intBytes o.t)).getD 0
  let g2 := (x.group 32).getD 0
  decide (o.vd.toNat < o.vs2.toNat + g2) && decide (o.vs2.toNat < o.vd.toNat + g1)

/-- The issue of an indexed form of `wb` bytes an element. -/
def State.issueIndexed (s : State) (i : Instr) (o : VOp) (wb : Nat) (bad : Bool) (head : QEntry → State → HeadRes) :
    Result :=
  s.issue i 4 (s.vecCheck [(o.vd, 8 * wb), (o.vs2, 32)] bad) (s.readX o.vs1) 0 head

/-! ### The loads and stores -/

/-- VLD at the queue head (R156). -/
def headVld (o : VOp) (e : QEntry) (s : State) : HeadRes :=
  s.withRings e [] (some o.vd) fun e s =>
    s.withPieces e (addrUnit e (intBytes o.t)) (s.loadIdx o e e.p) fun f e s =>
      s.loadFof o e (s.accLoad f (intBytes o.t) .unit (addrUnit e (intBytes o.t))) false
/-- VLD (R156). -/
def execVld (o : VOp) (s : State) : Result := s.issueUnit (.vld o) o (headVld o)

/-- VLDAV at the queue head (R275). -/
def headVldav (o : VOp) (e : QEntry) (s : State) : HeadRes :=
  s.withRings e [] (some o.vd) fun e s =>
    s.withPieces e (addrUnit e (intBytes o.t)) (s.loadIdx o e e.p) fun f e s =>
      s.loadFof o e (s.accLoad f (intBytes o.t) .unit (addrUnit e (intBytes o.t))) true
/-- VLDAV (R275). -/
def execVldav (o : VOp) (s : State) : Result := s.issueUnit (.vldav o) o (headVldav o)

/-- VLDS at the queue head (R156). -/
def headVlds (o : VOp) (e : QEntry) (s : State) : HeadRes :=
  s.withRings e [] (some o.vd) fun e s =>
    s.withPieces e (addrStride e) (s.loadIdx o e e.p) fun f e s =>
      s.loadFof o e (s.accLoad f (intBytes o.t) .strided (addrStride e)) false
/-- VLDS (R156). -/
def execVlds (o : VOp) (s : State) : Result := s.issueStride (.vlds o) o (headVlds o)

/-- VLDX at the queue head (R158). -/
def headVldx (o : VOp) (e : QEntry) (s : State) : HeadRes :=
  s.withRings e [o.vs2] (some o.vd) fun e s =>
    s.withPieces e (s.indexAddr o e) (s.loadIdx o e (s.startAt e)) fun f e s => s.loadPrecise o e (s.accLoadX f o e)
/-- VLDX (R158). -/
def execVldx (o : VOp) (s : State) : Result :=
  s.issueIndexed (.vldx o) o (intBytes o.t) (s.overlaps o) (headVldx o)

/-- VLDXU at the queue head: its elements have no order, which one hart cannot tell (R162). -/
def headVldxu (o : VOp) (e : QEntry) (s : State) : HeadRes :=
  s.withRings e [o.vs2] (some o.vd) fun e s =>
    s.withPieces e (s.indexAddr o e) (s.loadIdx o e (s.startAt e)) fun f e s => s.loadPrecise o e (s.accLoadX f o e)
/-- VLDXU (R162). -/
def execVldxu (o : VOp) (s : State) : Result :=
  s.issueIndexed (.vldxu o) o (intBytes o.t) (s.overlaps o) (headVldxu o)

/-- VLDXF at the queue head (R156). -/
def headVldxf (o : VOp) (e : QEntry) (s : State) : HeadRes :=
  s.withRings e [o.vs2] (some o.vd) fun e s =>
    s.withPieces e (s.indexAddr o e) (s.loadIdx o e e.p) fun f e s => s.loadFof o e (s.accLoadX f o e) false
/-- VLDXF (R156). -/
def execVldxf (o : VOp) (s : State) : Result :=
  s.issueIndexed (.vldxf o) o (intBytes o.t) (s.overlaps o) (headVldxf o)

/-- VST at the queue head (R158). -/
def headVst (o : VOp) (e : QEntry) (s : State) : HeadRes :=
  s.withRings e [o.vd] none fun e s => s.storePrecise o e (s.accStore o e .unit (addrUnit e (intBytes o.t))) id
/-- VST (R158). -/
def execVst (o : VOp) (s : State) : Result := s.issueUnit (.vst o) o (headVst o)

/-- VSTS at the queue head (R158). -/
def headVsts (o : VOp) (e : QEntry) (s : State) : HeadRes :=
  s.withRings e [o.vd] none fun e s => s.storePrecise o e (s.accStore o e .strided (addrStride e)) id
/-- VSTS (R158). -/
def execVsts (o : VOp) (s : State) : Result := s.issueStride (.vsts o) o (headVsts o)

/-- VSTX at the queue head (R158). -/
def headVstx (o : VOp) (e : QEntry) (s : State) : HeadRes :=
  s.withRings e [o.vd, o.vs2] none fun e s => s.storePrecise o e (s.accStoreX o e (intBytes o.t)) id
/-- VSTX (R158). -/
def execVstx (o : VOp) (s : State) : Result := s.issueIndexed (.vstx o) o (intBytes o.t) false (headVstx o)

/-- VSTXU at the queue head: the writer that survives at an address is a free choice (R162, log 7). -/
def headVstxu (o : VOp) (e : QEntry) (s : State) : HeadRes :=
  s.withRings e [o.vd, o.vs2] none fun e s =>
    s.storePrecise o e (s.accStoreX o e (intBytes o.t)) (sortIdx fun i => (Config.freeChoice s.free i : Int))
/-- VSTXU (R162). -/
def execVstxu (o : VOp) (s : State) : Result := s.issueIndexed (.vstxu o) o (intBytes o.t) false (headVstxu o)

/-! ### Combining scatters (R163, R164) -/

/-- The operation of a combining scatter on two patterns (R163). -/
def combine (o : VOp) (fi : Nat → Bool → Nat → Nat → Nat) (ff : Fmt → Nat → Nat → Nat) (a b : Nat) : Nat :=
  if o.sc = 1 then ff (Fmt.ofCode o.t.toNat) a b else fi (intWidth o.t.toNat) (intSigned o.t.toNat) a b

/-- One address of a combining scatter (R163): the memory key and leaf it leads to, whether its transfer is lost, and its active elements in
ascending index. -/
structure Target where
  va : Word
  key : Nat
  leaf : Option LeafAt
  lost : Bool
  elems : List Nat
  deriving DecidableEq, Repr

/-- The distinct addresses of checked elements (R163). -/
def byAddr (a : VAcc) : List Nat → List Target → List Target
  | [], acc => acc
  | i :: t, acc =>
    let add (p : Place) (l : Option LeafAt) (lost : Bool) : List Target :=
      if acc.any fun g => g.va = a.addr i then acc.map fun g => if g.va = a.addr i then { g with elems := g.elems ++ [i] } else g
      else acc ++ [{ va := a.addr i, key := p.key, leaf := l, lost := lost, elems := [i] }]
    byAddr a t (match a.check i with
      | .ok p l => add p l false
      | .lost p l _ => add p l true
      | _ => acc)

/-- The data of some elements combined in order (R163). -/
def foldData (op : Nat → Nat → Nat) : List Nat → Nat
  | [] => 0
  | v :: t => t.foldl op v

/-- One address updated at its home, unless its read meets poison or its transfer is lost and not performed (R163, R164,
R387). -/
def State.updateAt (s : State) (wb : Nat) (op : Nat → Nat → Nat) (data : Nat → Nat) (free : Nat) (g : Target) : State :=
  if s.mem.poisoned g.key wb then s
  else if g.lost && !Config.freePick free (g.elems.headD 0) then s
  else
    let t := s.settle g.key wb
    t.update (agentNo s.cur .vector) false g.leaf g.key wb (op (t.readAt g.leaf g.key wb) (foldData op (g.elems.map data)))

/-- A combining scatter at the queue head (R163, R164, R387): the order of its addresses is open (log 7).  DESIGN CHOICE (log 60): of
a poisoned address and a lost update, that with the lower element gives the cause. -/
def State.scatter (s : State) (o : VOp) (e : QEntry) (wb : Nat) (op : Nat → Nat → Nat) : HeadRes :=
  s.withRings e [o.vd, o.vs2] none fun e s =>
    let x := s.vctx e
    let m := s.vmem
    let b := s.startAt e
    let a := s.accStoreX o e wb
    let idx := activeFrom (s.hart.maskBit o.m.toNat) b (x.vl - b)
    match idx.find? (fun i => match a.check i with
        | .ok _ _ => false
        | .lost _ _ _ => false
        | _ => true) with
    | some k => if (a.check k).waits || (a.check k).held then .wait s else s.elemTrap e (a.check k) k b
    | none =>
        let gs := byAddr a idx []
        match gs.find? (fun g => s.pageHolds g.key) with
        | some g => .wait (s.invalidateReplicas g.key)
        | none =>
          let order := (sortIdx (fun i => (Config.freeChoice s.free i : Int)) (List.range gs.length)).filterMap (gs[·]?)
          let t := (order.foldl (fun t g => t.updateAt wb op (velem m x.reg o.vd.toNat wb) s.free g) (performAll .write a idx s)).nextFree
          let poisoned := gs.filter fun g => s.mem.poisoned g.key wb && !g.lost
          let lost := gs.filter Target.lost
          let low_ (l : List Target) : Option Nat := (l.flatMap Target.elems).min?
          match minIdx (low_ poisoned) (low_ lost) with
          | none => t.doneV
          | some k =>
            (t.setEstart x.vl).queueTrap e 1 (if low_ lost = some k then cREMOTE_LOST else cPOISON) (a.addr k) k x.vl

/-- VSTXADD at the queue head (R163). -/
def headVstxadd (o : VOp) (e : QEntry) (s : State) : HeadRes :=
  s.scatter o e (clsBytes o) (combine o (fun w _ a b => low w (a + b)) fun f a b => (addF f .rne a b).bits)
/-- VSTXADD (R163). -/
def execVstxadd (o : VOp) (s : State) : Result := s.issueIndexed (.vstxadd o) o (clsBytes o) false (headVstxadd o)

/-- VSTXMAX at the queue head (R163). -/
def headVstxmax (o : VOp) (e : QEntry) (s : State) : HeadRes :=
  s.scatter o e (clsBytes o) (combine o (fun w sg a b => pickBy (intOf w sg) true a b) fun f a b => (minmaxF f true a b).bits)
/-- VSTXMAX (R163). -/
def execVstxmax (o : VOp) (s : State) : Result := s.issueIndexed (.vstxmax o) o (clsBytes o) false (headVstxmax o)

/-- VSTXMIN at the queue head (R163). -/
def headVstxmin (o : VOp) (e : QEntry) (s : State) : HeadRes :=
  s.scatter o e (clsBytes o) (combine o (fun w sg a b => pickBy (intOf w sg) false a b) fun f a b => (minmaxF f false a b).bits)
/-- VSTXMIN (R163). -/
def execVstxmin (o : VOp) (s : State) : Result := s.issueIndexed (.vstxmin o) o (clsBytes o) false (headVstxmin o)

/-! ### Scale loads (R165) -/

/-- The scales QLDS loads (R165). -/
def qldsCount (x : VCtx) : Nat := if x.vl = 0 then 0 else (x.vl - 1) / 2 ^ x.blk + 1

/-- Bytes of a scale in memory: 2 for BF16, 4 for FP32 (R165). -/
def qldsBytes (o : VOp) : Nat := if o.t = 3 then 2 else 4

/-- Scales loaded into a scale register (R165). -/
def loadScales (a : VAcc) (o : VOp) : List Nat → State → State
  | [], s => s
  | j :: t, s =>
    loadScales a o t
      (match a.check j with
        | .ok p l =>
          let v := s.readAt l p.key a.wb
          let r := cvtF fp32 (Fmt.ofCode o.t.toNat) .rne false v
          let r := if o.t = 3 then r else { bits := v, flags := 0 }
          let s := (s.performed .read a.hot (a.addr j) p l).orVstat (orFlags 0 r.flags)
          { s with hart := { s.hart with q := SMap.set 0 s.hart.q (512 * o.vd.toNat + j) (BitVec.ofNat 32 r.bits) } }
        | _ => s)

/-- QLDS at the queue head, from the entry its restored progress names (R165, R344). -/
def headQlds (o : VOp) (e : QEntry) (s : State) : HeadRes :=
  let x := s.vctx e
  let a := s.accLoad Fates.own (qldsBytes o) .strided (addrStride e)
  let idx := (List.range (qldsCount x)).filter (e.p ≤ ·)
  if waitsFirst a.check idx then .wait s
  else
    match firstBad a.check idx with
    | some (j, c) =>
      let t := loadScales a o (idx.filter fun i => decide (i < j) || (decide (j < i) && Config.freePick s.free i)) s
      t.nextFree.elemTrap e c j e.p
    | none => (loadScales a o idx s).doneV
/-- QLDS (R165).  DESIGN CHOICE (log 61): the check n > 512 takes the VL that stands at issue, whatever an earlier load may trim. -/
def execQlds (o : VOp) (s : State) : Result :=
  let x := s.vctxNow
  s.issue (.qlds o) 4
    (s.memCheck [] (decide (x.blk > 10) || decide (qldsCount x > 512)) (qldsBytes o) (s.readX o.vs1) (s.readX o.vs2))
    (s.readX o.vs1) (s.readX o.vs2) (headQlds o)

/-! ### Mask loads and stores (R166) -/

/-- MLD at the queue head, from the byte that holds the bit its restored progress names (R166, R344). -/
def headMld (o : VOp) (e : QEntry) (s : State) : HeadRes :=
  let x := s.vctx e
  let addr := addrUnit e 1
  let bytes := (List.range ((x.vl + 7) / 8)).filter (e.p / 8 ≤ ·)
  let check := fun b => s.elemCheck .read false 1 (addr b)
  if waitsFirst check bytes then .wait s
  else
    match firstBad check bytes with
    | some (b, c) => s.elemTrap e c b e.p
    | none =>
      let byteAt b := match check b with
        | .ok p l => s.readAt l p.key 1
        | _ => 0
      let t := bytes.foldl (fun t b => match check b with
        | .ok p l => t.visit (dieKey t.cur) p .read l
        | _ => t) s
      t.headMask o.vd e fun i => (byteAt (i / 8)).testBit (i % 8)
/-- MLD (R166). -/
def execMld (o : VOp) (s : State) : Result := s.issue (.mld o) 4 s.maskCheck (s.readX o.vs1) 0 (headMld o)

/-- MST at the queue head, from the byte that holds the bit its restored progress names (R166, R344). -/
def headMst (o : VOp) (e : QEntry) (s : State) : HeadRes :=
  let x := s.vctx e
  let addr := addrUnit e 1
  let bytes := (List.range ((x.vl + 7) / 8)).filter (e.p / 8 ≤ ·)
  let check := fun b => s.elemCheck .write false 1 (addr b)
  if waitsFirst check bytes then .wait s
  else
    match firstBad check bytes with
    | some (b, c) => s.elemTrap e c b e.p
    | none =>
      let touched := bytes.foldl (fun t b => match check b with
        | .ok p l => t.visit (dieKey t.cur) p .write l
        | _ => t) s
      (bytes.foldl (fun t b => match check b with
        | .ok p l =>
          t.place (agentNo t.cur .vector) l p.key 1
            (byteOf fun j => decide (8 * b + j < x.vl) && s.hart.maskBit o.vd.toNat (8 * b + j))
        | _ => t) touched).doneV
/-- MST (R166). -/
def execMst (o : VOp) (s : State) : Result := s.issue (.mst o) 4 s.maskCheck (s.readX o.vs1) 0 (headMst o)

end Sys2Proof.Machine
end

