-- ==== Sys2Proof/Machine/Matrix.lean ====
section
/-! DEFINITION. The matrix unit (R168 to R194): tiles, their attachment and release, outer products, grouped products,
and the moves between tiles, memory and vector registers. -/

namespace Sys2Proof.Machine

/-! ### MSTAT and completion -/

/-- MSTAT.SPBAD (R177). -/
def mstatSpbad : Word := 0x080
/-- MSTAT.GOFF (R177). -/
def mstatGoff : Word := 0x100
/-- MSTAT.BADARG (R177). -/
def mstatBadarg : Word := 0x200

/-- The state with bits ORed into MSTAT (R177). -/
def State.orMstat (s : State) (v : Word) : State :=
  { s with hart := { s.hart with ctl := { s.hart.ctl with mstat := s.hart.ctl.mstat ||| v } } }

/-- The state with the matrix side of the current hart changed. -/
def State.modMat (s : State) (f : Mat → Mat) : State := { s with hart := { s.hart with mat := f s.hart.mat } }

/-- The stage progress set (R203). -/
def State.setProgress (s : State) (b t : Nat) : State := s.modMat fun a => { a with block0 := b, stage0 := t }

/-- A matrix instruction completes: the stage progress becomes (0, 0) (R203). -/
def State.doneM (s : State) : HeadRes := .done (s.setProgress 0 0)

/-! ### Entries (R174) -/

/-- Where entry (i, j) of tile `t` stands. -/
def entryKey (t i j : Nat) : Nat := 4096 * t + 64 * i + j

/-- Entry (i, j) of tile `t` (R174). -/
def Mat.entry (a : Mat) (t i j : Nat) : Nat := (SMap.get 0 a.acc (entryKey t i j)).toNat

/-- Entry (i, j) of tile `t` written whole, which clears its poison (R353). -/
def Mat.putEntry (a : Mat) (t i j v : Nat) : Mat :=
  { a with acc := SMap.set 0 a.acc (entryKey t i j) (BitVec.ofNat 32 v), accPois := SMap.set false a.accPois (entryKey t i j) false }

/-- The value of entry (i, j) at tile type `tt`: of the pair for FP64 (R174). -/
def Mat.value (a : Mat) (tt t i j : Nat) : Nat :=
  if tt = 5 then a.entry t i j + 2 ^ 32 * a.entry (t + 1) i j else a.entry t i j

/-- Entry (i, j) written at tile type `tt` (R174). -/
def Mat.putValue (a : Mat) (tt t i j v : Nat) : Mat :=
  if tt = 5 then (a.putEntry t i j v).putEntry (t + 1) i j (v / 2 ^ 32) else a.putEntry t i j v

/-- Whether entry (i, j) at tile type `tt` is poisoned (R352). -/
def Mat.bad (a : Mat) (tt t i j : Nat) : Bool :=
  SMap.get false a.accPois (entryKey t i j) || (tt = 5 && SMap.get false a.accPois (entryKey (t + 1) i j))

/-- Tiles an operand of a tile type takes (R174). -/
def tileCount (tt : Nat) : Nat := if tt = 5 then 2 else 1

/-- The active columns under a column mask (R175). -/
def Hart.columns (h : Hart) (cm : Nat) : List Nat := (List.range 64).filter (h.maskBit cm)

/-- MLEN (R176). -/
def Hart.mlen (h : Hart) : Nat := field h.ctl.mlen 0 7

/-- The active entries in ascending (i, j) order (R175). -/
def Hart.activeEntries (h : Hart) (cm : Nat) : List (Nat × Nat) :=
  (List.range (min h.mlen 64)).flatMap fun i => (h.columns cm).map fun j => (i, j)

/-! ### Issue and the checks at the queue head -/

/-- MLEN holds 0 or 65 to 127 (R176). -/
def Hart.mlenBad (h : Hart) : Bool := h.mlen = 0 || decide (64 < h.mlen)

/-- Whether a register alone lies in the role's partition or is a ring (R110, R178). -/
def roleAlone (role : Nat) (v : Reg) : Bool :=
  decide (28 ≤ v.toNat) || (decide ((rolePart role).1 ≤ v.toNat) && decide (v.toNat < (rolePart role).2))

/-- The issue checks of a matrix instruction that names vector registers `regs` and the mask `cm` (R176, R178, R110). -/
def State.matIssue (s : State) (mlen : Bool) (regs : List Reg) (cm : Nat) : Option IssueTrap :=
  if mlen && s.hart.mlenBad then bitsTrap cILLEGAL
  else if (!regs.isEmpty || cm ≠ 0) && s.clusters = 0 then bitsTrap cNO_LEASE
  else if s.hart.mode == .pipeline && !regs.all (roleAlone s.hart.role) then bitsTrap cROLE_REG
  else none

/-- Whether a queued MSETLEN has yet to write MLEN (R89, R193). -/
def State.setlenQueued (s : State) : Bool :=
  !s.hart.frozen && s.hart.queue.any fun e => match e.instr with
    | .msetlen _ => true
    | _ => false

/-- Whether an entry is for the matrix unit (R28, R194). -/
def QEntry.isMatrix (e : QEntry) : Bool := parcelLength (e.bits.setWidth 16) = 8

/-- The other harts of the form that have an instruction for its matrix unit at the head of their queue (R194). -/
def State.rivals (s : State) : List Nat :=
  (formHarts (formKey s.cur)).filter fun g =>
    let h := s.getHart g
    g ≠ s.cur && h.run == .running && !h.frozen && !s.stopped g && (h.queue.head?.map QEntry.isMatrix).getD false

/-- How far a hart of a form comes after another in its round (R194). -/
def roundAfter (last g : Nat) : Nat := (g % 16 + 15 - last) % 16

/-- Whether the matrix unit, which serves its form's harts in turn, turns to the current hart (R194). -/
def State.myTurn (s : State) : Bool :=
  let last := (s.form (formKey s.cur)).turn
  s.rivals.all fun g => decide (roundAfter last s.cur ≤ roundAfter last g)

/-- The matrix unit has turned to the current hart (R194). -/
def State.takeTurn (s : State) : State :=
  s.setForm (formKey s.cur) { s.form (formKey s.cur) with turn := s.cur % 16 }

/-- The issue of a matrix instruction, which waits for a queued MSETLEN while the MLEN it would check is not legal
(R89, R176, R193), and for its turn while other harts have one (R194). -/
def State.issueM (s : State) (i : Instr) (mlen : Bool) (chk : Option IssueTrap) (xa xb : Word)
    (head : QEntry → State → HeadRes) : Result :=
  if mlen && s.hart.mlenBad && s.setlenQueued then .next s else s.issueNow s.rivals.isEmpty i 8 chk xa xb fun e t => head e t.takeTurn

/-- A matrix instruction at the queue head: NO_TILE before every other cause found there (R173), then a poisoned word of its column mask
(R354, log 64), then the rings.  Of several tiles the lowest that is not held is reported, as R205 has it. -/
def State.withTiles (s : State) (e : QEntry) (acd n : Nat) (srcs : List Reg) (dst : Option Reg)
    (body : QEntry → State → HeadRes) : HeadRes :=
  if s.hart.mat.tiles < acd + n then s.queueTrap e 2 cNO_TILE 0 (max acd s.hart.mat.tiles) 0
  else s.overMasks e fun e s => s.withRings e srcs dst body

/-- The first poisoned element of a vector operand of `n` elements of `wb` bytes (R178). -/
def State.badOperand (s : State) (x : VCtx) (r wb n : Nat) : Option Nat :=
  firstIdx (vpoisoned s.vmem x.reg r wb) n 0

/-- The elements of a vector operand (R178). -/
def State.operand (s : State) (x : VCtx) (r wb n : Nat) : Array Nat :=
  ((List.range n).map (velem s.vmem x.reg r wb)).toArray

/-! ### Attach, release, length (R169 to R172, R176) -/

/-- What MATT writes when its request has been answered (R169). -/
def State.attach (s : State) (xs : Reg) (ok : Bool) : State :=
  let n := if ok then s.hart.mat.taken else 0
  (s.modMat fun a =>
    { a with tiles := n, pass := ok, taken := 0, asked := false, reply := none, acc := [], accPois := [] }).writeX xs
    (wordOf n)

/-- MATT at the queue head: it waits until its request is granted or refused (R169). -/
def headMatt (o : DOp) (_ : QEntry) (s : State) : HeadRes :=
  if s.hart.mat.tiles ≠ 0 then ((s.orMstat mstatBadarg).writeX o.xs (wordOf s.hart.mat.tiles)).doneM
  else
    let t := if s.hart.mat.asked then s else s.askTiles (o.aux.toNat + 1) (o.imm.extractLsb' 0 5).toNat
    match t.hart.mat.reply with
    | some ok => (t.attach o.xs ok).doneM
    | none => .wait t
/-- MATT (R169). -/
def execMatt (o : DOp) (s : State) : Result := s.issueM (.matt o) false none 0 0 (headMatt o)

/-- MREL at the queue head (R171). -/
def headMrel (_ : QEntry) (s : State) : HeadRes := (s.releaseTiles s.cur).doneM
/-- MREL (R171). -/
def execMrel (s : State) : Result := s.issueM .mrel false none 0 0 headMrel

/-- MSETLEN at the queue head (R176). -/
def headMsetlen (o : DOp) (e : QEntry) (s : State) : HeadRes :=
  let v := if o.xs = 0 then o.imm.toNat else e.xa.toNat
  if v = 0 then (s.orMstat mstatBadarg).doneM
  else State.doneM { s with hart := { s.hart with ctl := { s.hart.ctl with mlen := wordOf (min v 64) } } }
/-- MSETLEN (R176). -/
def execMsetlen (o : DOp) (s : State) : Result := s.issueM (.msetlen o) false none (s.readX o.xs) 0 (headMsetlen o)

/-- MZERO at the queue head (R191). -/
def headMzero (o : DOp) (e : QEntry) (s : State) : HeadRes :=
  let n := (o.aux.toNat + 1) * tileCount o.tt.toNat
  s.withTiles e o.acd.toNat n [] none fun _ s =>
    let act := s.hart.activeEntries o.cm.toNat
    (s.modMat fun a => (List.range n).foldl (fun a k =>
      act.foldl (fun a p => a.putEntry (o.acd.toNat + k) p.1 p.2 0) a) a).doneM
/-- MZERO (R191). -/
def execMzero (o : DOp) (s : State) : Result :=
  s.issueM (.mzero o) true (s.matIssue true [] o.cm.toNat) 0 0 (headMzero o)

/-! ### Products -/

/-- Depth k of a tile type (R179). -/
def tileDepth (tt : Nat) : Nat :=
  match tt with
  | 4 | 5 => 1
  | 2 | 3 => 4
  | _ => 8

/-- Bytes of an element of a tile type (R31, R179). -/
def tileBytes (tt : Nat) : Nat := if tt ≤ 5 then fpWidth tt / 8 else 1

/-- Whether a tile type is one of integers (R31). -/
def tileInt (tt : Nat) : Bool := decide (6 ≤ tt)

/-- An integer as an exact value. -/
def FVal.ofInt (z : Int) : FVal := .fin (decide (z < 0)) z.natAbs 0

/-- An element of a tile type as an exact value (R179). -/
def tileVal (tt v : Nat) : FVal := if tileInt tt then FVal.ofInt (intOf 8 (tt == 6) v) else (Fmt.ofCode tt).value v

/-- The exact sum of products (R179): of integers, with a zero that is no negative one. -/
def exactSum (tt : Nat) (ps : List FVal) : FVal := if tileInt tt then FVal.ofInt (sumAt 0 ps) else sumVal .rne ps

/-- One accumulator entry after the products `ps` are added or subtracted, scaled by `q` (R179, R180, R185). -/
def accEntry (tt : Nat) (q : Option FVal) (sub : Bool) (old : Nat) (ps : List FVal) : FRes :=
  match q with
  | none =>
    if tileInt tt then
      { bits := ofInt 32 (if sub then (old : Int) - sumAt 0 ps else old + sumAt 0 ps), flags := 0 }
    else
      let f := accFmt tt
      roundVal f .rne false (sumVal .rne (f.value old :: if sub then ps.map FVal.negate else ps))
  | some k => roundVal fp32 .rne false (sumVal .rne [fp32.value old, mulVal k (exactSum tt ps)])

/-- Entries accumulated one by one, with the MSTAT bits raised; every entry is read and written on its own (R179). -/
def accumulateAll (tt acd : Nat) (f : Nat → Nat → Nat → FRes) : List (Nat × Nat) → Mat × Word → Mat × Word
  | [], r => r
  | (i, j) :: t, (a, st) =>
    let r := f i j (a.value tt acd i j)
    accumulateAll tt acd f t (a.putValue tt acd i j r.bits, st ||| orFlags 0 r.flags)

/-- The accumulation on the current hart, after the check of the entries it reads: a poisoned one is consumed, TRAPINFO its
index 64·i + j (R354, log 19). -/
def State.accumulate (s : State) (e : QEntry) (tt acd : Nat) (act : List (Nat × Nat)) (st : Word)
    (f : Nat → Nat → Nat → FRes) : HeadRes :=
  match act.find? fun p => s.hart.mat.bad tt acd p.1 p.2 with
  | some p => s.queueTrap e 2 cPOISON 0 (64 * p.1 + p.2) 0
  | none =>
    let r := accumulateAll tt acd f act (s.hart.mat, st)
    ((s.modMat fun _ => r.1).orMstat r.2).doneM

/-- The products of row i and column j at depth k (R179). -/
def products (tt k i j : Nat) (va vb : Array Nat) : List FVal :=
  (List.range k).map fun kk => mulVal (tileVal tt (va.getD (i * k + kk) 0)) (tileVal tt (vb.getD (j * k + kk) 0))

/-- The first poisoned operand element among operands, each a register with its bytes an element and its count (R178).  DESIGN CHOICE
(log 63): where several operands have one, the first of va, vb and the metadata is reported. -/
def State.badOperands (s : State) (x : VCtx) : List (Nat × Nat × Nat) → Option Nat
  | [] => none
  | (r, wb, n) :: t =>
    match s.badOperand x r wb n with
    | some k => some k
    | none => s.badOperands x t

/-- An outer product at the queue head: `meta_` is the metadata operand, `bad` the first poisoned element, `f` an entry's new value from
the operands (R178, R179). -/
def State.outerBy (bad : State → VCtx → List (Nat × Nat × Nat) → Option Nat) (s : State) (o : DOp) (e : QEntry) (accT wb na nb : Nat)
    (meta_ : Option (Reg × Nat))
    (f : State → Array Nat → Array Nat → Array Nat → Nat → Nat → Nat → FRes) (stat : Hart → Array Nat → Word) : HeadRes :=
  let extra := meta_.toList.map fun r => r.1
  s.withTiles e o.acd.toNat (tileCount accT) ([o.va, o.vb] ++ extra) none fun e s =>
    let x := s.vctx e
    let ops := [(o.va.toNat, wb, na), (o.vb.toNat, wb, nb)] ++ meta_.toList.map fun r => (r.1.toNat, 1, r.2)
    match bad s x ops with
    | some k => s.queueTrap e 2 cPOISON 0 k 0
    | none =>
      let va := s.operand x o.va.toNat wb na
      let vb := s.operand x o.vb.toNat wb nb
      let vm := match meta_ with
        | some (r, n) => s.operand x r.toNat 1 n
        | none => #[]
      s.accumulate e accT o.acd.toNat (s.hart.activeEntries o.cm.toNat) (stat s.hart vm) (f s va vb vm)

/-- An outer product of operands of one element a value. -/
def State.outer (s : State) (o : DOp) (e : QEntry) (accT wb na nb : Nat) (meta_ : Option (Reg × Nat))
    (f : State → Array Nat → Array Nat → Array Nat → Nat → Nat → Nat → FRes) (stat : Hart → Array Nat → Word) : HeadRes :=
  State.outerBy State.badOperands s o e accT wb na nb meta_ f stat

/-- OPADD and OPSUB at the queue head (R179). -/
def State.headOp (s : State) (o : DOp) (e : QEntry) (sub : Bool) : HeadRes :=
  let tt := o.tt.toNat
  let k := tileDepth tt
  s.outer o e tt (tileBytes tt) (64 * k) (64 * k) none
    (fun _ va vb _ i j old => accEntry tt none sub old (products tt k i j va vb)) fun _ _ => 0

/-- OPADD at the queue head (R179). -/
def headOpadd (o : DOp) (e : QEntry) (s : State) : HeadRes := s.headOp o e false
/-- OPADD (R179). -/
def execOpadd (o : DOp) (s : State) : Result :=
  s.issueM (.opadd o) true (s.matIssue true [o.va, o.vb] o.cm.toNat) 0 0 (headOpadd o)

/-- OPSUB at the queue head (R179). -/
def headOpsub (o : DOp) (e : QEntry) (s : State) : HeadRes := s.headOp o e true
/-- OPSUB (R179). -/
def execOpsub (o : DOp) (s : State) : Result :=
  s.issueM (.opsub o) true (s.matIssue true [o.va, o.vb] o.cm.toNat) 0 0 (headOpsub o)

/-- The scale of entry i of a scale register, as a value (R180). -/
def Hart.scaleVal (h : Hart) (n i : Nat) : FVal := fp32.value (SMap.get 0 h.q (512 * n + i)).toNat

/-- OPADD.Q at the queue head (R180). -/
def headOpaddQ (o : DOp) (e : QEntry) (s : State) : HeadRes :=
  let tt := o.tt.toNat
  let k := tileDepth tt
  s.outer o e tt (tileBytes tt) (64 * k) (64 * k) none
    (fun s va vb _ i j old =>
      accEntry tt (some (mulVal (s.hart.scaleVal (o.imm.extractLsb' 0 3).toNat i) (s.hart.scaleVal (o.imm.extractLsb' 3 3).toNat j)))
        false old (products tt k i j va vb)) fun _ _ => 0
/-- OPADD.Q (R180). -/
def execOpaddQ (o : DOp) (s : State) : Result :=
  s.issueM (.opaddQ o) true (s.matIssue true [o.va, o.vb] o.cm.toNat) 0 0 (headOpaddQ o)

/-- N of the sparse pattern; M is its double (R181). -/
def spN (o : DOp) : Nat := if o.wa = 1 then 2 else 4

/-- The compressed values of row i that contribute, each with its logical position, and whether a position was out of
range or named again (R181): values `e` onward of group `g`. -/
def spGroup (vm : Array Nat) (mm base : Nat) : List Nat → List Nat → List (Nat × Nat) × Bool
  | [], _ => ([], false)
  | e :: t, seen =>
    let p := vm.getD e 0
    if p ≥ mm ∨ seen.contains p then ((spGroup vm mm base t seen).1, true)
    else
      let r := spGroup vm mm base t (p :: seen)
      ((e, base + p) :: r.1, r.2)

/-- Row i's contributing values and whether SPBAD occurs in it (R181). -/
def spRow (vm : Array Nat) (n k i : Nat) : List (Nat × Nat) × Bool :=
  let gs := (List.range (k / n)).map fun g =>
    spGroup vm (2 * n) (g * (2 * n)) ((List.range n).map fun q => i * k + g * n + q) []
  (gs.flatMap (·.1), gs.any (·.2))

/-- OPADD.SP at the queue head (R181).  DESIGN CHOICE (log 63): a position that contributes zero is no term of the sum, for the sign of
a zero. -/
def headOpaddSp (o : DOp) (e : QEntry) (s : State) : HeadRes :=
  let tt := o.tt.toNat
  let k := tileDepth tt
  s.outer o e tt (tileBytes tt) (64 * k) (128 * k) (some ((o.imm.extractLsb' 0 5), 64 * k))
    (fun _ va vb vm i j old =>
      accEntry tt none false old ((spRow vm (spN o) k i).1.map fun r =>
        mulVal (tileVal tt (va.getD r.1 0)) (tileVal tt (vb.getD (j * (2 * k) + r.2) 0))))
    fun h vm => if (List.range (min h.mlen 64)).any fun i => (spRow vm (spN o) k i).2 then mstatSpbad else 0
/-- OPADD.SP (R181). -/
def execOpaddSp (o : DOp) (s : State) : Result :=
  s.issueM (.opaddSp o) true (s.matIssue true [o.va, o.vb, o.imm.extractLsb' 0 5] o.cm.toNat) 0 0 (headOpaddSp o)

/-- Element e of a plane operand of width w over L elements, of the bytes `b` (R43, R151, R182). -/
def planeElem (b : Array Nat) (w l : Nat) (signed : Bool) (e : Nat) : Int :=
  let v := (List.range w).foldl (fun a p =>
    let q := p * l + e
    a + (if (b.getD (q / 8) 0).testBit (q % 8) then 2 ^ p else 0)) 0
  intOf w signed v

/-- The first element of a plane operand of width w over L elements with a poisoned bit (R151, R178, R182). -/
def State.badPlanes (s : State) (x : VCtx) (r w l : Nat) : Option Nat :=
  if (s.badOperand x r 1 (w * l / 8)).isNone then none
  else firstIdx (fun e => (List.range w).any fun p => vpoisoned s.vmem x.reg r 1 ((p * l + e) / 8)) l 0

/-- OPADD.BS at the queue head (R182): the planes are read as bytes. -/
def headOpaddBs (o : DOp) (e : QEntry) (s : State) : HeadRes :=
  let a := o.wa.toNat + 1
  let b := o.wb.toNat + 1
  let k := 512 / (a * b)
  let sg := o.tt == 8
  let bad (s : State) (x : VCtx) (_ : List (Nat × Nat × Nat)) : Option Nat :=
    match s.badPlanes x o.va.toNat a (64 * k) with
    | some r => some r
    | none => s.badPlanes x o.vb.toNat b (64 * k)
  State.outerBy bad s o e 6 1 (8 * k * a) (8 * k * b) none
    (fun _ va vb _ i j old =>
      accEntry 6 none false old ((List.range k).map fun kk =>
        FVal.ofInt (planeElem va a (64 * k) sg (i * k + kk) * planeElem vb b (64 * k) sg (j * k + kk)))) fun _ _ => 0
/-- OPADD.BS (R182). -/
def execOpaddBs (o : DOp) (s : State) : Result :=
  s.issueM (.opaddBs o) true (s.matIssue true [o.va, o.vb] o.cm.toNat) 0 0 (headOpaddBs o)

/-! ### Memory of the matrix-unit agent -/

/-- The checks of one access by the matrix-unit agent (R155 items 4, 6 and 7; R186, R192). -/
def State.matCheck (s : State) (k : Kind) (poison : Bool) (n : Nat) (va : Word) : ECheck :=
  if !canonical va then .bad cADDRESS va
  else
    match s.locate (s.accessOf s.cur k .matrix) va with
    | .bad c => .bad c va
    | .wait => .wait
    | .place p l lost =>
      if s.heldBy (agentNo s.cur .matrix) p.key n then .wait
      else if lost then .lost p l va
      else if poison && s.mem.poisoned p.key n then .bad cPOISON va
      else .ok p l

/-- The trap for a check that is not good, at SRC 2 with the given TRAPINFO. -/
def State.matTrap (s : State) (e : QEntry) (c : ECheck) (info : Nat) : HeadRes :=
  match c with
  | .bad cause va => s.queueTrap e 2 cause va info 0
  | .lost _ _ va => s.queueTrap e 2 cREMOTE_LOST va info 0
  | _ => .wait s

/-! ### Grouped products (R183 to R187) -/

/-- Whether the `n` bytes at an address lie in the issuing core's own slate, and where (R183).  DESIGN CHOICE (log 63): a group record
whose 656 bytes run past the slate's end lies outside it, whatever its G would leave unread. -/
def State.ownSlate (s : State) (va : Word) (n : Nat) : Option Nat :=
  let c := coreKey s.cur
  let v := va.toNat
  let alias_ := 0x7E0000000000 + pkgOf s.cur * 2 ^ 31 + coreOf s.cur * 2 ^ 21
  let off := if 0x7F0000000000 ≤ v then some (v - 0x7F0000000000) else if alias_ ≤ v then some (v - alias_) else none
  match off with
  | some o => if o + n ≤ Config.slateBytes then some (Place.slate c o).key else none
  | none => none

/-- The row bounds e_0 to e_G of a group record (R184): the rest of them after `e`. -/
def groupEnds (mlen e : Nat) : List Nat → List Nat
  | [] => []
  | o :: t =>
    let e' := min (max o e) mlen
    e' :: groupEnds mlen e' t

/-- Whether some offset is below the one before it or above MLEN (R184). -/
def groupOff (mlen : Nat) : List Nat → Bool
  | a :: b :: t => decide (b < a) || decide (a > mlen) || groupOff mlen (b :: t)
  | [a] => decide (a > mlen)
  | [] => false

/-- Bytes of a panel (R185). -/
def panelBytes (tt : Nat) (q : Bool) : Nat := if q then 768 else if tt = 4 then 256 else 512

/-- The panel bytes read, one word after another. -/
def State.panelRead (s : State) (va : Word) (n : Nat) : Array Nat :=
  ((List.range (n / 8)).flatMap fun w =>
    match s.matCheck .read false 8 (va + wordOf (8 * w)) with
    | .ok p l => (List.range 8).map fun j => s.readAt l (p.key + j) 1
    | _ => List.replicate 8 0).toArray

/-- A little-endian element of a panel. -/
def panelElem (b : Array Nat) (off wb : Nat) : Nat :=
  (List.range wb).foldr (fun j a => b.getD (off + j) 0 + 256 * a) 0

/-- The checks of the panels of present groups, each a group with its address, in order: the first that is not good,
with its group (R185, R186). -/
def State.panelCheck (s : State) (n : Nat) : List (Nat × Word) → Option (Nat × ECheck)
  | [] => none
  | (g, va) :: t =>
    if va.toNat % 64 ≠ 0 then some (g, .bad cMISALIGN_ELEM va)
    else
      match firstBad (fun w => s.matCheck .read true 8 (va + wordOf (8 * w))) (List.range (n / 8)) with
      | some (_, c) => some (g, c)
      | none => s.panelCheck n t

/-- Elements in word `w` of a panel of `wb`-byte weights (R185). -/
def panelCount (wb w : Nat) : Nat := if 64 ≤ w then 2 else 8 / wb

/-- The accessed bits of the panels' pages (R364), and their elements counted (R368). -/
def State.panelTouch (s : State) (wb n : Nat) (ps : List (Nat × Word)) : State :=
  ps.foldl (fun t p => (List.range (n / 8)).foldl (fun t w =>
    let va := p.2 + wordOf (8 * w)
    match s.matCheck .read false 8 va with
    | .ok p l => (List.range (panelCount wb w)).foldl (fun t _ => t.performed .read .indexed va p l) t
    | _ => t) t) s

/-- The groups of an MGRP: each with its number, first row and one past its last (R184). -/
def groupSpans (ends : List Nat) : List (Nat × Nat × Nat) :=
  ((List.range (ends.length - 1)).map fun g => (g, ends.getD g 0, ends.getD (g + 1) 0)).filter fun r => decide (r.2.1 < r.2.2)

/-- The accumulation of an MGRP whose panels were checked (R185): every row of a present group against its panel.  DESIGN CHOICE
(log 63): a poisoned record comes before a panel fault, that before a poisoned va element, and that before a poisoned entry. -/
def State.mgrpRun (s : State) (o : DOp) (e : QEntry) (q : Option Nat) (mstat : Word) (spans : List (Nat × Nat × Nat × Word)) : HeadRes :=
  let tt := o.tt.toNat
  let k := tileDepth tt
  let wb := tileBytes tt
  let x := s.vctx e
  match s.badOperand x o.va.toNat wb (64 * k) with
  | some j => s.queueTrap e 2 cPOISON 0 j 0
  | none =>
    let va := s.operand x o.va.toNat wb (64 * k)
    let n := panelBytes tt q.isSome
    let panels := spans.map fun r => (r.2.1, r.2.2.1, s.panelRead r.2.2.2 n)
    let rowPanel i := (panels.find? fun r => decide (r.1 ≤ i) && decide (i < r.2.1)).map (·.2.2)
    let act := (s.hart.activeEntries o.cm.toNat).filter fun p => (rowPanel p.1).isSome
    (s.panelTouch wb n (spans.map fun r => (r.1, r.2.2.2))).accumulate e tt o.acd.toNat act mstat fun i j old =>
      let b := (rowPanel i).getD #[]
      let ps := (List.range k).map fun kk =>
        mulVal (tileVal tt (va.getD (i * k + kk) 0)) (tileVal tt (panelElem b ((j * k + kk) * wb) wb))
      let sc := q.map fun r => mulVal (s.hart.scaleVal r i) (fp32.value (panelElem b (512 + 4 * j) 4))
      accEntry tt sc false old ps

/-- MGRP and MGRP.Q at the queue head (R183 to R186).  DESIGN CHOICE (log 63): a poisoned record reports the address of its first part
that is poisoned and TRAPINFO 0, and all its G pointers are checked. -/
def State.headGrp (s : State) (o : DOp) (e : QEntry) (q : Option Nat) : HeadRes :=
  let tt := o.tt.toNat
  s.withTiles e o.acd.toNat (tileCount tt) [o.va] none fun e s =>
    match (if e.xa.toNat % 16 = 0 then s.ownSlate e.xa 656 else none) with
    | none => s.queueTrap e 2 cADDRESS e.xa 0 0
    | some r =>
      if s.heldBy (agentNo s.cur .matrix) r 656 then .wait s else
      let g := s.mem.read r 2
      let n := if g = 0 ∨ 64 < g then 0 else g
      let bad := fun (k b : Nat) => s.mem.poisoned (r + k) b
      if bad 0 2 then s.queueTrap e 2 cPOISON e.xa 0 0
      else if n = 0 then (s.orMstat mstatBadarg).doneM
      else if bad 8 (2 * n + 2) then s.queueTrap e 2 cPOISON (e.xa + 8) 0 0
      else if bad 144 (8 * n) then s.queueTrap e 2 cPOISON (e.xa + 144) 0 0
      else
        let os := (List.range (n + 1)).map fun j => s.mem.read (r + 8 + 2 * j) 2
        let mlen := s.hart.mlen
        let ends := groupEnds mlen 0 os
        let bytes := panelBytes tt q.isSome
        let spans := (groupSpans ends).map fun p =>
          (p.1, p.2.1, p.2.2, wordOf (s.mem.read (r + 144 + 8 * p.1) 8) + wordOf (o.imm.toNat * bytes))
        let st := if groupOff mlen os then mstatGoff else 0
        match s.panelCheck bytes (spans.map fun p => (p.1, p.2.2.2)) with
        | some (j, c) => s.matTrap e c j
        | none => s.mgrpRun o e q st spans

/-- MGRP at the queue head (R185). -/
def headMgrp (o : DOp) (e : QEntry) (s : State) : HeadRes := s.headGrp o e none
/-- MGRP (R183 to R187). -/
def execMgrp (o : DOp) (s : State) : Result :=
  s.issueM (.mgrp o) true (s.matIssue true [o.va] o.cm.toNat) (s.readX o.xs) 0 (headMgrp o)

/-- MGRP.Q at the queue head (R185). -/
def headMgrpQ (o : DOp) (e : QEntry) (s : State) : HeadRes := s.headGrp o e (some (o.aux.extractLsb' 0 3).toNat)
/-- MGRP.Q (R183 to R187). -/
def execMgrpQ (o : DOp) (s : State) : Result :=
  s.issueM (.mgrpQ o) true (s.matIssue true [o.va] o.cm.toNat) (s.readX o.xs) 0 (headMgrpQ o)

/-! ### Tile loads and stores (R188, R189) -/

/-- The address of entry (i, j) (R188). -/
def entryAddr (e : QEntry) (w : Nat) (p : Nat × Nat) : Word := e.xa + wordOf p.1 * e.xb + wordOf (p.2 * w)

/-- The value an entry takes from memory (R188). -/
def mldtVal (tt v : Nat) : FRes :=
  if tt ≤ 3 then cvtF fp32 (Fmt.ofCode tt) .rne false v else { bits := v, flags := 0 }

/-- The value an entry gives to memory (R188). -/
def msttVal (tt v : Nat) : FRes :=
  if tt ≤ 3 then cvtF (Fmt.ofCode tt) fp32 .rne false v else { bits := v, flags := 0 }

/-- Entries loaded, in order (R188). -/
def mldtEntries (tt acd : Nat) (addr : Nat × Nat → Word) (check : Nat × Nat → ECheck) : List (Nat × Nat) → State → State
  | [], s => s
  | p :: t, s =>
    mldtEntries tt acd addr check t
      (match check p with
        | .ok pl l =>
          let r := mldtVal tt (s.readAt l pl.key (tileBytes tt))
          ((s.performed .read .strided (addr p) pl l).modMat fun a => a.putValue tt acd p.1 p.2 r.bits).orMstat (orFlags 0 r.flags)
        | _ => s)

/-- Accessed and dirty bits and counts of the entries that a store performs: all are set before any is written (R364, R368). -/
def msttTouch (addr : Nat × Nat → Word) (check : Nat × Nat → ECheck) : List (Nat × Nat) → State → State
  | [], s => s
  | p :: t, s =>
    msttTouch addr check t
      (match check p with
        | .ok q l => s.performed .write .strided (addr p) q l
        | .lost q l _ => s.performed .write .strided (addr p) q l
        | _ => s)

/-- The data of entries placed, in order (R188). -/
def msttPlace (tt acd : Nat) (check : Nat × Nat → ECheck) : List (Nat × Nat) → State → State
  | [], s => s
  | p :: t, s =>
    let r := msttVal tt (s.hart.mat.value tt acd p.1 p.2)
    let put (pl : Place) (l : Option LeafAt) :=
      (s.place (agentNo s.cur .matrix) l pl.key (tileBytes tt) r.bits).orMstat (orFlags 0 r.flags)
    msttPlace tt acd check t
      (match check p with
        | .ok pl l => put pl l
        | .lost pl l _ => put pl l
        | _ => s)

/-- Entries stored, in order (R188). -/
def msttEntries (tt acd : Nat) (addr : Nat × Nat → Word) (check : Nat × Nat → ECheck) (l : List (Nat × Nat)) (s : State) : State :=
  msttPlace tt acd check l (msttTouch addr check l s)

/-- The first entry whose check is not good. -/
def firstBadEntry (check : Nat × Nat → ECheck) : List (Nat × Nat) → Option ((Nat × Nat) × ECheck)
  | [] => none
  | p :: t => if (check p).good then firstBadEntry check t else some (p, check p)

/-- Which entries of a faulting MLDT or MSTT are performed: those of the rows before, and any others that do not fault
(R188); a lost store may have been performed (R387). -/
def State.tilePart (s : State) (store : Bool) (row : Nat) (check : Nat × Nat → ECheck) (act : List (Nat × Nat)) : List (Nat × Nat) :=
  act.filter fun p => decide (p.1 < row) ||
    (Config.freePick s.free (64 * p.1 + p.2) && (match check p with
      | .ok _ _ => true
      | .lost _ _ _ => store
      | _ => false))

/-- MLDT and MLDT.FF at the queue head (R188, R189). -/
def State.headLdt (s : State) (o : DOp) (e : QEntry) (ff : Bool) : HeadRes :=
  let tt := o.tt.toNat
  let w := tileBytes tt
  s.withTiles e o.acd.toNat (tileCount tt) [] none fun e s =>
    let act := s.hart.activeEntries o.cm.toNat
    let check p := s.matCheck .read true w (entryAddr e w p)
    if ((firstBadEntry check act).map fun r => r.2.waits).getD false then .wait s
    else
      match firstBadEntry check act with
      | none => (mldtEntries tt o.acd.toNat (entryAddr e w) check act s).doneM
      | some (p, c) =>
        if ff && p.1 ≠ 0 then
          let t := mldtEntries tt o.acd.toNat (entryAddr e w) check (act.filter fun q => decide (q.1 < p.1)) s
          State.doneM { t with hart := { t.hart with ctl := { t.hart.ctl with mlen := wordOf p.1 } } }
        else
          ((mldtEntries tt o.acd.toNat (entryAddr e w) check (s.tilePart false p.1 check act) s).nextFree).matTrap e c p.1

/-- The issue checks of MLDT, MLDT.FF and MSTT (R188). -/
def State.tileIssue (s : State) (o : DOp) : Option IssueTrap :=
  let w := tileBytes o.tt.toNat
  match s.matIssue true [] o.cm.toNat with
  | some t => some t
  | none =>
    if (s.readX o.xs).toNat % w ≠ 0 ∨ (s.readX (o.xs + 1)).toNat % w ≠ 0 then
      some { cause := cMISALIGN_ISSUE, va := s.readX o.xs, bits := false }
    else none

/-- MLDT at the queue head (R188). -/
def headMldt (o : DOp) (e : QEntry) (s : State) : HeadRes := s.headLdt o e false
/-- MLDT (R188). -/
def execMldt (o : DOp) (s : State) : Result :=
  s.issueM (.mldt o) true (s.tileIssue o) (s.readX o.xs) (s.readX (o.xs + 1)) (headMldt o)

/-- MLDT.FF at the queue head (R189). -/
def headMldtFf (o : DOp) (e : QEntry) (s : State) : HeadRes := s.headLdt o e true
/-- MLDT.FF (R189). -/
def execMldtFf (o : DOp) (s : State) : Result :=
  s.issueM (.mldtFf o) true (s.tileIssue o) (s.readX o.xs) (s.readX (o.xs + 1)) (headMldtFf o)

/-- MSTT at the queue head (R188): a poisoned entry is consumed at its row, and is no memory data (R334, R354). -/
def headMstt (o : DOp) (e : QEntry) (s : State) : HeadRes :=
  let tt := o.tt.toNat
  let w := tileBytes tt
  s.withTiles e o.acd.toNat (tileCount tt) [] none fun e s =>
    let act := s.hart.activeEntries o.cm.toNat
    let check p := match s.matCheck .write false w (entryAddr e w p) with
      | .ok pl l => if s.hart.mat.bad tt o.acd.toNat p.1 p.2 then .bad cPOISON 0 else .ok pl l
      | .lost pl l va => if s.hart.mat.bad tt o.acd.toNat p.1 p.2 then .bad cPOISON 0 else .lost pl l va
      | r => r
    if ((firstBadEntry check act).map fun r => r.2.waits).getD false then .wait s
    else
      match firstBadEntry check act with
      | none => (msttEntries tt o.acd.toNat (entryAddr e w) check act s).doneM
      | some (p, c) =>
        ((msttEntries tt o.acd.toNat (entryAddr e w) check (s.tilePart true p.1 check act) s).nextFree).matTrap e c p.1
/-- MSTT (R188). -/
def execMstt (o : DOp) (s : State) : Result :=
  s.issueM (.mstt o) true (s.tileIssue o) (s.readX o.xs) (s.readX (o.xs + 1)) (headMstt o)

/-! ### Moves of one line (R190) -/

/-- Position t of line x: its row and column (R190). -/
def linePos (o : DOp) (x t : Nat) : Nat × Nat := if o.aux.getLsbD 0 then (t, x) else (x, t)

/-- Whether position t of a line is active (R190). -/
def lineActive (o : DOp) (h : Hart) (t : Nat) : Bool :=
  h.maskBit o.cm.toNat t && (!o.aux.getLsbD 0 || decide (t < h.mlen))

/-- The value of an entry moved into a vector register (R190). -/
def mrdvVal (o : DOp) (v : Nat) : FRes :=
  let tt := o.tt.toNat
  if tt ≤ 3 then cvtF (Fmt.ofCode tt) fp32 .rne (o.imm.getLsbD 0) v else { bits := v, flags := 0 }

/-- MRDV at the queue head (R190).  DESIGN CHOICE (log 19): a poisoned entry that it reads reports its position t on the line. -/
def headMrdv (o : DOp) (e : QEntry) (s : State) : HeadRes :=
  let tt := o.tt.toNat
  let wb := tileBytes tt
  let line := e.xa.toNat
  let ring := if 63 < line then none else some o.va
  s.withTiles e o.acd.toNat (tileCount tt) [] ring fun e s =>
    let x := s.vctx e
    let a := s.hart.mat
    let act := lineActive o s.hart
    let src t := let p := linePos o line t; mrdvVal o (a.value tt o.acd.toNat p.1 p.2)
    if 63 < line then (s.orMstat mstatBadarg).doneM
    else
      match firstIdx (fun t => act t && (let p := linePos o line t; a.bad tt o.acd.toNat p.1 p.2)) 64 0 with
      | some k => s.queueTrap e 2 cPOISON 0 k 0
      | none =>
        let d := x.dreg o.va
        let r := writeElems x d wb act (fun t => EOut.ofF (src t)) 64 0 (s.vmem, 0)
        let m := if x.tail then vclear r.1 x.reg d (64 * wb) x.reg 1 else r.1
        ((s.setVmem m).orMstat r.2).doneM
/-- MRDV (R190). -/
def execMrdv (o : DOp) (s : State) : Result :=
  s.issueM (.mrdv o) (o.aux.getLsbD 0) (s.matIssue (o.aux.getLsbD 0) [o.va] o.cm.toNat) (s.readX o.xs) 0 (headMrdv o)

/-- The value of a vector element moved into an entry (R190). -/
def mwrvVal (tt v : Nat) : FRes :=
  if tt ≤ 3 then cvtF fp32 (Fmt.ofCode tt) .rne false v else { bits := v, flags := 0 }

/-- Positions of a line written, with the flags raised (R190). -/
def mwrvLine (o : DOp) (line : Nat) (v : Nat → Nat) : List Nat → Mat × Word → Mat × Word
  | [], r => r
  | t :: ts, (a, st) =>
    let r := mwrvVal o.tt.toNat (v t)
    let p := linePos o line t
    mwrvLine o line v ts (a.putValue o.tt.toNat o.acd.toNat p.1 p.2 r.bits, st ||| orFlags 0 r.flags)

/-- MWRV at the queue head (R190). -/
def headMwrv (o : DOp) (e : QEntry) (s : State) : HeadRes :=
  let tt := o.tt.toNat
  let wb := tileBytes tt
  let line := e.xa.toNat
  s.withTiles e o.acd.toNat (tileCount tt) (if 63 < line then [] else [o.va]) none fun e s =>
    let x := s.vctx e
    if 63 < line then (s.orMstat mstatBadarg).doneM
    else
      match s.badOperand x o.va.toNat wb 64 with
      | some k => s.queueTrap e 2 cPOISON 0 k 0
      | none =>
        let r := mwrvLine o line (velem s.vmem x.reg o.va.toNat wb) ((List.range 64).filter (lineActive o s.hart))
          (s.hart.mat, 0)
        ((s.modMat fun _ => r.1).orMstat r.2).doneM
/-- MWRV (R190). -/
def execMwrv (o : DOp) (s : State) : Result :=
  s.issueM (.mwrv o) (o.aux.getLsbD 0) (s.matIssue (o.aux.getLsbD 0) [o.va] o.cm.toNat) (s.readX o.xs) 0 (headMwrv o)

/-! ### Save and load of every tile (R192) -/

/-- The issue check of MSAVE and MLOAD (R192). -/
def State.saveIssue (s : State) (o : DOp) : Option IssueTrap :=
  if (s.readX o.xs).toNat % 64 ≠ 0 then some { cause := cMISALIGN_ISSUE, va := s.readX o.xs, bits := false } else none

/-- The accessed and dirty bits and the counts of a memory word of two entries (R364, R368). -/
def wordTouch (k : Kind) (addr : Nat → Word) (check : Nat → ECheck) (s : State) (w : Nat) : State :=
  match check w with
  | .ok p l => (s.performed k .unit (addr w) p l).performed k .unit (addr w) p l
  | .lost p l _ => if k = .write then (s.performed k .unit (addr w) p l).performed k .unit (addr w) p l else s
  | _ => s

/-- Two entries saved as one memory word, poisoned where either is (R353, log 19). -/
def saveWord (check : Nat → ECheck) (s : State) (w : Nat) : State :=
  let a := s.hart.mat
  let get n := (SMap.get 0 a.acc n).toNat
  let bad n := SMap.get false a.accPois n
  let put (p : Place) (l : Option LeafAt) :=
    s.placeBad (agentNo s.cur .matrix) l p.key 8
      (get (2 * w) + 2 ^ 32 * get (2 * w + 1)) (bad (2 * w) || bad (2 * w + 1))
  match check w with
  | .ok p l => put p l
  | .lost p l _ => put p l
  | _ => s

/-- One memory word loaded into two entries, both poisoned where it is (R353). -/
def loadWord (check : Nat → ECheck) (s : State) (w : Nat) : State :=
  match check w with
  | .ok p l =>
    let v := s.readAt l p.key 8
    let bad := s.mem.poisoned p.key 8
    s.modMat fun a =>
      { a with
        acc := SMap.set 0 (SMap.set 0 a.acc (2 * w) (BitVec.ofNat 32 v)) (2 * w + 1) (BitVec.ofNat 32 (v / 2 ^ 32))
        accPois := SMap.set false (SMap.set false a.accPois (2 * w) bad) (2 * w + 1) bad }
  | _ => s

/-- Words saved or loaded: their pages' bits are set before any is moved (R364). -/
def moveWords (k : Kind) (addr : Nat → Word) (check : Nat → ECheck) (run : (Nat → ECheck) → State → Nat → State) (l : List Nat) (s : State) :
    State := l.foldl (run check) (l.foldl (wordTouch k addr check) s)

/-- MSAVE and MLOAD at the queue head, word by word (R192): in a fault any subset of the others is done.  DESIGN CHOICE (log 63): the
two entries of one memory word go together. -/
def State.headSave (s : State) (e : QEntry) (k : Kind) (run : (Nat → ECheck) → State → Nat → State) : HeadRes :=
  let words := List.range (2048 * s.hart.mat.tiles)
  let addr w := e.xa + wordOf (8 * w)
  let check w := s.matCheck k false 8 (addr w)
  if waitsFirst check words then .wait s
  else
    match firstBad check words with
    | none => (moveWords k addr check run words s).doneM
    | some (w, c) =>
      (moveWords k addr check run (words.filter fun j => Config.freePick s.free j) s).nextFree.matTrap e c (8 * w)

/-- MSAVE at the queue head (R192). -/
def headMsave (_ : DOp) (e : QEntry) (s : State) : HeadRes := s.headSave e .write saveWord
/-- MSAVE (R192). -/
def execMsave (o : DOp) (s : State) : Result := s.issueM (.msave o) false (s.saveIssue o) (s.readX o.xs) 0 (headMsave o)

/-- MLOAD at the queue head (R192). -/
def headMload (_ : DOp) (e : QEntry) (s : State) : HeadRes := s.headSave e .read loadWord
/-- MLOAD (R192). -/
def execMload (o : DOp) (s : State) : Result := s.issueM (.mload o) false (s.saveIssue o) (s.readX o.xs) 0 (headMload o)

end Sys2Proof.Machine
end

