-- ==== Sys2Proof/Machine/Butterfly.lean ====
section
/-! DEFINITION. Butterfly stages (R195 to R208): stride registers, the checks of a stage, one step, and the chain of them
with its progress. -/

namespace Sys2Proof.Machine

/-- A stride register (R196). -/
def Mat.stride (a : Mat) (n : Nat) : Word := a.bs[n % 16]'(Nat.mod_lt _ (by decide))

/-- What a stage uses of a stride register (R196, R197). -/
structure Stage where
  woff : Nat
  qidx : Nat
  wtype : Nat
  lstr : Nat
  deriving DecidableEq, Repr

/-- The fields of a stride register (R196). -/
def Stage.ofWord (v : Word) : Stage :=
  { woff := field v 32 32, qidx := field v 8 3, wtype := field v 4 4, lstr := field v 0 4 }

/-- Bytes of a pair of weights (R197). -/
def Stage.pair (r : Stage) : Nat :=
  match r.wtype with
  | 0 => 8
  | 1 => 4
  | _ => 2

/-- The type code of a weight (R197). -/
def Stage.code (r : Stage) : Nat :=
  match r.wtype with
  | 0 => 4
  | 1 => 3
  | _ => 0

/-- The checks of R199 on a stage over rows of `n` elements. -/
def Stage.ok (r : Stage) (n blk : Nat) : Bool :=
  decide (2 ^ r.lstr < n) && decide (r.wtype ≤ 2) && r.woff % 64 = 0 && decide (r.woff + n * r.pair ≤ Config.slateBytes)
    && (r.wtype != 2 || decide ((n - 1) / 2 ^ blk ≤ 511))

/-- A stage instruction: first tile, tiles of a group, first stride register, stages, and inter-stage rounding (R200,
R204). -/
structure Chain where
  acd : Nat
  g : Nat
  f : Nat
  count : Nat
  isr : Bool
  deriving DecidableEq, Repr

/-- Elements of a row (R195). -/
def Chain.n (c : Chain) : Nat := 64 * c.g

/-- The stride registers a chain uses, as they stand (R200). -/
def Chain.stages (c : Chain) (a : Mat) : List Stage := (List.range c.count).map fun t => Stage.ofWord (a.stride (c.f + t))

/-- One weight of a pair: its value, with the scale for WTYPE 2 (R197). -/
def State.weight (s : State) (r : Stage) (blk c : Nat) (second : Bool) : FVal :=
  let h := r.pair / 2
  let k := (Place.slate (coreKey s.cur) (r.woff + c * r.pair + (if second then h else 0))).key
  let v := (Fmt.ofCode r.code).value (s.mem.read k h)
  if r.wtype = 2 then mulVal v (s.hart.scaleVal r.qidx (c / 2 ^ blk)) else v

/-- The lowest-placed poisoned weight of a set: its pair and whether it is the second of it (R205).  DESIGN CHOICE (log 63): of several
poisoned weights, whose reads have no order (R207), this one is reported. -/
def State.badWeight (s : State) (r : Stage) (n : Nat) : Option (Nat × Bool) :=
  let h := r.pair / 2
  (firstIdx (fun j => s.mem.poisoned (Place.slate (coreKey s.cur) (r.woff + j * h)).key h) (2 * n) 0).map
    fun j => (j / 2, j % 2 = 1)

/-- Element c of row i of a group (R195). -/
def Mat.rowElem (a : Mat) (acd i c : Nat) : Nat := a.entry (acd + c / 64) i (c % 64)

/-- The active rows of block b (R201). -/
def blockRows (mlen b : Nat) : List Nat := ((List.range 16).map (16 * b + ·)).filter (· < mlen)

/-- The element y_c of a row, and its flags (R198, R200): `half` asks for the BF16 rounding between stages. -/
def stageElem (half : Bool) (a b x y : FVal) : FRes :=
  let v := sumVal .rne [mulVal a x, mulVal b y]
  if half then
    let r := roundVal (Fmt.ofCode 3) .rne false v
    { bits := r.bits * 65536, flags := r.flags }
  else roundVal fp32 .rne false v

/-- One row of a stage: read whole, then written (R198). -/
def stageRow (c : Chain) (lstr : Nat) (half : Bool) (wa wb : Array FVal) (i : Nat) (r : Mat × Word) : Mat × Word :=
  let x := ((List.range c.n).map fun j => fp32.value (r.1.rowElem c.acd i j)).toArray
  let y := (List.range c.n).map fun j =>
    (j, stageElem half (wa.getD j (.fin false 0 0)) (wb.getD j (.fin false 0 0)) (x.getD j (.fin false 0 0))
      (x.getD (Nat.xor j (2 ^ lstr)) (.fin false 0 0)))
  y.foldl (fun r p => (r.1.putEntry (c.acd + p.1 / 64) i (p.1 % 64) p.2.bits, r.2 ||| orFlags 0 p.2.flags)) r

/-- The first poisoned element of the rows of a step: its row and element (R205). -/
def Chain.badEntry (c : Chain) (a : Mat) (rows : List Nat) : Option (Nat × Nat) :=
  (rows.flatMap fun i => (List.range c.n).map fun j => (i, j)).find? fun p =>
    a.bad 4 (c.acd + p.2 / 64) p.1 (p.2 % 64)

/-- What follows step (b, t): the next step, or the end (R201). -/
def Chain.next (c : Chain) (mlen b t : Nat) : Option (Nat × Nat) :=
  if t + 1 < c.count then some (b, t + 1) else if b + 1 < 4 ∧ 16 * (b + 1) < mlen then some (b + 1, 0) else none

/-- Where a chain starts from a progress (R201, R203). -/
def Chain.start (c : Chain) (mlen b t : Nat) : Option (Nat × Nat) :=
  if 16 * b < mlen ∧ b < 4 then (if t < c.count then some (b, t) else if b + 1 < 4 ∧ 16 * (b + 1) < mlen then some (b + 1, 0) else none)
  else none

/-- The local-window address of a byte of the slate (R235). -/
def slateAddr (off : Nat) : Word := wordOf (0x7F0000000000 + off)

/-- One step of a chain at the queue head (R201, R202, R205): the progress names the next, or the instruction completes; its weights are
read behind what the hart's matrix unit has written of them (R207, R252). -/
def State.step1 (s : State) (e : QEntry) (c : Chain) (r : Stage) (blk b t : Nat) : HeadRes :=
  let s := s.setProgress b t
  let rows := blockRows s.hart.mlen b
  if s.heldBy (agentNo s.cur .matrix) (Place.slate (coreKey s.cur) r.woff).key (c.n * r.pair) then .wait s else
  match s.badWeight r c.n with
  | some (j, second) =>
    s.queueTrap e 2 cPOISON (slateAddr (r.woff + j * r.pair + (if second then r.pair / 2 else 0))) (2 ^ 31 + t * 2 ^ 16 + j) 0
  | none =>
    match c.badEntry s.hart.mat rows with
    | some (i, j) => s.queueTrap e 2 cPOISON 0 (t * 2 ^ 16 + i * 2 ^ 10 + j) 0
    | none =>
      let wa := ((List.range c.n).map fun j => s.weight r blk j false).toArray
      let wb := ((List.range c.n).map fun j => s.weight r blk j true).toArray
      let res := rows.foldl (fun a i => stageRow c r.lstr (c.isr && t + 1 ≠ c.count) wa wb i a) (s.hart.mat, 0)
      let s := (s.modMat fun _ => res.1).orMstat res.2
      match c.next s.hart.mlen b t with
      | none => s.doneM
      | some (b', t') => .wait ((s.setProgress b' t').setFront { e with begun := true })

/-- BST and BCHAIN at the queue head: the checks that stand there (R199, R203, R205), then the step the progress names. -/
def State.headStage (s : State) (e : QEntry) (c : Chain) : HeadRes :=
  let blk := (s.vctx e).blk
  let st := c.stages s.hart.mat
  if decide (10 < blk) && st.any (fun r => r.wtype == 2) then s.queueTrap e 2 cILLEGAL 0 e.bits.toNat 0
  else if s.hart.mat.tiles < c.acd + c.g then s.queueTrap e 2 cNO_TILE 0 (max c.acd s.hart.mat.tiles) 0
  else if !st.all (fun r => r.ok c.n blk) then (s.orMstat mstatBadarg).doneM
  else
    match c.start s.hart.mlen s.hart.mat.block0 s.hart.mat.stage0 with
    | none => s.doneM
    | some (b, t) => s.step1 e c (Stage.ofWord (s.hart.mat.stride (c.f + t))) blk b t

/-- The chain of BST: one stage (R200). -/
def bstChain (o : DOp) : Chain :=
  { acd := o.acd.toNat, g := 2 ^ o.aux.toNat, f := (o.imm.extractLsb' 0 4).toNat, count := 1, isr := false }

/-- BST at the queue head (R198 to R203). -/
def headBst (o : DOp) (e : QEntry) (s : State) : HeadRes := s.headStage e (bstChain o)
/-- BST (R198 to R205). -/
def execBst (o : DOp) (s : State) : Result := s.issueM (.bst o) true (s.matIssue true [] 0) 0 0 (headBst o)

/-- The chain of BCHAIN (R200, R204). -/
def bchainChain (o : DOp) : Chain :=
  { acd := o.acd.toNat, g := 2 ^ o.aux.toNat, f := (o.imm.extractLsb' 0 4).toNat, count := (o.imm.extractLsb' 4 4).toNat + 1,
    isr := o.imm.getLsbD 8 }

/-- BCHAIN at the queue head (R198 to R203). -/
def headBchain (o : DOp) (e : QEntry) (s : State) : HeadRes := s.headStage e (bchainChain o)
/-- BCHAIN (R198 to R205). -/
def execBchain (o : DOp) (s : State) : Result := s.issueM (.bchain o) true (s.matIssue true [] 0) 0 0 (headBchain o)

/-- BSSET at the queue head (R206): the reserved bits are cleared. -/
def headBsset (o : DOp) (e : QEntry) (s : State) : HeadRes :=
  let n := (o.imm.extractLsb' 0 4).toNat
  (s.modMat fun a =>
    { a with bs := a.bs.set (n % 16) (e.xa &&& ~~~0xFFFFF800) (Nat.mod_lt _ (by decide)) }).doneM
/-- BSSET (R206). -/
def execBsset (o : DOp) (s : State) : Result := s.issueM (.bsset o) false none (s.readX o.xs) 0 (headBsset o)

/-- BSGET at the queue head (R206). -/
def headBsget (o : DOp) (_ : QEntry) (s : State) : HeadRes :=
  (s.writeX o.xs (s.hart.mat.stride (o.imm.extractLsb' 0 4).toNat)).doneM
/-- BSGET (R206). -/
def execBsget (o : DOp) (s : State) : Result := s.issueM (.bsget o) false none 0 0 (headBsget o)

end Sys2Proof.Machine
end

