-- ==== Sys2Proof/Machine/Streams.lean ====
section
/-! DEFINITION. Streams (R261 to R280): issue, the landing of elements, waiting, status and cancelling. -/

namespace Sys2Proof.Machine

/-! ### Shape records -/

/-- What reading a record ends in. -/
inductive RecRead where
  | ok (v : Nat) (s : State)
  | bad (cause : Nat)
  | wait

/-- Where the `n` bytes of a record lead, in address order. -/
def State.recordLocs (s : State) (va : Word) (n : Nat) : List Loc :=
  (List.range n).map fun i =>
    match s.locate (s.accessOf s.cur .read .scalar) (va + wordOf i) with
    | .place p l lost =>
      if lost then Loc.bad cREMOTE_LOST else if s.heldBy (agentNo s.cur .scalar) p.key 1 then .wait else .place p l false
    | r => r

/-- `n` bytes read as a scalar load reads them, without an alignment check (R71 items 1, 3 and 4; R265): what the translation of any of
them finds comes before POISON. -/
def State.readRecord (s : State) (va : Word) (n : Nat) : RecRead :=
  let locs := s.recordLocs va n
  if !canonical va then .bad cADDRESS
  else
    match locs.find? (fun l => match l with
      | .place _ _ _ => false
      | _ => true) with
    | some (.bad c) => .bad c
    | some _ => .wait
    | none =>
      if locs.any fun l => (match l with
          | .place p _ _ => s.mem.poisoned p.key 1
          | _ => false) then .bad cPOISON
      else
      .ok (locs.foldr (fun l a => (match l with
          | .place p lf _ => s.readAt lf p.key 1
          | _ => 0) + 256 * a) 0)
        (locs.foldl (fun t l => match l with
          | .place p lf _ => t.visit (dieKey t.cur) p .read lf
          | _ => t) s)

/-- SHAPE (R265). -/
def execShape (o : VOp) (s : State) : Result :=
  let va := s.readX o.vs1
  match s.readRecord va 64 with
  | .bad c => .next (s.trapAccess (instrBits (.shape o)) c va)
  | .wait => .next s
  | .ok v t => .next (t.finishV o.vd (wordOf (shapeCode va (BitVec.ofNat 512 v))))

/-! ### Issue (R267 to R271) -/

/-- The first byte of a range outside the issuing core's own slate (R267 check 4). -/
def State.outsideSlate (s : State) (va : Word) (n : Nat) : Option Word :=
  let v := va.toNat
  let alias_ := 0x7E0000000000 + pkgOf s.cur * 2 ^ 31 + coreOf s.cur * 2 ^ 21
  let from_ (lo : Nat) := if lo + Config.slateBytes < v + n then some (wordOf (lo + Config.slateBytes)) else none
  if 0x7F0000000000 ≤ v ∧ v < 0x7F0000000000 + Config.slateBytes then from_ 0x7F0000000000
  else if alias_ ≤ v ∧ v < alias_ + Config.slateBytes then from_ alias_
  else some va

/-- A trap of a stream's issue. -/
structure StreamTrap where
  cause : Nat
  va : Word
  info : Word
  deriving DecidableEq, Repr

/-- The slot a stream is issued with, its counts aside (R267). -/
def State.slotOf (s : State) (i : Instr) (o : VOp) (rec : BitVec 512) : Slot :=
  { Slot.idle with
    bits := instrBits i, dst := s.readX o.vd, src := s.readX o.vs1, shape := rec,
    org0 := s.readX (o.vs2 + 1), org1 := s.readX (o.vs2 + 2), vcfg := s.hart.ctl.vcfg, user := !s.hart.prv }

/-- The elements of a row of an STMTL under a VL (R271). -/
def Slot.rowCount (sl : Slot) (vl : Nat) : Nat :=
  let n := min vl (shapeTile sl.shape 0)
  if sl.org 0 + n > shapeSize sl.shape 0 then shapeSize sl.shape 0 - sl.org 0 else n

/-- The element count of a stream under a VL (R267, R271). -/
def Slot.elements (sl : Slot) (vl : Nat) : Nat :=
  if sl.op = .tile then sl.rows * sl.rowCount vl
  else if sl.shaped then min vl (shapeTiles sl.shape 0)
  else vl

/-- Checks 3 to 5 of R267, made while VL is not 0.  DESIGN CHOICE (log 67): the range of check 4 is empty where the innermost bound of
an STMTL leaves no element, which check 5 then finds. -/
def State.streamCheck (s : State) (sl : Slot) (n : Nat) : Option StreamTrap :=
  let w := sl.width
  if sl.dst.toNat % w ≠ 0 then some { cause := cMISALIGN_ISSUE, va := sl.dst, info := 0 }
  else if sl.src.toNat % w ≠ 0 then some { cause := cMISALIGN_ISSUE, va := sl.src, info := 0 }
  else
    let slate := if sl.op = .store then sl.src else sl.dst
    match (if sl.op = .copy ∨ n = 0 then none else s.outsideSlate slate (n * w)) with
    | some va => some { cause := cADDRESS, va := va, info := 0 }
    | none =>
      if sl.op = .tile ∧ sl.org 0 ≥ shapeSize sl.shape 0 then some { cause := cBOUNDS, va := 0, info := 0 } else none

/-- Whether an STMCP's destination range overlaps the span of its source (R269). -/
def Slot.overlaps (sl : Slot) : Bool :=
  let w := sl.width
  let src := (List.range sl.count).filterMap fun e => (sl.srcAddr e).map BitVec.toNat
  let lo := src.min?.getD 0
  let hi := src.max?.getD 0 + w
  sl.op = .copy && decide (sl.dst.toNat < hi) && decide (lo < sl.dst.toNat + sl.count * w)

/-- The stream starts in its slot: at once, with a hall pass to ask for, or in ERROR (R263, R269, R270). -/
def State.startStream (s : State) (j : Nat) (sl : Slot) : State :=
  let g := s.cur
  let s := s.clearSlot g j
  let size := sl.count * sl.width
  if sl.count = 0 then s.finishSlot g j (sl.enter .done 0 0)
  else if sl.overlaps && decide (2 ^ 20 < size) then s.finishSlot g j (sl.enter .error 2 0)
  else if 2 ^ 20 < size then
    let (t, ok) := s.askPass (dieKey g) { kind := .stream, g := g, slot := j, charge := streamCharge }
    let t := t.setSlot g j { sl.enter .active 0 0 with pass := ok, asked := !ok }
    if ok then t.pushOnce (landingEvent g j) else t
  else (s.setSlot g j (sl.enter .active 0 0)).pushOnce (landingEvent g j)

/-- A stream instruction once its record has been read: `sl` is its slot (R267, R271). -/
def State.streamGo (s : State) (j : Nat) (sl : Slot) : State :=
  let vl := s.hart.ctl.vl.toNat
  if vl = 0 then (s.startStream j sl).advanceV
  else
    let n := sl.elements vl
    match s.streamCheck sl n with
    | some t => s.trapIssue t.cause t.va t.info
    | none =>
      let sl := { sl with status := slotWord .active 0 0 n 0 }
      let s := if sl.op = .tile then
          { s with hart := { s.hart with ctl := { s.hart.ctl with vl := wordOf (sl.rowCount vl) }, gsetVl := false } }
        else s
      (s.startStream j sl).advanceV

/-- Whether an ACTIVE STMTL of the hart has yet to write a mask (R271). -/
def Hart.owesMask (h : Hart) (md : Nat) : Bool := md ≠ 0 && h.slots.toList.any fun sl => sl.pendingMask = md

/-- The issue of a stream: it waits for the trims queued before it, for its slot, and for a mask that another has yet to write; a mask
destination uses SEW (R99, R261, R267, R271). -/
def State.stream (s : State) (i : Instr) (o : VOp) : Result :=
  let sl0 := s.slotOf i o 0
  let md := if sl0.op = .tile then o.t.toNat else 0
  if !s.queueQuiet || (s.hart.slot o.m.toNat).state = .active || s.hart.owesMask md then .next s
  else
    match (if md = 0 then none else s.vecCheck [] false) with
    | some t => .next (s.trapBits t.cause i)
    | none =>
    if sl0.shaped then
      let va := s.readX o.vs2
      if va.toNat % 64 ≠ 0 then .next (s.trapIssue cMISALIGN_ISSUE va 0)
      else
        match s.readRecord va 64 with
        | .bad c => .next (s.trapAccess (instrBits i) c va)
        | .wait => .next s
        | .ok v t =>
          let rec_ := BitVec.ofNat 512 v
          if shapeCode va rec_ ≠ 0 then .next (t.trapIssue cBADSHAPE va (wordOf (shapeCode va rec_)))
          else .next (t.streamGo o.m.toNat { sl0 with shape := rec_ })
    else .next (s.streamGo o.m.toNat sl0)

/-- STMLD (R268). -/
def execStmld (o : VOp) (s : State) : Result := s.stream (.stmld o) o
/-- STMLD, shaped (R268). -/
def execStmldShaped (o : VOp) (s : State) : Result := s.stream (.stmldShaped o) o
/-- STMST (R268). -/
def execStmst (o : VOp) (s : State) : Result := s.stream (.stmst o) o
/-- STMST, shaped (R268). -/
def execStmstShaped (o : VOp) (s : State) : Result := s.stream (.stmstShaped o) o
/-- STMCP (R268, R269). -/
def execStmcp (o : VOp) (s : State) : Result := s.stream (.stmcp o) o
/-- STMCP, shaped (R268, R269). -/
def execStmcpShaped (o : VOp) (s : State) : Result := s.stream (.stmcpShaped o) o
/-- STMTL (R271). -/
def execStmtl (o : VOp) (s : State) : Result := s.stream (.stmtl o) o

/-! ### Landing (R272) -/

/-- What the access of an element ends in: landed, a fault with its address and the state it leaves, or a wait. -/
inductive Landed where
  | done (s : State)
  | fault (cause : Nat) (va : Word) (s : State)
  | wait (s : State)

/-- The checks of a stream's access: items 4 and 6 of R155, and the fabric (R272, R387). -/
def State.streamLoc (s : State) (g : Nat) (sl : Slot) (k : Kind) (va : Word) : ECheck :=
  if !canonical va then .bad cADDRESS va
  else
    match s.locate { s.accessOf g k .stream with user := sl.user } va with
    | .bad c => .bad c va
    | .wait => .wait
    | .place p l lost =>
      if s.heldBy (agentNo g .stream) p.key sl.width then .wait else if lost then .lost p l va else .ok p l

/-- The counter a stream's elements add to (R368). -/
def Slot.hot (sl : Slot) : Hot := if sl.shaped then .strided else .unit

/-- The transfer, the A and D bits and the count of one performed access of a stream (R364, R368, R378). -/
def State.streamed (s : State) (g : Nat) (sl : Slot) (k : Kind) (va : Word) (p : Place) (l : Option LeafAt) : State :=
  (s.visit (dieKey g) p k l).countHot (dieKey g) (field (s.getHart g).ctl.spaceNow 0 16) va l sl.hot

/-- A value lands at a place, poisoned where its source was (R272, R353). -/
def State.landAt (s : State) (g : Nat) (sl : Slot) (va : Word) (p : Place) (l : Option LeafAt) (v : Nat) (bad : Bool) : State :=
  let t := (s.streamed g sl .write va p l).settle p.key sl.width
  t.putUnder (t.leafKey l) p.key sl.width v bad

/-- The read of an element: its value, whether it is poisoned, and the state with its page counted. -/
inductive Fetch where
  | value (v : Nat) (bad : Bool) (s : State)
  | fault (cause : Nat) (va : Word)
  | wait

/-- The source of element e read (R268, R272): a row out of bounds gives zero; a guarded element waits, one of a FAULTED or RETRY stream
too (R274). -/
def State.streamRead (s : State) (g j : Nat) (sl : Slot) (e : Nat) : Fetch :=
  match sl.srcAddr e with
  | none => .value 0 false s
  | some va =>
    match s.streamLoc g sl .read va with
    | .bad c a => .fault c a
    | .lost _ _ a => .fault cREMOTE_LOST a
    | .ok p l =>
      (match s.guardBut (some (g, j)) p sl.width with
        | .free => .value (s.readAt l p.key sl.width) (s.mem.poisoned p.key sl.width) (s.streamed g sl .read va p l)
        | .wait => .wait
        | .faulted _ _ => .wait)
    | _ => .wait

/-- Element e read and landed (R268, R272): a landing on a page that has replicas waits until they are gone, so that what has landed
is placed (R389). -/
def State.landElem (s : State) (g j : Nat) (sl : Slot) (e : Nat) : Landed :=
  match s.streamRead g j sl e with
  | .fault c va => .fault c va s
  | .wait => .wait s
  | .value v bad t =>
    let va := sl.dstAddr e
    match t.streamLoc g sl .write va with
    | .ok p l => if t.pageHolds p.key then .wait (s.invalidateReplicas p.key) else .done (t.landAt g sl va p l v bad)
    | .bad c a => .fault c a s
    | .lost p l a =>
      .fault cREMOTE_LOST a
        (if Config.freePick s.free e && !t.pageHolds p.key then (t.landAt g sl va p l v bad).nextFree else s.nextFree)
    | _ => .wait s

/-- AVAIL of a set of landed elements (R262). -/
def availOf (landed n : Nat) : Nat := ((List.range n).takeWhile landed.testBit).length

/-- The mask of an STMTL written when its slot enters DONE (R271). -/
def State.tileMask (s : State) (g : Nat) (sl : Slot) : State :=
  let md := sl.fields.v.t.toNat
  if sl.op ≠ .tile ∨ md = 0 then s
  else
    let h := s.getHart g
    let l := if h.owner = g then h.lease else (s.getHart h.owner).lease
    let cap := vlmax (2 ^ field sl.vcfg 3 2) (field sl.vcfg 0 3) (regBytes (h.mode == .pipeline) l.lanes)
    let v := (List.range sl.rows).foldl (fun v r => maskPut v r (sl.rowIn r)) (h.masks[md % 8]'(Nat.mod_lt _ (by decide)))
    let v := if field sl.vcfg 5 1 = 1 then maskClear v sl.rows cap else v
    let h := { h with maskPois := h.maskPois.filter fun p => !(p.1 / 16384 = md && decide (64 * (p.1 % 16384) + 64 ≤ sl.rows)) }
    s.setHart g (h.setMask md v)

/-- The slot enters DONE (R263, R270, R271). -/
def State.streamDone (s : State) (g j : Nat) : State :=
  let sl := (s.getHart g).slot j
  let s := (s.dropPass g j sl).tileMask g sl
  s.finishSlot g j { sl with status := slotWord .done 0 0 sl.count sl.count, pass := false, asked := false }

/-- The slot enters FAULTED at element k (R272). -/
def State.streamFault (s : State) (g j k cause : Nat) (va : Word) : State :=
  let sl := (s.getHart g).slot j
  s.finishSlot g j { sl with status := slotWord .faulted 0 cause sl.count k, recAddr := va }

/-- Element e of a slot has landed: AVAIL and the slot's state follow (R262, R263). -/
def State.streamLanded (s : State) (g j e : Nat) : State :=
  let sl := (s.getHart g).slot j
  let landed := sl.landed ||| 2 ^ e
  let a := availOf landed sl.count
  let sl' := { sl with landed := landed, status := slotWord .active 0 0 sl.count a }
  let s := s.setSlot g j sl'
  if a = sl.count then s.streamDone g j else s.pushOnce (landingEvent g j)

/-- Whether two elements of a stream access one address (R272). -/
def Slot.meets (sl : Slot) (e f : Nat) : Bool :=
  let a := some (sl.dstAddr e)
  let b := some (sl.dstAddr f)
  a == b || a == sl.srcAddr f || sl.srcAddr e == b || ((sl.srcAddr e).isSome && sl.srcAddr e == sl.srcAddr f)

/-- The element the engine turns to: the lowest not landed, or under the free schedule any that shares no address with a lower one
(R272, log 4). -/
def State.nextElem (s : State) (sl : Slot) : Nat :=
  if s.eager then sl.avail
  else
    let l := (List.range sl.count).filter fun e => !sl.landed.testBit e
    let l := l.filter fun e => !l.any fun f => decide (f < e) && sl.meets e f
    l.getD (Config.freeChoice s.free l.length % l.length) 0

/-- One element of an overlapping STMCP that can be written: its number, its place with its leaf, its value and its poison. -/
structure Staged where
  elem : Nat
  place : Place
  leaf : Option LeafAt
  val : Nat
  bad : Bool

/-- The staged elements of an overlapping STMCP written (R269). -/
def State.landAll (s : State) (g : Nat) (sl : Slot) : List Staged → State
  | [] => s
  | r :: t => State.landAll (s.landAt g sl (sl.dstAddr r.elem) r.place r.leaf r.val r.bad) g sl t

/-- An overlapping STMCP: every element checked and read, then every one written, once no page of theirs has replicas (R269, R389). -/
def State.landOverlap (s : State) (g j : Nat) (sl : Slot) : State :=
  let es := List.range sl.count
  let reads := es.map fun e => s.streamRead g j sl e
  let dsts := es.map fun e => s.streamLoc g sl .write (sl.dstAddr e)
  if (reads.any fun r => match r with
      | .wait => true
      | _ => false) || dsts.any ECheck.waits then s.pushOnce (landingEvent g j)
  else
    match es.findSome? fun e => match s.streamRead g j sl e, s.streamLoc g sl .write (sl.dstAddr e) with
        | .fault c va, _ => some (c, va)
        | _, .bad c va => some (c, va)
        | _, .lost _ _ va => some (cREMOTE_LOST, va)
        | _, _ => none with
    | some (c, va) => s.streamFault g j 0 c va
    | none =>
      let all : List Staged := es.filterMap fun e => match s.streamRead g j sl e, s.streamLoc g sl .write (sl.dstAddr e) with
        | .value v bad _, .ok p l => some { elem := e, place := p, leaf := l, val := v, bad := bad }
        | _, _ => none
      match all.find? fun r => s.pageHolds r.place.key with
      | some r => (s.invalidateReplicas r.place.key).pushOnce (landingEvent g j)
      | none =>
      let t := es.foldl (fun t e => match s.streamRead g j sl e, sl.srcAddr e with
        | .value _ _ _, some va =>
          (match s.streamLoc g sl .read va with
            | .ok p l => t.streamed g sl .read va p l
            | _ => t)
        | _, _ => t) s
      (t.landAll g sl all).streamDone g j

/-- STREAM_ELEMENT_LANDING: the copy engine turns to the slot `arg.aux` of the hart `arg.idx` (R272). -/
def execStreamElementLanding (s : State) : Result :=
  let g := s.arg.idx
  let j := s.arg.aux
  let sl := (s.getHart g).slot j
  if sl.state ≠ .active ∨ sl.asked then .next s
  else if sl.overlaps then .next (s.landOverlap g j sl)
  else
    let e := s.nextElem sl
    match s.nextFree.landElem g j sl e with
    | .done t => .next (t.streamLanded g j e)
    | .wait t => .next (t.pushOnce (landingEvent g j))
    | .fault c va t => .next (if e = sl.avail then t.streamFault g j e c va else t.pushOnce (landingEvent g j))

/-! ### Waiting, status, cancelling (R276 to R278) -/

/-- The vector loads that meet guarded elements (R274). -/
def isGuardedLoad : Instr → Bool
  | .vld _ | .vlds _ | .vldav _ | .vldg _ | .vldx _ | .vldxu _ | .vldxf _ | .vldxc _ => true
  | _ => false

/-- A load stands at the head of the hart's queue, ahead of the instruction at the pc in program order, and may take the fault
of a stream that this instruction would take (R274, R337). -/
def Hart.loadAhead (h : Hart) : Bool :=
  !h.frozen && (match h.queue with
    | e :: _ => isGuardedLoad e.instr
    | [] => false)

/-- STMWAIT (R276, R279): a FAULTED stream's fault is taken here, and the slot enters RETRY; a load ahead of it in the queue goes
first, and so does a MATT under way (R194, R337). -/
def execStmwait (o : VOp) (s : State) : Result :=
  let j := o.m.toNat
  let sl := s.hart.slot j
  match sl.state with
  | .active => s.stall false
  | .faulted =>
    let t := s.setSlot s.cur j (sl.enter .retry 0 sl.cause)
    .next (if s.hart.loadAhead || s.hart.mat.asked then s else t.takeTrap { cause := sl.cause, src := 3, slot := j, fb := s.hart.pc, va := sl.recAddr, info := wordOf sl.avail } s.hart.pc)
  | _ => .next (s.finishV o.vd sl.status)

/-- STMSTAT (R277). -/
def execStmstat (o : VOp) (s : State) : Result := .next (s.finishV o.vd (s.hart.slot o.m.toNat).status)

/-- STMCANCEL (R278): no access of a stream is under way between two steps, and what has landed is placed. -/
def execStmcancel (o : VOp) (s : State) : Result :=
  let sl := s.hart.slot o.m.toNat
  .next ((s.clearSlot s.cur o.m.toNat).finishV o.vd (slotWord .cancelled 0 0 sl.count sl.avail))

end Sys2Proof.Machine
end

