-- ==== Sys2Proof/Machine/Exchange.lean ====
section
/-! DEFINITION. The instructions of the sorted exchange (R298 to R307) and the events of a round's transport (R286, R288, R294,
R308, R394). -/

namespace Sys2Proof.Machine

/-! ### The order of the scalar side behind the queue (R298) -/

/-- An exchange instruction that executes in the vector queue (R298). -/
def QEntry.exchange (e : QEntry) : Bool :=
  match e.instr with
  | .rsend _ | .rrun _ | .rend | .xclose _ | .rrecv _ => true
  | _ => false

/-- Every exchange instruction queued before has completed, or the queue stands frozen (R298). -/
def State.exchangeQuiet (s : State) : Bool := s.hart.frozen || !s.hart.queue.any QEntry.exchange

/-- The current hart with its party changed. -/
def State.setParty (s : State) (p : Party) : State := { s with hart := { s.hart with xch := p } }

/-- An instruction that reaches an XID's hub over the fabric (R394); with no route to it the rules give no code, and the
instruction has no other effect. -/
def State.viaHub (s : State) (xid : Nat) (d : Reg) (go : Result) : Result :=
  if s.reachesHub s.cur (s.xidHub xid) then go else .next (s.nextFree.finishV d (Config.freeWord s.free))

/-! ### XOPEN (R299) -/

/-- The code of the first check among 1, 2, 6, 3 and 4 that fails, or 0 (R299). -/
def State.xopenCode (s : State) (v : Nat) (role : Word) : Nat :=
  let known := (s.xid (hdrXid v)).round
  if !roundRecordOk v role then 1
  else if s.hart.xch.bound then 2
  else if (known.map Round.full).getD false then 6
  else if (roleSend role && (decide (hdrNs v ≤ roleRank role) || (known.bind (·.sender (roleRank role))).isSome))
      || (roleRecv role && (decide (hdrKm1 v < roleRidx role) || (known.bind (·.receiver (roleRidx role))).isSome)) then 3
  else
    match known with
    | some r => if r.header = low 128 v then 0 else 4
    | none => 0

/-- A round as its first joiner finds it (R286). -/
def Round.new (v : Nat) : Round :=
  { header := low 128 v, table := none, badsplit := false, capacity := 0, t0 := 0, period := 0, senders := [],
    receivers := [], flights := [], order := false, closed := false, serial := 0, failed := false, residual := [], links := [] }

/-- The sender a joiner becomes (R293). -/
def State.newSender (s : State) (v : Nat) (role : Word) : Sender :=
  { rank := roleRank role, g := s.cur, space := field s.hart.ctl.spaceNow 0 16, ptbase := s.hart.ctl.ptbaseNow
    user := !s.hart.prv, base := wordOf (bitsOf v 192 64), size := bitsOf v 256 64, used := 0, closed := false, failed := false }

/-- The receiver a joiner becomes. -/
def State.newReceiver (s : State) (v : Nat) (role : Word) : Receiver :=
  { ridx := roleRidx role, g := s.cur, quota := bitsOf v 128 64, staged := [], batches := [], markers := 0, final := false
    armedAt := 0, lastClose := none, counted := 0, samples := [], gone := false, failed := false }

/-- The status word of a joiner, its flags clear but for what the round already says of every party (R299, R306). -/
def joinStatus (v : Nat) (role : Word) (r : Round) : Word :=
  wordOf (hdrXid v * 2 ^ 52 + (if roleSend role then roleRank role * 2 ^ 36 else 0)
      + (if roleRecv role then roleRidx role * 2 ^ 24 else 0)
      + (if r.table.isSome then 2 else 1) * 2 ^ 17 + bit (roleSend role) * 2 ^ 16 + bit (roleRecv role) * 2 ^ 15)
    ||| (if r.badsplit then xBADSPLIT else 0) ||| (if r.order then xORDER else 0)

/-- The current hart joins a round (R286, R299). -/
def State.join (s : State) (v : Nat) (role : Word) (pass : Bool) : State :=
  let xid := hdrXid v
  let x := s.xid xid
  let r := x.round.getD { Round.new v with serial := x.count + 1 }
  let r' := { r with
    senders := if roleSend role then r.senders ++ [s.newSender v role] else r.senders
    receivers := if roleRecv role then r.receivers ++ [s.newReceiver v role] else r.receivers }
  let s := (s.setXid xid { x with count := r.serial, round := some r' }).setParty
    { Party.none with status := joinStatus v role r, pass := pass, receivers := hdrKm1 v + 1, serial := r.serial }
  let s := { s with hart := { s.hart with asked := false, reply := none } }
  let s := if r.table.isNone && decide (r'.receivers.length = hdrKm1 v + 1) then s.armRound xid else s
  if r.failed then s.failRound xid else s

/-- XOPEN ends with a code: a request for a hall pass is withdrawn, or its pass returned (R299, R404). -/
def State.xopenFail (s : State) (d : Reg) (code : Nat) : State :=
  let g := s.cur
  let t := if !s.hart.asked then s
    else if s.hart.reply == some true then s.returnPass (dieKey g) exchangeCharge
    else s.withdraw (dieKey g) fun r => r.kind == .exchange && r.g == g
  let h := t.hart
  let t := { t with hart := { h with asked := false, reply := none, xch := { h.xch with pass := h.xch.pass && h.xch.bound } } }
  t.finishV d (wordOf code)

/-- XOPEN with its record read (R299): COMB other than NONE needs a hall pass. -/
def State.xopenGo (s : State) (d : Reg) (v : Nat) (role : Word) : Result :=
  let c := s.xopenCode v role
  if c = 1 ∨ c = 2 then .next (s.xopenFail d c)
  else
    s.viaHub (hdrXid v) d
      (if c ≠ 0 then .next (s.xopenFail d c)
       else if hdrComb v = 0 then .next ((s.join v role false).finishV d 0)
       else if s.hart.asked then
         (match s.hart.reply with
           | some true => .next ((s.join v role true).finishV d 0)
           | some false => .next (s.xopenFail d 5)
           | none => .next s)
       else
         let (t, ok) := s.askPass (dieKey s.cur) { kind := .exchange, g := s.cur, slot := 0, charge := exchangeCharge }
         .next (if ok then (t.join v role true).finishV d 0
           else { t with hart := { t.hart with asked := true, reply := none } }))

/-- XOPEN (R299). -/
def execXopen (o : VOp) (s : State) : Result :=
  let va := s.readX o.vs1
  if !s.exchangeQuiet then .next s
  else if va.toNat % 64 ≠ 0 then .next (s.xopenFail o.vd 1)
  else
    match s.readRecord va 64 with
    | .bad c => .next (s.trapAccess (instrBits (.xopen o)) c va)
    | .wait => .next s
    | .ok v t => t.xopenGo o.vd v (s.readX o.vs2)

/-! ### Settings (R297, R300) -/

/-- Whether a party is the coordinator of its XID: receiver 0 of the round in which it is bound, or which it has just
ended (R297). -/
def Party.coordinator (p : Party) : Bool := decide (1 ≤ p.rstate) && p.recv && p.ridx == 0

/-- A change of settings by the coordinator, others get code 7 (R300). -/
def State.settings (s : State) (d : Reg) (go : XidRec → Result) : Result :=
  if !s.exchangeQuiet then .next s
  else if !s.hart.xch.coordinator then .next (s.finishV d 7)
  else s.viaHub s.hart.xch.xid d (go (s.xid s.hart.xch.xid))

/-- A change of settings made, with code 0. -/
def State.setSettings (s : State) (d : Reg) (x : XidRec) : Result := .next ((s.setXid s.hart.xch.xid x).finishV d 0)

/-- The K − 1 keys at an address become the table (R300). -/
def State.splitFrom (s : State) (i : Instr) (d : Reg) (va : Word) (x : XidRec) : Result :=
  let n := s.hart.xch.receivers - 1
  if va.toNat % 4 ≠ 0 then .next (s.finishV d 8)
  else if n = 0 then s.setSettings d { x with table := some [] }
  else
    match s.readRecord va (4 * n) with
    | .bad c => .next (s.trapAccess (instrBits i) c va)
    | .wait => .next s
    | .ok v t => t.setSettings d { x with table := some ((List.range n).map fun i => bitsOf v (32 * i) 32) }

/-- XSPLIT (R300). -/
def execXsplit (o : VOp) (s : State) : Result := s.settings o.vd (s.splitFrom (.xsplit o) o.vd (s.readX o.vs1))

/-- XCAP (R300). -/
def execXcap (o : VOp) (s : State) : Result :=
  let c := (s.readX o.vs1).toNat
  s.settings o.vd fun x => if 65535 < c then .next (s.finishV o.vd 8) else s.setSettings o.vd { x with capacity := c }

/-- XDEADL (R300). -/
def execXdeadl (o : VOp) (s : State) : Result :=
  s.settings o.vd fun x => s.setSettings o.vd { x with t0 := (s.readX o.vs1).toNat, period := (s.readX o.vs2).toNat }

/-- XREBAL (R300). -/
def execXrebal (o : VOp) (s : State) : Result :=
  s.settings o.vd fun x =>
    if s.readX o.vs1 ≠ 0 then s.splitFrom (.xrebal o) o.vd (s.readX o.vs1) x
    else
      match x.proposal with
      | some t => s.setSettings o.vd { x with table := some t }
      | none => .next (s.finishV o.vd 8)

/-! ### Sending (R301, R302) -/

/-- Whether a party may send: bound as a sender and not closed. -/
def Party.sending (p : Party) : Bool := p.bound && p.send && !p.closed

/-- VSTAT.BADARG, unless the party's round has failed (R301, R302, R308). -/
def State.badSender (s : State) : State := if s.hart.xch.failed then s else s.orVstat vstatBadarg

/-- The records of one RSEND or RRUN, and the party behind them (R283, R284, R301): each key with its payload. -/
def emitAll (len : Nat) (time : Word) : Party → List (Nat × Nat) → List Rec × Party
  | p, [] => ([], p)
  | p, (key, data) :: t =>
    let cut := match p.lastKey with
      | some k => decide (key < k)
      | none => false
    let r : Rec :=
      { key := key, rank := p.rank, seq := p.emitted, len := len, data := data, cont := false, late := false, badord := cut
        ovf := false, time := time }
    let q := emitAll len time { p with emitted := p.emitted + 1, lastKey := some key } t
    (r :: q.1, q.2)

/-- Records emitted by the current hart; a cut run sets ORDER at every party (R284, R301). -/
def State.emit (s : State) (len : Nat) (sorted : Bool) (l : List (Nat × Nat)) : State :=
  let p := s.hart.xch
  let (rs, p') := emitAll len (s.timeNs (pkgOf s.cur)) (if sorted then { p with lastKey := none } else p) l
  let s := s.setParty (if sorted then { p' with lastKey := none } else p')
  let s := if rs.any Rec.badord then
      (match (s.xid p.xid).round with
        | some r => (s.setRound p.xid { r with order := true }).modParties (·.inRound p.xid) (·.flag xORDER)
        | none => s)
    else s
  s.sendFlights p.xid (rs.map fun r => { ridx := none, hops := 0, marker := false, record := r })

/-- RSEND and RRUN at the queue head (R301). -/
def State.headSend (s : State) (o : VOp) (e : QEntry) (sorted : Bool) : HeadRes :=
  s.withRingsAll e [o.vd, o.vs1] [] fun e s =>
    let x := s.vctx e
    let w := intBytes o.t
    let m := e.xa.toNat
    if !s.hart.xch.sending then s.badSender.doneV
    else if m * w > 512 ∨ x.vl * m > x.capacity w then (s.orVstat vstatBadarg).doneV
    else
      let act := s.active x.vl o.m.toNat
      let elems (i : Nat) : List Nat := (List.range m).map (i * m + ·)
      s.whole e (minIdx (s.poisonedAt x o.vs1.toNat 4 act) (s.poisonedAt x o.vd.toNat w (act.flatMap elems))) fun s =>
        let key (i : Nat) : Nat := velem s.vmem x.reg o.vs1.toNat 4 i
        let data (i : Nat) : Nat := (elems i).foldr (fun j a => velem s.vmem x.reg o.vd.toNat w j + 2 ^ (8 * w) * a) 0
        let idx := if sorted then sortIdx (fun i => (key i : Int)) act else act
        (s.emit (m * w) sorted (idx.map fun i => (key i, data i))).doneV

/-- RSEND at the queue head (R301). -/
def headRsend (o : VOp) (e : QEntry) (s : State) : HeadRes := s.headSend o e false
/-- RSEND (R301). -/
def execRsend (o : VOp) (s : State) : Result :=
  s.issue (.rsend o) 4 (s.vecCheck [(o.vd, 8 * intBytes o.t), (o.vs1, 32)] false) (s.readX o.vs2) 0 (headRsend o)

/-- RRUN at the queue head (R301). -/
def headRrun (o : VOp) (e : QEntry) (s : State) : HeadRes := s.headSend o e true
/-- RRUN (R301). -/
def execRrun (o : VOp) (s : State) : Result :=
  s.issue (.rrun o) 4 (s.vecCheck [(o.vd, 8 * intBytes o.t), (o.vs1, 32)] false) (s.readX o.vs2) 0 (headRrun o)

/-- REND at the queue head (R302). -/
def headRend (_ : QEntry) (s : State) : HeadRes :=
  if s.hart.xch.sending then (s.setParty { s.hart.xch with lastKey := none }).doneV else s.badSender.doneV
/-- REND (R302). -/
def execRend (s : State) : Result := s.issue .rend 4 none 0 0 headRend

/-- XCLOSE at the queue head (R302). -/
def headXclose (o : VOp) (_ : QEntry) (s : State) : HeadRes :=
  let p := s.hart.xch
  if p.sending then
    let t := (s.setParty { p.flag 0x4000 with lastKey := none }).closeSender p.xid p.rank
    (t.writeX o.vd (wordOf p.emitted)).doneV
  else ((s.orVstat vstatBadarg).writeX o.vd 0).doneV
/-- XCLOSE (R302). -/
def execXclose (o : VOp) (s : State) : Result := s.issue (.xclose o) 4 none 0 0 (headXclose o)

/-! ### Receiving (R286, R303) -/

/-- A party with EOB set or cleared. -/
def Party.eob (p : Party) (b : Bool) : Party := { p with status := if b then p.status ||| xEOB else p.status &&& ~~~xEOB }

/-- The drained batch is left (R286): the receiver is READY, OPEN or at END, and its round may be over. -/
def State.nextBatch (s : State) (r : Round) (j : Receiver) : State :=
  let p := s.hart.xch
  let rest := j.batches.tail
  let s := (s.setRound p.xid (r.setReceiver { j with batches := rest })).setParty { p.eob true with batch := p.batch + 1 }
  if rest.isEmpty && j.final then (s.endParties (·.isReceiver p.xid p.ridx) id).freeXid p.xid
  else s.setParty (s.hart.xch.enter (if rest.isEmpty then 2 else 3))

/-- Records written to the header and payload groups, from element `i` (R303); the second value says whether a payload was
cut. -/
def State.receiveAll (s : State) (o : VOp) (x : VCtx) (w m : Nat) : Nat → List Rec → Memory → Memory
  | _, [], mem => mem
  | i, r :: t, mem =>
    let mem := vset mem x.reg (x.dreg o.vs1) 8 i r.header
    let mem := (List.range m).foldl (fun mem k =>
      vset mem x.reg (x.dreg o.vd) w (i * m + k) (bitsOf (low (8 * r.len) r.data) (8 * w * k) (8 * w))) mem
    s.receiveAll o x w m (i + 1) t mem

/-- RRECV of the records left in the current batch (R303). -/
def State.receive (s : State) (o : VOp) (e : QEntry) (x : VCtx) (r : Round) (j : Receiver) (b : List Rec) : State :=
  let w := intBytes o.t
  let m := e.xa.toNat
  let n := min (min x.vl b.length) (if m = 0 then b.length else x.capacity w / m)
  let got := b.take n
  let s := (s.setRound s.hart.xch.xid (r.setReceiver { j with batches := b.drop n :: j.batches.tail })).setParty (s.hart.xch.eob false)
  let s := if got.any fun q => decide (m * w < q.len) then s.orVstat vstatBadarg else s
  let mem := s.receiveAll o x w m 0 got s.vmem
  let x' := { x with vl := n }
  let mem := x'.tailZero mem (x.dreg o.vs1) 8 n
  (s.setVmem (x'.tailZero mem (x.dreg o.vd) w (n * m))).trim n

/-- RRECV at the queue head (R303). -/
def headRrecv (o : VOp) (e : QEntry) (s : State) : HeadRes :=
  s.withRingsAll e [] [o.vd, o.vs1] fun e s =>
    let x := s.vctx e
    let p := s.hart.xch
    if p.recv && p.failed then (if x.vl = 0 then s else s.trim 0).doneV
    else if !(p.bound && p.recv) then ((s.orVstat vstatBadarg).trim 0).doneV
    else if x.vl = 0 then s.doneV
    else
      match (s.xid p.xid).round with
      | none => (s.trim 0).doneV
      | some r =>
        match r.receiver p.ridx with
        | none => (s.trim 0).doneV
        | some j =>
          match p.rstate, j.batches with
          | 3, [] :: _ => ((s.nextBatch r j).trim 0).doneV
          | 3, b :: _ => (s.receive o e x r j b).doneV
          | _, _ => (s.trim 0).doneV
/-- RRECV (R303). -/
def execRrecv (o : VOp) (s : State) : Result :=
  s.issue (.rrecv o) 4 (s.vecCheck [(o.vd, 8 * intBytes o.t), (o.vs1, 64)] false) (s.readX o.vs2) 0 (headRrecv o)

/-! ### Waiting and status (R304, R305) -/

/-- XWAIT (R304). -/
def execXwait (o : VOp) (s : State) : Result :=
  let c := s.readX o.vs1
  let p := s.hart.xch
  if !s.exchangeQuiet then .next s
  else if 1 < c.toNat then .next ((s.orVstat vstatBadarg).finishV o.vd p.status)
  else if !p.bound || (c = 0 && p.rstate = 3) then .next (s.finishV o.vd p.status)
  else s.stall true

/-- The value of a selector of XSTAT; nothing for an invalid one (R305). -/
def State.xstatValue (s : State) (n : Nat) : Option Word :=
  let p := s.hart.xch
  if n = 0 then some p.status
  else if p.rstate = 0 then none
  else if n = 1 then some (wordOf p.emitted)
  else if n = 2 then some (wordOf p.written)
  else if 0x1000 ≤ n then (((s.xid p.xid).proposal).bind fun t => t[n - 0x1000]?).map wordOf
  else if !p.recv then none
  else if n = 3 then some (wordOf p.batch)
  else if n = 4 then some (wordOf p.counted)
  else if n = 5 then some (wordOf p.samples.length)
  else if 0x100 ≤ n then (p.samples[n - 0x100]?).map wordOf
  else none

/-- XSTAT (R305). -/
def execXstat (o : VOp) (s : State) : Result :=
  let n := (s.readX o.vs1).toNat
  if !s.exchangeQuiet then .next s
  else
    match s.xstatValue n with
    | some v => .next (s.finishV o.vd v)
    | none => .next ((s.orVstat vstatBadarg).finishV o.vd (-1))

/-! ### The events of a round (R286, R288, R294, R308) -/

/-- The positions of the flights that may move, none overtaking an earlier one from its sender to its receiver (R288). -/
def movable (t : Flight → Bool) : Nat → List (Nat × Option Nat) → List Flight → List Nat
  | _, _, [] => []
  | i, seen, f :: l =>
    let lane := (f.record.rank, f.ridx)
    if seen.contains lane then movable t (i + 1) seen l
    else (if t f then [i] else []) ++ movable t (i + 1) (lane :: seen) l

/-- The flight that moves next, its position with it: the first that may, or any under the free schedule (log 4). -/
def State.pickFlight (s : State) (r : Round) (t : Flight → Bool) : Option (Nat × Flight) :=
  let ps := movable (fun f => f.ridx.isSome && t f) 0 [] r.flights
  let i := if s.eager then ps.headD 0 else ps.getD (Config.freeChoice s.free ps.length % ps.length) 0
  if ps.isEmpty then none else (r.flights[i]?).map fun f => (i, f)

/-- One flight of an armed round moves. -/
def State.moveFlight (s : State) (xid : Nat) (t : Flight → Bool) (go : State → Round → Nat → Flight → State) : State :=
  match (s.xid xid).round with
  | none => s
  | some r =>
    if r.table.isNone then s
    else
      match s.pickFlight r t with
      | none => s
      | some (i, f) => (go s.nextFree r i f).pokeRound xid

/-- RECORD_MERGE: a record or a marker of the round `arg.idx` passes a merge point (R288, R289). -/
def execRecordMerge (s : State) : Result :=
  let xid := s.arg.idx
  .next (s.moveFlight xid (fun f => decide (0 < f.hops)) fun s r i f =>
    s.setRound xid { r with flights := r.flights.set i { f with hops := f.hops - 1 } })

/-- RECORD_ARRIVAL: a record of the round `arg.idx` reaches its receiver's port (R294, R309), or, where `arg.aux` is 1, returned
records reach their senders' ports, which write them (R293). -/
def execRecordArrival (s : State) : Result :=
  let xid := s.arg.idx
  if s.arg.aux = 1 then .next (((s.writeResiduals xid).closeRound xid).freeXid xid)
  else .next (s.moveFlight xid (fun f => f.hops == 0 && !f.marker) fun s r i f =>
    (s.setRound xid { r with flights := r.flights.eraseIdx i }).arriveRecord xid (f.ridx.getD 0) f.record)

/-- CLOSE_MARKER_ARRIVAL: a close marker of the round `arg.idx` reaches a receiver (R294, R302). -/
def execCloseMarkerArrival (s : State) : Result :=
  let xid := s.arg.idx
  .next (s.moveFlight xid (fun f => f.hops == 0 && f.marker) fun s r i f =>
    (s.setRound xid { r with flights := r.flights.eraseIdx i }).arriveMarker xid (f.ridx.getD 0))

/-- BATCH_DEADLINE: the closes that are due at receiver `arg.aux` of the round `arg.idx` take place; the event stays while
instants are to come (R294). -/
def execBatchDeadline (s : State) : Result :=
  let xid := s.arg.idx
  let t := s.settleDeadline xid s.arg.aux
  .next (match ((t.xid xid).round).bind (·.receiver s.arg.aux), (t.xid xid).round with
    | some j, some r =>
      if !j.final && (nextInstant r.t0 r.period (j.lastClose.getD j.armedAt).toNat).isSome then
        t.pushOnce (xidEvent .batchDeadline xid s.arg.aux)
      else t
    | _, _ => t)

/-- ROUND_FAILURE_NOTICE: it reaches the party `arg.aux` of round `arg.val` of the XID `arg.idx` (R308, R394). -/
def execRoundFailureNotice (s : State) : Result := .next (s.failParty s.arg.idx s.arg.val.toNat s.arg.aux)

end Sys2Proof.Machine
end

