-- ==== Sys2Proof/Machine/Gather.lean ====
section
/-! DEFINITION. The cohort's load VLDG (R246 to R248) and the chunk gather VLDXC (R281, R282). -/

namespace Sys2Proof.Machine

/-- A hart's own move made while another hart has the turn. -/
def State.onHart (s : State) (g : Nat) (f : State → State) : State := (f (s.switch g)).switch s.cur

/-! ### VLDG -/

/-- The operands of the VLDG at the head of a hart's queue, with its entry (R246). -/
def Hart.vldgHead (h : Hart) : Option (VOp × QEntry) :=
  match h.queue with
  | e :: _ =>
    (match e.instr with
      | .vldg o => if h.frozen then none else some (o, e)
      | _ => none)
  | [] => none

/-- Whether a live member has reached the n-th multicast, or is past it (R246). -/
def Hart.vldgReady (h : Hart) (n : Nat) : Bool := decide (n < h.vldgs) || (h.vldgs = n && h.vldgHead.isSome)

/-- A member of a multicast: its hart, its operands and its entry. -/
structure Member where
  g : Nat
  o : VOp
  e : QEntry
  deriving DecidableEq, Repr

/-- The members of the n-th multicast (R246). -/
def State.multicast (s : State) (n : Nat) : List Member :=
  s.copies.filterMap fun g =>
    let h := s.getHart g
    match h.vldgHead with
    | some (o, e) => if h.vldgs = n then some { g := g, o := o, e := e } else none
    | none => none

/-- The lowest-ranked member (R246). -/
def State.leader (s : State) (m : Member) : List Member → Member
  | [] => m
  | a :: t => s.leader (if (s.getHart a.g).task.rank < (s.getHart m.g).task.rank then a else m) t

/-- A VLDG of the current hart done: it is counted (R246). -/
def State.vldgDone (s : State) : State :=
  { s with hart := { s.hart with vldgs := s.hart.vldgs + 1, ctl := { s.hart.ctl with estart := 0 } } }

/-- What a multicast meets: nothing, a fault at element k above 0, or one at element 0 (R247). -/
inductive Fate where
  | clear
  | trim (k : Nat)
  | trap (c : ECheck)

/-- Whether a member shares the fetch of a leader (R247). -/
def Member.shares (lead m : Member) : Bool := m.e.xa == lead.e.xa && intBytes m.o.t == intBytes lead.o.t

/-- Whether an element's mask bit of a member stands in a poisoned word (R352). -/
def State.memberBad (s : State) (m : Member) (i : Nat) : Bool := decide (i < m.e.vl) && (s.getHart m.g).maskWordBad m.o.m.toNat i

/-- The elements of a fetch: those active in some sharing member, or whose mask bit there stands in a poisoned word (R246, R354). -/
def State.fetched (s : State) (ss : List Member) : List Nat :=
  activeFrom (fun i => ss.any fun m => (decide (i < m.e.vl) && (s.getHart m.g).maskBit m.o.m.toNat i) || s.memberBad m i) 0
    ((ss.map fun m => m.e.vl).max?.getD 0)

/-- The accesses of a fetch: an element whose mask bit stands in a poisoned word of a sharing member consumes that (R354). -/
def State.overMembers (s : State) (ss : List Member) (a : VAcc) : VAcc :=
  { a with check := fun i => if ss.any fun m => s.memberBad m i then .bad cPOISON 0 else a.check i }

/-- Whether an element waits for an earlier write of a sharing member, as its own VLD would (R248). -/
def State.memberWaits (s : State) (ss : List Member) (a : VAcc) (i : Nat) : Bool :=
  match a.check i with
  | .ok p _ => ss.any fun m =>
      decide (i < m.e.vl) && (s.getHart m.g).maskBit m.o.m.toNat i && s.heldBy (agentNo m.g .vector) p.key a.wb
  | _ => false

/-- The fetch comes behind what each member's earlier FENCE.VV orders (R83, R248): nothing where it waits. -/
def State.behindFences (s : State) : List Member → Option State
  | [] => some s
  | m :: t =>
    match m.e.fenced with
    | some level => (s.order [agentNo m.g .vector] level).bind fun u => u.behindFences t
    | none => s.behindFences t

/-- The fate of a fetch, or a wait (R246 to R248). -/
def State.fate (s : State) (ss : List Member) (a : VAcc) (idx : List Nat) : Option Fate :=
  let c (i : Nat) : ECheck := if s.memberWaits ss a i then .wait else a.check i
  match firstBad c idx with
  | none => some .clear
  | some (k, r) => if r.waits || r.held then none else some (if k = 0 then .trap r else .trim k)

/-- What a fetch gives a sharing member, whose turn it is: its own elements of the values read once (R246, R247). -/
def State.share (s : State) (m : Member) (a : VAcc) : Fate → State
  | .clear => (s.fofFill m.o m.e a).vldgDone
  | .trim k => (s.trimFill m.o m.e a k).vldgDone
  | .trap c =>
    match s.elemTrap m.e c 0 0 with
    | .trap t ti => t.takeTrap ti t.hart.pc
    | _ => s

/-- What a multicast does to a member other than its leader: it shares, or is left to run by itself with BADARG (R247). -/
def State.reachMember (s : State) (lead m : Member) (a : VAcc) (f : Fate) : State :=
  s.onHart m.g fun t =>
    if lead.shares m then
      (match f with
        | .trap _ => t.share m a f
        | _ => (t.share m a f).popFront)
    else (t.orVstat vstatBadarg).setFront { m.e with solo := true }

/-- The multicast by its leader, whose turn it is: every element read once, for every sharing member (R246 to R248). -/
def State.multicastGo (s : State) (lead : Member) (ms : List Member) (a : VAcc) : HeadRes :=
  let ss := ms.filter lead.shares
  match s.behindFences ss with
  | none => .wait s
  | some s =>
  let a := s.overMembers ss a
  let idx := s.fetched ss
  match s.fate ss a idx with
  | none => .wait s
  | some f =>
    let t := (ms.filter fun m => m.g ≠ s.cur).foldl (fun t m => t.reachMember lead m a f) s
    match f with
    | .trap c => t.elemTrap lead.e c 0 0
    | .clear => .done (performAll .read a idx (t.share lead a f))
    | .trim k => .done (performAll .read a (idx.filter (· < k)) (t.share lead a f))

/-- Whether the n-th multicast has to wait for a member (R246): one that has not reached it, whose core is halted (R356), or whose mask a
stream has yet to write (R271). -/
def State.multicastWaits (s : State) (n : Nat) : Bool :=
  ((s.multicast n).any fun m => s.stopped m.g || (s.getHart m.g).maskOwed m.e) || !s.liveCopies.all (fun h => h.vldgReady n) || s.parked.any fun p => p.2.sameLaunch s.hart && decide (p.2.vldgs ≤ n)

/-- VLDG at the queue head (R246, R247): an ordinary VLD outside a cohort, and for a member left to itself; else the lowest-ranked
member makes the fetch for all, once each is there. -/
def headVldg (o : VOp) (e : QEntry) (s : State) : HeadRes :=
  let wb := intBytes o.t
  let addr := addrUnit e wb
  let n := s.hart.vldgs
  let me : Member := { g := s.cur, o := o, e := e }
  let ms := s.multicast n
  if s.hart.mode ≠ .cohort then
    s.withRings e [] (some o.vd) fun e s =>
      s.withPieces e addr (s.loadIdx o e e.p) fun f e s => s.loadFof o e (s.accLoad f wb .unit addr) false
  else if e.solo then
    match s.withPieces e addr (s.loadIdx o e e.p) fun f e s => s.loadFof o e (s.accLoad f wb .unit addr) false with
    | .done t => .done t.vldgDone
    | r => r
  else if s.multicastWaits n || (s.leader me ms).g ≠ s.cur then .wait s
  else
    s.withPieces e addr (s.fetched (ms.filter me.shares)) fun f e s =>
      s.multicastGo { me with e := e } ms (s.accLoad f wb .unit addr)

/-- Whether an entry may trim VL (R156). -/
def QEntry.trims (e : QEntry) : Bool :=
  match e.instr with
  | .vld _ | .vlds _ | .vldav _ | .vldg _ | .vldxf _ => true
  | _ => false

/-- VLDG (R246, R247): in a cohort it issues once no queued load may still trim VL; a member whose VL its latest GSETVL did not set
traps ILLEGAL and takes no part.  DESIGN CHOICE (log 42): each such trap counts as one of that member's VLDGs. -/
def execVldg (o : VOp) (s : State) : Result :=
  let wb := intBytes o.t
  let cohort := s.hart.mode == .cohort
  let off := cohort && !s.hart.gsetVl
  if cohort && !s.queueQuiet && s.hart.queue.any QEntry.trims then .next s
  else
    let s' := if off then { s with hart := { s.hart with vldgs := s.hart.vldgs + 1 } } else s
    s'.issue (.vldg o) 4 (s.memCheck [(o.vd, 8 * wb)] off wb (s.readX o.vs1) 0) (s.readX o.vs1) 0 (headVldg o)

/-! ### VLDXC -/

/-- The event of the delivery of a chunk to a hart (R281). -/
def chunkEvent (g : Nat) : Event := { kind := .chunkDelivered, arg := { EvArg.none with idx := g } }

/-- Chunks of a VL (R281). -/
def chunkCount (vl : Nat) : Nat := (vl + 63) / 64

/-- The elements of a chunk (R281). -/
def chunkElems (vl c : Nat) : List Nat := ((List.range 64).map (64 * c + ·)).filter (· < vl)

/-- The completion mask at the start: bits 0 to VL − 1 clear, the others by TAIL (R281 step 2). -/
def State.startMask (s : State) (o : VOp) (x : VCtx) (wb : Nat) : State :=
  let md := o.m.toNat
  let old := s.hart.masks[md % 8]'(Nat.mod_lt _ (by decide))
  let v := maskClear old 0 x.vl
  let v := if x.tail && x.vl ≠ 0 then maskClear v x.vl (x.capacity wb) else v
  { s with hart := s.hart.setMask md v }

/-- The tail of the destination, ESTART 0, and the entry leaves (R281). -/
def State.vldxcEnd (s : State) (o : VOp) (x : VCtx) (wb : Nat) : HeadRes :=
  (s.setVmem (x.tailZero s.vmem (x.dreg o.vd) wb x.vl)).doneV

/-- The leaves that translate the pages of some elements, each page once, with the bits that performing one of them sets (R364, R365,
R385). -/
def State.leaves (s : State) (a : VAcc) (bits : Word) (idx : List Nat) : List LeafAt :=
  idx.foldl (fun ls i => match s.locate { s.frontAccess .read with pages := ls } (a.addr i) with
    | .place _ (some l) _ =>
      let l := { l with pte := l.pte ||| bits }
      if ls.contains l then ls else ls ++ [l]
    | _ => ls) (s.hart.queue.head?.toList.flatMap QEntry.pages)

/-- VLDXC at the queue head (R281): it starts, then stays until every chunk is set or abandoned. -/
def headVldxc (o : VOp) (e : QEntry) (s : State) : HeadRes :=
  s.withRings e [o.vs2] (some o.vd) fun e s =>
    let x := s.vctx e
    let wb := intBytes o.t
    match e.chunks with
    | some done => if done + 1 = 2 ^ chunkCount x.vl then s.vldxcEnd o x wb else .wait (s.pushOnce (chunkEvent s.cur))
    | none =>
      let s := if e.p = 0 then s.startMask o x wb else s
      if x.vl ≤ e.p then s.vldxcEnd o x wb
      else
        s.withPieces e (s.indexAddr o e) (List.range x.vl) fun f e s =>
          let a := s.accLoadX f o e
          let go := State.pushOnce (s.setFront { e with
            begun := true, chunks := some (2 ^ (e.p / 64) - 1), pages := s.leaves a 0 (List.range x.vl) }) (chunkEvent s.cur)
          match (if e.p = 0 then a.check 0 else .lost (.dram 0 0) none 0) with
          | .bad c va => s.elemTrap e (.bad c va) 0 0
          | .stream g j => s.elemTrap e (.stream g j) 0 0
          | .wait => .wait s
          | .guarded => .wait s
          | _ => .wait go

/-- VLDXC (R281). -/
def execVldxc (o : VOp) (s : State) : Result :=
  s.issueIndexed (.vldxc o) o (intBytes o.t) (s.overlaps o) (headVldxc o)

/-- The accesses of a VLDXC that has started (R281, R386). -/
def State.chunkAcc (s : State) (o : VOp) (e : QEntry) : VAcc :=
  let f := if e.pieces.isEmpty then Fates.own
    else pieceFate e.pieces (s.homes (s.indexAddr o e) (List.range (s.vctx e).vl))
  s.accLoadX f o e

/-- A chunk delivered, or abandoned for a fault or a lost piece (R281 steps 4 to 6): its elements below the entry's progress have been
(R344). -/
def State.deliver (s : State) (o : VOp) (e : QEntry) (done c : Nat) : State :=
  let x := s.vctx e
  let a := s.chunkAcc o e
  let d := x.dreg o.vd
  let es := (chunkElems x.vl c).filter (e.p ≤ ·)
  if waitsFirst a.check es then s
  else
    let lost := es.any fun i => match a.check i with
      | .lost _ _ _ => true
      | _ => false
    let bad := es.any fun i => match a.check i with
      | .bad _ _ => true
      | .stream _ _ => true
      | _ => false
    let s := s.setFront { e with
      chunks := some (done + 2 ^ c), pages := s.leaves a (if lost || bad then 0 else Kind.touches .read) es }
    if lost || bad then
      let t := (fillElems a x.reg d (es.filter (Config.freePick s.free)) s).nextFree
      (t.orVstat (if bad then vstatBadarg else 0)).orVstat (if lost then vstatRemote else 0)
    else
      let t := loadElems a x.reg d es s
      let md := o.m.toNat
      let old := t.hart.masks[md % 8]'(Nat.mod_lt _ (by decide))
      { t with hart := t.hart.setMask md ((chunkElems x.vl c).foldl (fun v i => maskPut v i true) old) }

/-- CHUNK_DELIVERED: a chunk of the VLDXC under way on the hart `arg.idx` (R281): the lowest, or any under the free
schedule (log 4). -/
def execChunkDelivered (s : State) : Result :=
  .next (s.onHart s.arg.idx fun s =>
    match s.hart.queue with
    | e :: _ =>
      (match e.instr, e.chunks with
        | .vldxc o, some done =>
          let open_ := (List.range (chunkCount (s.vctx e).vl)).filter fun c => !done.testBit c
          if s.hart.frozen then s
          else
            match open_ with
            | [] => s
            | c :: _ =>
              let pick := if s.eager then c else open_.getD (Config.freeChoice s.free open_.length % open_.length) c
              s.nextFree.deliver o e done pick
        | _, _ => s)
    | [] => s)

/-! ### A VLDXC at a freeze (R344) -/

/-- Whether the elements of a VLDXC under way that have been accessed are those below its progress, which is a whole number of element
groups (R344). -/
def QEntry.level (e : QEntry) (x : VCtx) (done : Nat) : Bool :=
  (e.p % (8 * max x.c 1) = 0 || e.p = x.vl) && done + 1 = 2 ^ (if e.p = x.vl then chunkCount x.vl else e.p / 64)

/-- The operands and chunks of a VLDXC at the front of the current hart's queue that cannot be frozen as it stands (R344). -/
def State.ragged (s : State) : Option (VOp × QEntry × Nat) :=
  match s.hart.queue with
  | e :: _ =>
    (match e.instr, e.chunks with
      | .vldxc o, some done => if s.hart.frozen || e.level (s.vctx e) done then none else some (o, e, done)
      | _, _ => none)
  | [] => none

/-- Where the lanes may realign in a VLDXC (R344): behind every element accessed, after a whole number of element groups, or at VL; no
chunk is left that has failed in part. -/
def State.levels (s : State) (o : VOp) (e : QEntry) (done : Nat) : List Nat :=
  let x := s.vctx e
  let n := 8 * max x.c 1
  let a := s.chunkAcc o e
  let low := (List.range (chunkCount x.vl)).foldl (fun m c => if done.testBit c then 64 * (c + 1) else m) e.p
  ((List.range (x.vl / n + 1)).map (n * ·)).filter (fun p => decide (low ≤ p) && decide (p < x.vl)
    && ((List.range (p % 64)).all fun j => (a.check (64 * (p / 64) + j)).good)) ++ [x.vl]

/-- The lanes realign in a VLDXC (R344): the chunks below the place where they do are delivered or abandoned, and the elements below it of
the chunk that it cuts are loaded; nothing where one has to wait.  Which place is open (log 5). -/
def State.levelAt (s : State) (o : VOp) (e : QEntry) (done : Nat) : State :=
  let x := s.vctx e
  let ps := s.levels o e done
  let p := if s.eager then x.vl else ps.getD (Config.freeChoice s.free ps.length % ps.length) x.vl
  let open_ := (List.range (if p = x.vl then chunkCount x.vl else p / 64)).filter fun c => !done.testBit c
  let a := s.chunkAcc o e
  let part := if p = x.vl then [] else ((List.range (p % 64)).map (64 * (p / 64) + ·)).filter (e.p ≤ ·)
  match open_.find? fun c => waitsFirst a.check ((chunkElems x.vl c).filter (e.p ≤ ·)) with
  | some _ => s.nextFree
  | none =>
    let t := open_.foldl (fun t c => match t.hart.queue, (t.hart.queue.head?.bind QEntry.chunks) with
      | q :: _, some d => t.deliver o q d c
      | _, _ => t) s.nextFree
    let t := loadElems a x.reg (x.dreg o.vd) part t
    match t.hart.queue with
    | q :: _ => t.setFront { q with p := p, pages := t.leaves a (Kind.touches .read) part }
    | [] => t

/-- The move that a freeze waits for, if it has to (R344). -/
def State.levelMove (s : State) : Option State := s.ragged.map fun r => s.levelAt r.1 r.2.1 r.2.2

end Sys2Proof.Machine
end

