-- ==== Sys2Proof/Machine/Queue.lean ====
section
/-! DEFINITION. What a queued instruction does when it reaches the head of the vector queue (R107), for every instruction that
executes there. -/

namespace Sys2Proof.Machine

/-- The meaning of an instruction at the queue head; nothing for one that does not execute there (R107). -/
def headOf : Instr → Option (QEntry → State → HeadRes)
  | .vadd o => some (headVadd o)
  | .vsub o => some (headVsub o)
  | .vmul o => some (headVmul o)
  | .vmulh o => some (headVmulh o)
  | .vmin o => some (headVmin o)
  | .vmax o => some (headVmax o)
  | .vdiv o => some (headVdiv o)
  | .vrem o => some (headVrem o)
  | .vand o => some (headVand o)
  | .vor o => some (headVor o)
  | .vxor o => some (headVxor o)
  | .vsll o => some (headVsll o)
  | .vsr o => some (headVsr o)
  | .vsadd o => some (headVsadd o)
  | .vssub o => some (headVssub o)
  | .vmac o => some (headVmac o)
  | .vcmpeq o => some (headVcmpeq o)
  | .vcmpne o => some (headVcmpne o)
  | .vcmplt o => some (headVcmplt o)
  | .vcmple o => some (headVcmple o)
  | .vmerge o => some (headVmerge o)
  | .vmv o => some (headVmv o)
  | .vmvx o => some (headVmvx o)
  | .vid o => some (headVid o)
  | .vfadd o => some (headVfadd o)
  | .vfsub o => some (headVfsub o)
  | .vfmul o => some (headVfmul o)
  | .vfdiv o => some (headVfdiv o)
  | .vfma o => some (headVfma o)
  | .vfnma o => some (headVfnma o)
  | .vfmin o => some (headVfmin o)
  | .vfmax o => some (headVfmax o)
  | .vfsqrt o => some (headVfsqrt o)
  | .vfrsqrt o => some (headVfrsqrt o)
  | .vfabs o => some (headVfabs o)
  | .vfneg o => some (headVfneg o)
  | .vfcmpeq o => some (headVfcmpeq o)
  | .vfcmplt o => some (headVfcmplt o)
  | .vfcmple o => some (headVfcmple o)
  | .vfclass o => some (headVfclass o)
  | .vfcvt o => some (headVfcvt o)
  | .vfcvtScaled o => some (headVfcvtScaled o)
  | .vf2i o => some (headVf2i o)
  | .vi2f o => some (headVi2f o)
  | .viext o => some (headViext o)
  | .vredsum o => some (headVredsum o)
  | .vredmin o => some (headVredmin o)
  | .vredmax o => some (headVredmax o)
  | .vredor o => some (headVredor o)
  | .vfredsum o => some (headVfredsum o)
  | .vfredosum o => some (headVfredosum o)
  | .vfredmin o => some (headVfredmin o)
  | .vfredmax o => some (headVfredmax o)
  | .vscan o => some (headVscan o)
  | .vperm o => some (headVperm o)
  | .vslideup o => some (headVslideup o)
  | .vslidedn o => some (headVslidedn o)
  | .vcompress o => some (headVcompress o)
  | .vrank o => some (headVrank o)
  | .vbfly o => some (headVbfly o)
  | .vsortk o => some (headVsortk o)
  | .mand o => some (headMand o)
  | .mor o => some (headMor o)
  | .mxor o => some (headMxor o)
  | .mandn o => some (headMandn o)
  | .mpopc o => some (headMpopc o)
  | .mfirst o => some (headMfirst o)
  | .mset o => some (headMset o)
  | .vmaxi o => some (headVmaxi o)
  | .vmini o => some (headVmini o)
  | .vbslice o => some (headVbslice o)
  | .vbunslice o => some (headVbunslice o)
  | .vld o => some (headVld o)
  | .vlds o => some (headVlds o)
  | .vldav o => some (headVldav o)
  | .vldg o => some (headVldg o)
  | .vldx o => some (headVldx o)
  | .vldxu o => some (headVldxu o)
  | .vldxf o => some (headVldxf o)
  | .qlds o => some (headQlds o)
  | .vst o => some (headVst o)
  | .vsts o => some (headVsts o)
  | .vstx o => some (headVstx o)
  | .vstxu o => some (headVstxu o)
  | .vstxadd o => some (headVstxadd o)
  | .vstxmax o => some (headVstxmax o)
  | .vstxmin o => some (headVstxmin o)
  | .mld o => some (headMld o)
  | .mst o => some (headMst o)
  | .vldxc o => some (headVldxc o)
  | .rsend o => some (headRsend o)
  | .rrun o => some (headRrun o)
  | .rend => some (headRend)
  | .xclose o => some (headXclose o)
  | .rrecv o => some (headRrecv o)
  | .matt o => some (headMatt o)
  | .mrel => some (headMrel)
  | .mzero o => some (headMzero o)
  | .msetlen o => some (headMsetlen o)
  | .msave o => some (headMsave o)
  | .mload o => some (headMload o)
  | .opadd o => some (headOpadd o)
  | .opsub o => some (headOpsub o)
  | .opaddSp o => some (headOpaddSp o)
  | .opaddBs o => some (headOpaddBs o)
  | .opaddQ o => some (headOpaddQ o)
  | .mgrp o => some (headMgrp o)
  | .mgrpQ o => some (headMgrpQ o)
  | .mldt o => some (headMldt o)
  | .mldtFf o => some (headMldtFf o)
  | .mstt o => some (headMstt o)
  | .mrdv o => some (headMrdv o)
  | .mwrv o => some (headMwrv o)
  | .bst o => some (headBst o)
  | .bchain o => some (headBchain o)
  | .bsset o => some (headBsset o)
  | .bsget o => some (headBsget o)
  | .setvl _ => some headBoundary
  | .setvli _ => some headBoundary
  | .setcfg _ => some headBoundary
  | .gsetvl _ => some headBoundary
  | _ => none

end Sys2Proof.Machine
end

