-- ==== Sys2Proof/Machine/Slip.lean ====
section
/-! DEFINITION. How queued instructions overlap: the lanes' slip (R106, R344), a VLDXC's chunks (R282) and the matrix unit's turns
(R194). -/

namespace Sys2Proof.Machine

/-! ### What an instruction reads and writes element by element (R108, R344) -/

/-- The register operands of an element-wise instruction or of a vector load or store, each with the bytes of its elements, and its
governing mask; `slips` where it accesses no memory. -/
structure Lanes where
  reads : List (Nat × Nat)
  writes : List (Nat × Nat)
  mask : Nat
  slips : Bool
  deriving DecidableEq, Repr

/-- A binary operation of one element width; `acc` when it also reads the old destination. -/
def binLanes (o : VOp) (wb : Nat) (acc : Bool) : Option Lanes :=
  some { reads := srcsAt (binSrcs o) wb ++ (if acc then [(o.vd.toNat, wb)] else []), writes := [(o.vd.toNat, wb)]
         mask := o.m.toNat, slips := true }

/-- A unary operation of one element width. -/
def unLanes (o : VOp) (wb : Nat) : Option Lanes :=
  some { reads := [(o.vs1.toNat, wb)], writes := [(o.vd.toNat, wb)], mask := o.m.toNat, slips := true }

/-- A load. -/
def loadLanes (o : VOp) (idx : Bool) : Option Lanes :=
  some { reads := if idx then [(o.vs2.toNat, 4)] else [], writes := [(o.vd.toNat, intBytes o.t)], mask := o.m.toNat, slips := false }

/-- A store. -/
def storeLanes (o : VOp) (idx : Bool) : Option Lanes :=
  some { reads := (o.vd.toNat, intBytes o.t) :: (if idx then [(o.vs2.toNat, 4)] else []), writes := [], mask := o.m.toNat, slips := false }

/-- The operands of an instruction whose elements stand each for itself; none for any other. -/
def lanesOf : Instr → Option Lanes
  | .vadd o | .vsub o | .vmul o | .vmulh o | .vmin o | .vmax o | .vdiv o | .vrem o | .vand o | .vor o | .vxor o | .vsll o | .vsr o
  | .vsadd o | .vssub o => binLanes o (intBytes o.t) false
  | .vmac o => binLanes o (intBytes o.t) true
  | .vfadd o | .vfsub o | .vfmul o | .vfdiv o | .vfmin o | .vfmax o => binLanes o (fpBytes o.t) false
  | .vfma o | .vfnma o => binLanes o (fpBytes o.t) true
  | .vfsqrt o | .vfrsqrt o | .vfabs o | .vfneg o => unLanes o (fpBytes o.t)
  | .vld o | .vlds o => loadLanes o false
  | .vldx o | .vldxu o | .vldxf o => loadLanes o true
  | .vst o | .vsts o => storeLanes o false
  | .vstx o | .vstxu o => storeLanes o true
  | _ => none

/-- Whether two register operands under their configurations share no register (R101). -/
def apart (x y : VCtx) (a b : Nat × Nat) : Bool :=
  let g := (x.group (8 * a.2)).getD 8
  let k := (y.group (8 * b.2)).getD 8
  decide (a.1 + g ≤ b.1) || decide (b.1 + k ≤ a.1)

/-- How far a later instruction may go for a register that it and an earlier one name, which stands at `p`: as far, or not at all
where their elements do not match (R344). -/
def meet (x y : VCtx) (a b : Nat × Nat) (p vl : Nat) : Nat :=
  if apart x y a b then vl else if a = b ∧ x.grp = y.grp ∧ x.sew = y.sew then p else 0

/-! ### Slip (R106, R344) -/

/-- Elements that an entry has performed. -/
def QEntry.stands (e : QEntry) : Nat := if e.begun then e.p else 0

/-- How far entry `e` may stand ahead of an earlier one (R344): no element that it reads there, nor one that is still read or written
there; not at all past an instruction that is not element by element, or past a load that may still trim its VL (R106, R157). -/
def State.aheadOf (s : State) (e : QEntry) (l : Lanes) (f : QEntry) : Nat :=
  match lanesOf f.instr with
  | none => 0
  | some k =>
    if f.trims then 0 else
    let x := s.vctx e
    let y := s.vctx f
    let bound (as bs : List (Nat × Nat)) : Nat :=
      (as.flatMap fun a => bs.map fun b => meet x y a b f.stands e.vl).foldl min e.vl
    min (bound l.reads k.writes) (min (bound l.writes k.writes) (bound l.writes k.reads))

/-- Elements that an entry stands at when the lanes realign: all, or whole element groups of 8 elements a cluster, up to a bound; how
many is open (R344, log 5). -/
def State.realign (s : State) (e : QEntry) (bound : Nat) : Nat :=
  let n := 8 * (s.vctx e).c
  if bound = e.vl ∧ Config.freePick s.free e.p then e.vl
  else if n = 0 then e.p
  else max e.p (min e.vl (n * (Config.freeChoice s.free e.p % (bound / n + 1))))

/-- The elements of an entry below `p` performed: as an instruction of that many elements that leaves its tail and ESTART; nothing where
that is not done without a trap. -/
def State.perform (s : State) (e : QEntry) (p : Nat) : Option State :=
  match headOf e.instr with
  | none => none
  | some f =>
    let e' := { e with vl := p, vcfg := e.vcfg &&& ~~~0x20 }
    match f e' { s with hart := { s.hart with queue := [e'] } } with
    | .done t => some { t with hart := { t.hart with queue := s.hart.queue, ctl := { t.hart.ctl with estart := s.hart.ctl.estart } } }
    | _ => none

/-- How far an entry with `n` entries before it may stand: a lane completes at most SLIP.LIMIT entries beyond the slowest lane, so that it
begins one with at most that many before it (R105, R106). -/
def State.slipBound (s : State) (n : Nat) (e : QEntry) : Nat :=
  let limit := field s.hart.ctl.slip 0 3
  if limit < n then 0 else if n = limit ∧ n ≠ 0 then e.vl - 1 else e.vl

/-- Entry `e` goes ahead of those before it, `pre`, as far as they allow (R106). -/
def State.slipOne (s : State) (pre : List QEntry) (e : QEntry) : State × QEntry :=
  match lanesOf e.instr with
  | none => (s, e)
  | some l =>
    let rings := (s.vctx e).pipe && (l.reads ++ l.writes).any fun r => decide (28 ≤ r.1)
    let p := s.realign e ((pre.map (s.aheadOf e l)).foldl min (s.slipBound pre.length e))
    if !l.slips || rings || e.fenced.isSome || s.hart.maskOwed e || (s.hart.maskBad e).isSome || decide (p ≤ e.stands) then (s, e)
    else
      match s.perform e p with
      | some t => (t.nextFree, { e with p := p, begun := true })
      | none => (s, e)

/-- The lanes go on through some entries, behind those in `pre`. -/
def State.slipThrough (s : State) (pre : List QEntry) : List QEntry → State × List QEntry
  | [] => (s, pre)
  | e :: t =>
    let r := s.slipOne pre e
    r.1.slipThrough (pre ++ [r.2]) t

/-- The queue as it stands when the lanes realign, its first `n` entries aside (R106, R344). -/
def State.slip (n : Nat) (s : State) : State :=
  let r := s.slipThrough (s.hart.queue.take n) (s.hart.queue.drop n)
  { r.1 with hart := { r.1.hart with queue := r.2 } }

/-! ### Behind a VLDXC (R282) -/

/-- The register operands of an instruction that a mask governs: what it reads at that mask's elements alone, what it writes, and what it
reads whatever the mask (R282). -/
structure Governed where
  reads : List (Nat × Nat)
  writes : List (Nat × Nat)
  whole : List (Nat × Nat)
  mask : Nat
  deriving DecidableEq, Repr

/-- A governed instruction of one source and one destination, each of its width. -/
def oneGoverned (o : VOp) (wb sb : Nat) : Option Governed :=
  some { reads := [(o.vs1.toNat, sb)], writes := [(o.vd.toNat, wb)], whole := [], mask := o.m.toNat }

/-- A governed instruction that reads its source whatever its mask. -/
def wholeGoverned (o : VOp) (wb sb : Nat) : Option Governed :=
  some { reads := [], writes := [(o.vd.toNat, wb)], whole := [(o.vs1.toNat, sb)], mask := o.m.toNat }

/-- A governed instruction that writes no vector register. -/
def readsGoverned (o : VOp) (rs : List Reg) (wb : Nat) : Option Governed :=
  some { reads := srcsAt rs wb, writes := [], whole := [], mask := o.m.toNat }

/-- The operands of an instruction that its mask field governs; none for one without a governing mask, or that also writes that mask
(R147). -/
def governed (i : Instr) : Option Governed :=
  match i with
  | .vmv o => some { reads := srcsAt (vmvSrcs o) (intBytes o.t), writes := [(o.vd.toNat, intBytes o.t)], whole := [], mask := o.m.toNat }
  | .vid o | .vrank o => some { reads := [], writes := [(o.vd.toNat, intBytes o.t)], whole := [], mask := o.m.toNat }
  | .vfclass o => oneGoverned o 2 (fpBytes o.t)
  | .vfcvt o => oneGoverned o (fpBytes o.t) (fpWidth (vsrc o) / 8)
  | .vfcvtScaled o => oneGoverned o (fpBytes o.t) (fpWidth (scaledSrc o) / 8)
  | .vf2i o => oneGoverned o (intBytes o.t) (fpWidth (vsrc o) / 8)
  | .vi2f o => oneGoverned o (fpBytes o.t) (intWidth (vsrc o) / 8)
  | .viext o => oneGoverned o (intBytes o.t) (intWidth (vsrc o) / 8)
  | .vscan o => oneGoverned o (clsBytes o) (clsBytes o)
  | .vcompress o => oneGoverned o (intBytes o.t) (intBytes o.t)
  | .vsortk o => oneGoverned o 4 (clsBytes o)
  | .vbslice o => oneGoverned o 1 (intBytes o.t)
  | .vbunslice o => wholeGoverned o (intBytes o.t) 1
  | .vslideup o | .vslidedn o => wholeGoverned o (intBytes o.t) (intBytes o.t)
  | .vperm o =>
    some { reads := if o.sc = 1 then [] else [(o.vs2.toNat, 4)], writes := [(o.vd.toNat, intBytes o.t)]
           whole := [(o.vs1.toNat, intBytes o.t)], mask := o.m.toNat }
  | .vbfly o =>
    some { reads := [], writes := [(o.vd.toNat, fpBytes o.t)], whole := [(o.vs1.toNat, 2 * fpBytes o.t)], mask := o.m.toNat }
  | .vcmpeq o | .vcmpne o | .vcmplt o | .vcmple o => readsGoverned o (binSrcs o) (intBytes o.t)
  | .vfcmpeq o | .vfcmplt o | .vfcmple o => readsGoverned o (binSrcs o) (fpBytes o.t)
  | .vredsum o | .vredmin o | .vredmax o | .vredor o => readsGoverned o [o.vs1] (intBytes o.t)
  | .vfredsum o | .vfredosum o | .vfredmin o | .vfredmax o => readsGoverned o [o.vs1] (fpBytes o.t)
  | .mpopc o | .mfirst o => readsGoverned o [] 1
  | .vldav o => some { reads := [], writes := [(o.vd.toNat, intBytes o.t)], whole := [], mask := o.m.toNat }
  | .vstxadd o | .vstxmax o | .vstxmin o =>
    some { reads := [(o.vd.toNat, clsBytes o), (o.vs2.toNat, 4)], writes := [], whole := [], mask := o.m.toNat }
  | i => (lanesOf i).map fun l => { reads := l.reads, writes := l.writes, whole := [], mask := l.mask }

/-- Whether an entry names a ring, in pipeline mode (R111). -/
def State.namesRing (s : State) (e : QEntry) (rs : List Nat) : Bool := (s.vctx e).pipe && rs.any (28 ≤ ·)

/-- Whether an instruction behind a VLDXC under way does not wait for it: governed by its mask, which it names in no other place, it writes
neither register, and reads the gathered one at elements of the mask alone (R282). -/
def State.besideChunks (s : State) (v e : QEntry) : Bool :=
  match v.instr, governed e.instr with
  | .vldxc o, some l =>
    let d := (o.vd.toNat, intBytes o.t)
    let off (r : Nat × Nat) : Bool := apart (s.vctx e) (s.vctx v) r d
    v.chunks.isSome && l.mask == o.m.toNat && e.masks.count l.mask == 1 && e.fenced.isNone && !s.hart.maskOwed e
      && l.writes.all (fun r => off r && apart (s.vctx e) (s.vctx v) r (o.vs2.toNat, 4))
      && l.whole.all off && l.reads.all (fun r => r == d || off r)
      && !(s.namesRing v [o.vd.toNat, o.vs2.toNat] && s.namesRing e ((l.reads ++ l.writes ++ l.whole).map Prod.fst))
  | _, _ => false

/-- The width and the address of the elements of a vector memory instruction (R154). -/
def State.memAddr (s : State) (e : QEntry) : Option (Nat × (Nat → Word)) :=
  match e.instr with
  | .vld o | .vldav o | .vst o => some (intBytes o.t, addrUnit e (intBytes o.t))
  | .vlds o | .vsts o => some (intBytes o.t, addrStride e)
  | .vldx o | .vldxu o | .vldxf o | .vldxc o | .vstx o | .vstxu o => some (intBytes o.t, s.indexAddr o e)
  | .vstxadd o | .vstxmax o | .vstxmin o => some (clsBytes o, addrIndex e s.vmem (s.vctx e).reg o.vs2.toNat (clsBytes o))
  | _ => none

/-- Where some elements of a vector memory instruction stand. -/
def State.memKeys (s : State) (e : QEntry) (idx : List Nat) : List (Nat × Nat) :=
  match s.memAddr e with
  | none => []
  | some (wb, addr) => idx.filterMap fun i =>
    match s.locate (s.accessOf s.cur .read .vector) (addr i) with
    | .place p _ _ => some (p.key, wb)
    | _ => none

/-- Whether a memory instruction behind a VLDXC would come before an element of it that is still to be read at the same bytes (R252). -/
def State.passesChunk (s : State) (v e : QEntry) : Bool :=
  let done := v.chunks.getD 0
  let pending := (List.range v.vl).filter fun i => !done.testBit (i / 64) && decide (v.p ≤ i)
  let mask := ((governed e.instr).map Governed.mask).getD 0
  let mine := if (s.memAddr e).isNone then [] else s.memKeys e ((List.range e.vl).filter (s.hart.maskBit mask))
  !mine.isEmpty && (s.memKeys v pending).any fun a => mine.any fun b => decide (a.1 < b.1 + b.2) && decide (b.1 < a.1 + a.2)

/-- The entry behind a VLDXC under way runs, the VLDXC standing before it (R282): its ESTART is the 0 that the completion of the VLDXC
leaves (R160); a trap of it waits until the VLDXC can be frozen (R344). -/
def State.runBeside (s : State) (v : QEntry) (head : QEntry → State → HeadRes) : State :=
  let back (t : State) : State := { t with hart := { t.hart with queue := v :: t.hart.queue } }
  let keep (t : State) : State := { t with hart := { t.hart with ctl := { t.hart.ctl with estart := s.hart.ctl.estart } } }
  match s.hart.queue.tail with
  | [] => s
  | e :: t =>
    if s.passesChunk v e then s else
    match State.headRes { s.noEstart with hart := { s.noEstart.hart with queue := e :: t } } e head with
    | .done u => (back (u.healMask e s.hart.maskPois).popFront)
    | .trap u ti => s.levelMove.getD ((back (if e.precise then u else keep u)).takeTrap ti u.hart.pc)
    | .wait u => back (keep u)

/-! ### The queue's move (R107) -/

/-- The front entry of the current hart's queue runs, in its turn of the matrix unit (R194). -/
def State.frontMove (s : State) (e : QEntry) : State :=
  match headOf e.instr with
  | some f =>
    if !e.isMatrix then s.runFrontWith (State.slip 1) f
    else if s.myTurn then s.takeTurn.runFrontWith (State.slip 1) f
    else s
  | none => s.popFront

/-- The current hart's queue turned to: its front entry runs, or one behind a VLDXC; under the free schedule the lanes may stand anywhere
that slip allows (R106, R107, R282, log 5). -/
def State.queueMove (s : State) : State :=
  if s.hart.run ≠ .running || s.hart.frozen || s.stopped s.cur then s
  else
    match s.hart.queue with
    | [] => s
    | e :: t =>
      match t with
      | [] => if !s.eager && Config.freePick s.free 1 then (s.slip 0).nextFree else s.frontMove e
      | f :: _ =>
        if s.besideChunks e f && Config.freePick s.free 0 then
          (match headOf f.instr with
            | some g => (s.runBeside e g).nextFree
            | none => s)
        else if !s.eager && Config.freePick s.free 1 then (s.slip 0).nextFree
        else s.frontMove e

end Sys2Proof.Machine
end

