-- ==== Sys2Proof/Machine/System.lean ====
section
/-! DEFINITION. Fences (R83, R84, R421), traps and returns (R85, R86), WFE (R87) and control-register access (R14,
R88, R89). -/

namespace Sys2Proof.Machine

/-- Whether the current hart has writes by some of its agents that are not placed yet (R253, R389). -/
def State.ownHeld (s : State) (agents : List Agent) : Bool := agents.any fun a => s.agentHeld (agentNo s.cur a)

/-- A fence completes once what it waits for is done and the writes of some agents are ordered at VCFG.SCOPE (R83, R255). -/
def State.fence (s : State) (ready : Bool) (agents : List Agent) : Result :=
  .next (match (if ready then s.order (agents.map (agentNo s.cur)) (vcfgLevel s.hart.ctl.vcfg) else none) with
    | some t => t.advance 4
    | none => s)

/-- FENCE.SV: orders the hart's scalar writes (R83). -/
def execFenceSv (s : State) : Result := s.fence true [.scalar]
/-- FENCE.VS: waits for the queue, and orders what it wrote (R83). -/
def execFenceVs (s : State) : Result := s.fence s.queueQuiet [.vector]
/-- The larger of two fence marks. -/
def fenceMax (a b : Option Nat) : Option Nat :=
  match a, b with
  | some x, some y => some (max x y)
  | some x, none => some x
  | none, b => b

/-- A FENCE.VV of a level stands before the next instruction queued, and before what a frozen entry performs after TRET (R83, R421). -/
def Hart.markFence (h : Hart) (level : Nat) : Hart :=
  { h with
    vvFence := fenceMax h.vvFence (some level)
    queue := match h.queue with
      | e :: t => if h.frozen then { e with fenced := fenceMax e.fenced (some level) } :: t else e :: t
      | [] => [] }

/-- FENCE.VV: the next instruction queued comes behind what those before it wrote (R83), and behind what frozen entries have (R421). -/
def execFenceVv (s : State) : Result :=
  .next (State.advance { s with hart := s.hart.markFence (vcfgLevel s.hart.ctl.vcfg) } 4)
/-- FENCE.ALL: waits for the queue and the hart's streams, and orders all that the hart wrote (R83, R421). -/
def execFenceAll (s : State) : Result := s.fence (s.queueQuiet && s.streamsQuiet) [.scalar, .vector, .matrix, .stream]
/-- FENCE.I: waits for the queue and for the hart's scalar and vector writes; what the hart fetches from then on is memory as it stands
(R84). -/
def execFenceI (s : State) : Result :=
  let ready := s.queueQuiet && !s.ownHeld [.scalar, .vector]
  .next (if ready then State.advance { s with hart := { s.hart with code := s.mem } } 4 else s)

/-- TRAP (R85). -/
def execTrap (a : Reg) (s : State) : Result := .next (s.trapIssue cTRAP 0 (s.readX a))

/-- An event about a core. -/
def coreEvent (k : Instr) (core : Nat) : Event := { kind := k, arg := { EvArg.none with pkg := core / 768, idx := core % 768 } }

/-- A core halts: each hart's DPC is its pc, and a HALT event is written (R356); no event of the halt is left. -/
def State.haltNow (s : State) (core reason : Nat) (stable unstable : Bool) : State :=
  let c := s.core core
  let s := (List.range 4).foldl (fun s j =>
    let h := s.getHart (4 * core + j)
    s.setHart (4 * core + j) { h with dpc := h.pc, late := none }) s
  let s := s.setCore core
    { c with halting := false, halted := true, stable := stable, unstable := unstable, reason := reason }
  let e := coreEvent .haltComplete core
  let s := { s with events := s.events.filter fun v => v ≠ e && v ≠ { e with arg := { e.arg with flag := true } } }
  s.rollHart (4 * core) 7 (16 * reason) (s.getHart (4 * core)).dpc 0

/-- Whether a hart's vector side has an instruction in flight that a freeze lets go on to a place of its own: a MATT that waits for tiles,
or a VLDXC under way (R194, R338, R344). -/
def Hart.midway (h : Hart) : Bool :=
  h.run == .running && (h.mat.asked || (!h.frozen && (h.queue.head?.bind QEntry.chunks).isSome))

/-- A halt asked of a core (R356): issue stops at once; HALT_NOW completes when the freeze is, HALT_QUIET once its slate is quiet besides,
which an event finds.  `quiet` is the mode that the asking hart's DCTL names; the event's `flag` tells a HALT_NOW. -/
def State.askHalt (s : State) (core reason : Nat) (quiet : Bool) : State :=
  let c := s.core core
  let wait (now : Bool) : State :=
    let e := coreEvent .haltComplete core
    (s.setCore core { c with halting := true, reason := reason }).pushOnce { e with arg := { e.arg with flag := now } }
  if c.halted then s
  else if quiet then wait false
  else if (List.range 4).any fun j => (s.getHart (4 * core + j)).midway then wait true
  else s.haltNow core reason false false

/-- BRK: a halt where the debugger has armed it in the hart's DCTL, else a trap (R85, R355). -/
def execBrk (s : State) : Result :=
  let c := s.core (coreKey s.cur)
  if c.armbrk.getLsbD (s.cur % 4) then .next (s.askHalt (coreKey s.cur) 1 (c.quiet.getLsbD (s.cur % 4)))
  else .next (s.trapIssue cBREAK 0 0)

/-- TRET (R86, R279). -/
def execTret (s : State) : Result :=
  if !s.hart.prv then .next (s.trapBits cPRIVILEGE .tret)
  else if s.hart.vclaimed then .next (s.trapIssue cVSTATE 0 0)
  else .next (State.resumeStreams { s with hart := s.hart.returnFromTrap })

/-- WFE (R87). -/
def execWfe (s : State) : Result :=
  if s.hart.event then .next (State.advance { s with hart := { s.hart with event := false } } 4) else s.stall false

/-! ### Control registers -/

/-- The control-register numbers that are assigned (R15, R355). -/
def ctlAssigned (n : Nat) : Bool :=
  (n ≤ 6) || (0x10 ≤ n && n ≤ 0x12) || (0x20 ≤ n && n ≤ 0x24) || (0x30 ≤ n && n ≤ 0x32) || (0x100 ≤ n && n ≤ 0x10C)
    || (0x200 ≤ n && n ≤ 0x202)

/-- The read-only ones (R15). -/
def ctlReadOnly (n : Nat) : Bool :=
  n = 0 || n = 5 || n = 0x10 || (0x20 ≤ n && n ≤ 0x24) || (0x30 ≤ n && n ≤ 0x32)

/-- Those the vector and matrix sides share (R89). -/
def ctlShared (n : Nat) : Bool := (n ≤ 3) || n = 5 || n = 6 || (0x10 ≤ n && n ≤ 0x12)

/-- GRANT (R97). -/
def Lease.grant (l : Lease) : Word :=
  wordOf (l.held + l.minc * 2 ^ 5 + l.prefc * 2 ^ 10
    + (match l.target with
      | some t => 2 ^ 15 + t * 2 ^ 16
      | .none => 0))

/-- The value of a control register (R15); GRANT of a hart without a task is 0. -/
def State.ctlRead (s : State) (n : Nat) : Word :=
  let c := s.hart.ctl
  match n with
  | 0x000 => c.vl
  | 0x001 => c.vcfg
  | 0x002 => c.estart
  | 0x003 => c.vstat
  | 0x004 => c.fstat
  | 0x005 => if s.hart.run == .idle then 0 else s.lease.grant
  | 0x006 => c.slip
  | 0x010 => wordOf s.hart.mat.tiles
  | 0x011 => c.mlen
  | 0x012 => c.mstat
  | 0x020 => wordOf (s.cur % 4)
  | 0x021 => wordOf (coreOf s.cur % 4)
  | 0x022 => wordOf (formOf s.cur)
  | 0x023 => wordOf (dieOf s.cur)
  | 0x024 => wordOf (pkgOf s.cur)
  | 0x030 => s.timeNs (pkgOf s.cur)
  | 0x031 => wordOf (s.clk - (s.pkg (pkgOf s.cur)).resetClk)
  | 0x032 => c.retired
  | 0x100 => c.status
  | 0x101 => c.trapvec
  | 0x102 => c.trappc
  | 0x103 => c.trapcause
  | 0x104 => c.trapva
  | 0x105 => c.trapfb
  | 0x106 => c.trapinfo
  | 0x107 => c.vsaveptr
  | 0x108 => c.space
  | 0x109 => c.ptbase
  | 0x10A => c.scratch
  | 0x10B => c.leasewait
  | 0x10C => c.hpwait
  | _ => 0

/-- A register with the bits of a mask replaced; the others are reserved or read-only (R14, R88). -/
def maskWrite (mask old v : Word) : Word := (old &&& ~~~mask) ||| (v &&& mask)

/-- The control registers after a write (R15 to R17, R98, R105, R123, R176, R177, R335, R362): reserved bits stay zero. -/
def Ctl.write (c : Ctl) (n : Nat) (v : Word) : Ctl :=
  match n with
  | 0x001 => { c with vcfg := maskWrite 0xFFFFFF c.vcfg v }
  | 0x002 => { c with estart := v }
  | 0x003 => { c with vstat := maskWrite 0x3FD c.vstat v }
  | 0x004 => { c with fstat := maskWrite 0x7F c.fstat v }
  | 0x006 => { c with slip := maskWrite 7 c.slip v }
  | 0x011 => { c with mlen := maskWrite 0x7F c.mlen v }
  | 0x012 => { c with mstat := maskWrite 0x3FC c.mstat v }
  | 0x100 => { c with status := maskWrite 2 c.status v }
  | 0x101 => { c with trapvec := v }
  | 0x102 => { c with trappc := v }
  | 0x103 => { c with trapcause := maskWrite 0xF7FF c.trapcause v }
  | 0x104 => { c with trapva := v }
  | 0x105 => { c with trapfb := v }
  | 0x106 => { c with trapinfo := v }
  | 0x107 => { c with vsaveptr := v }
  | 0x108 => { c with space := maskWrite 0xFFFF c.space v }
  | 0x109 => { c with ptbase := maskWrite 0x000FFFFFFFFFF001 c.ptbase v }
  | 0x10A => { c with scratch := v }
  | 0x10B => { c with leasewait := v }
  | 0x10C => { c with hpwait := v }
  | _ => c

/-- A write of ESTART moves the progress of a frozen trapping entry that starts there (R421). -/
def Hart.moveFront (h : Hart) (n : Nat) (v : Word) : Hart :=
  match h.queue with
  | e :: t =>
    if n = 2 ∧ h.frozen ∧ e.begun ∧ e.precise then { h with queue := { e with p := v.toNat } :: t } else h
  | [] => h

/-- A write of MLEN leaves the frozen entries the value they stand under, `old` (R421). -/
def Hart.keepFrozen (h : Hart) (n : Nat) (old : Word) : Hart :=
  if n = 0x11 ∧ h.frozen then
    { h with queue := h.queue.map fun e => if e.mlen.isNone then { e with mlen := some old } else e }
  else h

/-- A CTL instruction (R14, R88, R89): `new` is the value written, nothing for CTLRD. -/
def State.ctl (s : State) (i : Instr) (n : Nat) (d : Reg) (new : Option (Word → Word)) : Result :=
  if !ctlAssigned n then .next (s.trapBits cILLEGAL i)
  else if 0x200 ≤ n ∨ 0x100 ≤ n ∧ ¬ s.hart.prv then .next (s.trapBits cPRIVILEGE i)
  else if new.isSome && ctlReadOnly n then .next (s.trapBits cILLEGAL i)
  else if ctlShared n && !s.queueQuiet then .next s
  else
    let old := s.ctlRead n
    let t := match new with
      | some f => { s with hart := { s.hart with ctl := s.hart.ctl.write n (f old) }.moveFront n (f old) |>.keepFrozen n old }
      | none => s
    .next (t.finishX d old 4)

/-- CTLRD (R88). -/
def execCtlrd (o : IOp) (s : State) : Result := s.ctl (.ctlrd o) o.imm.toNat o.d none
/-- CTLWR (R88). -/
def execCtlwr (o : IOp) (s : State) : Result := s.ctl (.ctlwr o) o.imm.toNat o.d (some fun _ => s.readX o.a)
/-- CTLSET (R88). -/
def execCtlset (o : IOp) (s : State) : Result := s.ctl (.ctlset o) o.imm.toNat o.d (some fun c => c ||| s.readX o.a)
/-- CTLCLR (R88). -/
def execCtlclr (o : IOp) (s : State) : Result := s.ctl (.ctlclr o) o.imm.toNat o.d (some fun c => c &&& ~~~s.readX o.a)
/-- CTLWRI (R88). -/
def execCtlwri (o : IOp) (s : State) : Result := s.ctl (.ctlwri o) o.imm.toNat o.d (some fun _ => o.a.zeroExtend 64)

end Sys2Proof.Machine
end

