-- ==== Sys2Proof/Machine/Tasks.lean ====
section
/-! DEFINITION. The task instructions (R223 to R229): launching, ending, yielding, waiting, the barrier, LEASE; and the
explicit hall pass (R405). -/

namespace Sys2Proof.Machine

/-! ### TLAUNCH, TWAIT (R224, R227) -/

/-- An address's effective check for `n` bytes read as a scalar load, `n` its alignment: the value, or the trap (R71, R224). -/
def State.readBlock (s : State) (i : Instr) (va : Word) (n : Nat) (go : Nat → State → Result) : Result :=
  match s.scalarLoc .read va n with
  | .bad c => .next (s.trapAccess (instrBits i) c va)
  | .wait => .next s
  | .place p l lost =>
    if lost then .next (s.trapIssue cREMOTE_LOST va 0)
    else if s.mem.poisoned p.key n then .next (s.trapIssue cPOISON va 0)
    else go (s.readAt l p.key n) (s.visit (dieKey s.cur) p .read l)

/-- TLAUNCH's step on the queue (R224): the result code, or the index with the packet in its ring slot; nothing while the slot's page
is being moved (R363).  A ring write that faults raises ERR = 3 after TAIL has advanced. -/
def State.launch (s : State) (qn bytes : Nat) : Option (Word × State) :=
  let p := pkgOf s.cur
  let q := s.queue p qn
  if s.idCount ≤ qn then some (-1, s)
  else if !q.enabled || (q.cap.sup && !s.hart.prv) then some (-2, s)
  else if !q.cap.device then some (-3, s)
  else if q.count = 2 ^ q.cap.lsz then some (-4, s)
  else
    let n := q.tail
    let s' := s.setQueue p qn (q.put 160 32 ((n + 1) % 2 ^ 32))
    match s'.regWrite (homeDie p qn) q.cap.space q.cap.ptbase false (q.slot n) 64 bytes with
    | .ok t => some (wordOf n, t.pokePackage p)
    | .fail => some (wordOf n, s'.queueErr p qn 3)
    | .wait => none

/-- TLAUNCH (R224): a release, which waits until the hart's earlier scalar writes are placed (R230, R255). -/
def execTlaunch (o : VOp) (s : State) : Result :=
  if s.agentHeld (agentNo s.cur .scalar) then .next s
  else
    s.readBlock (.tlaunch o) (s.readX o.vs1) 64 fun b t =>
      match t.launch (s.readX o.vs2).toNat b with
      | some r => .next (r.2.finishV o.vd r.1)
      | none => .next s

/-- TWAIT (R227). -/
def execTwait (o : VOp) (s : State) : Result :=
  let qn := (s.readX o.vs1).toNat
  let n := field (s.readX o.vs2) 0 32
  let q := s.queue (pkgOf s.cur) qn
  if s.idCount ≤ qn ∨ q.enabled = false then .next (s.finishV o.vd (-1))
  else if (q.done + 2 ^ 33 - n - 1) % 2 ^ 32 < 2 ^ 31 then .next (s.finishV o.vd (wordOf q.done))
  else s.stall true

/-! ### TEXIT, TYIELD (R225, R226) -/

/-- TEXIT (R225): it waits as FENCE.ALL and for the hart's streams; from a handler the frozen vector state is discarded.  A RESTART
stop takes the hart here at once (R321). -/
def execTexit (s : State) : Result :=
  if s.hart.stop || (s.queueQuiet && s.streamsQuiet && !s.ownHeld [.scalar, .vector, .matrix, .stream]) then .next (s.endTask s.cur) else .next s

/-- TYIELD (R226). -/
def execTyield (s : State) : Result :=
  let t := s.advanceV
  .next (if s.copyWaits (coreKey s.cur) s.hart.task.prio then t.askPreempt s.cur 0 else t)

/-! ### The barrier (R115, R228) -/

/-- The phase of the barrier completes once every live member has arrived: it inverts, the count is 0, and every member's
event flag is set (R228). -/
def State.phaseTry (s : State) : State :=
  if s.hart.mode ≠ .cohort then (if s.hart.arrived then { s with hart := s.hart.flip } else s) else s.cohortPhase s.hart

/-- The member's arrival, which counts once in a phase (R228). -/
def State.arrive (s : State) : State := State.phaseTry { s with hart := { s.hart with arrived := true } }

/-- GARRIVE (R228): a release, which waits until the hart's earlier scalar writes are placed (R230, R255). -/
def execGarrive (o : VOp) (s : State) : Result :=
  if s.agentHeld (agentNo s.cur .scalar) then .next s
  else .next (s.arrive.finishV o.vd (wordOf (bit s.hart.phase)))

/-- GWAIT (R228). -/
def execGwait (o : VOp) (s : State) : Result :=
  let t := s.phaseTry
  if t.hart.phase ≠ (s.readX o.vs1).getLsbD 0 then .next (t.advanceV) else t.stall true

/-- GBAR: GARRIVE, then GWAIT on the phase it returned (R228). -/
def execGbar (s : State) : Result :=
  if s.hart.gbar.isNone && s.agentHeld (agentNo s.cur .scalar) then .next s
  else
  let t := match s.hart.gbar with
    | none => State.arrive { s with hart := { s.hart with gbar := some s.hart.phase } }
    | some _ => s.phaseTry
  match t.hart.gbar with
  | some ph =>
    if t.hart.phase ≠ ph then .next (State.advanceV { t with hart := { t.hart with gbar := none } }) else t.stall true
  | none => .next t

/-! ### LEASE (R229) -/

/-- The latest `n` cluster passes that a hart waits for are withdrawn, and their clusters free again (R91, R229, R404). -/
def State.dropAside (s : State) (g : Nat) : Nat → State
  | 0 => s
  | n + 1 =>
    let d := s.die (dieKey g)
    let w := d.waiting.reverse
    let i := w.findIdx fun r => r.kind == .cluster && r.g == g
    let s := (s.setDie (dieKey g) { d with waiting := (w.eraseIdx i).reverse }).pokeProctor (dieKey g)
    let h := s.getHart g
    let s := s.setHart g { h with lease := { h.lease with setAside := h.lease.setAside - 1 } }
    let f := s.form (formKey g)
    (s.setForm (formKey g) { f with clusters := f.clusters + 1 }).dropAside g n

/-- The pending target after an accepted LEASE (R229): `held` above the new preference gives it as target, or lowers a
reserved one; a raise above it is cut, its clusters and their passes returned. -/
def State.leaseTarget (s : State) (g pref : Nat) : State :=
  let l := (s.getHart g).lease
  let s := s.dropAside g (min l.setAside (l.heading - pref))
  let h := s.getHart g
  let l := h.lease
  let t := l.target.getD l.held
  let extra := t - max l.held pref
  let new := if l.held > pref then some (if l.reserved.isEmpty then pref else min pref t)
    else if t > pref then (if pref = l.held then none else some pref)
    else l.target
  let s := s.setHart g { h with lease := { l with target := new, passes := l.passes - extra } }
  let f := s.form (formKey g)
  let s := s.setForm (formKey g) { f with clusters := f.clusters + extra }
  (if extra = 0 then s else s.returnPass (dieKey g) (extra * clusterCharge)).offer (formKey g)

/-- LEASE (R229): ordered with the vector queue as a CTL write. -/
def execLease (o : VOp) (s : State) : Result :=
  let mn := (s.readX o.vs1).toNat
  let pf := (s.readX o.vs2).toNat
  let l := s.lease
  if !s.queueQuiet then .next s
  else
    let old := l.grant
    if s.hart.mode = .pipeline ∨ l.prefc = 0 ∨ pf = 0 ∨ 16 < pf ∨ pf < mn ∨ l.held < mn then
      .next ((s.orVstat vstatBadarg).finishV o.vd old)
    else
      let t := { s with hart := { s.hart with lease := { s.hart.lease with minc := mn, prefc := pf } } }
      .next (((t.leaseTarget s.cur pf).pokePackage (pkgOf s.cur)).finishV o.vd old)

/-! ### Hall passes (R405) -/

/-- HPASS completes with its answer (R405). -/
def State.hpassDone (s : State) (d : Reg) (q : Nat) (ok : Bool) : Result :=
  let t := { s with hart := { s.hart with asked := false, reply := none, hpass := if ok then q else s.hart.hpass } }
  .next (t.finishV d (wordOf (if ok then q else 0)))

/-- HPASS (R405): it waits until its request is granted or refused. -/
def execHpass (o : VOp) (s : State) : Result :=
  let q := (s.readX o.vs1).toNat
  if s.hart.asked then
    match s.hart.reply with
    | some ok => s.hpassDone o.vd q ok
    | none => .next s
  else if q = 0 ∨ 65535 < q ∨ s.hart.hpass ≠ 0 then .next ((s.orVstat vstatBadarg).finishV o.vd 0)
  else
    let (t, ok) := s.askPass (dieKey s.cur) { kind := .explicit, g := s.cur, slot := 0, charge := q }
    if ok then t.hpassDone o.vd q true else .next { t with hart := { t.hart with asked := true, reply := none } }

/-- HDONE (R405). -/
def execHdone (o : VOp) (s : State) : Result :=
  let q := s.hart.hpass
  let t := { s with hart := { s.hart with hpass := 0 } }
  .next ((if q = 0 then t else t.returnPass (dieKey s.cur) q).finishV o.vd (wordOf q))

end Sys2Proof.Machine
end

