-- ==== Sys2Proof/Machine/Context.lean ====
section
/-! DEFINITION. The context area (R342, R343): its image, VCLAIM, VSAVE and VRESTORE (R341, R345 to R347), and the save and the
restore of a pre-empted task (R348 to R350). -/

namespace Sys2Proof.Machine

/-! ### The image (R342, R343) -/

/-- A word of an image: its offset, its value, and whether it is poisoned (R353). -/
structure ImageWord where
  off : Nat
  val : Nat
  bad : Bool
  deriving DecidableEq, Repr

/-- A word without poison. -/
def ImageWord.plain (off val : Nat) : ImageWord := { off := off, val := val, bad := false }

/-- `n` words of a store from `key`, at an offset of the image. -/
def storeWords (m : Memory) (key off n : Nat) : List ImageWord :=
  (List.range n).map fun i => { off := off + 8 * i, val := m.read (key + 8 * i) 8, bad := m.poisoned (key + 8 * i) 8 }

/-- Where the registers of a hart stand: key in the register store, and offset of the image (R342). -/
def regPlacesOf (pipe : Bool) (role : Nat) : List (Nat × Nat) :=
  if pipe then
    (((List.range 28).filter fun n => decide ((rolePart role).1 ≤ n) && decide (n < (rolePart role).2)).map
      fun n => (n * Config.regStride, 0x100000 + 0x10000 * n))
  else (List.range 32).map fun n => (n * Config.regStride, 0x100000 + 0x18000 * n)

/-- The offset of entry e of ring j (R342). -/
def ringOff (j e : Nat) : Nat := 0x100000 + 0x10000 * (28 + 4 * j + e)

/-- PIPE and ROLE of CTX (R342). -/
def Hart.ctxWord (h : Hart) : Nat := bit (h.mode == .pipeline) * 2 + (if h.mode = .pipeline then h.role * 4 else 0)

/-- A mask register's offset (R342). -/
def maskOff (n : Nat) : Nat := 0x10000 + 0x18000 * (n - 1)

/-- The progress of an entry (R343, R344): a precise form not begun that has its ring entries starts at the ESTART in force. -/
def QEntry.imageP (e : QEntry) (estart : Nat) : Nat :=
  if e.begun then e.p else if e.ringed && e.precise then estart else e.p

/-- The words of a queue entry (R343). -/
def QEntry.image (e : QEntry) (estart k : Nat) : List ImageWord :=
  let b := 0x800 + 64 * k
  [.plain b e.bits.toNat, .plain (b + 8) e.addr.toNat, .plain (b + 16) e.xa.toNat, .plain (b + 24) e.xb.toNat,
   .plain (b + 32) e.vl, .plain (b + 40) e.vcfg.toNat,
   .plain (b + 48) (low 32 (e.imageP estart) + low 32 e.estart0 * 2 ^ 32),
   .plain (b + 56) (if e.begun || e.ringed then 2 else 1)]

/-- Bytes of an element of an instruction's vector destination (R25, R111). -/
def destBytes (i : Instr) : Nat :=
  match i with
  | .vldxc o => intBytes o.t
  | i => (((governed i).bind fun l => l.writes.head?).map Prod.snd).getD 1

/-- How many bytes of its destination the entry that has popped and opened ring entries has written (R111, R344). -/
def ringCut (q : List QEntry) : Nat := ((q.find? fun e => e.ringed && e.begun).map fun e => e.p * destBytes e.instr).getD 0

/-- The four slots of a ring (R111): of five entries the one that is being filled stands in the slot of the popped one, of which what lies
behind the progress is still to be read. -/
def ringSlots (cut : Nat) (es : List RingEntry) : List Memory :=
  match es with
  | a :: b :: c :: d :: e :: _ =>
    [b.data, c.data, d.data,
      ((a.data.clear 0 (min cut Config.regStride)).paste 0 (e.data.cut 0 cut))]
  | es => es.map RingEntry.data

/-- The words of a stream slot (R342). -/
def Slot.image (sl : Slot) (j : Nat) : List ImageWord :=
  let b := 0x400 + 128 * j
  [.plain b sl.status.toNat, .plain (b + 8) sl.bits.toNat, .plain (b + 16) sl.dst.toNat, .plain (b + 24) sl.src.toNat,
   .plain (b + 32) sl.recAddr.toNat]
    ++ (List.range 8).map fun i => .plain (b + 64 + 8 * i) (bitsOf sl.shape.toNat (64 * i) 64)

/-- The vector parts of a hart with its lease (R342); `ctx` is the word of CTX. -/
def Hart.vectorImage (h : Hart) (l : Lease) (ctx : Nat) : List ImageWord :=
  let pipe := h.mode == .pipeline
  let n := regBytes pipe l.lanes / 8
  let c := h.ctl
  [.plain 0x108 c.vl.toNat, .plain 0x110 c.vcfg.toNat, .plain 0x118 c.estart.toNat, .plain 0x120 c.vstat.toNat,
   .plain 0x130 c.slip.toNat, .plain 0x138 c.mlen.toNat, .plain 0x140 c.mstat.toNat,
   .plain 0x150 (l.lanes + l.minc * 2 ^ 5 + l.prefc * 2 ^ 10), .plain 0x158 ctx,
   .plain 0x160 (low 4 h.mat.stage0 + low 2 h.mat.block0 * 16), .plain 0x168 h.queue.length]
    ++ (if pipe && h.role == 1 then
        [.plain 0x170 ((List.range 4).foldr (fun j a => min 4 (l.ring j).length + 16 * a) 0)] else [])
    ++ ((List.range 16).map fun i => .plain (0x180 + 8 * i) (h.mat.stride i).toNat)
    ++ ((List.range 8).flatMap fun j => (h.slot j).image j)
    ++ (((List.range h.queue.length).zip h.queue).flatMap fun e => e.2.image c.estart.toNat e.1)
    ++ ((List.range 2048).map fun i =>
        .plain (0x1000 + 8 * i) ((SMap.get 0 h.q (2 * i)).toNat + 2 ^ 32 * (SMap.get 0 h.q (2 * i + 1)).toNat))
    ++ ((List.range 7).flatMap fun k =>
        (List.range n).map fun i =>
          { off := maskOff (k + 1) + 8 * i, val := bitsOf (h.mask (k + 1)) (64 * i) 64
            bad := SMap.get false h.maskPois (maskWord (k + 1) i) })
    ++ ((regPlacesOf pipe h.role).flatMap fun r => storeWords l.vmem r.1 r.2 n)
    ++ (if pipe && h.role == 1 then
        (List.range 4).flatMap fun j =>
          ((List.range 4).zip (ringSlots (ringCut h.queue) (l.ring j))).flatMap fun e => storeWords e.2 0 (ringOff j e.1) n
      else [])

/-- The scalar parts (R342). -/
def Hart.scalarImage (h : Hart) : List ImageWord :=
  ((List.range 32).map fun i => .plain (8 * i) (h.readX (BitVec.ofNat 5 i)).toNat)
    ++ [.plain 0x100 h.pc.toNat, .plain 0x128 h.ctl.fstat.toNat, .plain 0x148 h.ctl.retired.toNat]

/-! ### Accesses to an area (R341) -/

/-- An access to the area of a hart: a supervisor access of its scalar agent (R341). -/
def Hart.areaAccess (h : Hart) (g : Nat) (k : Kind) : Access :=
  { kind := k, user := false, agent := .scalar, space := field h.ctl.spaceNow 0 16, ptbase := h.ctl.ptbaseNow
    die := dieKey g, core := some (coreKey g), doomed := h.doomed, pages := [] }

/-- What a transfer of an area ends in. -/
inductive Moved (α : Type) where
  | ok (v : α)
  | bad (cause : Nat) (va : Word) (s : State)
  | wait

/-- Where a word of an area is. -/
def State.areaLoc (s : State) (g : Nat) (a : Access) (va : Word) : Loc :=
  match s.locate a va with
  | .place p l lost => if s.heldBy (agentNo g .scalar) p.key 8 then .wait else if lost then .bad cREMOTE_LOST else .place p l false
  | r => r

/-- The first word of some that cannot be reached, or a wait. -/
def State.areaFault (s : State) (g : Nat) (a : Access) (base : Word) : List Nat → Option (Option (Nat × Word))
  | [] => none
  | off :: t =>
    match s.areaLoc g a (base + wordOf off) with
    | .bad c => some (some (c, base + wordOf off))
    | .wait => some none
    | .place _ _ _ => s.areaFault g a base t

/-- One word of an image written at its place, with its poison (R353). -/
def State.putWord (s : State) (g : Nat) (loc : Nat → Loc) (w : ImageWord) : State :=
  match loc w.off with
  | .place p l _ =>
    (s.visit (dieKey g) p .write l).placeBad (agentNo g .scalar) l p.key 8 w.val w.bad
  | _ => s

/-- An image written (R341): with a fault, each word may or may not have been written; `strict` makes poison that stands in
the area a fault (R348). -/
def State.putImage (s : State) (g : Nat) (h : Hart) (base : Word) (strict : Bool) (ws : List ImageWord) : Moved State :=
  let a := h.areaAccess g .write
  let loc (off : Nat) : Loc := s.areaLoc g a (base + wordOf off)
  let part (_ : Unit) : State :=
    ((ws.filter fun w => Config.freePick s.free w.off).foldl (fun t w => t.putWord g loc w) s).nextFree
  match s.areaFault g a base (ws.map ImageWord.off) with
  | some none => .wait
  | some (some (c, va)) => .bad c va (part ())
  | none =>
    match (if strict then ws.find? fun w => match loc w.off with
        | .place p _ _ => s.mem.poisoned p.key 8
        | _ => false
      else none) with
    | some w => .bad cPOISON (base + wordOf w.off) (part ())
    | none => .ok (ws.foldl (fun t w => t.putWord g loc w) s)

/-- A word of an area that can be reached: its value and its poison. -/
def State.areaWord (s : State) (g : Nat) (a : Access) (base : Word) (off : Nat) : Nat × Bool :=
  match s.areaLoc g a (base + wordOf off) with
  | .place p l _ => (s.readAt l p.key 8, s.mem.poisoned p.key 8)
  | _ => (0, false)

/-- The offsets of the vector parts that stand at fixed places, for a count of clusters (R342). -/
def fixedOffs (h : Hart) (c : Nat) : List Nat :=
  let pipe := h.mode == .pipeline
  let n := regBytes pipe c / 8
  [0x108, 0x110, 0x118, 0x120, 0x130, 0x138, 0x140, 0x150, 0x158, 0x160, 0x168]
    ++ (if pipe && h.role == 1 then [0x170] else [])
    ++ ((List.range 16).map fun i => 0x180 + 8 * i)
    ++ ((List.range 8).flatMap fun j => ([0, 8, 16, 24, 32, 64, 72, 80, 88, 96, 104, 112, 120]).map (0x400 + 128 * j + ·))
    ++ ((List.range 2048).map fun i => 0x1000 + 8 * i)
    ++ ((List.range 7).flatMap fun k => (List.range n).map fun i => maskOff (k + 1) + 8 * i)
    ++ ((regPlacesOf pipe h.role).flatMap fun r => (List.range n).map fun i => r.2 + 8 * i)

/-- The offsets of the scalar parts (R342). -/
def scalarOffs : List Nat := ((List.range 32).map (8 * ·)) ++ [0x100, 0x128, 0x148]

/-- Entries of ring j by a word of occupancy (R342). -/
def ringCount (occ j : Nat) : Nat := min 4 (bitsOf occ (4 * j) 3)

/-- The offsets that the counts of an image add: its queue entries and its ring entries (R342). -/
def countedOffs (h : Hart) (c count occ : Nat) : List Nat :=
  ((List.range (min count 32)).flatMap fun k => (List.range 8).map fun i => 0x800 + 64 * k + 8 * i)
    ++ (if h.mode == .pipeline && h.role == 1 then
        (List.range 4).flatMap fun j => (List.range (ringCount occ j)).flatMap fun e =>
          (List.range (regBytes true c / 8)).map fun i => ringOff j e + 8 * i
      else [])

/-- Every word of some offsets reached and free of poison, but for contents that a restore copies with their poison, from `carry` on (R341,
R350, R353, R354, log 26); the state has their accessed bits. -/
def State.getWords (s : State) (g : Nat) (h : Hart) (base : Word) (carry : Nat) (offs : List Nat) : Moved State :=
  let a := h.areaAccess g .read
  match s.areaFault g a base offs with
  | some none => .wait
  | some (some (c, va)) => .bad c va s
  | none =>
    match offs.find? fun o => decide (o < carry) && (s.areaWord g a base o).2 with
    | some o => .bad cPOISON (base + wordOf o) s
    | none =>
      .ok (offs.foldl (fun t o => match t.areaLoc g a (base + wordOf o) with
        | .place p l _ => t.visit (dieKey g) p .read l
        | _ => t) s)

/-! ### What an image loads (R343, R344, R347) -/

/-- The instruction of some bits, if it is one that executes in the queue. -/
def queuedOf (bits : Word) : Option Instr :=
  let r : Except DecodeError Instr := match parcelLength (bits.setWidth 16) with
    | 2 =>
      if bits.extractLsb' 10 6 = 18 then .ok (.setvl { d := bits.extractLsb' 5 5, a := bits.extractLsb' 0 5, imm := 0 })
      else .error .badMajor
    | 4 => decodeWord (bits.setWidth 32)
    | 8 => decodeTile bits
    | _ => .error .badMajor
  match r with
  | .ok i => if (headOf i).isSome then some i else none
  | .error _ => none

/-- Queue entry k of an image; bits that name no queued instruction make none (log 26). -/
def entryFrom (rd : Nat → Nat) (pipe : Bool) (k : Nat) : Option QEntry :=
  let b := 0x800 + 64 * k
  let begun := rd (b + 56) % 4 = 2
  (queuedOf (wordOf (rd b))).map fun i =>
    { instr := i, bits := wordOf (rd b), addr := wordOf (rd (b + 8)), xa := wordOf (rd (b + 16)), xb := wordOf (rd (b + 24))
      vl := rd (b + 32), vcfg := wordOf (rd (b + 40)), p := low 32 (rd (b + 48)), estart0 := bitsOf (rd (b + 48)) 32 32
      begun := begun, ringed := begun && pipe, mlen := none, fenced := none, solo := false, chunks := none, pieces := [], pages := [] }

/-- A slot of an image; what the image leaves out stays (log 26). -/
def Slot.load (old : Slot) (rd : Nat → Nat) (j : Nat) : Slot :=
  let b := 0x400 + 128 * j
  let st := wordOf (rd b)
  { old with
    status := st, bits := wordOf (rd (b + 8)), dst := wordOf (rd (b + 16)), src := wordOf (rd (b + 24))
    recAddr := wordOf (rd (b + 32))
    shape := BitVec.ofNat 512 ((List.range 8).foldr (fun i a => rd (b + 64 + 8 * i) + 2 ^ 64 * a) 0)
    landed := 2 ^ field st 0 24 - 1 }

/-- Words of an image loaded into a store, with their poison (R353). -/
def loadStore (rd : Nat → Nat × Bool) (key off : Nat) : Nat → Memory → Memory
  | 0, m => m
  | n + 1, m =>
    let m := loadStore rd key off n m
    let w := rd (off + 8 * n)
    let m := m.write (key + 8 * n) 8 w.1
    if w.2 then m.poison (key + 8 * n) else m

/-- The entries of a ring read back: those that instructions of the task have popped are the oldest, those they are filling
the newest; the slot that stands for both is taken apart (R111, log 26). -/
def rejoin (cut : Nat) (old : List RingEntry) (es : List Memory) : List RingEntry :=
  let held (f : RingEntry → Option Nat) := (old.filterMap f).filter fun t => t % 2 = 0
  let rs := held RingEntry.reader
  let ws := (held RingEntry.writer).reverse
  let es := match es with
    | [b, c, d, e] => if rs.isEmpty || ws.isEmpty || old.length < 5 then es else [e, b, c, d, e.cut 0 cut]
    | es => es
  ((List.range es.length).zip es).map fun p =>
    { data := p.2, reader := rs[p.1]?, writer := ws[es.length - 1 - p.1]? }

/-- The lease with the registers, rings, MINC and PREFC of an image (R342, R347, R350). -/
def Lease.load (l : Lease) (h : Hart) (rd : Nat → Nat × Bool) : Lease :=
  let pipe := h.mode == .pipeline
  let n := regBytes pipe l.lanes / 8
  let cut := ringCut ((List.range (min (rd 0x168).1 32)).filterMap (entryFrom (fun o => (rd o).1) pipe))
  let m := (regPlacesOf pipe h.role).foldl (fun m r => loadStore rd r.1 r.2 n m) l.vmem
  let l := { l with vmem := m, minc := bitsOf (rd 0x150).1 5 5, prefc := bitsOf (rd 0x150).1 10 5 }
  if pipe && h.role == 1 then
    (List.range 4).foldl (fun l j =>
      l.setRing j (rejoin cut (l.ring j)
        ((List.range (ringCount (rd 0x170).1 j)).map fun e => loadStore rd 0 (ringOff j e) n Memory.empty))) l
  else l

/-- The poisoned words of the masks of an image, `n` words of each (R353). -/
def maskPoison (rd : Nat → Nat × Bool) (n : Nat) : SMap Bool :=
  (List.range 7).foldl (fun p k =>
    (List.range n).foldl (fun p i => SMap.set false p (maskWord (k + 1) i) (rd (maskOff (k + 1) + 8 * i)).2) p) []

/-- The hart with the vector parts of an image (R347); reserved bits of a control register and of a stride register stay zero (R14, R196),
and PIPE as it is (R98). -/
def Hart.loadVector (h : Hart) (c : Nat) (words : Nat → Nat × Bool) : Hart :=
  let rd (o : Nat) : Nat := (words o).1
  let pipe := h.mode == .pipeline
  let n := regBytes pipe c / 8
  let h := (List.range 7).foldl (fun h k =>
    h.setMask (k + 1) ((List.range n).foldr (fun i a => rd (maskOff (k + 1) + 8 * i) + 2 ^ 64 * a) 0)) h
  let q := (List.range 4096).foldl (fun q e =>
    SMap.set 0 q e (BitVec.ofNat 32 (bitsOf (rd (0x1000 + 8 * (e / 2))) (32 * (e % 2)) 32))) ([] : SMap (BitVec 32))
  { h with
    maskPois := maskPoison words n
    ctl := { h.ctl with
      vl := wordOf (rd 0x108), vcfg := (h.ctl.vcfg &&& ~~~0xFFFFFF) ||| (wordOf (rd 0x110) &&& 0xFFFFFF), estart := wordOf (rd 0x118)
      vstat := wordOf (rd 0x120) &&& 0x3FD, slip := wordOf (rd 0x130) &&& 7, mlen := wordOf (rd 0x138) &&& 0x7F
      mstat := wordOf (rd 0x140) &&& 0x3FC }
    q := q
    queue := (List.range (min (rd 0x168) 32)).filterMap (entryFrom rd pipe)
    slots := Vector.ofFn fun j => (h.slot j).load rd j
    mat := { h.mat with
      stage0 := bitsOf (rd 0x160) 0 4, block0 := bitsOf (rd 0x160) 4 2
      bs := Vector.ofFn fun i => wordOf (rd (0x180 + 8 * i)) &&& ~~~0xFFFFF800 } }

/-- The hart with the scalar parts of an image (R350): x0 and bit 0 of PC stay zero (R6, R7), and a setting of the event flag
that came while the task was pre-empted is kept (R87). -/
def Hart.loadScalar (h : Hart) (rd : Nat → Nat) : Hart :=
  { h with
    x := Vector.ofFn fun i => if i.val = 0 then 0 else wordOf (rd (8 * i))
    pc := wordOf (rd 0x100) &&& ~~~1, event := h.event || (rd 0x158).testBit 0
    ctl := { h.ctl with fstat := wordOf (rd 0x128) &&& 0x7F, retired := wordOf (rd 0x148) } }

/-! ### VCLAIM, VSAVE, VRESTORE (R345 to R347) -/

/-- A MATT's request that waits at the queue head is withdrawn; the MATT asks again when it runs again (R344, R404). -/
def State.dropTileAsk (s : State) (g : Nat) : State :=
  let h := s.getHart g
  if !h.mat.asked then s
  else
    let fk := formKey g
    let f := s.form fk
    let s := s.setForm fk { f with tileWait := f.tileWait.filter fun r => r.1 ≠ g }
    let s := s.withdraw (dieKey g) fun r => r.kind == .tile && r.g == g
    let s := if h.mat.reply == some true then s.returnPass (dieKey g) tileCharge else s
    let h' := s.getHart g
    (s.setHart g { h' with mat := { h'.mat with taken := 0, asked := false, reply := none } }).freeTiles fk h.mat.taken

/-- The area an instruction names (R341). -/
def State.areaOf (s : State) (a : Reg) : Word := if a = 0 then s.hart.ctl.vsaveptr else s.readX a

/-- The checks the three share (R120, R341), and their wait for the hart's streams, and for the handler's own queue
(R345, R346). -/
def State.context (s : State) (i : Instr) (va : Word) (go : Result) : Result :=
  if !s.hart.prv then .next (s.trapBits cPRIVILEGE i)
  else if va.toNat % 4096 ≠ 0 then .next (s.trapIssue cMISALIGN_ISSUE va 0)
  else if !s.streamsQuiet || s.hart.mat.asked || (s.hart.vclaimed && !s.hart.queue.isEmpty) then .next s
  else go

/-- The vector parts written to an area; a fault is a double fault (R341). -/
def State.saveVector (s : State) (va : Word) (go : State → Result) : Result :=
  match s.putImage s.cur s.hart va false (s.hart.vectorImage s.lease s.hart.ctxWord) with
  | .ok t => go t
  | .bad c a t => .next (t.trapIssue c a 0)
  | .wait => .next s

/-- The hart once its vector context is claimed (R345). -/
def Hart.claim (h : Hart) : Hart :=
  { h with
    queue := [], claimGset := h.gsetVl, claimFences := h.vvFence :: h.queue.map QEntry.fenced, vvFence := none
    ctl := { h.ctl with status := h.ctl.status ||| 8, vl := 0, estart := 0 }
    mat := { h.mat with block0 := 0, stage0 := 0 } }

/-- VCLAIM (R120, R345). -/
def execVclaim (s : State) : Result :=
  if s.hart.prv && s.hart.vclaimed then .next (s.advance 4)
  else
    s.context .vclaim s.hart.ctl.vsaveptr
      (s.saveVector s.hart.ctl.vsaveptr fun t =>
        let t := t.dropTileAsk t.cur
        .next (State.advance { t with hart := t.hart.claim } 4))

/-- VSAVE (R120, R346). -/
def execVsave (a : Reg) (s : State) : Result :=
  s.context (.vsave a) (s.areaOf a) (s.saveVector (s.areaOf a) fun t => .next (t.advance 4))

/-- Streams that an image leaves ACTIVE resume their landings. -/
def State.resumeLanding (s : State) (g : Nat) : State :=
  ((List.range 8).filter fun j => ((s.getHart g).slot j).state = .active).foldl (fun s j => s.pushOnce (landingEvent g j)) s

/-- The marks of FENCE.VV put back where VCLAIM found them: before the next instruction, and before each entry (R83, R345). -/
def Hart.putFences (h : Hart) : Hart :=
  match h.claimFences with
  | v :: fs => { h with
      vvFence := v, claimFences := []
      queue := ((List.range h.queue.length).zip h.queue).map fun e => { e.2 with fenced := fs.getD e.1 none } }
  | [] => h

/-- A redistribution whose boundary an image has left out of its queue is made at once (R93, log 26). -/
def State.lostBoundary (s : State) : State :=
  if s.hart.resizing && decide ((s.hart.queue.filter QEntry.boundary).length ≤ s.hart.lease.before) then
    s.resize s.hart.ctl.vl.toNat s.hart.ctl.vcfg s.hart.ctl.vcfg
  else s

/-- VRESTORE's loading of every vector part (R347). -/
def State.restoreVector (s : State) (va : Word) : Result :=
  let g := s.cur
  let a := s.hart.areaAccess g .read
  let rd := s.areaWord g a va
  let c := s.lease.lanes
  let offs := fixedOffs s.hart c ++ countedOffs s.hart c (rd 0x168).1 (rd 0x170).1
  match s.getWords g s.hart va (2 ^ 64) offs with
  | .wait => .next s
  | .bad cause at_ t => .next (t.trapIssue cause at_ 0)
  | .ok t =>
    let t := t.dropTileAsk g
    let t := t.setLease (t.lease.load t.hart rd)
    let fences := if t.hart.vclaimed then t.hart.claimFences else t.hart.vvFence :: t.hart.queue.map QEntry.fenced
    let h := Hart.putFences { t.hart.loadVector c rd with claimFences := fences }
    let h := { h with
      gsetVl := if t.hart.vclaimed then t.hart.claimGset else t.hart.gsetVl
      ctl := { h.ctl with status := h.ctl.status &&& ~~~8 } }
    .next ((State.resumeLanding (State.lostBoundary { t with hart := h }) g).advance 4)

/-- VRESTORE (R120, R347): an area of another count, mode or role loads nothing. -/
def execVrestore (a : Reg) (s : State) : Result :=
  let va := s.areaOf a
  s.context (.vrestore a) va
    (match s.getWords s.cur s.hart va (2 ^ 64) [0x150, 0x158] with
      | .wait => .next s
      | .bad cause at_ t => .next (t.trapIssue cause at_ 0)
      | .ok t =>
        let rd := s.areaWord s.cur (s.hart.areaAccess s.cur .read) va
        if bitsOf (rd 0x150).1 0 5 ≠ s.lease.lanes ∨ bitsOf (rd 0x158).1 1 3 ≠ bitsOf s.hart.ctxWord 1 3 then .next (t.advance 4)
        else s.restoreVector va)

/-! ### Pre-emption (R348) -/

/-- Whether a hart may be stopped for a pre-emption now: at user level, its core not halted, its streams and transfers done and its
writes placed, no hall pass awaited and no MATT under way (R194, R348). -/
def State.preemptible (s : State) (g : Nat) : Bool :=
  let h := s.getHart g
  let c := s.core (coreKey g)
  h.run == .running && !h.prv && !c.halted && !c.halting && !h.streaming && !h.asked && !h.mat.asked
    && !([Agent.scalar, .vector, .matrix].any fun a => s.agentHeld (agentNo g a))

/-- The save of one hart into its area (R348 step 4). -/
def State.saveHart (s : State) (g : Nat) : Moved State :=
  let h := s.getHart g
  let l := if h.owner = g then h.lease else (s.getHart h.owner).lease
  if h.ctl.vsaveptr.toNat % 4096 ≠ 0 then .bad cMISALIGN_ISSUE h.ctl.vsaveptr s
  else s.putImage g h h.ctl.vsaveptr true (h.scalarImage ++ h.vectorImage l (h.ctxWord + bit h.event))

/-- The saves of a task's harts. -/
def State.saveAll (s : State) : List Nat → Moved State
  | [] => .ok s
  | g :: t =>
    match s.saveHart g with
    | .ok s' => s'.saveAll t
    | r => r

/-- A saved hart becomes idle, and its lease is released (R348 step 5); what stays in place stands in `parked` (R349), its event
flag clear, to collect the settings that come meanwhile (R87). -/
def State.park (s : State) (g reason : Nat) : State :=
  let s := s.dropTileAsk g
  let h := s.getHart g
  let s := s.rollHart g 3 reason h.pc h.ctl.vsaveptr
  let s := { s with parked := s.parked ++ [(g, { h with preempt := none, event := false, late := none })] }
  let s := if h.owner = g then s.releaseLease g else s
  (s.setHart g h.cleared).pokePackage (pkgOf g)

/-- A pre-emption asked for is carried out on every hart of the task, once each can be stopped and the lanes stand level (R344); a failed
save kills the task (R348), and a stop decided meanwhile ends it (R321). -/
def State.preemptNow (s : State) (g reason : Nat) : State :=
  let gs := s.taskHarts g
  if (s.getHart g).stop then gs.foldl State.endTask s
  else if !gs.all s.preemptible then s
  else
    match gs.find? fun j => (s.switch j).ragged.isSome with
    | some j => s.onHart j fun t => t.levelMove.getD t
    | none =>
    match s.saveAll gs with
    | .wait => s
    | .bad c _ t => t.kill g c (t.getHart g).pc
    | .ok t => gs.foldl (fun t j => t.park j reason) t

/-! ### Resuming (R226, R350) -/

/-- Whether a copy that can start waits for a core at a level above one (R226). -/
def State.copyAbove (s : State) (core level : Nat) : Bool :=
  let p := core / 768
  let starts (r : RunRec) : Bool := r.waiting.any fun c => 768 * p + c.2 = core && (s.startCopy r c.1 c.2).isSome
  (s.runs.any fun r => r.home / 4 == p && !r.stopping && !r.due && decide (level < s.runLevel r) && starts r)
    || (List.range s.dieCount).any fun d => (s.lookAll (4 * p + d)).2.any fun c => decide (level < c.level) && starts c.run

/-- The harts of a pre-empted task, in the order of their roles. -/
def State.parkedTask (s : State) (g : Nat) (h : Hart) : List (Nat × Hart) :=
  let ps := s.parked.filter fun p => coreKey p.1 = coreKey g && p.2.task = { h.task with area := p.2.task.area }
  (List.range 3).flatMap fun r => ps.filter fun p => p.2.role = r

/-- One hart read back from its area (R350): the hart, the lease with its registers, and the state. -/
def State.readHart (s : State) (g : Nat) (h : Hart) (l : Lease) : Moved (State × Hart × Lease) :=
  let base := h.ctl.vsaveptr
  let rd := s.areaWord g (h.areaAccess g .read) base
  match s.getWords g h base 0x10000 (scalarOffs ++ fixedOffs h l.lanes ++ countedOffs h l.lanes (rd 0x168).1 (rd 0x170).1) with
  | .wait => .wait
  | .bad c va t => .bad c va t
  | .ok t =>
    let fences := h.vvFence :: h.queue.map QEntry.fenced
    .ok (t, (Hart.putFences { h.loadVector l.lanes rd with claimFences := fences }).loadScalar fun o => (rd o).1, l.load h rd)

/-- The harts of a task read back. -/
def State.readAll (s : State) : List (Nat × Hart) → Lease → Moved (State × List Hart × Lease)
  | [], l => .ok (s, [], l)
  | p :: t, l =>
    match s.readHart p.1 p.2 l with
    | .wait => .wait
    | .bad c va s' => .bad c va s'
    | .ok (s', h, l') =>
      match s'.readAll t l' with
      | .ok (u, hs, l'') => .ok (u, h :: hs, l'')
      | .wait => .wait
      | .bad c va u => .bad c va u

/-- The clusters of a lease taken again, each above the minimum with its hall pass, where all can be had at once (R94, R350,
R403). -/
def State.regrant (s : State) (g : Nat) (l : Lease) : Option State :=
  let fk := formKey g
  let f := s.form fk
  let d := s.die (dieKey g)
  let need := max l.held l.lanes
  let charge := (need - l.minc) * clusterCharge
  if f.clusters < need then none
  else if charge = 0 then some (s.setForm fk { f with clusters := f.clusters - need })
  else if d.waiting.isEmpty && decide (charge + d.granted ≤ d.budget) then
    some ((s.setForm fk { f with clusters := f.clusters - need }).setDie (dieKey g) { d with granted := d.granted + charge })
  else none

/-- A pre-empted task resumed, if it can be now (R226, R350). -/
def State.resumeTask (s : State) (ps : List (Nat × Hart)) : Option State :=
  match ps with
  | [] => none
  | (g, h) :: _ =>
    let idle := (s.idleHarts (coreKey g)).take ps.length
    let c := s.core (coreKey g)
    let own := ((ps.find? fun p => p.1 = p.2.owner).getD (g, h))
    let l := own.2.lease
    if idle.length < ps.length || c.halted || c.halting || s.copyAbove (coreKey g) h.task.prio then none
    else
      match s.regrant g { l with passes := 0 } with
      | none => none
      | some granted =>
        let gone (t : State) : State := { t with parked := t.parked.filter fun p => !ps.contains p }
        match s.readAll ps l with
        | .wait => none
        | .bad cause _ t => some (ps.foldl (fun t p => t.killParked p.1 p.2 cause) t)
        | .ok (_, hs, l') =>
          let t := match granted.readAll ps l with
            | .ok (t, _, _) => t
            | _ => granted
          let t := gone t
          let owner := ((ps.zip idle).find? fun p => p.1.1 = own.1).map Prod.snd |>.getD g
          let need := max l.held l.lanes
          let going := min (need - l.minc) (need - l.held)
          let lease := { l' with
            target := none, reserved := [], passes := need - l.minc - going, setAside := 0, leaving := [], leavingPasses := going }
          some ((hs.zip idle).foldl (fun t p =>
            let j := p.2
            let h := { p.1 with run := .running, owner := owner, lease := (if j = owner then lease else Lease.none) }
            let t := (t.setHart j h).resumeLanding j
            t.rollHart j 4 0 h.pc h.ctl.vsaveptr) t)

/-- The first of some pre-empted tasks that can resume. -/
def State.resumeFirst (s : State) : List (Nat × Hart) → Option State
  | [] => none
  | p :: t =>
    match s.resumeTask (s.parkedTask p.1 p.2) with
    | some u => some u
    | none => s.resumeFirst t

/-- Whether a pre-empted task could read its area but for a page of it that is being moved, or a write to it that is not placed (R363,
R371). -/
def State.areaWaits (s : State) (ps : List (Nat × Hart)) : Bool :=
  match ps with
  | [] => false
  | (g, h) :: _ => match s.readAll ps ((ps.find? fun p => p.1 = p.2.owner).getD (g, h)).2.lease with
    | .wait => true
    | _ => false

/-- TASK_RESUME: the oldest pre-empted task of the die `arg.pkg`, `arg.die` that can resume does (R226, R350, log 43); one whose area has
to be waited for is looked at again. -/
def execTaskResume (s : State) : Result :=
  let dk := 4 * s.arg.pkg + s.arg.die
  .next (match s.resumeFirst (s.parked.filter fun p => dieKey p.1 = dk) with
    | some t => t.pokePackage s.arg.pkg
    | none => if (s.parked.filter fun p => dieKey p.1 = dk).any fun p => s.areaWaits (s.parkedTask p.1 p.2) then s.pokeResume dk else s)

end Sys2Proof.Machine
end

