-- ==== Sys2Proof/Machine/Drafts.lean ====
section
/-! DEFINITION. The draft instructions (R312 to R318). -/

namespace Sys2Proof.Machine

/-- Whether a draft id names an entry of the part (R310). -/
def State.draftIn (s : State) (d : Nat) : Bool := decide (d < s.idCount)

/-- The selector-0 status word of a draft (R317). -/
def State.draftWord (s : State) (d : Nat) : Word :=
  let e := s.draft (pkgOf s.cur) d
  if s.draftIn d && e.bound then e.word else draftNone

/-- The code of a DREG (R313). -/
def State.dregCode (s : State) (h : Word) (d : Nat) : Nat :=
  let e := s.draft (pkgOf s.cur) d
  if !s.draftIn d then 1
  else if h ≠ 0 ∧ 0x7E0000000000 ≤ h.toNat ∧ h.toNat ≤ 0x7FFFFFFFFFFF then 2
  else if (h ≠ 0 && e.bound) || (h = 0 && !e.bound) then 3
  else if h = 0 ∧ e.space ≠ field s.hart.ctl.spaceNow 0 16 then 4
  else if h = 0 && !e.final && !e.abandoned then 5
  else 0

/-- The effect of a DREG whose code is 0 (R313): the entry bound, with bytes 0 to 11 of its header written, or unbound. -/
def State.dregGo (s : State) (h : Word) (d : Nat) : State :=
  let p := pkgOf s.cur
  if h = 0 then
    let pipe := (s.draft p d).pipeline
    ((s.setDraft p d DraftRec.reset).settleCheck p pipe).pokePackage p
  else
    ((s.setDraft p d { DraftRec.reset with
      bound := true, header := h, space := field s.hart.ctl.spaceNow 0 16, ptbase := s.hart.ctl.ptbaseNow
      queue := s.hart.task.queue, packet := s.hart.task.packet
      pipeline := ((s.runOf s.hart).map fun r => pkPipeline r.bytes).getD 0 }).mirror p d).tag p d

/-- DREG (R313). -/
def execDreg (o : VOp) (s : State) : Result :=
  let h := s.readX o.vs1
  let d := (s.readX o.vs2).toNat
  let go (_ : Unit) : Result :=
    let c := s.dregCode h d
    .next ((if c = 0 then s.dregGo h d else s).finishV o.vd (wordOf c))
  if h = 0 then go ()
  else
    match s.scalarLoc .write h 16 with
    | .bad c => .next (s.trapAccess (instrBits (.dreg o)) c h)
    | .wait => .next s
    | .place _ _ lost => if lost then .next (s.trapIssue cREMOTE_LOST h 0) else go ()

/-- The result of a publication that is refused, 0 where it is not (R314). -/
def State.publishCode (s : State) (d : Nat) : Int :=
  let e := s.draft (pkgOf s.cur) d
  if !s.draftIn d || !e.bound then -1
  else if e.queue ≠ s.hart.task.queue ∨ e.packet ≠ s.hart.task.packet then -2
  else if e.final || e.abandoned then -3
  else if e.version = 2 ^ 32 - 1 then -4
  else 0

/-- The event flag of every hart stalled in DWAIT on a draft is set (R314), of pre-empted ones too (R87). -/
def State.wakeDrafts (s : State) (p d : Nat) : State :=
  s.wakeAll fun g h => pkgOf g == p && h.dwait == some d

/-- DPUB and DFINAL (R314): a release at the publisher's scope (R256, R257). -/
def State.publish (s : State) (o : VOp) (final : Bool) : Result :=
  let p := pkgOf s.cur
  let d := (s.readX o.vs1).toNat
  match s.release (vcfgLevel s.hart.ctl.vcfg) with
  | none => .next s
  | some s =>
  if s.publishCode d ≠ 0 then .next (s.finishV o.vd (BitVec.ofInt 64 (s.publishCode d)))
  else
    let e := s.draft p d
    let t := s.setDraft p d { e with version := e.version + 1, final := final }
    .next (((t.wakeDrafts p d).draftChanged p d).finishV o.vd (wordOf (e.version + 1)))

/-- DPUB (R314). -/
def execDpub (o : VOp) (s : State) : Result := s.publish o false

/-- DFINAL (R314, R315): a run whose snapshot holds an input that is not FINAL traps DRAFT_ORDER. -/
def execDfinal (o : VOp) (s : State) : Result :=
  if ((s.runOf s.hart).map fun r => r.snap.any fun i => !i.final).getD false then
    .next (s.trapIssue cDRAFT_ORDER 0 (s.readX o.vs1))
  else s.publish o true

/-- The event flag of every hart running a copy of a draft's producer is set, of pre-empted ones too (R87, R316). -/
def State.wakeProducer (s : State) (p : Nat) (e : DraftRec) : State :=
  s.wakeAll fun g h => pkgOf g == p && h.run != .idle && !h.task.boot && h.task.queue == e.queue && h.task.packet == e.packet

/-- DSTOP (R316): STOPREQ where the draft is neither FINAL nor ABANDONED; the flags in every case. -/
def execDstop (o : VOp) (s : State) : Result :=
  let p := pkgOf s.cur
  let d := (s.readX o.vs1).toNat
  let e := s.draft p d
  let t := if !s.draftIn d || !e.bound then s
    else (if e.final || e.abandoned then s else (s.setDraft p d { e with stopreq := true }).draftTail p d).wakeProducer p e
  .next (t.finishV o.vd (t.draftWord d))

/-- DCHK (R317). -/
def execDchk (o : VOp) (s : State) : Result :=
  let d := (s.readX o.vs1).toNat
  match (s.readX o.vs2).toNat with
  | 0 => .next (s.finishV o.vd (s.draftWord d))
  | 1 =>
    let w := ((s.runOf s.hart).bind fun r => (r.snap.find? fun i => i.did = d).map SnapRec.status).getD draftNone
    .next (s.finishV o.vd (if s.draftIn d then w else draftNone))
  | _ => .next ((s.orVstat vstatBadarg).finishV o.vd draftNone)

/-- DWAIT (R318). -/
def execDwait (o : VOp) (s : State) : Result :=
  let d := (s.readX o.vs1).toNat
  let e := s.draft (pkgOf s.cur) d
  if !s.draftIn d || !e.bound || e.final || e.abandoned || decide (field (s.readX o.vs2) 0 32 < e.version) then
    let t := { s with hart := { s.hart with dwait := none } }
    .next (t.finishV o.vd (s.draftWord d))
  else State.stall { s with hart := { s.hart with dwait := some d } } true

end Sys2Proof.Machine
end

