-- ==== Sys2Proof/Machine/Exceptions.lean ====
section
/-! DEFINITION. The events in which an instruction is not executed: illegal bits and fetch faults (R33, R36). -/

namespace Sys2Proof.Machine

/-- ILLEGAL_INSTRUCTION: the bits stand in `arg.val` (R33). -/
def execIllegalInstruction (s : State) : Result := .next (s.trapIssue cILLEGAL 0 (wordOf s.arg.val.toNat))

/-- FETCH_FAULT: the cause stands in `arg.aux`, the address in `arg.val` (R36). -/
def execFetchFault (s : State) : Result := .next (s.trapIssue s.arg.aux (wordOf s.arg.val.toNat) 0)

end Sys2Proof.Machine
end

