-- ==== Sys2Proof/Machine/Grants.lean ====
section
/-! DEFINITION. The events of a hart's queue, of the Registrars and of what they grant: the queue head (R107), dispatch and aging
(R216, R218 to R220, R320), the doorbells and tables (R209, R210, R323, R402), LEASEWAIT (R94, R321), hall passes (R404) and
tiles (R170). -/

namespace Sys2Proof.Machine

/-! ### Units an event names -/

/-- The die an event names. -/
def EvArg.dieKey (a : EvArg) : Nat := 4 * a.pkg + a.die

/-- An event of a package of the group. -/
def State.atPackage (s : State) (go : State) : Result := if s.present s.arg.pkg then .next go else .fault .absentUnit

/-- An event of a compute die of the group. -/
def State.atDie (s : State) (go : State) : Result :=
  if s.present s.arg.pkg && decide (s.arg.die < s.dieCount) then .next go else .fault .absentUnit

/-! ### The vector queue (R107) -/

/-- QUEUE_HEAD_EXECUTE: the front entry of the queue of the hart `arg.idx` performs its work (R107). -/
def execQueueHeadExecute (s : State) : Result := .next (s.onHart s.arg.idx State.queueMove)

/-! ### Dispatch (R216, R218, R219, R320) -/

/-- DISPATCH_SLOT (R219). -/
def execDispatchSlot (s : State) : Result := s.atDie (s.dispatchSlot s.arg.dieKey)

/-- COPY_HANDOFF: the copies of packet `arg.aux` of queue `arg.idx` reach the die, from its home queue's over the link on VC 3 (R216,
R378). -/
def execCopyHandoff (s : State) : Result :=
  let a := s.arg
  s.atDie (({ s.carry (homeDie a.pkg a.idx) a.dieKey 3 with runs := s.runs.map fun (r : RunRec) =>
    if r.home / 4 = a.pkg ∧ r.queue = a.idx ∧ r.packet = a.aux ∧ ¬ r.handed.contains a.die then
      { r with handed := r.handed ++ [a.die] }
    else r }).pokePackage a.pkg)

/-- LEVEL_AGING: each packet of the die rises to the level that the clocks since it became ready give (R218). -/
def execLevelAging (s : State) : Result :=
  let dk := s.arg.dieKey
  let d := s.die dk
  let queues := d.queues.map fun q => (q.1, match q.2.ready with
    | some t => { q.2 with age := agedTo t s.clk }
    | none => q.2)
  let t := s.setDie dk { d with queues := queues }
  let t := { t with runs := t.runs.map fun (r : RunRec) =>
    if r.home = dk ∧ ¬ r.waiting.isEmpty then { r with age := agedTo r.ready s.clk } else r }
  let more := queues.any (fun q => q.2.ready.isSome && decide (q.2.age < 6))
    || t.runs.any fun r => r.home == dk && !r.waiting.isEmpty && decide (r.age < 6)
  s.atDie (if more then t.pushOnce (dieEvent .levelAging dk 0) else t)

/-- RELAUNCH: a stopped run whose copies have all stopped starts afresh (R320, R321). -/
def execRelaunch (s : State) : Result :=
  let a := s.arg
  s.atDie (match s.runs.find? fun r => r.isOf a.dieKey a.idx a.aux && r.due with
    | some r => s.refire r
    | none => s)

/-! ### Doorbells and tables (R209, R210, R323, R402) -/

/-- Whether an event is a request of a package's host. -/
def Event.ofHost (e : Event) (p : Nat) : Bool := (e.kind == .hostRead || e.kind == .hostWrite || e.kind == .tailWrite) && e.arg.pkg == p

/-- The request waits: it stands again behind the other agents' events, ahead of its bridge's later requests (R398). -/
def State.hostAgain (s : State) (k : Instr) : State :=
  { s with events := s.events.filter (fun e => !e.ofHost s.arg.pkg) ++ [{ kind := k, arg := s.arg }] ++ s.events.filter (·.ofHost s.arg.pkg) }

/-- TAIL_WRITE: `arg.val` written by a host to the TAIL of queue `arg.idx` of the die (R210, R211): a release, which waits until the
hosts' earlier writes are placed (R212, R256). -/
def execTailWrite (s : State) : Result :=
  s.atDie (if s.packages.any fun p => s.agentHeld (hostWriter p) then s.hostAgain .tailWrite
    else s.winWrite s.arg.dieKey (32 * s.arg.idx + 20) 4 s.arg.val.toNat)

/-- EN of a queue of a die written, the rest of its word as it is. -/
def State.writeEnable (s : State) (v : Nat) : State :=
  let i := s.arg.idx
  let old := (SMap.get QueueRec.reset (s.die s.arg.dieKey).queues i).desc.toNat
  s.winWrite s.arg.dieKey (32 * i) 4 (setBits (low 32 old) 0 1 v)

/-- QUEUE_ENABLE: EN of queue `arg.idx` set (R210). -/
def execQueueEnable (s : State) : Result := s.atDie (s.writeEnable 1)
/-- QUEUE_DISABLE: EN of queue `arg.idx` cleared (R210). -/
def execQueueDisable (s : State) : Result := s.atDie (s.writeEnable 0)

/-- PIPELINE_ARM: STATE := 1 in entry `arg.idx` of the die's pipeline table (R323, R324). -/
def execPipelineArm (s : State) : Result := s.atDie (s.winWrite s.arg.dieKey (0x600000 + 32 * s.arg.idx) 1 1)

/-- BUDGET_WRITE: `arg.val` written to BUDGET (R402). -/
def execBudgetWrite (s : State) : Result :=
  s.atDie (s.winWrite s.arg.dieKey 0xA00000 8 (low 20 s.arg.val.toNat * 2 ^ 20))

/-- Whether a width and an offset make a naturally aligned access (R209). -/
def naturally (off n : Nat) : Bool := (n = 1 || n = 2 || n = 4 || n = 8) && off % n = 0

/-- REGISTER_WRITE: `arg.aux` bytes of `arg.val` written at offset `arg.idx` of the die's window (R209). -/
def execRegisterWrite (s : State) : Result :=
  s.atDie (if naturally s.arg.idx s.arg.aux then s.winWrite s.arg.dieKey s.arg.idx s.arg.aux s.arg.val.toNat else s)

/-! ### LEASEWAIT (R94, R112, R321) -/

/-- LEASEWAIT_EXPIRY: the hart `arg.idx` has run LEASEWAIT clocks of user-level code without a strip boundary: a RESTART stop
takes it, or a revoke pre-empts its task; a member stalled at GSETVL has reached its boundary (R114). -/
def execLeasewaitExpiry (s : State) : Result :=
  let g := s.arg.idx
  let h := s.getHart g
  let revoked := match h.lease.target with
    | some t => decide (t < h.lease.held)
    | none => false
  .next (if h.run ≠ .running || h.prv || s.stopped g then s
    else if h.stop then s.endTask g
    else if h.mode = .pipeline then (if h.lease.reserved.isEmpty then s else s.askPreempt g 3)
    else if revoked && h.gsetLimit.isNone then s.askPreempt g 1
    else s)

/-! ### Hall passes (R404) -/

/-- A cluster whose pass was asked for is free again (R91), so that a copy may start or a task resume (R219, R226). -/
def State.freeAside (s : State) (g : Nat) : State :=
  let h := s.getHart g
  let f := s.form (formKey g)
  ((s.setHart g { h with lease := { h.lease with setAside := h.lease.setAside - 1 } }).setForm (formKey g)
    { f with clusters := f.clusters + 1 }).pokePackage (pkgOf g)

/-- The pass of a cluster is granted (R91): held from the start by a copy that it was taken for at its dispatch and that has not
begun, else a pending target; where the lease may not change (R112, R345) or its target may not be raised (R93) the pass comes back. -/
def State.clusterGranted (s : State) (g : Nat) (dispatch : Bool) : State :=
  let h := s.getHart g
  let l := { h.lease with setAside := h.lease.setAside - 1 }
  if h.run = .starting && dispatch then
    s.setHart g { h with lease := { l.gain 1 with passes := l.passes + 1 } }
  else if h.mode = .pipeline || h.vclaimed || !h.lease.reserved.isEmpty then (s.freeAside g).returnPass (dieKey g) clusterCharge
  else s.setHart g { h with lease := l.raise }

/-- What a granted request brings its requester (R91, R169, R270, R299, R405). -/
def State.passGranted (s : State) (r : PassReq) : State :=
  let g := r.g
  let h := s.getHart g
  match r.kind with
  | .tile => (s.setHart g { h with mat := { h.mat with reply := some true } }).tryStart g
  | .cluster => s.clusterGranted g (r.slot == 0)
  | .exchange => s.setHart g { h with reply := some true, xch := { h.xch with pass := true } }
  | .explicit => s.setHart g { h with reply := some true, hpass := r.charge }
  | .stream => (s.setSlot g r.slot { h.slot r.slot with pass := true, asked := false }).pushOnce (landingEvent g r.slot)

/-- HALL_PASS_GRANT: the oldest waiting request of the die is granted, if it fits (R404). -/
def execHallPassGrant (s : State) : Result :=
  let dk := s.arg.dieKey
  let d := s.die dk
  s.atDie (match d.waiting with
    | r :: t =>
      if r.charge + d.granted ≤ d.budget then
        ((s.setDie dk { d with granted := d.granted + r.charge, waiting := t }).passGranted r).pokeProctor dk
      else s
    | [] => s)

/-- What a refused request leaves its requester (R91, R169, R263, R299, R405). -/
def State.passRefused (s : State) (r : PassReq) : State :=
  let g := r.g
  let h := s.getHart g
  match r.kind with
  | .tile =>
    let s := s.setHart g { h with mat := { h.mat with reply := some false, taken := 0 } }
    (s.freeTiles (formKey g) h.mat.taken).tryStart g
  | .cluster => s.freeAside g
  | .exchange => s.setHart g { h with reply := some false }
  | .explicit => s.setHart g { h with reply := some false }
  | .stream => s.finishSlot g r.slot { (h.slot r.slot).enter .error 1 0 with asked := false }

/-- HPWAIT_EXPIRY: request `arg.aux` of those that the hart `arg.idx` has waiting, oldest first, is refused and counted (R404); with a
number past them its MATT's wait for tiles ends (R169): each request has a bound of its own. -/
def execHpwaitExpiry (s : State) : Result :=
  let g := s.arg.idx
  let dk := Machine.dieKey g
  let d := s.die dk
  .next (match (d.waiting.filter fun r => r.g = g)[s.arg.aux]? with
    | some r =>
      let s := s.setDie dk { d with waiting := d.waiting.erase r, refused := min (d.refused + 1) (2 ^ 20 - 1) }
      let s := s.roll dk 4 0 0x14 r.charge (wordOf (dieHart g)) 0
      (s.passRefused r).pokeProctor dk
    | none =>
      let fk := formKey g
      let f := s.form fk
      if f.tileWait.any fun r => r.1 = g then
        let h := s.getHart g
        ((s.setForm fk { f with tileWait := f.tileWait.filter fun r => r.1 ≠ g }).setHart g
          { h with mat := { h.mat with reply := some false, taken := 0 } }).pokeTiles fk
      else s)

/-- TILE_GRANT: the head request of the form `arg.idx` of the die takes tiles (R170). -/
def execTileGrant (s : State) : Result :=
  let fk := 48 * s.arg.dieKey + s.arg.idx
  let n := (s.form fk).tileWait.length
  let t := s.serveTiles fk
  s.atDie (if (t.form fk).tileWait.length < n then t.pokeTiles fk else t)

end Sys2Proof.Machine
end

