-- ==== Sys2Proof/Machine/Links.lean ====
section
/-! DEFINITION. The events of links, ports and time: flits and replay (R378, R379), failures and what they lose (R382, R386, R394),
read-duplicated pages (R388, R389), the time unit (R391, R392, R401). -/

namespace Sys2Proof.Machine

/-! ### Pieces of gathers (R385, R386) -/

/-- The pieces of the gathers in a hart's queue changed: one at its head, or behind a VLDXC under way (R282). -/
def State.modPieces (s : State) (g : Nat) (f : Piece → Piece) : State :=
  let h := s.getHart g
  s.setHart g { h with queue := h.queue.map fun e => { e with pieces := e.pieces.map f } }

/-- A piece that was lost: some prefix of it was delivered, how long is open (R385, log 7). -/
def Piece.lose (free : Nat) (p : Piece) : Piece :=
  { p with settled := true, whole := false, delivered := Config.freeChoice free p.home % (p.dies.length + 1) }

/-- Whether each hop of a route carries traffic (R381). -/
def State.hopsUp (s : State) : Nat → List Nat → Bool
  | _, [] => true
  | p, q :: t => s.hopUp p q (dimOf p q) && s.hopsUp q t

/-- Whether the response to a piece of a hart can return over the route its request took (R381). -/
def State.pathUp (s : State) (g : Nat) (p : Piece) : Bool := s.dieLinkUp (pkgOf g) (dieOf g) 4 && s.hopsUp (pkgOf g) p.path

/-- The answer to a piece goes back over its route (R378, R381). -/
def State.answerFlits (s : State) (g : Nat) (p : Piece) : State :=
  let own := pkgOf g
  let t := p.dies.eraseDups.foldl (fun t d => t.sendFlit p.home (linkEnd (d % 4) 4) 1) s
  (t.hopFlits 1 p.home (wayBack own p.path)).sendFlit own (linkEnd 4 (dieOf g)) 1

/-- A piece answered by its home: the elements before the first whose die the home's hub cannot reach (R376, R385). -/
def State.answerPiece (s : State) (p : Piece) : Piece :=
  let n := (p.dies.takeWhile fun d => s.dieLinkUp p.home (d % 4) 4).length
  { p with settled := true, whole := n = p.dies.length, delivered := n }

/-- GATHER_PIECE_RESPONSE: the home `arg.aux` answers the piece of the hart `arg.idx`, over the reverse of its route; where that works no
more the response is lost (R381, R385, R386). -/
def execGatherPieceResponse (s : State) : Result :=
  let g := s.arg.idx
  let asked (p : Piece) : Bool := p.home == s.arg.aux && !p.settled
  let t := ((((s.getHart g).queue.flatMap QEntry.pieces).filter fun p => asked p && s.pathUp g p).foldl (fun t p => t.answerFlits g p) s)
  .next (t.nextFree.modPieces g fun p => if !asked p then p else if s.pathUp g p then s.answerPiece p else p.lose s.free)

/-- TRANSFER_TIMEOUT: the piece of the hart `arg.idx` for the home `arg.aux` is lost where `arg.flag` says so; else the next transfer to
another package of that hart, or where `arg.val` is not 0 of the host bridge and the Tradewind ports of the package (R382, R387,
log 21). -/
def execTransferTimeout (s : State) : Result :=
  let g := s.arg.idx
  if s.arg.val ≠ 0 then .next (s.setPkg s.arg.pkg { s.pkg s.arg.pkg with doomed := true })
  else if s.arg.flag then
    .next (s.nextFree.modPieces g fun p => if p.home ≠ s.arg.aux ∨ p.settled then p else p.lose s.free)
  else .next (s.setHart g { s.getHart g with doomed := true })

/-! ### Failures (R376, R379, R382) -/

/-- Whether a hop from package `p` to `q` uses port `n` of package `u` (R380). -/
def State.hopUses (s : State) (u n p q : Nat) : Bool :=
  let d := dimOf p q
  (u == p && (s.portsToward p q d).contains n) || (u == q && (s.portsToward q p d).contains n)

/-- Whether the hops of a route use a port. -/
def State.hopsUse (s : State) (u n : Nat) : Nat → List Nat → Bool
  | _, [] => false
  | p, q :: t => s.hopUses u n p q || s.hopsUse u n q t

/-- Whether traffic between two dies uses a unit of package `u`: port n, or die link n − 22 (R357, R376, R381). -/
def State.pathUses (s : State) (u n a b : Nat) : Bool :=
  let p := a / 4
  let q := b / 4
  if n ≥ 22 then
    (if p = q then u == p && (n - 22 == linkNo (a % 4) 4 || n - 22 == linkNo (b % 4) 4)
     else (u == p && n - 22 == linkNo (a % 4) 4) || (u == q && n - 22 == linkNo (b % 4) 4))
  else
    match s.route p q with
    | some l => s.hopsUse u n p l
    | none => false

/-- The exchange streams of a round whose route, fixed at its arming, uses a unit: each sender's rank and its receiver (R382, R393). -/
def State.streamsOver (s : State) (r : Round) (u n : Nat) : List (Nat × Nat) :=
  let s := s.atArming r
  if r.table.isNone then []
  else
    r.senders.flatMap fun a =>
      (r.receivers.filter fun b => dieKey a.g != dieKey b.g && s.pathUses u n (dieKey a.g) (dieKey b.g)).map fun b => (a.rank, b.ridx)

/-- Whether the route set of a round, fixed at its arming, uses a unit: until the round is over (R286, R393, R394). -/
def State.roundUses (s : State) (r : Round) (u n : Nat) : Bool := !(s.streamsOver r u n).isEmpty

/-- How many exchange streams of a round lose flits under way with a unit: which had any there unacknowledged is open (R382, log 7). -/
def State.lostStreams (s : State) (r : Round) (u n : Nat) : Nat :=
  ((s.streamsOver r u n).filter fun x =>
    (r.flights.any fun f => f.record.rank == x.1 && f.ridx == some x.2) && Config.freePick s.free (2 ^ 20 + x.1 * 4096 + x.2)).length

/-- Whether a piece of a hart uses a unit on its way (R381, R382). -/
def State.pieceUses (s : State) (u n g : Nat) (p : Piece) : Bool :=
  if n ≥ 22 then
    (u == pkgOf g && n - 22 == linkNo (dieOf g) 4) || (u == p.home && p.dies.any fun d => n - 22 == linkNo (d % 4) 4)
  else s.hopsUse u n (pkgOf g) p.path

/-- Whether some party of a round no longer reaches the hub of its XID (R394). -/
def State.hubLost (s : State) (xid : Nat) (r : Round) : Bool :=
  (r.senders.any fun a => !s.reachesHub a.g (s.xidHub xid)) || r.receivers.any fun b => !s.reachesHub b.g (s.xidHub xid)

/-- The harts whose gather has a piece under way that used a unit, and that lose it: which of them had flits there is open
(R382, log 7). -/
def State.losers (s : State) (u n : Nat) : List (Nat × Nat) :=
  s.known.flatMap fun g =>
    ((((s.getHart g).queue.flatMap QEntry.pieces).filter fun p => !p.settled && s.pieceUses u n g p).map fun p => (g, p.home)).filter
      fun r => Config.freePick s.free (r.1 * 64 + r.2)

/-- The replicas a package's hub holds of homes it can no longer reach are gone (R388). -/
def State.dropReplicas (s : State) (p : Nat) : State :=
  let r := s.pkg p
  s.setPkg p { r with replicas := r.replicas.filter fun page => (s.route p (homeOf (65536 * page))).isSome }

/-- An event of a hub that has no route left to a package; the rules give neither its code nor its arguments (R382). -/
def State.routeLost (s : State) (p : Nat) : State :=
  let v := Config.freeWord s.free
  s.nextFree.rollHub p (field v 0 12) (field v 12 16) (field v 28 32) (Config.freeWord (s.free + 1)) 0 |>.nextFree

/-- A unit of package `u` is marked failed: port n, or die link n − 22. -/
def State.markFailed (s : State) (u n : Nat) : State :=
  let r := s.pkg u
  s.setPkg u (if n ≥ 22 then { r with linkFailed := SMap.set false r.linkFailed (n - 22) true }
    else { r with portFailed := SMap.set false r.portFailed n true })

/-- The failure event of a port or a die link (R382, R388, R392, R394, R415). -/
def State.failUnit (s : State) (u n : Nat) : State :=
  let hit := (s.xids.filter fun x => (x.2.round.map fun r => s.roundUses r u n).getD false).map Prod.fst
  let lost := s.losers u n
  let streams := (s.xids.map fun x => (x.2.round.map fun r => s.lostStreams r u n).getD 0).sum
  let before := s.packages.map fun p => (p, s.packages.filter fun q => (s.route p q).isSome)
  let f := s.free
  let s := (s.markFailed u n).nextFree
  let s := lost.foldl (fun s r => s.modPieces r.1 fun p => if p.home = r.2 ∧ ¬ p.settled then p.lose (f + r.2) else p) s
  let a1 := wordOf (lost.length + streams)
  let s := if n < 22 then s.rollHub u (2 + n) 0x15 n a1 0
    else if [3, 6, 8, 9].contains (n - 22) then s.rollHub u n 0x15 (n - 22) a1 0
    else s.roll (4 * u + (if n - 22 < 3 then 0 else if n - 22 < 6 then 1 else 2)) 3 n 0x15 (n - 22) a1 0
  let s := before.foldl (fun s r => (r.2.filter fun q => (s.route r.1 q).isNone).foldl (fun s _ => s.routeLost r.1) s) s
  let s := s.packages.foldl State.dropReplicas s
  let bad := (s.xids.filter fun x => hit.contains x.1 || (x.2.round.map fun r => s.hubLost x.1 r).getD false).map Prod.fst
  let s := bad.foldl State.failRound s
  (s.packages.filter fun p => p ≠ s.grandmaster && (s.route p s.grandmaster).isNone && !(s.pkg p).freeRun).foldl
    (fun s p => s.pushOnce { kind := .noGm, arg := { EvArg.none with pkg := p } }) s

/-- Whether a unit of a package is a port or a die link. -/
def isUnit (n : Nat) : Bool := n < 20 || (22 ≤ n && n < 32)

/-- Whether a number is a port's, or an end's of a die link (`linkEnd`). -/
def isEnd (n : Nat) : Bool := n < 20 || (22 ≤ n && n < 42)

/-- The port or die link that an end is of. -/
def unitOf (n : Nat) : Nat := if n < 32 then n else n - 10

/-- LINK_FAIL: port `arg.idx`, or die link `arg.idx` − 22, of the package fails; a 7101 has neither (R1, R376, R382). -/
def execLinkFail (s : State) : Result :=
  s.atPackage (if isUnit s.arg.idx && s.part != .p7101 then s.failUnit s.arg.pkg s.arg.idx else s)

/-! ### Flits (R378, R379) -/

/-- Whether a flit's CRC is right (R378). -/
def flitGood (bs : List Byte) : Bool :=
  bs.length = 128 && (crcBytes Config.crcStart (bs.take 120)).toNat == leNat (bs.drop 120)

/-- How far a sequence number lies behind another, modulo 4,096. -/
def seqBehind (a b : Nat) : Nat := (b + 4096 - a % 4096) % 4096

/-- What a flit carries beside its payload (R378). -/
structure FlitHead where
  seq : Nat
  ack : Nat
  vc : Nat
  ackv : Bool
  nak : Bool
  type : Nat
  deriving DecidableEq, Repr

/-- The first word of a flit (R378). -/
def FlitHead.ofNat (w : Nat) : FlitHead :=
  { seq := bitsOf w 20 12, ack := bitsOf w 8 12, vc := bitsOf w 5 3, ackv := w.testBit 4, nak := w.testBit 3, type := bitsOf w 0 3 }

/-- The flits an acknowledgement leaves unacknowledged (R379). -/
def PortRec.acked (r : PortRec) (f : FlitHead) : PortRec :=
  if f.ackv then { r with unacked := r.unacked.filter fun u => decide (2048 ≤ seqBehind u.seq f.ack) } else r

/-- The record of a port once a good flit in sequence has come (R378, R379): an idle flit takes no sequence number (log 62). -/
def PortRec.accept (r : PortRec) (f : FlitHead) (payload : BitVec 928) : PortRec :=
  let r := { r with nak := false }.acked f
  if f.type = 0 then r
  else { r with expected := (r.expected + 1) % 4096, heard := true, got := (f.vc, f.type, payload) }

/-- A port sends an idle flit, which acknowledges what it has accepted, or returns NAK (R378, R379, log 62). -/
def State.sendIdle (s : State) (p n : Nat) : State :=
  let r := s.port p n
  s.wire p n (r.flit r.next 0 0 0)

/-- The flits a port has kept are sent again (R379). -/
def State.resendAll (s : State) (p n : Nat) : State :=
  let r := s.port p n
  r.unacked.foldl (fun s f => s.wire p n (r.flit f.seq f.vc f.type f.payload))
    (s.setPort p n { r with unacked := r.unacked.map fun f => { f with sent := f.sent + 1 } })

/-- A flit sent eight times without acknowledgement makes its port retrain (R379). -/
def State.retrainDue (s : State) (p n : Nat) : State :=
  if (s.port p n).unacked.any fun f => decide (8 ≤ f.sent) then
    s.pushOnce { kind := .portRetrain, arg := { EvArg.none with pkg := p, idx := n } }
  else s

/-- A good flit in sequence reaches a port: it is acknowledged, a NAK is answered by sending again, and traffic that waits goes out
(R379). -/
def State.takeFlit (s : State) (p n : Nat) (f : FlitHead) (payload : BitVec 928) : State :=
  let s := s.setPort p n ((s.port p n).accept f payload)
  let s := if f.nak then s.resendAll p n else s
  let s := s.drainPort p n ((s.port p n).backlog.length)
  (if f.type = 0 then s else s.sendIdle p n).retrainDue p n

/-- FLIT_RECEIVE: the flit `arg.data` reaches the port, or the end of a die link, `arg.idx` of the package: one that is damaged or out of
sequence is discarded and NAK returned; a 7101 has none (R1, R376, R378, R379). -/
def execFlitReceive (s : State) : Result :=
  let a := s.arg
  let r := s.port a.pkg a.idx
  let f := FlitHead.ofNat (leNat (a.data.take 4))
  s.atPackage (if !isEnd a.idx || s.part == .p7101 then s
    else if flitGood a.data && f.seq == r.expected then
      s.takeFlit a.pkg a.idx f (BitVec.ofNat 928 (leNat ((a.data.drop 4).take 116)))
    else (s.setPort a.pkg a.idx { r with nak := true }).sendIdle a.pkg a.idx)

/-- PORT_RETRAIN: the port, or end of a die link, begins to retrain (R376, R379). -/
def execPortRetrain (s : State) : Result :=
  let a := s.arg
  s.atPackage (if s.part = .p7101 || !isEnd a.idx then s else s.setPort a.pkg a.idx { s.port a.pkg a.idx with retraining := true })

/-- RETRAIN_DONE: retraining has completed; with `arg.flag` lane `arg.aux` had failed and the spare takes its place, a second
time the port fails (R379, R415). -/
def execRetrainDone (s : State) : Result :=
  let a := s.arg
  let r := s.port a.pkg a.idx
  let t := s.setPort a.pkg a.idx
    { r with retraining := false, spared := r.spared || a.flag, unacked := r.unacked.map fun u => { u with sent := 0 } }
  let t := (t.resendAll a.pkg a.idx).drainPort a.pkg a.idx r.backlog.length
  s.atPackage (if !r.retraining then s
    else if a.flag && r.spared then t.failUnit a.pkg (unitOf a.idx)
    else if a.flag then t.rollHub a.pkg (if a.idx < 22 then 2 + a.idx else unitOf a.idx) 0x16 (unitOf a.idx) (wordOf a.aux) 0
    else t)

/-- RETRAIN_TIMEOUT: a port still retraining after 1 ms fails (R379). -/
def execRetrainTimeout (s : State) : Result :=
  let a := s.arg
  let r := s.port a.pkg a.idx
  s.atPackage (if r.retraining then (s.setPort a.pkg a.idx { r with retraining := false }).failUnit a.pkg (unitOf a.idx) else s)

/-! ### Read-duplicated pages (R388, R389) -/

/-- An event about a page: its package, the page, and a holder. -/
def pageEvent (k : Instr) (p page holder : Nat) : Event :=
  { kind := k, arg := { EvArg.none with pkg := p, idx := page, aux := holder } }

/-- A holder is struck from a page's mask at its home. -/
def State.dropHolder (s : State) (page holder : Nat) : State :=
  let q := homeOf (65536 * page)
  let r := s.pkg q
  let m := SMap.get 0 r.holders page
  s.setPkg q { r with holders := SMap.set 0 r.holders page (if m.testBit holder then m - 2 ^ holder else m) }

/-- REPLICA_CREATE: after a read from its home, the hub of the package takes a replica of the page `arg.idx`, dropping its
oldest entry where the pool is full; a page with a held write gets none; `arg.flag` says that the read found a read-duplicated leaf
(R388, R390). -/
def execReplicaCreate (s : State) : Result :=
  let p := s.arg.pkg
  let page := s.arg.idx
  let q := homeOf (65536 * page)
  let r := s.pkg p
  let h := s.pkg q
  let pool := min r.boot.replPool 16384
  let full := decide (pool ≤ r.replicas.length)
  s.atPackage (if !s.arg.flag || p = q || !s.present q || (s.route p q).isNone || r.replicas.contains page || pool = 0
      || (h.held.any fun w => keyPage w.key = page) || SMap.get 0 h.awaited page ≠ 0 then s
    else
      let s := if full then s.dropHolder (r.replicas.headD 0) p else s
      let s := s.setPkg p { s.pkg p with replicas := (if full then r.replicas.tail else r.replicas) ++ [page] }
      let h := s.pkg q
      let m := SMap.get 0 h.holders page
      s.setPkg q { h with holders := SMap.set 0 h.holders page (if m.testBit p then m else m + 2 ^ p) })

/-- REPLICA_INVALIDATE: the package drops its replica of the page `arg.idx`, with the translation-cache entries of its dies that use it,
and acknowledges; one that has become unreachable is given up (R389). -/
def execReplicaInvalidate (s : State) : Result :=
  let p := s.arg.pkg
  let page := s.arg.idx
  let q := homeOf (65536 * page)
  let r := s.pkg p
  s.atPackage (if (s.route q p).isNone then s.pushOnce (pageEvent .replicaAckTimeout q page p)
    else
      let t := s.setPkg p { r with replicas := r.replicas.filter (· ≠ page) }
      { t with tlb := t.tlb.filter fun l => l.die / 4 ≠ p || l.framePage ≠ page }.pushOnce (pageEvent .replicaAck q page p))

/-- The held writes of a page placed, oldest first (R389). -/
def State.placeHeld (s : State) (page : Nat) (l : List HeldWrite) : State :=
  l.foldl (fun s w => if keyPage w.key = page then s.placeOne w else s) s

/-- A holder of a page is accounted for; with the last one the held writes are placed and the mask is cleared (R389). -/
def State.holderDone (s : State) (q page holder : Nat) : State :=
  let r := s.pkg q
  let a := SMap.get 0 r.awaited page
  let a' := if a.testBit holder then a - 2 ^ holder else a
  if a = 0 then s
  else if a' ≠ 0 then s.setPkg q { r with awaited := SMap.set 0 r.awaited page a' }
  else
    let t := s.setPkg q { r with
      awaited := SMap.set 0 r.awaited page 0, holders := SMap.set 0 r.holders page 0
      held := r.held.filter fun w => keyPage w.key ≠ page }
    t.placeHeld page r.held

/-- REPLICA_ACK: the holder `arg.aux` has dropped the page `arg.idx` (R389). -/
def execReplicaAck (s : State) : Result := s.atPackage (s.holderDone s.arg.pkg s.arg.idx s.arg.aux)

/-- REPLICA_ACK_TIMEOUT: 200 µs after the invalidate to a holder that is unreachable (R389). -/
def execReplicaAckTimeout (s : State) : Result :=
  s.atPackage (if (s.route s.arg.pkg s.arg.aux).isNone then s.holderDone s.arg.pkg s.arg.idx s.arg.aux else s)

/-! ### Time (R391, R392, R401) -/

/-- A package's time corrected by an offset: a step forward above 10 µs, with an event, else a slew (R392); beside it the package slews by
`ahead`, what its grandmaster has left to slew by. -/
def State.correctTime (s : State) (p : Nat) (off ahead : Int) : State :=
  let r := s.pkg p
  if 10000 < off then
    (s.setPkg p { r with timeOff := r.timeOff + BitVec.ofInt 64 off, slew := ahead, slewFrom := s.ns }).rollHub p 1 0x17 0 (BitVec.ofInt 64 off) 0
  else s.setPkg p { r with slew := off + ahead, slewFrom := s.ns }

/-- The offset an event carries, in ns. -/
def EvArg.offset (a : EvArg) : Int := toSigned 64 a.val.toNat

/-- How far a package's time lies behind the grandmaster's, in ns. -/
def State.behind (s : State) (p : Nat) : Int := toSigned 64 ((s.pkg s.grandmaster).timeOff - (s.pkg p).timeOff).toNat

/-- PTP_SYNC: a Sync message, on VC 4 of the ports from the grandmaster, reaches the hub, which measures how far it lies behind the
grandmaster with an error of `arg.val` ns, 20 at most, and goes on with what the grandmaster has left to slew by (R378, R391, R392). -/
def execPtpSync (s : State) : Result :=
  let p := s.arg.pkg
  let gm := s.grandmaster
  let t := s.hopFlits 4 gm ((s.route gm p).getD [])
  s.atPackage (if p = gm || (s.route p gm).isNone || s.part = .p7101 then s
    else (t.setPkg p { t.pkg p with freeRun := false }).correctTime p (s.behind p + max (-20) (min 20 s.arg.offset)) (s.pkg gm).slew)

/-- PDELAY: the delay of port `arg.idx` has been measured, by a message on VC 4 (R378, R391). -/
def execPdelay (s : State) : Result :=
  let a := s.arg
  s.atPackage (if s.part = .p7101 || decide (20 ≤ a.idx) then s
    else (s.setPort a.pkg a.idx { s.port a.pkg a.idx with delay := a.val.toNat }).sendFlit a.pkg a.idx 4)

/-- NO_GM: a package that has lost every route to the grandmaster runs freely (R392, R415). -/
def execNoGm (s : State) : Result :=
  let p := s.arg.pkg
  let r := s.pkg p
  s.atPackage (if p = s.grandmaster || (s.route p s.grandmaster).isSome || r.freeRun then s
    else (s.setPkg p { r with freeRun := true, slew := 0 }).rollHub p 1 0x17 1 0 0)

/-- The packages whose time follows the grandmaster's: those that do not run freely (R392). -/
def State.followers (s : State) : List Nat := s.packages.filter fun p => !(s.pkg p).freeRun

/-- TIME_SET: the host sets the grandmaster's time to `arg.val`: at once before the first dispatch, later as a target (R391);
on a 7101 the controller sets it once, forward, before the first dispatch (R401).  DESIGN CHOICE (log 8): a set before the first dispatch
takes effect whatever its value, as R391 says, though a boot task that runs may then read TIMENS smaller than before, against R18. -/
def execTimeSet (s : State) : Result :=
  let v := wordOf s.arg.val.toNat
  let off := toSigned 64 (v - s.timeNs s.arg.pkg).toNat
  let r := s.pkg s.arg.pkg
  s.atPackage (if s.part = .p7101 then
      (if s.dispatched || r.timeSet || decide (off < 0) then s
       else s.setPkg s.arg.pkg { r with timeOff := v - wordOf s.ns, timeSet := true })
    else if r.boot.portMode ≠ 0 then s
    else if !s.dispatched then
      s.followers.foldl (fun s p => s.setPkg p { s.pkg p with timeOff := v - wordOf s.ns, slew := 0 }) s
    else s.followers.foldl (fun t p => t.correctTime p (off + s.behind p) 0) s)

/-- TIME_SLEW: on a 7101, the controller has TIMENS slewed by `arg.val` ns (R401). -/
def execTimeSlew (s : State) : Result :=
  let r := s.pkg s.arg.pkg
  s.atPackage (if s.part = .p7101 then s.setPkg s.arg.pkg { r with slew := s.arg.offset, slewFrom := s.ns } else s)

end Sys2Proof.Machine
end

