-- ==== Sys2Proof/Machine/HostBridge.lean ====
section
/-! DEFINITION. The host bridge (R395 to R398, R401): the BARs, apertures and their accesses, and MSI-X (R416). -/

namespace Sys2Proof.Machine

/-! ### Which hosts there are (R395, R401) -/

/-- Whether a package has a host agent: its bridge, or on a 7101 its controller.  DESIGN CHOICE (log 21): where PORTMODE makes more than
four packages bridging ones, the four of the lowest numbers bridge. -/
def State.bridges (s : State) (p : Nat) : Bool :=
  s.part == .p7101 || ((s.pkg p).boot.portMode == 0
    && decide ((s.packages.filter fun q => decide (q < p) && (s.pkg q).boot.portMode == 0).length < 4))

/-- The completion of a host read. -/
def State.complete (s : State) (p : Nat) (c : Completion) (bs : List Byte) : State :=
  { s with outbox := s.outbox ++ [.readData p c bs] }

/-- The pieces of `n` bytes at an offset within aligned blocks of `w` bytes: each an offset and a length. -/
def hostPieces (w : Nat) : Nat → Nat → Nat → List (Nat × Nat)
  | 0, _, _ => []
  | k + 1, off, n =>
    if n = 0 then []
    else
      let m := min n (w - off % w)
      (off, m) :: hostPieces w k (off + m) (n - m)

/-- The pieces of a request, within aligned words of 8 bytes (R398). -/
def piecesOf (off n : Nat) : List (Nat × Nat) := hostPieces 8 (n / 8 + 2) off n

/-! ### BAR 4: the aperture descriptors (R396, R397) -/

/-- The descriptor of an aperture. -/
def PkgRec.aperture (r : PkgRec) (a : Nat) : BitVec 256 := SMap.get 0 r.apertures a

/-- `n` bytes of `v` written at byte `b` of a descriptor; while EN = 1 only EN changes (R397). -/
def State.apertureWrite (s : State) (p a b n v : Nat) : State :=
  let r := s.pkg p
  let old := r.aperture a
  let mask := if fieldB old 0 1 = 1 then ones 0 1 else ones 112 144 + ones 0 1
  s.setPkg p { r with apertures := SMap.set 0 r.apertures a (BitVec.ofNat 256 (mergeBytes mask old.toNat b n v)) }

/-- APERTURE_DESCRIPTOR_WRITE: `arg.val` written to descriptor `arg.idx` of the package (R397). -/
def execApertureDescriptorWrite (s : State) : Result :=
  s.atPackage (if s.arg.idx < 16 then s.apertureWrite s.arg.pkg s.arg.idx 0 32 s.arg.val.toNat else s)

/-- A piece of BAR 4: the failed step of bring-up where it failed (R399), else a descriptor. -/
def State.bar4Read (s : State) (p off n : Nat) : Option Nat :=
  let r := s.pkg p
  if r.failedStep ≠ 0 then (if off < 8 then some (bitsOf r.failedStep (8 * off) (8 * n)) else none)
  else if off < 512 then some (bitsOf (r.aperture (off / 32)).toNat (8 * (off % 32)) (8 * n))
  else none

/-! ### BAR 0: the Registrar windows (R209, R396) -/

/-- The die and the offset in its window that an offset of BAR 0 names. -/
def State.bar0 (s : State) (off : Nat) : Option (Nat × Nat) :=
  let dk := off / windowBytes
  if s.present (dk / 4) && decide (dk % 4 < s.dieCount) then some (dk, off % windowBytes) else none

/-- A piece of BAR 0 read. -/
def State.bar0Value (s : State) (off n : Nat) : Option Nat := (s.bar0 off).bind fun w => s.winRead w.1 w.2 n

/-! ### BAR 2: the memory window (R396 to R398) -/

/-- An access of a host through a descriptor: supervisor level, scope GROUP (R398). -/
def hostAccess (p : Nat) (d : BitVec 256) (doomed : Bool) (k : Kind) : Access :=
  { kind := k, user := false, agent := .host, space := fieldB d 112 16, ptbase := wordOf (fieldB d 192 64), die := 4 * p
    core := none, doomed := doomed, pages := [] }

/-- Whether a transfer from a package's hub, or a 7101's port, reaches a die (R376, R381). -/
def State.hubReaches (s : State) (p dk : Nat) : Bool :=
  s.part == .p7101 || (s.dieLinkUp (dk / 4) (dk % 4) 4 && (s.route p (dk / 4)).isSome)

/-- The flits of a host's transfer between its hub and a die (R378, R398). -/
def State.hubTransfer (s : State) (p dk : Nat) : State :=
  if s.part = .p7101 then s
  else
    match s.route p (dk / 4) with
    | some path =>
      (((s.hopFlits 0 p path).sendFlit (dk / 4) (linkEnd 4 (dk % 4)) 0).sendFlit (dk / 4) (linkEnd (dk % 4) 4) 1).hopFlits 1 (dk / 4)
        (wayBack p path)
    | none => s

/-- A piece of a host's request performed (R364, R378, R388). -/
def State.hostVisit (s : State) (p : Nat) (pl : Place) (k : Kind) (leaf : Option LeafAt) : State :=
  (s.hubTransfer p (s.serverOf (4 * p) pl k leaf)).touch k leaf

/-- Whether a piece of a host's request is lost: no route, or a time-out; a read of a replica needs its hub's own die alone (R376, R382,
R388). -/
def State.hostLost (s : State) (p : Nat) (a : Access) (va : Word) (pl : Place) (l : Option LeafAt) : Bool :=
  if a.kind != .write && (l.map (s.replicated p)).getD false then !s.dieLinkUp p (pl.dieKey % 4) 4
  else !s.hubReaches p pl.dieKey || s.timesOut a pl.pkg va

/-- Where a piece of `n` bytes of a host's request is (R363, R389, R398). -/
def State.hostLoc (s : State) (p : Nat) (a : Access) (va : Word) (n : Nat) : Loc :=
  match s.locate a va with
  | .place pl l _ => if s.heldBy (hostWriter p) pl.key n then .wait else .place pl l (s.hostLost p a va pl l)
  | r => r

/-- What the checks of a request find: its places, a wait, or the lowest piece that fails (R398). -/
inductive HostCheck where
  | ok (l : List (Place × Option LeafAt × Bool × Nat × Nat))
  | bad (cause : Nat) (va : Word)
  | wait

/-- The checks of a request's pieces, lowest first: each place with its leaf, whether it is lost, the piece's offset in the
request, and its length. -/
def State.hostCheck (s : State) (p : Nat) (a : Access) (base : Word) (first : Nat) : List (Nat × Nat) → HostCheck
  | [] => .ok []
  | (off, n) :: t =>
    match s.hostLoc p a (base + wordOf off) n, s.hostCheck p a base first t with
    | .bad c, _ => .bad c (base + wordOf off)
    | .wait, _ => .wait
    | .place _ _ _, .bad c va => .bad c va
    | .place _ _ _, .wait => .wait
    | .place pl l lost, .ok r => .ok ((pl, l, lost, off - first, n) :: r)

/-- The event of an access that does not complete normally (R398, R415). -/
def State.hostAbort (s : State) (p cause ap : Nat) (write : Bool) (va : Word) : State :=
  (s.setPkg p { s.pkg p with doomed := false }).rollHub p 32 0x1C (cause + bit write * 256) va (wordOf ap)

/-- A request that waits on a page: within 200 µs it goes on waiting, and when they are over its transfer is lost (R382, R398);
which it is now is open (log 8). -/
def State.hostWait (s : State) (k : Instr) (gaveUp : State → State) : State :=
  if Config.freePick s.free 0 then gaveUp s.nextFree else s.nextFree.hostAgain k

/-- The first piece of a request that was lost. -/
def firstLost : List (Place × Option LeafAt × Bool × Nat × Nat) → Option Nat
  | [] => none
  | (_, _, lost, off, _) :: t => if lost then some off else firstLost t

/-- A read of `n` bytes at an offset of BAR 2 (R398). -/
def State.bar2Read (s : State) (p off n : Nat) : State :=
  let ap := off / 2 ^ 36
  let d := (s.pkg p).aperture ap
  let o := off % 2 ^ 36
  let base := wordOf (fieldB d 128 64)
  if ap ≥ 16 ∨ fieldB d 0 1 = 0 then s.complete p .unsupported []
  else
    let abort (s : State) (c : Nat) (va : Word) : State := (s.hostAbort p c ap false va).complete p .abort []
    match s.hostCheck p (hostAccess p d (s.pkg p).doomed .read) base o (piecesOf o n) with
    | .bad c va => abort s c va
    | .wait => s.hostWait .hostRead fun s => abort s cREMOTE_LOST (base + wordOf o)
    | .ok l =>
      match firstLost l with
      | some i => abort s cREMOTE_LOST (base + wordOf (o + i))
      | none =>
        let bs := l.flatMap fun r => leBytes r.2.2.2.2 (s.readAt r.2.1 r.1.key r.2.2.2.2)
        let t := l.foldl (fun t r => t.hostVisit p r.1 .read r.2.1) s
        t.complete p (if l.any fun r => s.mem.poisoned r.1.key r.2.2.2.2 then .poisoned else .success) bs

/-- A write of bytes at an offset of BAR 2 (R398): a piece whose transfer is lost may or may not be performed. -/
def State.bar2Write (s : State) (p off : Nat) (bs : List Byte) : State :=
  let ap := off / 2 ^ 36
  let d := (s.pkg p).aperture ap
  let o := off % 2 ^ 36
  let base := wordOf (fieldB d 128 64)
  let v := leNat bs
  if ap ≥ 16 ∨ fieldB d 0 1 = 0 then s
  else
    match s.hostCheck p (hostAccess p d (s.pkg p).doomed .write) base o (piecesOf o bs.length) with
    | .bad c va => s.hostAbort p c ap true va
    | .wait => s.hostWait .hostWrite fun s => s.hostAbort p cREMOTE_LOST ap true (base + wordOf o)
    | .ok l =>
      let t := l.foldl (fun t r =>
        if r.2.2.1 && !Config.freePick s.free r.2.2.2.1 then t
        else (t.hostVisit p r.1 .write r.2.1).place (hostWriter p) r.2.1 r.1.key r.2.2.2.2 (bitsOf v (8 * r.2.2.2.1) (8 * r.2.2.2.2))) s
      match firstLost l with
      | some i => (t.nextFree).hostAbort p cREMOTE_LOST ap true (base + wordOf (o + i))
      | none => t

/-! ### Requests -/

/-- The pieces of a register read, little-endian; nothing where one is unassigned. -/
def readPieces (f : Nat → Nat → Option Nat) : List (Nat × Nat) → Option (List Byte)
  | [] => some []
  | (off, n) :: t =>
    match f off n, readPieces f t with
    | some v, some bs => some (leBytes n v ++ bs)
    | _, _ => none

/-- A register read completed. -/
def State.completeRegs (s : State) (p : Nat) (r : Option (List Byte)) : State :=
  match r with
  | some bs => s.complete p .success bs
  | none => s.complete p .unsupported []

/-- Whether the transfer of a piece of a request to a Registrar window is lost (R376, R382). -/
def State.bar0Lost (s : State) (p off : Nat) : Bool :=
  match s.bar0 off with
  | some w => !s.hubReaches p w.1 || ((s.pkg p).doomed && decide (w.1 / 4 ≠ p))
  | none => false

/-- The event of a request to a Registrar window whose transfer was lost; a window has neither a virtual address nor an aperture, and
the rules give no other value (R398, log 21). -/
def State.windowAbort (s : State) (p : Nat) (write : Bool) : State :=
  s.nextFree.nextFree.hostAbort p cREMOTE_LOST (Config.freeWord (s.free + 1)).toNat write (Config.freeWord s.free)

/-- A read of BAR 0 (R209, R396, R398). -/
def State.bar0Read (s : State) (p off n : Nat) : State :=
  let ps := piecesOf off n
  match readPieces s.bar0Value ps with
  | none => s.complete p .unsupported []
  | some bs => if ps.any fun r => s.bar0Lost p r.1 then (s.windowAbort p false).complete p .abort [] else s.complete p .success bs

/-- A write of BAR 0 (R209, R396, R398): a piece whose transfer is lost may or may not be performed, and one to an unassigned offset is
dropped. -/
def State.bar0Write (s : State) (p off : Nat) (bs : List Byte) : State :=
  let v := leNat bs
  let ps := piecesOf off bs.length
  let t := ps.foldl (fun t r =>
    match t.bar0 r.1 with
    | none => t
    | some w =>
      if s.bar0Lost p r.1 && !Config.freePick s.free (r.1 - off) then t
      else t.winWrite w.1 w.2 r.2 (bitsOf v (8 * (r.1 - off)) (8 * r.2))) s
  if ps.any fun r => s.bar0Lost p r.1 then t.nextFree.windowAbort p true else t

/-- A write of BAR 4: what it holds of each descriptor is written at once (R397). -/
def State.bar4Write (s : State) (p off : Nat) (bs : List Byte) : State :=
  (hostPieces 32 (bs.length / 32 + 2) off bs.length).foldl (fun t r =>
    if r.1 < 512 then t.apertureWrite p (r.1 / 32) (r.1 % 32) r.2 (bitsOf (leNat bs) (8 * (r.1 - off)) (8 * r.2)) else t) s

/-- HOST_READ, once the bridge's earlier writes are placed: `arg.val` bytes at offset `arg.aux` of BAR `arg.idx` of the bridging package (R396, R398, R399). -/
def execHostRead (s : State) : Result :=
  let a := s.arg
  let p := a.pkg
  let n := a.val.toNat
  s.atPackage (if !s.bridges p then s
    else if s.agentHeld (hostWriter p) then s.hostAgain .hostRead
    else
      match a.idx with
      | 0 => if (s.pkg p).failedStep ≠ 0 then s.complete p .unsupported [] else s.bar0Read p a.aux n
      | 2 => if (s.pkg p).failedStep ≠ 0 then s.complete p .unsupported [] else s.bar2Read p a.aux n
      | 4 => s.completeRegs p (readPieces (s.bar4Read p) (piecesOf a.aux n))
      | _ => s.complete p .unsupported [])

/-- HOST_WRITE: `arg.data` at offset `arg.aux` of BAR `arg.idx` of the bridging package, in posted-write order: once the bridge's earlier
writes are placed (R389, R396, R398). -/
def execHostWrite (s : State) : Result :=
  let a := s.arg
  let p := a.pkg
  s.atPackage (if !s.bridges p || decide ((s.pkg p).failedStep ≠ 0) then s
    else if s.agentHeld (hostWriter p) then s.hostAgain .hostWrite
    else
      match a.idx with
      | 0 => s.bar0Write p a.aux a.data
      | 2 => s.bar2Write p a.aux a.data
      | 4 => s.bar4Write p a.aux a.data
      | _ => s)

/-! ### MSI-X (R416) -/

/-- MSIX_UNMASK: the message enable bit of vector `arg.idx` is written: the vector is unmasked, and its latched event sent once; with
`arg.flag` it is masked again. -/
def execMsixUnmask (s : State) : Result :=
  let p := s.arg.pkg
  let v := s.arg.idx
  let r := s.pkg p
  let masked := s.setPkg p { r with msixMask := if r.msixMask.testBit v then r.msixMask else r.msixMask + 2 ^ v }
  let t := s.setPkg p { r with
    msixMask := if r.msixMask.testBit v then r.msixMask - 2 ^ v else r.msixMask
    msixLatch := if r.msixLatch.testBit v then r.msixLatch - 2 ^ v else r.msixLatch }
  s.atPackage (if v ≥ 4 then s else if s.arg.flag then masked
    else if r.msixLatch.testBit v then { t with outbox := t.outbox ++ [.msix p v] } else t)

end Sys2Proof.Machine
end

