-- ==== Sys2Proof/Machine/ScalarFp.lean ====
section
/-! DEFINITION. Scalar floating point (R74 to R79): operands and results by R8, rounding FSTAT.RM, flags into FSTAT. -/

namespace Sys2Proof.Machine

/-- `fp(n, T)`: the low bits of a register at the width of a type (R8, R65). -/
def State.readFp (s : State) (n : Reg) (code : Nat) : Nat := low (fpWidth code) (s.readX n).toNat

/-- The instruction completes with a floating result and its flags (R8, R74). -/
def State.finishF (s : State) (d : Reg) (r : FRes) : Result :=
  .next (({ s with hart := s.hart.raise r.flags }).finishX d (wordOf r.bits) 4)

/-- A binary operation of a type (R75). -/
def State.fop2 (s : State) (f : Fmt → Rm → Nat → Nat → FRes) (o : FOp) : Result :=
  let t := o.t.toNat
  s.finishF o.d (f (Fmt.ofCode t) s.hart.frm (s.readFp o.a t) (s.readFp o.b t))

/-- FADD. -/
def execFadd (o : FOp) (s : State) : Result := s.fop2 addF o
/-- FSUB. -/
def execFsub (o : FOp) (s : State) : Result := s.fop2 subF o
/-- FMUL. -/
def execFmul (o : FOp) (s : State) : Result := s.fop2 mulF o
/-- FDIV. -/
def execFdiv (o : FOp) (s : State) : Result := s.fop2 divF o
/-- FSQRT. -/
def execFsqrt (o : FOp) (s : State) : Result := s.fop2 (fun f rm a _ => sqrtF f rm a) o
/-- FMIN. -/
def execFmin (o : FOp) (s : State) : Result := s.fop2 (fun f _ a b => minmaxF f false a b) o
/-- FMAX. -/
def execFmax (o : FOp) (s : State) : Result := s.fop2 (fun f _ a b => minmaxF f true a b) o

/-- A comparison writes the integer 1 or 0 (R76). -/
def State.fcmp (s : State) (c : Cmp) (o : FOp) : Result :=
  s.fop2 (fun f _ a b => { bits := bit (cmpF f c a b).1, flags := (cmpF f c a b).2 }) o

/-- FEQ. -/
def execFeq (o : FOp) (s : State) : Result := s.fcmp .eq o
/-- FLT. -/
def execFlt (o : FOp) (s : State) : Result := s.fcmp .lt o
/-- FLE. -/
def execFle (o : FOp) (s : State) : Result := s.fcmp .le o
/-- FCLASS (R77). -/
def execFclass (o : FOp) (s : State) : Result := s.fop2 (fun f _ a _ => { bits := classF f a, flags := 0 }) o
/-- FSGN: the sign becomes the exclusive-or of the two signs (R78). -/
def execFsgn (o : FOp) (s : State) : Result :=
  s.fop2 (fun f _ a b => { bits := f.withSign (f.sign a != f.sign b) (f.mag a), flags := 0 }) o

/-- FMA and FNMA read the destination as third operand (R75). -/
def State.fop3 (s : State) (f : Fmt → Rm → Nat → Nat → Nat → FRes) (o : FOp) : Result :=
  let t := o.t.toNat
  s.finishF o.d (f (Fmt.ofCode t) s.hart.frm (s.readFp o.a t) (s.readFp o.b t) (s.readFp o.d t))

/-- FMA. -/
def execFma (o : FOp) (s : State) : Result := s.fop3 fmaF o
/-- FNMA. -/
def execFnma (o : FOp) (s : State) : Result := s.fop3 fnmaF o

/-- The second type of a conversion: b[2:0] (R32). -/
def cvtSrc (o : FOp) : Nat := (o.b.extractLsb' 0 3).toNat

/-- FCVT: between floating formats, b[3] saturating into FP8 (R79). -/
def execFcvt (o : FOp) (s : State) : Result :=
  s.finishF o.d (cvtF (Fmt.ofCode o.t.toNat) (Fmt.ofCode (cvtSrc o)) s.hart.frm (o.b.getLsbD 3) (s.readFp o.a (cvtSrc o)))

/-- FCVTI: to an integer type, sign- or zero-extended to the register (R79). -/
def execFcvti (o : FOp) (s : State) : Result :=
  let r := f2i (Fmt.ofCode o.t.toNat) s.hart.frm (intWidth (cvtSrc o)) (intSigned (cvtSrc o)) (s.readFp o.a o.t.toNat)
  .next (({ s with hart := s.hart.raise r.2 }).finishX o.d (BitVec.ofInt 64 r.1) 4)

/-- FCVTIF: from an integer type (R79). -/
def execFcvtif (o : FOp) (s : State) : Result :=
  s.finishF o.d
    (i2f (Fmt.ofCode o.t.toNat) s.hart.frm false (intOf (intWidth (cvtSrc o)) (intSigned (cvtSrc o)) (s.readX o.a).toNat))

end Sys2Proof.Machine
end

