-- ==== Sys2Proof/Machine/ScalarInt.lean ====
section
/-! DEFINITION. The 16-bit forms (R24), the integer register operations (R66 to R69) and the jumps and branches (R72,
R73). -/

namespace Sys2Proof.Machine

/-! ### Results -/

/-- DIV (R67). -/
def divS (a b : Word) : Word :=
  if b = 0 then -1 else if a = BitVec.intMin 64 ∧ b = -1 then BitVec.intMin 64
  else BitVec.ofInt 64 (a.toInt.tdiv b.toInt)

/-- REM (R67). -/
def remS (a b : Word) : Word :=
  if b = 0 then a else if a = BitVec.intMin 64 ∧ b = -1 then 0
  else BitVec.ofInt 64 (a.toInt.tmod b.toInt)

/-- DIVU (R67). -/
def divU (a b : Word) : Word := if b = 0 then -1 else wordOf (a.toNat / b.toNat)

/-- REMU (R67). -/
def remU (a b : Word) : Word := if b = 0 then a else wordOf (a.toNat % b.toNat)

/-- MULH: the high half of the signed product (R66). -/
def mulhS (a b : Word) : Word := BitVec.ofInt 64 (a.toInt * b.toInt / 2 ^ 64)

/-- MULHU: the high half of the unsigned product (R66). -/
def mulhU (a b : Word) : Word := wordOf (a.toNat * b.toNat / 2 ^ 64)

/-- The leading zero bits of the low `n` bits (R66). -/
def clzFrom (a : Word) : Nat → Nat
  | 0 => 0
  | n + 1 => if a.getLsbD n then 0 else 1 + clzFrom a n

/-- The trailing zero bits from bit `64 − n` (R66). -/
def ctzFrom (a : Word) : Nat → Nat
  | 0 => 0
  | n + 1 => if a.getLsbD (63 - n) then 0 else 1 + ctzFrom a n

/-- The one bits below bit `n` (R66). -/
def popcFrom (a : Word) : Nat → Nat
  | 0 => 0
  | n + 1 => bit (a.getLsbD n) + popcFrom a n

/-- A comparison as the integer 1 or 0. -/
def boolW (b : Bool) : Word := if b then 1 else 0

/-- The shift amount of a register shift: its low six bits (R66). -/
def shamt (b : Word) : Nat := b.toNat % 64

/-! ### Shapes -/

/-- A register operation on two registers (R66). -/
def State.opRR (s : State) (f : Word → Word → Word) (d a b : Reg) (len : Nat) : Result :=
  .next (s.finishX d (f (s.readX a) (s.readX b)) len)

/-- A register operation on a register and an immediate (R68). -/
def State.opRI (s : State) (f : Word → Word → Word) (d a : Reg) (imm : Word) (len : Nat) : Result :=
  .next (s.finishX d (f (s.readX a) imm) len)

/-- A branch (R72): to `target` when the condition holds, else past the instruction's `len` bytes. -/
def State.branch (s : State) (taken : Bool) (offset : Word) (len : Nat) : Result :=
  .next (if taken then s.jump (s.hart.pc + offset) else s.advance len)

/-- A jump that writes a link (R73). -/
def State.jumpLink (s : State) (d : Reg) (target link : Word) : Result := .next ((s.writeX d link).jump target)

/-- A 5-bit field as a signed immediate (R24). -/
def simm5 (o : HOp) : Word := simm o.rb

/-- A 5-bit field as a register-sized number (R24). -/
def uimm5 (o : HOp) : Word := o.rb.zeroExtend 64

/-- x30, the base of the compressed stack accesses (R24). -/
def xSp : Reg := 30

/-! ### The 16-bit forms (R24) -/

/-- H.ADDI (R24). -/
def execHAddi (o : HOp) (s : State) : Result := s.opRI (· + ·) o.ra o.ra (simm5 o) 2
/-- H.LI (R24). -/
def execHLi (o : HOp) (s : State) : Result := s.opRI (· + ·) o.ra 0 (simm5 o) 2
/-- H.MV (R24). -/
def execHMv (o : HOp) (s : State) : Result := s.opRI (· + ·) o.ra o.rb 0 2
/-- H.ADD (R24). -/
def execHAdd (o : HOp) (s : State) : Result := s.opRR (· + ·) o.ra o.ra o.rb 2
/-- H.SUB (R24). -/
def execHSub (o : HOp) (s : State) : Result := s.opRR (· - ·) o.ra o.ra o.rb 2
/-- H.AND (R24). -/
def execHAnd (o : HOp) (s : State) : Result := s.opRR (· &&& ·) o.ra o.ra o.rb 2
/-- H.OR (R24). -/
def execHOr (o : HOp) (s : State) : Result := s.opRR (· ||| ·) o.ra o.ra o.rb 2
/-- H.XOR (R24). -/
def execHXor (o : HOp) (s : State) : Result := s.opRR (· ^^^ ·) o.ra o.ra o.rb 2
/-- H.SLLI (R24). -/
def execHSlli (o : HOp) (s : State) : Result := s.opRI (fun a i => a <<< shamt i) o.ra o.ra (uimm5 o) 2
/-- H.SRLI (R24). -/
def execHSrli (o : HOp) (s : State) : Result := s.opRI (fun a i => a >>> shamt i) o.ra o.ra (uimm5 o) 2
/-- H.LDD (R24, R70). -/
def execHLdd (o : HOp) (s : State) : Result := s.load (halfBits 11 o) 8 false o.ra (s.readX xSp + uimm5 o * 8) 2
/-- H.STD (R24, R70). -/
def execHStd (o : HOp) (s : State) : Result := s.store (halfBits 12 o) 8 (s.readX o.ra) (s.readX xSp + uimm5 o * 8) 2
/-- H.BEQZ (R24, R72). -/
def execHBeqz (o : HOp) (s : State) : Result := s.branch (s.readX o.ra == 0) (simm5 o * 2) 2
/-- H.BNEZ (R24, R72). -/
def execHBnez (o : HOp) (s : State) : Result := s.branch (s.readX o.ra != 0) (simm5 o * 2) 2
/-- H.J: the offset is {ra, rb} (R24, R73). -/
def execHJ (o : HOp) (s : State) : Result := .next (s.jump (s.hart.pc + simm (o.ra ++ o.rb) * 2))
/-- H.JR (R24, R73). -/
def execHJr (o : HOp) (s : State) : Result := .next (s.jump (s.readX o.ra))
/-- H.NOP (R24). -/
def execHNop (s : State) : Result := .next (s.advance 2)

/-! ### OPR (R66, R67) -/

/-- ADD. -/
def execAdd (o : ROp) (s : State) : Result := s.opRR (· + ·) o.d o.a o.b 4
/-- SUB. -/
def execSub (o : ROp) (s : State) : Result := s.opRR (· - ·) o.d o.a o.b 4
/-- MUL. -/
def execMul (o : ROp) (s : State) : Result := s.opRR (· * ·) o.d o.a o.b 4
/-- MULH. -/
def execMulh (o : ROp) (s : State) : Result := s.opRR mulhS o.d o.a o.b 4
/-- MULHU. -/
def execMulhu (o : ROp) (s : State) : Result := s.opRR mulhU o.d o.a o.b 4
/-- DIV. -/
def execDiv (o : ROp) (s : State) : Result := s.opRR divS o.d o.a o.b 4
/-- DIVU. -/
def execDivu (o : ROp) (s : State) : Result := s.opRR divU o.d o.a o.b 4
/-- REM. -/
def execRem (o : ROp) (s : State) : Result := s.opRR remS o.d o.a o.b 4
/-- REMU. -/
def execRemu (o : ROp) (s : State) : Result := s.opRR remU o.d o.a o.b 4
/-- AND. -/
def execAnd (o : ROp) (s : State) : Result := s.opRR (· &&& ·) o.d o.a o.b 4
/-- OR. -/
def execOr (o : ROp) (s : State) : Result := s.opRR (· ||| ·) o.d o.a o.b 4
/-- XOR. -/
def execXor (o : ROp) (s : State) : Result := s.opRR (· ^^^ ·) o.d o.a o.b 4
/-- SLL. -/
def execSll (o : ROp) (s : State) : Result := s.opRR (fun a b => a <<< shamt b) o.d o.a o.b 4
/-- SRL. -/
def execSrl (o : ROp) (s : State) : Result := s.opRR (fun a b => a >>> shamt b) o.d o.a o.b 4
/-- SRA. -/
def execSra (o : ROp) (s : State) : Result := s.opRR (fun a b => a.sshiftRight (shamt b)) o.d o.a o.b 4
/-- SLT. -/
def execSlt (o : ROp) (s : State) : Result := s.opRR (fun a b => boolW (a.slt b)) o.d o.a o.b 4
/-- SLTU. -/
def execSltu (o : ROp) (s : State) : Result := s.opRR (fun a b => boolW (a.ult b)) o.d o.a o.b 4
/-- MIN. -/
def execMin (o : ROp) (s : State) : Result := s.opRR (fun a b => if a.slt b then a else b) o.d o.a o.b 4
/-- MAX. -/
def execMax (o : ROp) (s : State) : Result := s.opRR (fun a b => if a.slt b then b else a) o.d o.a o.b 4
/-- MINU. -/
def execMinu (o : ROp) (s : State) : Result := s.opRR (fun a b => if a.ult b then a else b) o.d o.a o.b 4
/-- MAXU. -/
def execMaxu (o : ROp) (s : State) : Result := s.opRR (fun a b => if a.ult b then b else a) o.d o.a o.b 4
/-- CLZ. -/
def execClz (o : ROp) (s : State) : Result := s.opRR (fun a _ => wordOf (clzFrom a 64)) o.d o.a o.b 4
/-- CTZ. -/
def execCtz (o : ROp) (s : State) : Result := s.opRR (fun a _ => wordOf (ctzFrom a 64)) o.d o.a o.b 4
/-- POPC. -/
def execPopc (o : ROp) (s : State) : Result := s.opRR (fun a _ => wordOf (popcFrom a 64)) o.d o.a o.b 4

/-! ### OPI (R68) and the U forms (R69) -/

/-- The shift amount of SHI: imm11[5:0] (R26). -/
def shiAmount (o : IOp) : Nat := (o.imm.extractLsb' 0 6).toNat

/-- ADDI. -/
def execAddi (o : IOp) (s : State) : Result := s.opRI (· + ·) o.d o.a (simm o.imm) 4
/-- ANDI. -/
def execAndi (o : IOp) (s : State) : Result := s.opRI (· &&& ·) o.d o.a (simm o.imm) 4
/-- ORI. -/
def execOri (o : IOp) (s : State) : Result := s.opRI (· ||| ·) o.d o.a (simm o.imm) 4
/-- XORI. -/
def execXori (o : IOp) (s : State) : Result := s.opRI (· ^^^ ·) o.d o.a (simm o.imm) 4
/-- SLTI. -/
def execSlti (o : IOp) (s : State) : Result := s.opRI (fun a i => boolW (a.slt i)) o.d o.a (simm o.imm) 4
/-- SLTIU. -/
def execSltiu (o : IOp) (s : State) : Result := s.opRI (fun a i => boolW (a.ult i)) o.d o.a (simm o.imm) 4
/-- SLLI. -/
def execSlli (o : IOp) (s : State) : Result := s.opRI (fun a _ => a <<< shiAmount o) o.d o.a 0 4
/-- SRLI. -/
def execSrli (o : IOp) (s : State) : Result := s.opRI (fun a _ => a >>> shiAmount o) o.d o.a 0 4
/-- SRAI. -/
def execSrai (o : IOp) (s : State) : Result := s.opRI (fun a _ => a.sshiftRight (shiAmount o)) o.d o.a 0 4
/-- LUI (R69). -/
def execLui (o : UOp) (s : State) : Result := .next (s.finishX o.d (simm o.imm <<< 11) 4)
/-- ADDPC (R69). -/
def execAddpc (o : UOp) (s : State) : Result := .next (s.finishX o.d (s.hart.pc + simm o.imm <<< 11) 4)

/-! ### Branches and jumps (R72, R73) -/

/-- The offset of a B-form branch (R26). -/
def branchOffset (o : SOp) : Word := simm o.imm * 2

/-- BEQ. -/
def execBeq (o : SOp) (s : State) : Result := s.branch (s.readX o.a == s.readX o.b) (branchOffset o) 4
/-- BNE. -/
def execBne (o : SOp) (s : State) : Result := s.branch (s.readX o.a != s.readX o.b) (branchOffset o) 4
/-- BLT. -/
def execBlt (o : SOp) (s : State) : Result := s.branch ((s.readX o.a).slt (s.readX o.b)) (branchOffset o) 4
/-- BGE. -/
def execBge (o : SOp) (s : State) : Result := s.branch (!(s.readX o.a).slt (s.readX o.b)) (branchOffset o) 4
/-- BLTU. -/
def execBltu (o : SOp) (s : State) : Result := s.branch ((s.readX o.a).ult (s.readX o.b)) (branchOffset o) 4
/-- BGEU. -/
def execBgeu (o : SOp) (s : State) : Result := s.branch (!(s.readX o.a).ult (s.readX o.b)) (branchOffset o) 4
/-- JAL. -/
def execJal (o : UOp) (s : State) : Result := s.jumpLink o.d (s.hart.pc + simm o.imm * 2) (s.hart.pc + 4)
/-- JALR. -/
def execJalr (o : IOp) (s : State) : Result := s.jumpLink o.d (s.readX o.a + simm o.imm) (s.hart.pc + 4)

end Sys2Proof.Machine
end

