-- ==== Sys2Proof/Machine/Service.lean ====
section
/-! DEFINITION. The events of power, security and service (R399 to R414) and of errors and debugging (R352, R355, R356), with the
translation control block's operations (R369 to R371). -/

namespace Sys2Proof.Machine

/-! ### Errors (R352, R413, R414) -/

/-- A storage check's event (R357, R358). -/
def State.rollCheck (s : State) (code : Nat) : State :=
  s.roll s.arg.dieKey 3 0 code s.arg.idx (wordOf s.arg.val.toNat) 0

/-- The hour of R413, in ns. -/
def hourNs : Nat := 3600 * 10 ^ 9

/-- The errors corrected in a die's DRAM within an hour (R413). -/
def State.rowsLately (s : State) (dk : Nat) : List (Nat × Nat) := (s.die dk).rowErrors.filter fun r => decide (s.ns ≤ r.2 + hourNs)

/-- A corrected error of DRAM counted against its row; the sixteenth within an hour has the memory controller repair it (R413). -/
def State.countRow (s : State) : State :=
  let dk := s.arg.dieKey
  let row := Config.dramRow s.arg.val.toNat
  let rows := s.rowsLately dk ++ [(row, s.ns)]
  if 16 ≤ (rows.filter fun r => r.1 = row).length then
    (s.setDie dk { s.die dk with rowErrors := rows.filter fun r => r.1 ≠ row }).pushOnce
      { kind := .rowRepair, arg := { EvArg.none with pkg := s.arg.pkg, die := s.arg.die, idx := 4, val := s.arg.val } }
  else s.setDie dk { s.die dk with rowErrors := rows }

/-- CORRECTED: a single-bit error of structure `arg.idx` at `arg.val` was corrected (R352, R413). -/
def execCorrected (s : State) : Result := s.atDie (if s.arg.idx = 4 then (s.rollCheck 5).countRow else s.rollCheck 5)

/-- An entry of a ring with a word poisoned. -/
def Lease.poisonEntry (l : Lease) (j e at_ : Nat) : Lease :=
  l.setRing j (((List.range (l.ring j).length).zip (l.ring j)).map fun p =>
    if p.1 = e then { p.2 with data := p.2.data.poison at_ } else p.2)

/-- A word of a hart's registers poisoned (R90, R352): register n at n · 98,304; from 2^24 on entry e of ring j, 4j + e of that many
bytes; from 2^25 on word w of mask mn, at 131,072 · n + 8 · w. -/
def Hart.poisonReg (h : Hart) (at_ : Nat) : Hart :=
  if at_ < 2 ^ 24 then { h with lease := { h.lease with vmem := h.lease.vmem.poison at_ } }
  else if at_ < 2 ^ 25 then
    let k := (at_ - 2 ^ 24) / Config.regStride
    { h with lease := h.lease.poisonEntry (k / 4) (k % 4) ((at_ - 2 ^ 24) % Config.regStride) }
  else { h with maskPois := SMap.set false h.maskPois ((at_ - 2 ^ 25) / 8) true }

/-- A tile entry poisoned. -/
def Hart.poisonTile (h : Hart) (at_ : Nat) : Hart :=
  { h with mat := { h.mat with accPois := SMap.set false h.mat.accPois (at_ / 4) true } }

/-- The word of a structure that an uncorrectable error marks (R352, R358): `arg.idx` names the structure, `arg.val` the
location, `arg.aux` the core of a slate, or the hart whose registers or tiles hold the word, with `arg.flag` those of a task pre-empted
there. -/
def State.poisonWord (s : State) : State :=
  let a := s.arg
  let at_ := a.val.toNat
  let g := 3072 * a.pkg + a.aux
  match a.idx with
  | 0 => s.setHart g ((s.getHart g).poisonReg at_)
  | 1 => { s with mem := s.mem.poison (Place.slate (768 * a.pkg + a.aux) at_).key }
  | 2 =>
    if a.flag then { s with parked := s.parked.map fun p => if p.1 = g then (g, p.2.poisonTile at_) else p }
    else s.setHart g ((s.getHart g).poisonTile at_)
  | _ => { s with mem := s.mem.poison (Place.dram a.dieKey at_).key }

/-- POISONED: an uncorrectable error marks a word poisoned (R352). -/
def execPoisoned (s : State) : Result := s.atDie (s.poisonWord.rollCheck 6)

/-- PARITY_ERROR: in the scalar, control, queue or slot state of the hart `arg.idx`, whose task is killed (R352). -/
def execParityError (s : State) : Result :=
  let g := s.arg.idx
  .next (if (s.getHart g).run = .idle then s else s.kill g 0 (s.getHart g).pc)

/-- ROW_REPAIR: a DRAM row is repaired, and the repair recorded with its die (R413, R415). -/
def execRowRepair (s : State) : Result :=
  let r := s.pkg s.arg.pkg
  s.atDie ((s.setPkg s.arg.pkg { r with nv := { r.nv with rows := r.nv.rows ++ [(s.arg.die, s.arg.val.toNat)] } }).rollCheck 0x1A)

/-- FATAL_ERROR: of unit `arg.idx` of the die (R414). -/
def execFatalError (s : State) : Result := s.atDie (s.fatal s.arg.dieKey s.arg.idx (wordOf s.arg.val.toNat))

/-- Every scalar load is performed for good: none is taken again (R370, R410, log 65). -/
def State.dropLates (s : State) : State :=
  { s with hart := { s.hart with late := none }, harts := SMap.mapVals Hart.reset (fun h => { h with late := none }) s.harts }

/-! ### Bring-up (R399, R401) -/

/-- Whether a memory key is of a package's bonded DRAM and LP6 memory. -/
def dramOf (p k : Nat) : Bool := decide (k < 2 ^ 56) && homeOf k == p

/-- Whether a memory key is of a package's slates and scalar data memories. -/
def coreMemOf (p k : Nat) : Bool :=
  (decide (2 ^ 56 ≤ k) && decide (k < 2 ^ 57) && (k - 2 ^ 56) / 2 ^ 20 / 768 == p)
    || (decide (2 ^ 57 ≤ k) && (k - 2 ^ 57) / 2 ^ 16 / 768 == p)

/-- A memory with the keys that pass a test zero, and free of poison. -/
def Memory.wipe (m : Memory) (t : Nat → Bool) : Memory :=
  { cells := m.cells.filter fun c => !t c.1, pois := m.pois.filter fun c => !t (8 * c.1) }

/-- A die after a reset: its tables as R209 gives them, its budget from the boot record; a warm reset keeps the rollbook's
mirror (R399, R400, R402, R414). -/
def DieRec.restart (d : DieRec) (budget : Nat) (warm : Bool) (firmware : Nat) : DieRec :=
  { DieRec.reset with
    budget := budget, firmware := if warm then d.firmware else firmware
    rowErrors := d.rowErrors
    roll := if warm then d.roll else [], rollIndex := if warm then d.rollIndex else 0 }

/-- A package's record after a reset (R399, R400, R407, R409, R410); a warm reset leaves a 7101 its time (R401). -/
def PkgRec.restart (r : PkgRec) (warm small : Bool) (step firmware clk : Nat) (off : Word) : PkgRec :=
  { PkgRec.reset with
    keys := if warm && (SMap.get none r.keys 0).isNone then [] else [(0, some 0)]
    cipher := if warm then r.cipher else []
    timeSet := warm && small && r.timeSet
    slew := if warm && small then r.slew else 0
    slewFrom := if warm && small then r.slewFrom else 0
    boot := r.nv.boot, nv := r.nv, failedStep := step, portFailed := [], linkFailed := [], resetClk := clk, timeOff := off
    firmware := if warm then r.firmware else firmware
    transportKey := if warm then r.transportKey else none }

/-- The forms of a package after a reset: the spare map applied, a cluster held by each boot task (R399). -/
def State.freshForms (s : State) (p : Nat) (boot : Bool) : SMap FormRec :=
  (List.range s.dieCount).foldl (fun m d =>
    (List.range 48).foldl (fun m f =>
      let spared := SMap.get 0 (s.pkg p).nv.spareMap (48 * d + f)
      SMap.set FormRec.reset m (48 * (4 * p + d) + f)
        { FormRec.reset with clusters := if boot && f = 0 then 15 else 16, spared := spared }) m)
    (s.forms.filter fun r => r.1 / 192 ≠ p)

/-- The time a package locks to: the group's, or 0 where it comes up alone (R391, R399); that of a 7101 goes on from its cold reset
(R401). -/
def State.lockTime (s : State) (p : Nat) (warm : Bool) : Word :=
  if s.part = .p7101 ∧ warm then (s.pkg p).timeOff
  else
  match s.packages.filter (· ≠ p) with
  | [] => 0 - wordOf s.ns
  | q :: _ => (s.pkg (if s.grandmaster = p then q else s.grandmaster)).timeOff

/-- A hart of a package after a reset: hart 0 of core 0 of each die runs its boot task (R399). -/
def State.bootHarts (s : State) (p : Nat) (boot : Bool) (g : Nat) : Hart :=
  if boot && g / 3072 = p && g % 768 = 0 && decide (g % 3072 / 768 < s.dieCount) then bootHart (s.pkg p).boot s.mem p (g % 3072 / 768)
  else Hart.reset

/-- Where the boot record of a die is written: the slate of its core 0, or on a 7101 where the controller says (R399, R401, log 2). -/
def State.recordPlace (s : State) (p d : Nat) : Place :=
  if (s.pkg p).boot.recordAt = 0 then .slate (768 * p + 192 * d) bootRecordOffset else .dram (4 * p + d) (s.pkg p).boot.recordAt

/-- The boot record of each die of a package written to its memory (R399, R400). -/
def State.writeRecords (s : State) (p : Nat) : State :=
  { s with mem := (List.range s.dieCount).foldl (fun m d => m.write (s.recordPlace p d).key 60 (s.pkg p).boot.record) s.mem }

/-- The step of bring-up that finds an image it does not accept, 0 for none (R399, R407): `arg.val` holds the version of the management
core's image, and above 2^32 that of the Registrar and Proctor images; `arg.flag` says that the first verifies, `arg.idx` is 0 where the
others do.  A 7101 has no management core (R401). -/
def State.imageStep (s : State) : Nat :=
  let least := (s.pkg s.arg.pkg).nv.minVersion
  let v := s.arg.val.toNat
  if s.part ≠ .p7101 ∧ ¬ (s.arg.flag = true ∧ least ≤ bitsOf v 0 32) then 1
  else if ¬ (s.arg.idx = 0 ∧ least ≤ bitsOf v 32 32) then 2
  else 0

/-- The step at which a cold reset stops: the first image that is not accepted, or where `arg.aux` says. -/
def State.coldStep (s : State) : Nat :=
  let f := s.imageStep
  if f ≠ 0 ∧ (s.arg.aux = 0 ∨ f < s.arg.aux) then f else s.arg.aux

/-- A reset of a package: steps 1 to 6, or 3 to 6 of a warm one; it stops at `step` where that failed, 0 for none (R399). -/
def State.resetPackage (s : State) (p : Nat) (warm : Bool) (step : Nat) : State :=
  let boot := step = 0
  let zero := step = 0 || decide (3 < step)
  let mine (g : Nat) : Bool := g / 3072 = p
  let r := s.pkg p
  let left := (s.allHarts.filter fun h => mine h.1 && h.2.xch.bound).map fun h => h.2.xch.xid
  let s := (left.foldl State.failRound s).dropLates
  let t := s.setPkg p (r.restart warm (s.part == .p7101) step (bitsOf s.arg.val.toNat 0 32) s.clk (s.lockTime p warm))
  let t := { t with mem := if zero then t.mem.wipe fun k => coreMemOf p k || (!warm && dramOf p k) else t.mem }
  let t := if boot then t.writeRecords p else t
  let own := (List.range s.dieCount).map fun d => 3072 * p + 768 * d
  let harts := (s.harts.filter fun h => !mine h.1)
  let harts := own.foldl (fun m g => if g = s.cur then m else SMap.set Hart.reset m g (t.bootHarts p boot g)) harts
  let alone := s.packages.all (· = p)
  let t := { t with
    hart := if mine s.cur then t.bootHarts p boot s.cur else s.hart
    harts := harts
    cores := s.cores.filter fun c => c.1 / 768 ≠ p
    forms := t.freshForms p boot
    parked := s.parked.filter fun h => !mine h.1
    dies := (List.range s.dieCount).foldl (fun m d =>
        SMap.set DieRec.reset m (4 * p + d)
          ((s.die (4 * p + d)).restart r.nv.boot.budget warm (bitsOf s.arg.val.toNat 32 32))) s.dies
    runs := s.runs.filter fun r => r.home / 4 ≠ p
    tlb := s.tlb.filter fun l => l.die / 4 ≠ p
    xids := if alone then [] else s.xids.filter fun x => s.xidHub x.1 ≠ p
    dispatched := s.dispatched && !alone }
  t.packages.foldl (fun t q =>
    let r := t.pkg q
    if q = p then t else t.setPkg q { r with replicas := r.replicas.filter fun page => homeOf (65536 * page) ≠ p }) t

/-- COLD_RESET: of the package; `arg.aux` is the step that failed, where its images were accepted (R399, R401, R407). -/
def execColdReset (s : State) : Result := s.atPackage (s.resetPackage s.arg.pkg false s.coldStep)

/-- WARM_RESET: steps 3 to 6 (R399, R414). -/
def execWarmReset (s : State) : Result := s.atPackage (s.resetPackage s.arg.pkg true s.arg.aux)

/-- The boot configuration that bytes 0 to 59 of a record give (R400); bytes 60 to 67 the address that a 7101's controller names for the
record (R401). -/
def BootCfg.ofNat (v : Nat) (small : Bool) : BootCfg :=
  { windows := (List.range 4).map fun d => bitsOf v (64 * d) 64
    lp6Cache := bitsOf v 256 32, replPool := bitsOf v 288 32, ctxBase := bitsOf v 320 64, ctxCount := bitsOf v 384 32
    portMode := bitsOf v 416 32, budget := bitsOf v 448 32, recordAt := if small then bitsOf v 480 64 else 0 }

/-- Whether a boot configuration keeps its limits (R400, R401), its windows at canonical addresses (R11). -/
def BootCfg.ok (b : BootCfg) (small : Bool) : Bool :=
  decide (b.lp6Cache ≤ 8) && decide (b.replPool ≤ 16384) && b.ctxBase % 2 ^ 22 == 0 && decide (3072 ≤ b.ctxCount)
    && decide (b.portMode ≤ 9) && b.windows.all (fun w => canonical (wordOf w)) && decide (1 ≤ b.budget) && decide (b.budget ≤ 1048575)
    && (!small || (b.replPool == 0 && b.portMode == 0 && b.recordAt % 8 == 0
      && (b.recordAt == 0 || (decide (b.recordAt < 2 ^ 48) && framesExist b.lp6Cache (b.recordAt / 65536) 1))))

/-- BOOT_CONFIG_WRITE: the bytes `arg.data` become the boot configuration of the next reset (R400). -/
def execBootConfigWrite (s : State) : Result :=
  let r := s.pkg s.arg.pkg
  let b := BootCfg.ofNat (leNat s.arg.data) (s.part == .p7101)
  s.atPackage (if b.ok (s.part == .p7101) then s.setPkg s.arg.pkg { r with nv := { r.nv with boot := b } } else s)

/-- MIN_VERSION_RAISE: the minimum version rises to `arg.val` by a command whose signature `arg.flag` says is good (R407). -/
def execMinVersionRaise (s : State) : Result :=
  let r := s.pkg s.arg.pkg
  let v := bitsOf s.arg.val.toNat 0 32
  s.atPackage (if s.arg.flag && decide (r.nv.minVersion < v) then
    s.setPkg s.arg.pkg { r with nv := { r.nv with minVersion := v } } else s)

/-! ### Keys (R401, R410) -/

/-- An answer of a package's security engine or management path. -/
def State.answer (s : State) (p kind : Nat) (v : BitVec 256) : State := { s with outbox := s.outbox ++ [.reply p kind v] }

/-- Whether a key may be unwrapped: under a secured session, or on a 7101 under the transport key (R401, R410). -/
def State.canUnwrap (s : State) (p : Nat) : Bool :=
  if s.part = .p7101 then (s.pkg p).transportKey.isSome else decide ((s.pkg p).spdm = 5)

/-- LOAD: a key, which `arg.val` names, for slot `arg.idx`, whose wrapping `arg.flag` says is good; a slot that is not empty refuses it
(R410, log 18). -/
def execLoad (s : State) : Result :=
  let p := s.arg.pkg
  let n := s.arg.idx
  let r := s.pkg p
  let ok := decide (1 ≤ n) && decide (n ≤ 4095) && !s.keyHeld p n && s.arg.flag && s.canUnwrap p
  s.atPackage ((if ok then s.setPkg p { r with keys := SMap.set none r.keys n (some (s.arg.val.toNat + 1)) } else s).answer p 20 (if ok then 0 else 1))

/-- Whether an access checked under a slot of a package is still to be performed at its home: a write on its way under the slot's key, or
the rest of an instruction that has used a leaf of the slot (R410). -/
def State.slotUsed (s : State) (p n : Nat) : Bool :=
  (s.keyHeld p n && (s.pkg p).held.any fun w => w.cipher == s.keyName p n)
    || s.known.any fun g => (s.getHart g).queue.any fun e =>
      e.pages.any fun l => l.pte.getLsbD 5 && pteHome l.pte / 4 == p && pteKey l.pte == n

/-- CLEAR: slot `arg.idx` is emptied, once every access checked under it has been performed; slot 0 cannot be (R410). -/
def execClear (s : State) : Result :=
  let p := s.arg.pkg
  let n := s.arg.idx
  let r := s.pkg p
  let ok := decide (1 ≤ n) && decide (n ≤ 4095)
  s.atPackage (if ok && s.slotUsed p n then s.pushOnce { kind := .clear, arg := s.arg }
    else (if ok then (s.setPkg p { r with keys := SMap.set none r.keys n none }).dropLates else s).answer p 21 (if ok then 0 else 1))

/-- TRANSPORT_KEY_WRITE: on a 7101, once after each cold reset and before the first LOAD (R401). -/
def execTransportKeyWrite (s : State) : Result :=
  let p := s.arg.pkg
  let r := s.pkg p
  s.atPackage (if s.part = .p7101 ∧ r.transportKey = none then s.setPkg p { r with transportKey := some s.arg.val } else s)

/-! ### Forms and firmware in service (R411, R412) -/

/-- FORM_QUIESCE: dispatch to form `arg.idx` of the die stops; a spare takes its number once it is empty (R411). -/
def execFormQuiesce (s : State) : Result :=
  let fk := 48 * s.arg.dieKey + s.arg.idx
  s.atDie ((s.setForm fk { s.form fk with quiesced := true }).spareForm fk)

/-- QUIESCE_LIMIT: the tasks that remain on a quiesced form are killed (R411). -/
def execQuiesceLimit (s : State) : Result :=
  let fk := 48 * s.arg.dieKey + s.arg.idx
  let kill (t : State) : State :=
    let t := (formHarts fk).foldl (fun t g => if (t.getHart g).run = .idle then t else t.kill g 0 (t.getHart g).pc) t
    let t := (t.parked.filter fun p => formKey p.1 = fk).foldl (fun t p => t.killParked p.1 p.2 0) t
    t.spareForm fk
  s.atDie (if (s.form fk).quiesced then kill s else s)

/-- FW_UPDATE: the die's Registrar image of version `arg.val`, which `arg.flag` says verifies, is loaded, with the state of
queues and drafts unchanged (R407, R412, R415). -/
def execFwUpdate (s : State) : Result :=
  let dk := s.arg.dieKey
  let v := bitsOf s.arg.val.toNat 0 32
  s.atDie (if s.arg.flag && decide ((s.pkg s.arg.pkg).nv.minVersion ≤ v) then
    ((s.setDie dk { s.die dk with firmware := v }).roll dk 1 0 0x19 v 0 0).pokePackage s.arg.pkg else s)

/-! ### Attestation (R401, R408) -/

/-- Signatures an identity key can make (R408). -/
def xmssLimit : Nat := 2 ^ 20

/-- An SPDM ERROR. -/
def State.spdmError (s : State) (p : Nat) : State := (s.answer p 0 0).raiseMsix p 3

/-- An SPDM response: its content is no matter of the machine's state (log 14); a signed one has advanced the leaf counter
(R408). -/
def State.spdmReply (s : State) (kind stage : Nat) (signed : Bool) : State :=
  let p := s.arg.pkg
  let r := s.pkg p
  let v : BitVec 256 := (Config.freeWord s.free).zeroExtend 256
  if signed && decide (xmssLimit ≤ r.nv.xmss) then s.spdmError p
  else
    let r := { r with spdm := max r.spdm stage, nv := { r.nv with xmss := if signed then r.nv.xmss + 1 else r.nv.xmss } }
    ((s.nextFree.setPkg p r).answer p kind v).raiseMsix p 3

/-- A request that needs the negotiation to have come to a stage; a 7101 answers the ones named (R401, R408, log 14). -/
def State.spdm (s : State) (kind need stage : Nat) (signed small : Bool) : Result :=
  let p := s.arg.pkg
  s.atPackage (if s.part = .p7101 && !small then s.spdmError p
    else if (s.pkg p).spdm < need then s.spdmError p
    else s.spdmReply kind stage (signed && s.part != .p7101))

/-- GET_VERSION (R408). -/
def execGetVersion (s : State) : Result := s.spdm 1 0 1 false true
/-- GET_CAPABILITIES (R408). -/
def execGetCapabilities (s : State) : Result := s.spdm 2 1 2 false true
/-- NEGOTIATE_ALGORITHMS (R408). -/
def execNegotiateAlgorithms (s : State) : Result := s.spdm 3 2 3 false true
/-- GET_DIGESTS (R408). -/
def execGetDigests (s : State) : Result := s.spdm 4 3 3 false false
/-- GET_CERTIFICATE (R408). -/
def execGetCertificate (s : State) : Result := s.spdm 5 3 3 false false
/-- CHALLENGE: its answer is signed (R408). -/
def execChallenge (s : State) : Result := s.spdm 6 3 3 true false
/-- GET_MEASUREMENTS: signed where `arg.flag` asks for it (R408). -/
def execGetMeasurements (s : State) : Result := s.spdm 7 3 3 s.arg.flag true
/-- KEY_EXCHANGE: its answer is signed (R408). -/
def execKeyExchange (s : State) : Result := s.spdm 8 3 4 true false
/-- FINISH: the session is secured (R408). -/
def execFinish (s : State) : Result := s.spdm 9 4 5 false false

/-- POWER_LOSS: between the write of the leaf counter and the release of a signature, which skips that index (R408); a 7101 has no
counter (R1, R401). -/
def execPowerLoss (s : State) : Result :=
  let r := s.pkg s.arg.pkg
  s.atPackage (if s.part = .p7101 then s else s.setPkg s.arg.pkg { r with nv := { r.nv with xmss := min (r.nv.xmss + 1) xmssLimit } })

/-! ### Debug (R355, R356) -/

/-- The core an event names. -/
def EvArg.core (a : EvArg) : Nat := 768 * a.pkg + a.idx

/-- An event of a core of the group, the `n` harts or one core that `arg.idx` counts on each die (R1, R2). -/
def State.atUnit (s : State) (n : Nat) (go : State) : Result :=
  if s.present s.arg.pkg && decide (s.arg.idx < n * s.dieCount) then .next go else .fault .absentUnit

/-- HALTREQ: of core `arg.idx` of the package, by hart `arg.aux` of it (R355, R356). -/
def execHaltreq (s : State) : Result :=
  s.atUnit 192 (s.askHalt s.arg.core 0 ((s.core s.arg.core).quiet.getLsbD (s.arg.aux % 4)))

/-- Whether a stream of any hart has yet to land in a core's slate (R356). -/
def State.landsOn (s : State) (core : Nat) : Bool :=
  s.liveSlots.any fun r =>
    let sl := (s.getHart r.1).slot r.2
    (sl.state == .active || sl.state == .faulted || sl.state == .retry) && !(sl.dstWords r.1 core).isEmpty

/-- A hart of a core whose vector side is not where a freeze leaves it (R194, R344). -/
def State.unfrozen (s : State) (core : Nat) : Option Nat :=
  ((List.range 4).map (4 * core + ·)).find? fun g =>
    let h := s.getHart g
    h.run == .running && (h.mat.asked || (s.switch g).ragged.isSome)

/-- What a hart's vector side has in flight goes on to where a freeze leaves it: a VLDXC, or a MATT, which completes (R194, R344). -/
def State.freezeOn (s : State) (g : Nat) : State :=
  s.onHart g fun t =>
    match t.levelMove with
    | some u => u
    | none =>
      match t.hart.queue with
      | e :: _ =>
        (match headOf e.instr with
          | some f => t.runFrontWith (State.slip 1) f
          | none => t)
      | [] => t

/-- A core that halts: what it has in flight goes on, and the event that found it comes again; else `go` (R338, R356). -/
def State.halts (s : State) (kind : Instr) (go : State) : State :=
  let c := s.arg.core
  if !(s.core c).halting then s
  else
    match s.unfrozen c with
    | some g => (s.freezeOn g).pushOnce { kind := kind, arg := s.arg }
    | none => go

/-- HALT_COMPLETE: a halt completes once the core's harts are frozen, a HALT_QUIET once no stream has yet to land in its slate besides;
`arg.flag` tells a HALT_NOW (R356). -/
def execHaltComplete (s : State) : Result :=
  let c := s.arg.core
  s.atUnit 192 (s.halts .haltComplete
    (if s.arg.flag then s.haltNow c (s.core c).reason false false
     else if s.landsOn c then s.pushOnce (coreEvent .haltComplete c)
     else s.haltNow c (s.core c).reason true false))

/-- HALT_QUIET_TIMEOUT: after 50 µs it completes with UNSTABLE (R356). -/
def execHaltQuietTimeout (s : State) : Result :=
  let c := s.arg.core
  s.atUnit 192 (s.halts .haltQuietTimeout (s.haltNow c (s.core c).reason false true))

/-- A halted core goes on: each hart from its DPC, or its task ends by a RESTART stop asked meanwhile (R321, R356, R358). -/
def State.resumeCore (s : State) (core : Nat) : State :=
  let c := s.core core
  if !c.halted then s
  else
    let gs := (List.range 4).map (4 * core + ·)
    let s := s.setCore core { c with halted := false, stable := false, unstable := false }
    let s := s.rollHart (4 * core) 7 (1 + 16 * c.reason) (s.getHart (4 * core)).dpc 0
    let s := gs.foldl (fun s g => let h := s.getHart g; if h.run = .idle then s else s.setHart g { h with pc := h.dpc &&& ~~~1 }) s
    (gs.foldl (fun s g => let h := s.getHart g; if h.run = .running ∧ h.stop then s.endTask g else s) s).pokePackage (core / 768)

/-- RESUME: of core `arg.idx` of the package (R356). -/
def execResume (s : State) : Result := s.atUnit 192 (s.resumeCore s.arg.core)

/-- DSTAT (R355). -/
def CoreRec.dstat (c : CoreRec) : Nat := bit c.halted + c.reason * 16 + bit c.stable * 64 + bit c.unstable * 128

/-- A set of a core's harts with one bit written. -/
def putBit (v : BitVec 4) (j : Nat) (b : Bool) : BitVec 4 :=
  if b then v ||| BitVec.ofNat 4 (2 ^ j) else v &&& ~~~BitVec.ofNat 4 (2 ^ j)

/-- A write of a hart's DCTL (R355): ARMBRK and QUIET are the hart's, a halt and a resume the core's. -/
def State.dctlWrite (s : State) (g : Nat) (v : Word) : State :=
  let core := coreKey g
  let c := s.core core
  let s := s.setCore core { c with armbrk := putBit c.armbrk (g % 4) (v.getLsbD 3), quiet := putBit c.quiet (g % 4) (v.getLsbD 2) }
  let s := if v.getLsbD 0 then s.askHalt core 0 (v.getLsbD 2) else s
  if v.getLsbD 4 then s.resumeCore core else s

/-- A control or debug register of a hart as the management path reads it (R355). -/
def State.debugCtl (s : State) (g n : Nat) : Word :=
  let c := s.core (coreKey g)
  match n with
  | 0x200 => wordOf (bit (c.armbrk.getLsbD (g % 4)) * 8 + bit (c.quiet.getLsbD (g % 4)) * 4)
  | 0x201 => wordOf c.dstat
  | 0x202 => (s.getHart g).dpc
  | _ => (s.switch g).ctlRead n

/-- What the management path names of a hart: a register x0 to x31, a control register, a slot's status word, memory in the
task's space, or an area for its frozen vector state (R355). -/
inductive DebugPart where
  | x (n : Reg)
  | ctl (n : Nat)
  | slot (j : Nat)
  | memory
  | vector
  deriving DecidableEq, Repr

/-- The part that a number names. -/
def DebugPart.ofNat (n : Nat) : DebugPart :=
  if n < 32 then .x (BitVec.ofNat 5 n)
  else if n < 0x1000 then .memory
  else if n < 0x2000 then .ctl (n - 0x1000)
  else if n < 0x2008 then .slot (n - 0x2000)
  else if n = 0x3000 then .vector
  else .memory

/-- An access of the management path to memory in the task's space, 8 bytes (R355). -/
def State.debugMemory (s : State) (g : Nat) (va : Word) (write : Option Nat) : State :=
  let h := s.getHart g
  let a := h.areaAccess g (if write.isSome then .write else .read)
  match s.areaLoc g a va, write with
  | .place p l _, some v => ((s.visit (dieKey g) p .write l).place (2 ^ 34 + g) l p.key 8 v).answer (pkgOf g) 31 0
  | .place p l _, none => (s.visit (dieKey g) p .read l).answer (pkgOf g) 30 (BitVec.ofNat 256 (s.readAt l p.key 8))
  | _, _ => s.answer (pkgOf g) 31 1

/-- A write of the management path (R355): reserved and read-only parts stay. -/
def State.debugWrite (s : State) (g : Nat) (part : DebugPart) (v : Word) (data : List Byte) : State :=
  let h := s.getHart g
  let halted := (s.core (coreKey g)).halted
  match part with
  | .ctl 0x200 => s.dctlWrite g v
  | .ctl 0x202 => if halted then s.setHart g { h with dpc := v &&& ~~~1 } else s
  | .ctl n => if halted then s.setHart g { h with ctl := h.ctl.write n v } else s
  | .x n => if halted then s.setHart g (h.writeX n v) else s
  | .slot j => if halted then s.setSlot g j { h.slot j with status := v } else s
  | .memory => if halted then s.debugMemory g v (some (leNat data)) else s
  | .vector => s

/-- A read of the management path (R355): the frozen vector state is written to an area. -/
def State.debugRead (s : State) (g : Nat) (part : DebugPart) (v : Word) : State :=
  let h := s.getHart g
  let p := pkgOf g
  let say (w : Word) : State := s.answer p 30 (w.zeroExtend 256)
  match part with
  | .ctl n => if 0x200 ≤ n ∨ (s.core (coreKey g)).halted then say (s.debugCtl g n) else s.answer p 31 1
  | .x n => if (s.core (coreKey g)).halted then say (h.readX n) else s.answer p 31 1
  | .slot j => if (s.core (coreKey g)).halted then say (h.slot j).status else s.answer p 31 1
  | .memory => if (s.core (coreKey g)).halted then s.debugMemory g v none else s.answer p 31 1
  | .vector =>
    if !(s.core (coreKey g)).halted ∨ v.toNat % 4096 ≠ 0 then s.answer p 31 1
    else
      match s.putImage g h v false (h.vectorImage (if h.owner = g then h.lease else (s.getHart h.owner).lease) h.ctxWord) with
      | .ok t => t.answer p 31 0
      | .bad _ _ t => t.answer p 31 1
      | .wait => s.answer p 31 1

/-- DEBUG_STATE_ACCESS: of part `arg.aux` of hart `arg.idx` of the package, a write with `arg.flag`; `arg.val` is the value or
the address (R355). -/
def execDebugStateAccess (s : State) : Result :=
  let a := s.arg
  let g := 3072 * a.pkg + a.idx
  let part := DebugPart.ofNat a.aux
  let v := wordOf a.val.toNat
  s.atUnit 768 (if a.flag then s.debugWrite g part v a.data else s.debugRead g part v)

/-! ### Translation operations (R369 to R371) -/

/-- ROOT. -/
def DieRec.tcbRoot (d : DieRec) : Word := wordOf (fieldB d.tcb 64 64)
/-- VA. -/
def DieRec.tcbVa (d : DieRec) : Word := wordOf (fieldB d.tcb 128 64)
/-- NEWPTE. -/
def DieRec.tcbNew (d : DieRec) : Word := wordOf (fieldB d.tcb 192 64)

/-- An operation of a die's block ends: BUSY clear, and DONE incremented or ERR set (R369 to R371). -/
def State.opEnd (s : State) (dk err : Nat) : State :=
  let d := s.die dk
  let t := setFieldB d.tcb 5 1 0
  let t := if err = 0 then setFieldB t 8 32 (fieldB t 8 32 + 1) else setFieldB t 6 2 err
  s.setDie dk { d with tcb := t }

/-- The event that a die's operation is done. -/
def opDone (dk : Nat) : Event := dieEvent .translationOpDone dk 0

/-- Whether a die's block runs an operation. -/
def DieRec.runsOp (d : DieRec) (op : Nat) : Bool := fieldB d.tcb 5 1 = 1 && fieldB d.tcb 2 2 = op

/-- Whether a leaf maps the address of a die's block, in its space or as a global one (R365, R370). -/
def DieRec.names (d : DieRec) (l : LeafAt) : Bool :=
  (l.space == fieldB d.tcb 48 16 || l.pte.getLsbD 7) && l.page == d.tcbVa.toNat / 2 ^ pageBits l.level

/-- Whether an access through a leaf that maps the address is under way: an instruction has used it and is not complete (R370 step
3). -/
def State.leafInUse (s : State) (d : DieRec) : Bool :=
  s.known.any fun g => (s.getHart g).queue.any fun e => e.pages.any fun l => l.pte.getLsbD 5 && d.names l

/-- Whether some write to a page of memory is not placed yet; of any page where none is named. -/
def State.writesDue (s : State) (page : Option Nat) : Bool :=
  s.packages.any fun p => (s.pkg p).held.any fun w => page.isNone || page == some (keyPage w.key)

/-- Each translation-cache entry that maps the address is gone (R370 step 2). -/
def State.forget (s : State) (d : DieRec) : State := { s with tlb := s.tlb.filter fun l => !d.names l }

/-- INVALIDATE: no MGRP is under way between steps; the operation ends once its accesses are performed (R187, R370). -/
def execInvalidate (s : State) : Result :=
  let dk := s.arg.dieKey
  s.atDie (if (s.die dk).runsOp 1 then s.pushOnce (opDone dk) else s)

/-- MIGRATE steps 1 and 2: the leaf is found and MIG set in it (R371). -/
def execMigrate (s : State) : Result :=
  let dk := s.arg.dieKey
  let d := s.die dk
  s.atDie (if !d.runsOp 2 then s
    else
      match s.walk dk d.tcbRoot d.tcbVa with
      | .leaf l 4 =>
        if l.repl then s.opEnd dk 3
        else (s.putUnder l.cipher l.key 8 (l.pte ||| 0x200).toNat false).pushOnce (opDone dk)
      | _ => s.opEnd dk 2)

/-- The first key of a leaf's frame. -/
def frameKey (pte : Word) : Nat := (Place.dram (pteHome pte) (pteFrame pte * 65536)).key

/-- The first `n` words of a leaf's page copied to another's, each under its key, poison with them (R353, R371, R409). -/
def State.copyPage (s : State) (new old : LeafAt) : Nat → State
  | 0 => s
  | n + 1 =>
    let t := s.copyPage new old n
    let k := frameKey old.pte + 8 * n
    t.putUnder (t.leafKey (some new)) (frameKey new.pte + 8 * n) 8 (t.readAt (some old) k 8) (t.mem.poisoned k 8)

/-- The first `n` words of a leaf's page copied to another's in the memory that a hart fetches from, so that it fetches there what it
fetched before (R371, log 9). -/
def State.copyCode (s : State) (new old : LeafAt) (m : Memory) : Nat → Memory
  | 0 => m
  | n + 1 =>
    let k := frameKey old.pte + 8 * n
    (s.copyCode new old m n).writeBad (frameKey new.pte + 8 * n) 8 (State.readAt { s with mem := m } (some old) k 8) (m.poisoned k 8)

/-- MIGRATE steps 4 and 5: the page copied, the leaf NEWPTE with MIG 0 and the A and D of both; no task sees the move (R371). -/
def State.migrate (s : State) (dk : Nat) (d : DieRec) : State :=
  match s.walk dk d.tcbRoot d.tcbVa with
  | .leaf l 4 =>
    let new := (d.tcbNew &&& ~~~0x200) ||| (l.pte &&& 0x60)
    let moved := { l with pte := d.tcbNew }
    let follow (h : Hart) : Hart := { h with code := s.copyCode moved l h.code 8192 }
    let t := (s.copyPage moved l 8192).putUnder l.cipher l.key 8 new.toNat false
    { t with
      hart := follow t.hart, harts := SMap.mapVals Hart.reset follow t.harts
      parked := t.parked.map fun p => (p.1, follow p.2) }
  | _ => s

/-- The page that MIGRATE moves, once MIG is set (R371). -/
def State.movedPage (s : State) (dk : Nat) (d : DieRec) : Option Nat :=
  match s.walk dk d.tcbRoot d.tcbVa with
  | .leaf l 4 => some l.framePage
  | _ => none

/-- TRANSLATION_OP_DONE: the operation of the die's block finishes, once every access by a leaf it removes, and every write that is on
its way, has been performed (R369 to R371, log 10). -/
def execTranslationOpDone (s : State) : Result :=
  let dk := s.arg.dieKey
  let d := s.die dk
  let moved := if d.runsOp 2 then s.movedPage dk d else none
  s.atDie (if !d.runsOp 1 && !d.runsOp 2 then s
    else if s.leafInUse d || s.writesDue moved then s.pushOnce (opDone dk)
    else if d.runsOp 1 then (s.dropLates.forget d).opEnd dk 0
    else ((s.dropLates.forget d).migrate dk d).opEnd dk 0)

end Sys2Proof.Machine
end

