-- ==== Sys2Proof/Machine/Dispatch.lean ====
section
/-! DEFINITION. The dispatch: the meaning of every row of the opcode table. -/

namespace Sys2Proof.Machine

/-- What an instruction or event does to the machine. -/
def exec (i : Instr) (s : State) : Host.Outcome State Fault Refusal :=
  match i with
  | .hNop => Sys2Proof.Machine.execHNop s
  | .add o => Sys2Proof.Machine.execAdd o s
  | .sub o => Sys2Proof.Machine.execSub o s
  | .mul o => Sys2Proof.Machine.execMul o s
  | .mulh o => Sys2Proof.Machine.execMulh o s
  | .mulhu o => Sys2Proof.Machine.execMulhu o s
  | .div o => Sys2Proof.Machine.execDiv o s
  | .divu o => Sys2Proof.Machine.execDivu o s
  | .rem o => Sys2Proof.Machine.execRem o s
  | .remu o => Sys2Proof.Machine.execRemu o s
  | .and o => Sys2Proof.Machine.execAnd o s
  | .or o => Sys2Proof.Machine.execOr o s
  | .xor o => Sys2Proof.Machine.execXor o s
  | .sll o => Sys2Proof.Machine.execSll o s
  | .srl o => Sys2Proof.Machine.execSrl o s
  | .sra o => Sys2Proof.Machine.execSra o s
  | .slt o => Sys2Proof.Machine.execSlt o s
  | .sltu o => Sys2Proof.Machine.execSltu o s
  | .min o => Sys2Proof.Machine.execMin o s
  | .max o => Sys2Proof.Machine.execMax o s
  | .minu o => Sys2Proof.Machine.execMinu o s
  | .maxu o => Sys2Proof.Machine.execMaxu o s
  | .clz o => Sys2Proof.Machine.execClz o s
  | .ctz o => Sys2Proof.Machine.execCtz o s
  | .popc o => Sys2Proof.Machine.execPopc o s
  | .addi o => Sys2Proof.Machine.execAddi o s
  | .andi o => Sys2Proof.Machine.execAndi o s
  | .ori o => Sys2Proof.Machine.execOri o s
  | .xori o => Sys2Proof.Machine.execXori o s
  | .slti o => Sys2Proof.Machine.execSlti o s
  | .sltiu o => Sys2Proof.Machine.execSltiu o s
  | .slli o => Sys2Proof.Machine.execSlli o s
  | .srli o => Sys2Proof.Machine.execSrli o s
  | .srai o => Sys2Proof.Machine.execSrai o s
  | .ldb o => Sys2Proof.Machine.execLdb o s
  | .ldh o => Sys2Proof.Machine.execLdh o s
  | .ldw o => Sys2Proof.Machine.execLdw o s
  | .ldd o => Sys2Proof.Machine.execLdd o s
  | .ldbu o => Sys2Proof.Machine.execLdbu o s
  | .ldhu o => Sys2Proof.Machine.execLdhu o s
  | .ldwu o => Sys2Proof.Machine.execLdwu o s
  | .stb o => Sys2Proof.Machine.execStb o s
  | .sth o => Sys2Proof.Machine.execSth o s
  | .stw o => Sys2Proof.Machine.execStw o s
  | .std o => Sys2Proof.Machine.execStd o s
  | .beq o => Sys2Proof.Machine.execBeq o s
  | .bne o => Sys2Proof.Machine.execBne o s
  | .blt o => Sys2Proof.Machine.execBlt o s
  | .bge o => Sys2Proof.Machine.execBge o s
  | .bltu o => Sys2Proof.Machine.execBltu o s
  | .bgeu o => Sys2Proof.Machine.execBgeu o s
  | .jal o => Sys2Proof.Machine.execJal o s
  | .jalr o => Sys2Proof.Machine.execJalr o s
  | .lui o => Sys2Proof.Machine.execLui o s
  | .addpc o => Sys2Proof.Machine.execAddpc o s
  | .fadd o => Sys2Proof.Machine.execFadd o s
  | .fsub o => Sys2Proof.Machine.execFsub o s
  | .fmul o => Sys2Proof.Machine.execFmul o s
  | .fdiv o => Sys2Proof.Machine.execFdiv o s
  | .fsqrt o => Sys2Proof.Machine.execFsqrt o s
  | .fmin o => Sys2Proof.Machine.execFmin o s
  | .fmax o => Sys2Proof.Machine.execFmax o s
  | .feq o => Sys2Proof.Machine.execFeq o s
  | .flt o => Sys2Proof.Machine.execFlt o s
  | .fle o => Sys2Proof.Machine.execFle o s
  | .fclass o => Sys2Proof.Machine.execFclass o s
  | .fcvt o => Sys2Proof.Machine.execFcvt o s
  | .fcvti o => Sys2Proof.Machine.execFcvti o s
  | .fcvtif o => Sys2Proof.Machine.execFcvtif o s
  | .fsgn o => Sys2Proof.Machine.execFsgn o s
  | .fma o => Sys2Proof.Machine.execFma o s
  | .fnma o => Sys2Proof.Machine.execFnma o s
  | .amoswap o => Sys2Proof.Machine.execAmoswap o s
  | .amoadd o => Sys2Proof.Machine.execAmoadd o s
  | .amoand o => Sys2Proof.Machine.execAmoand o s
  | .amoor o => Sys2Proof.Machine.execAmoor o s
  | .amoxor o => Sys2Proof.Machine.execAmoxor o s
  | .amomin o => Sys2Proof.Machine.execAmomin o s
  | .amomax o => Sys2Proof.Machine.execAmomax o s
  | .amominu o => Sys2Proof.Machine.execAmominu o s
  | .amomaxu o => Sys2Proof.Machine.execAmomaxu o s
  | .amocas o => Sys2Proof.Machine.execAmocas o s
  | .amofadd o => Sys2Proof.Machine.execAmofadd o s
  | .fenceSv => Sys2Proof.Machine.execFenceSv s
  | .fenceVs => Sys2Proof.Machine.execFenceVs s
  | .fenceVv => Sys2Proof.Machine.execFenceVv s
  | .fenceAll => Sys2Proof.Machine.execFenceAll s
  | .fenceI => Sys2Proof.Machine.execFenceI s
  | .trap a => Sys2Proof.Machine.execTrap a s
  | .tret => Sys2Proof.Machine.execTret s
  | .wfe => Sys2Proof.Machine.execWfe s
  | .brk => Sys2Proof.Machine.execBrk s
  | .ctlrd o => Sys2Proof.Machine.execCtlrd o s
  | .ctlwr o => Sys2Proof.Machine.execCtlwr o s
  | .ctlset o => Sys2Proof.Machine.execCtlset o s
  | .ctlclr o => Sys2Proof.Machine.execCtlclr o s
  | .ctlwri o => Sys2Proof.Machine.execCtlwri o s
  | .setvl o => Sys2Proof.Machine.execSetvl o s
  | .setvli o => Sys2Proof.Machine.execSetvli o s
  | .setcfg o => Sys2Proof.Machine.execSetcfg o s
  | .vclaim => Sys2Proof.Machine.execVclaim s
  | .vsave a => Sys2Proof.Machine.execVsave a s
  | .vrestore a => Sys2Proof.Machine.execVrestore a s
  | .gsetvl o => Sys2Proof.Machine.execGsetvl o s
  | .vadd o => Sys2Proof.Machine.execVadd o s
  | .vsub o => Sys2Proof.Machine.execVsub o s
  | .vmul o => Sys2Proof.Machine.execVmul o s
  | .vmulh o => Sys2Proof.Machine.execVmulh o s
  | .vmin o => Sys2Proof.Machine.execVmin o s
  | .vmax o => Sys2Proof.Machine.execVmax o s
  | .vdiv o => Sys2Proof.Machine.execVdiv o s
  | .vrem o => Sys2Proof.Machine.execVrem o s
  | .vand o => Sys2Proof.Machine.execVand o s
  | .vor o => Sys2Proof.Machine.execVor o s
  | .vxor o => Sys2Proof.Machine.execVxor o s
  | .vsll o => Sys2Proof.Machine.execVsll o s
  | .vsr o => Sys2Proof.Machine.execVsr o s
  | .vsadd o => Sys2Proof.Machine.execVsadd o s
  | .vssub o => Sys2Proof.Machine.execVssub o s
  | .vmac o => Sys2Proof.Machine.execVmac o s
  | .vcmpeq o => Sys2Proof.Machine.execVcmpeq o s
  | .vcmpne o => Sys2Proof.Machine.execVcmpne o s
  | .vcmplt o => Sys2Proof.Machine.execVcmplt o s
  | .vcmple o => Sys2Proof.Machine.execVcmple o s
  | .vmerge o => Sys2Proof.Machine.execVmerge o s
  | .vmv o => Sys2Proof.Machine.execVmv o s
  | .vmvx o => Sys2Proof.Machine.execVmvx o s
  | .vid o => Sys2Proof.Machine.execVid o s
  | .vfadd o => Sys2Proof.Machine.execVfadd o s
  | .vfsub o => Sys2Proof.Machine.execVfsub o s
  | .vfmul o => Sys2Proof.Machine.execVfmul o s
  | .vfdiv o => Sys2Proof.Machine.execVfdiv o s
  | .vfma o => Sys2Proof.Machine.execVfma o s
  | .vfnma o => Sys2Proof.Machine.execVfnma o s
  | .vfmin o => Sys2Proof.Machine.execVfmin o s
  | .vfmax o => Sys2Proof.Machine.execVfmax o s
  | .vfsqrt o => Sys2Proof.Machine.execVfsqrt o s
  | .vfrsqrt o => Sys2Proof.Machine.execVfrsqrt o s
  | .vfabs o => Sys2Proof.Machine.execVfabs o s
  | .vfneg o => Sys2Proof.Machine.execVfneg o s
  | .vfcmpeq o => Sys2Proof.Machine.execVfcmpeq o s
  | .vfcmplt o => Sys2Proof.Machine.execVfcmplt o s
  | .vfcmple o => Sys2Proof.Machine.execVfcmple o s
  | .vfclass o => Sys2Proof.Machine.execVfclass o s
  | .vfcvt o => Sys2Proof.Machine.execVfcvt o s
  | .vfcvtScaled o => Sys2Proof.Machine.execVfcvtScaled o s
  | .vf2i o => Sys2Proof.Machine.execVf2i o s
  | .vi2f o => Sys2Proof.Machine.execVi2f o s
  | .viext o => Sys2Proof.Machine.execViext o s
  | .vredsum o => Sys2Proof.Machine.execVredsum o s
  | .vredmin o => Sys2Proof.Machine.execVredmin o s
  | .vredmax o => Sys2Proof.Machine.execVredmax o s
  | .vredor o => Sys2Proof.Machine.execVredor o s
  | .vfredsum o => Sys2Proof.Machine.execVfredsum o s
  | .vfredosum o => Sys2Proof.Machine.execVfredosum o s
  | .vfredmin o => Sys2Proof.Machine.execVfredmin o s
  | .vfredmax o => Sys2Proof.Machine.execVfredmax o s
  | .vscan o => Sys2Proof.Machine.execVscan o s
  | .vperm o => Sys2Proof.Machine.execVperm o s
  | .vslideup o => Sys2Proof.Machine.execVslideup o s
  | .vslidedn o => Sys2Proof.Machine.execVslidedn o s
  | .vcompress o => Sys2Proof.Machine.execVcompress o s
  | .vrank o => Sys2Proof.Machine.execVrank o s
  | .vbfly o => Sys2Proof.Machine.execVbfly o s
  | .vsortk o => Sys2Proof.Machine.execVsortk o s
  | .mand o => Sys2Proof.Machine.execMand o s
  | .mor o => Sys2Proof.Machine.execMor o s
  | .mxor o => Sys2Proof.Machine.execMxor o s
  | .mandn o => Sys2Proof.Machine.execMandn o s
  | .mpopc o => Sys2Proof.Machine.execMpopc o s
  | .mfirst o => Sys2Proof.Machine.execMfirst o s
  | .mset o => Sys2Proof.Machine.execMset o s
  | .vmaxi o => Sys2Proof.Machine.execVmaxi o s
  | .vmini o => Sys2Proof.Machine.execVmini o s
  | .vbslice o => Sys2Proof.Machine.execVbslice o s
  | .vbunslice o => Sys2Proof.Machine.execVbunslice o s
  | .vld o => Sys2Proof.Machine.execVld o s
  | .vlds o => Sys2Proof.Machine.execVlds o s
  | .vldav o => Sys2Proof.Machine.execVldav o s
  | .vldg o => Sys2Proof.Machine.execVldg o s
  | .vldx o => Sys2Proof.Machine.execVldx o s
  | .vldxu o => Sys2Proof.Machine.execVldxu o s
  | .vldxf o => Sys2Proof.Machine.execVldxf o s
  | .qlds o => Sys2Proof.Machine.execQlds o s
  | .vst o => Sys2Proof.Machine.execVst o s
  | .vsts o => Sys2Proof.Machine.execVsts o s
  | .vstx o => Sys2Proof.Machine.execVstx o s
  | .vstxu o => Sys2Proof.Machine.execVstxu o s
  | .vstxadd o => Sys2Proof.Machine.execVstxadd o s
  | .vstxmax o => Sys2Proof.Machine.execVstxmax o s
  | .vstxmin o => Sys2Proof.Machine.execVstxmin o s
  | .mld o => Sys2Proof.Machine.execMld o s
  | .mst o => Sys2Proof.Machine.execMst o s
  | .vldxc o => Sys2Proof.Machine.execVldxc o s
  | .xopen o => Sys2Proof.Machine.execXopen o s
  | .xsplit o => Sys2Proof.Machine.execXsplit o s
  | .xcap o => Sys2Proof.Machine.execXcap o s
  | .xdeadl o => Sys2Proof.Machine.execXdeadl o s
  | .rsend o => Sys2Proof.Machine.execRsend o s
  | .rrun o => Sys2Proof.Machine.execRrun o s
  | .rend => Sys2Proof.Machine.execRend s
  | .xclose o => Sys2Proof.Machine.execXclose o s
  | .rrecv o => Sys2Proof.Machine.execRrecv o s
  | .xwait o => Sys2Proof.Machine.execXwait o s
  | .xstat o => Sys2Proof.Machine.execXstat o s
  | .xrebal o => Sys2Proof.Machine.execXrebal o s
  | .shape o => Sys2Proof.Machine.execShape o s
  | .stmld o => Sys2Proof.Machine.execStmld o s
  | .stmldShaped o => Sys2Proof.Machine.execStmldShaped o s
  | .stmst o => Sys2Proof.Machine.execStmst o s
  | .stmstShaped o => Sys2Proof.Machine.execStmstShaped o s
  | .stmcp o => Sys2Proof.Machine.execStmcp o s
  | .stmcpShaped o => Sys2Proof.Machine.execStmcpShaped o s
  | .stmwait o => Sys2Proof.Machine.execStmwait o s
  | .stmstat o => Sys2Proof.Machine.execStmstat o s
  | .stmtl o => Sys2Proof.Machine.execStmtl o s
  | .stmcancel o => Sys2Proof.Machine.execStmcancel o s
  | .tlaunch o => Sys2Proof.Machine.execTlaunch o s
  | .texit => Sys2Proof.Machine.execTexit s
  | .tyield => Sys2Proof.Machine.execTyield s
  | .twait o => Sys2Proof.Machine.execTwait o s
  | .gbar => Sys2Proof.Machine.execGbar s
  | .garrive o => Sys2Proof.Machine.execGarrive o s
  | .gwait o => Sys2Proof.Machine.execGwait o s
  | .lease o => Sys2Proof.Machine.execLease o s
  | .dreg o => Sys2Proof.Machine.execDreg o s
  | .dpub o => Sys2Proof.Machine.execDpub o s
  | .dfinal o => Sys2Proof.Machine.execDfinal o s
  | .dstop o => Sys2Proof.Machine.execDstop o s
  | .dchk o => Sys2Proof.Machine.execDchk o s
  | .dwait o => Sys2Proof.Machine.execDwait o s
  | .hpass o => Sys2Proof.Machine.execHpass o s
  | .hdone o => Sys2Proof.Machine.execHdone o s
  | .matt o => Sys2Proof.Machine.execMatt o s
  | .mrel => Sys2Proof.Machine.execMrel s
  | .mzero o => Sys2Proof.Machine.execMzero o s
  | .msetlen o => Sys2Proof.Machine.execMsetlen o s
  | .msave o => Sys2Proof.Machine.execMsave o s
  | .mload o => Sys2Proof.Machine.execMload o s
  | .opadd o => Sys2Proof.Machine.execOpadd o s
  | .opsub o => Sys2Proof.Machine.execOpsub o s
  | .opaddSp o => Sys2Proof.Machine.execOpaddSp o s
  | .opaddBs o => Sys2Proof.Machine.execOpaddBs o s
  | .opaddQ o => Sys2Proof.Machine.execOpaddQ o s
  | .mgrp o => Sys2Proof.Machine.execMgrp o s
  | .mgrpQ o => Sys2Proof.Machine.execMgrpQ o s
  | .mldt o => Sys2Proof.Machine.execMldt o s
  | .mldtFf o => Sys2Proof.Machine.execMldtFf o s
  | .mstt o => Sys2Proof.Machine.execMstt o s
  | .mrdv o => Sys2Proof.Machine.execMrdv o s
  | .mwrv o => Sys2Proof.Machine.execMwrv o s
  | .bst o => Sys2Proof.Machine.execBst o s
  | .bchain o => Sys2Proof.Machine.execBchain o s
  | .bsset o => Sys2Proof.Machine.execBsset o s
  | .bsget o => Sys2Proof.Machine.execBsget o s
  | .queueHeadExecute => Sys2Proof.Machine.execQueueHeadExecute s
  | .dispatchSlot => Sys2Proof.Machine.execDispatchSlot s
  | .copyHandoff => Sys2Proof.Machine.execCopyHandoff s
  | .levelAging => Sys2Proof.Machine.execLevelAging s
  | .tailWrite => Sys2Proof.Machine.execTailWrite s
  | .queueEnable => Sys2Proof.Machine.execQueueEnable s
  | .queueDisable => Sys2Proof.Machine.execQueueDisable s
  | .relaunch => Sys2Proof.Machine.execRelaunch s
  | .pipelineArm => Sys2Proof.Machine.execPipelineArm s
  | .leasewaitExpiry => Sys2Proof.Machine.execLeasewaitExpiry s
  | .taskResume => Sys2Proof.Machine.execTaskResume s
  | .hallPassGrant => Sys2Proof.Machine.execHallPassGrant s
  | .hpwaitExpiry => Sys2Proof.Machine.execHpwaitExpiry s
  | .tileGrant => Sys2Proof.Machine.execTileGrant s
  | .streamElementLanding => Sys2Proof.Machine.execStreamElementLanding s
  | .chunkDelivered => Sys2Proof.Machine.execChunkDelivered s
  | .recordMerge => Sys2Proof.Machine.execRecordMerge s
  | .recordArrival => Sys2Proof.Machine.execRecordArrival s
  | .closeMarkerArrival => Sys2Proof.Machine.execCloseMarkerArrival s
  | .batchDeadline => Sys2Proof.Machine.execBatchDeadline s
  | .roundFailureNotice => Sys2Proof.Machine.execRoundFailureNotice s
  | .linkFail => Sys2Proof.Machine.execLinkFail s
  | .transferTimeout => Sys2Proof.Machine.execTransferTimeout s
  | .gatherPieceResponse => Sys2Proof.Machine.execGatherPieceResponse s
  | .flitReceive => Sys2Proof.Machine.execFlitReceive s
  | .portRetrain => Sys2Proof.Machine.execPortRetrain s
  | .retrainTimeout => Sys2Proof.Machine.execRetrainTimeout s
  | .replicaInvalidate => Sys2Proof.Machine.execReplicaInvalidate s
  | .replicaAck => Sys2Proof.Machine.execReplicaAck s
  | .replicaAckTimeout => Sys2Proof.Machine.execReplicaAckTimeout s
  | .replicaCreate => Sys2Proof.Machine.execReplicaCreate s
  | .ptpSync => Sys2Proof.Machine.execPtpSync s
  | .pdelay => Sys2Proof.Machine.execPdelay s
  | .noGm => Sys2Proof.Machine.execNoGm s
  | .timeSet => Sys2Proof.Machine.execTimeSet s
  | .hostRead => Sys2Proof.Machine.execHostRead s
  | .hostWrite => Sys2Proof.Machine.execHostWrite s
  | .apertureDescriptorWrite => Sys2Proof.Machine.execApertureDescriptorWrite s
  | .msixUnmask => Sys2Proof.Machine.execMsixUnmask s
  | .corrected => Sys2Proof.Machine.execCorrected s
  | .poisoned => Sys2Proof.Machine.execPoisoned s
  | .parityError => Sys2Proof.Machine.execParityError s
  | .rowRepair => Sys2Proof.Machine.execRowRepair s
  | .fatalError => Sys2Proof.Machine.execFatalError s
  | .coldReset => Sys2Proof.Machine.execColdReset s
  | .warmReset => Sys2Proof.Machine.execWarmReset s
  | .bootConfigWrite => Sys2Proof.Machine.execBootConfigWrite s
  | .minVersionRaise => Sys2Proof.Machine.execMinVersionRaise s
  | .load => Sys2Proof.Machine.execLoad s
  | .clear => Sys2Proof.Machine.execClear s
  | .transportKeyWrite => Sys2Proof.Machine.execTransportKeyWrite s
  | .formQuiesce => Sys2Proof.Machine.execFormQuiesce s
  | .quiesceLimit => Sys2Proof.Machine.execQuiesceLimit s
  | .fwUpdate => Sys2Proof.Machine.execFwUpdate s
  | .budgetWrite => Sys2Proof.Machine.execBudgetWrite s
  | .getVersion => Sys2Proof.Machine.execGetVersion s
  | .getCapabilities => Sys2Proof.Machine.execGetCapabilities s
  | .negotiateAlgorithms => Sys2Proof.Machine.execNegotiateAlgorithms s
  | .getDigests => Sys2Proof.Machine.execGetDigests s
  | .getCertificate => Sys2Proof.Machine.execGetCertificate s
  | .challenge => Sys2Proof.Machine.execChallenge s
  | .getMeasurements => Sys2Proof.Machine.execGetMeasurements s
  | .keyExchange => Sys2Proof.Machine.execKeyExchange s
  | .finish => Sys2Proof.Machine.execFinish s
  | .haltreq => Sys2Proof.Machine.execHaltreq s
  | .haltComplete => Sys2Proof.Machine.execHaltComplete s
  | .haltQuietTimeout => Sys2Proof.Machine.execHaltQuietTimeout s
  | .resume => Sys2Proof.Machine.execResume s
  | .debugStateAccess => Sys2Proof.Machine.execDebugStateAccess s
  | .invalidate => Sys2Proof.Machine.execInvalidate s
  | .migrate => Sys2Proof.Machine.execMigrate s
  | .translationOpDone => Sys2Proof.Machine.execTranslationOpDone s
  | .registerWrite => Sys2Proof.Machine.execRegisterWrite s
  | .illegalInstruction => Sys2Proof.Machine.execIllegalInstruction s
  | .fetchFault => Sys2Proof.Machine.execFetchFault s
  | .retrainDone => Sys2Proof.Machine.execRetrainDone s
  | .timeSlew => Sys2Proof.Machine.execTimeSlew s
  | .powerLoss => Sys2Proof.Machine.execPowerLoss s
  | .hAddi o => Sys2Proof.Machine.execHAddi o s
  | .hLi o => Sys2Proof.Machine.execHLi o s
  | .hMv o => Sys2Proof.Machine.execHMv o s
  | .hAdd o => Sys2Proof.Machine.execHAdd o s
  | .hSub o => Sys2Proof.Machine.execHSub o s
  | .hAnd o => Sys2Proof.Machine.execHAnd o s
  | .hOr o => Sys2Proof.Machine.execHOr o s
  | .hXor o => Sys2Proof.Machine.execHXor o s
  | .hSlli o => Sys2Proof.Machine.execHSlli o s
  | .hSrli o => Sys2Proof.Machine.execHSrli o s
  | .hLdd o => Sys2Proof.Machine.execHLdd o s
  | .hStd o => Sys2Proof.Machine.execHStd o s
  | .hBeqz o => Sys2Proof.Machine.execHBeqz o s
  | .hBnez o => Sys2Proof.Machine.execHBnez o s
  | .hJ o => Sys2Proof.Machine.execHJ o s
  | .hJr o => Sys2Proof.Machine.execHJr o s
  | .hSetvl o => Sys2Proof.Machine.execHSetvl o s

end Sys2Proof.Machine
end

