-- ==== Sys2Proof/WellFormed.lean ====
section
/-! DEFINITION. Well-formedness: the field values an instruction's description excludes (R32, R33, R121, R130, R135,
R152 and the chapters that own the instruction).  The decoder reads the form; an instruction that fails a check here
is illegal (R33). -/

namespace Sys2Proof

/-- Why an instruction is illegal although its form and selector are assigned (R33). -/
inductive WfError where
  /-- A field the description does not use, or shows as 0, is nonzero. -/
  | unusedField
  /-- S is not what the description shows. -/
  | badScalarBit
  /-- A type code the description excludes. -/
  | badType
  /-- A shift selector or amount outside its range. -/
  | badShift
  /-- A register number the description excludes. -/
  | badRegister
  /-- Another field value the description excludes. -/
  | badValue
  deriving DecidableEq, Repr

/-- A field that must be zero. -/
def zero {n : Nat} (v : BitVec n) : Option WfError := if v = 0 then none else some .unusedField

/-- S must be 1. -/
def scalar (o : VOp) : Option WfError := if o.sc = 1 then none else some .badScalarBit

/-- S must be 0. -/
def vector (o : VOp) : Option WfError := if o.sc = 0 then none else some .badScalarBit

/-- imm11 of a shift: its selector, [8:6] zero (R26). -/
def shiImm (sel : BitVec 2) (o : IOp) : Option WfError :=
  if o.imm.extractLsb' 9 2 = sel ∧ o.imm.extractLsb' 6 3 = 0 then none else some .badShift

/-- A scalar floating type: 2 to 5 (R32). -/
def fpType (t : BitVec 3) : Option WfError := if 2 ≤ t.toNat ∧ t.toNat ≤ 5 then none else some .badType

/-- A vector floating type without the FP8 formats: 2 to 5 (R127). -/
def vfType (t : BitVec 3) : Option WfError := if 2 ≤ t.toNat ∧ t.toNat ≤ 5 then none else some .badType

/-- A floating type with the FP8 formats: 0 to 5 (R127, R130). -/
def vfSmall (t : BitVec 3) : Option WfError := if t.toNat ≤ 5 then none else some .badType

/-- FCVT: types 0 to 5, SAT only into FP8, b[4] zero (R32, R79). -/
def fcvtFields (o : FOp) : Option WfError :=
  if 5 < o.t.toNat ∨ 5 < (o.b.extractLsb' 0 3).toNat then some .badType
  else if o.b.getLsbD 4 then some .unusedField
  else if o.b.getLsbD 3 && decide (1 < o.t.toNat) then some .badValue
  else none

/-- FCVTI and FCVTIF: the FP type 2 to 5, b[4:3] zero (R32). -/
def fcvtIntFields (o : FOp) : Option WfError := fpType o.t <|> zero (o.b.extractLsb' 3 2)

/-- A mask destination: m1 to m7 (R121, R135). -/
def maskDest (r : Reg) : Option WfError := if 1 ≤ r.toNat ∧ r.toNat ≤ 7 then none else some .badRegister

/-- A mask source: m0 to m7 (R135). -/
def maskSrc (r : Reg) : Option WfError := if r.toNat ≤ 7 then none else some .badRegister

/-- A scale register: q0 to q7 (R152). -/
def scaleReg (r : Reg) : Option WfError := if r.toNat ≤ 7 then none else some .badRegister

/-- SAT of a conversion only into FP8, vs2[4] zero (R130). -/
def satField (o : VOp) : Option WfError :=
  if o.vs2.getLsbD 4 then some .unusedField
  else if o.vs2.getLsbD 3 && decide (1 < o.t.toNat) then some .badValue
  else none

/-- VFCVT scaled: T 0 to 4, vs2[4] zero (R130, R132). -/
def vscaledFields (o : VOp) : Option WfError :=
  if o.sc ≠ 1 then some .badScalarBit
  else if 4 < o.t.toNat then some .badType
  else zero (o.vs2.extractLsb' 4 1)

/-- A reduction without an initial value has vs2 zero (R121, R133). -/
def redFields (o : VOp) : Option WfError := if o.sc = 0 then zero o.vs2 else none

/-- T of the class S selects: floating 0 to 5 for S = 1 (R135). -/
def clsType (o : VOp) : Option WfError := if o.sc = 1 then vfSmall o.t else none

/-- The types of a combining scatter (R163). -/
def scatterType (o : VOp) : Option WfError := if o.sc = 1 then vfType o.t else none

/-- The types of QLDS: 3 BF16 or 4 FP32 (R152). -/
def qldsType (t : BitVec 3) : Option WfError := if t = 3 ∨ t = 4 then none else some .badType

/-- VLDXC's mask field names its completion mask, not m0 (R281). -/
def vldxcFields (o : VOp) : Option WfError := if o.m = 0 then some .badRegister else none

/-- STMTL: the record and the origin registers are xs, xs + 1 and xs + 2 (R266, R271). -/
def stmtlFields (o : VOp) : Option WfError := scalar o <|> (if 29 < o.vs2.toNat then some .badRegister else none)

/-- Every field of a D form but acd, aux4, va, vb, xs, cm and T is zero (R168, R204). -/
def tailZeroD (o : DOp) : Option WfError := zero o.wa <|> zero o.wb <|> zero o.imm

/-- va, vb, xs, cm and T are zero. -/
def operandsZero (o : DOp) : Option WfError := zero o.va <|> zero o.vb <|> zero o.xs <|> zero o.cm <|> zero o.tt

/-- A tile type of 5 names an even tile (R168). -/
def evenTile (o : DOp) : Option WfError := if o.tt = 5 && o.acd.getLsbD 0 then some .badRegister else none

/-- MATT: pref 1 to 16, not below min (R168). -/
def mattFields (o : DOp) : Option WfError :=
  let pref := (o.imm.extractLsb' 0 5).toNat
  zero o.acd <|> zero o.va <|> zero o.vb <|> zero o.cm <|> zero o.tt <|> zero o.wa <|> zero o.wb <|> zero (o.imm.extractLsb' 5 7)
    <|> (if pref < o.aux.toNat + 1 ∨ 16 < pref then some .badValue else none)

/-- MZERO (R168). -/
def mzeroFields (o : DOp) : Option WfError :=
  zero o.va <|> zero o.vb <|> zero o.xs <|> tailZeroD o
    <|> (if o.tt = 4 ∨ o.tt = 5 then none else some .badType) <|> evenTile o
    <|> (if 16 < o.acd.toNat + o.aux.toNat + 1 then some .badValue else none)

/-- MSETLEN: a count in imm12 only when xs is 0 (R168). -/
def msetlenFields (o : DOp) : Option WfError :=
  zero o.acd <|> zero o.aux <|> zero o.va <|> zero o.vb <|> zero o.cm <|> zero o.tt <|> zero o.wa <|> zero o.wb
    <|> (if o.xs = 0 then none else zero o.imm)

/-- MSAVE and MLOAD (R168). -/
def msaveFields (o : DOp) : Option WfError :=
  zero o.acd <|> zero o.aux <|> zero o.va <|> zero o.vb <|> zero o.cm <|> zero o.tt <|> tailZeroD o

/-- A tile type without the bit-sliced ones (R168). -/
def tileType (o : DOp) : Option WfError := if o.tt.toNat ≤ 7 then none else some .badType

/-- A tile type of 8 and 16 bits (R168). -/
def smallType (o : DOp) : Option WfError :=
  if o.tt.toNat ≤ 7 ∧ o.tt ≠ 4 ∧ o.tt ≠ 5 then none else some .badType

/-- OPADD and OPSUB (R168). -/
def opaddFields (o : DOp) : Option WfError := zero o.aux <|> zero o.xs <|> tailZeroD o <|> tileType o <|> evenTile o

/-- OPADD.SP: wa 1 or 2, the metadata register in imm12 (R168, R181). -/
def opaddSpFields (o : DOp) : Option WfError :=
  zero o.aux <|> zero o.xs <|> zero o.wb <|> zero (o.imm.extractLsb' 5 7) <|> smallType o
    <|> (if o.wa = 1 ∨ o.wa = 2 then none else some .badValue)

/-- OPADD.BS: T 8 or 9 (R168, R182). -/
def opaddBsFields (o : DOp) : Option WfError :=
  zero o.aux <|> zero o.xs <|> zero o.imm <|> (if o.tt = 8 ∨ o.tt = 9 then none else some .badType)

/-- OPADD.Q: the scale registers in imm12 (R168, R180). -/
def opaddQFields (o : DOp) : Option WfError :=
  zero o.aux <|> zero o.xs <|> zero o.wa <|> zero o.wb <|> zero (o.imm.extractLsb' 6 6) <|> smallType o

/-- MGRP (R168). -/
def mgrpFields (o : DOp) : Option WfError :=
  zero o.aux <|> zero o.vb <|> zero o.wa <|> zero o.wb <|> tileType o <|> evenTile o

/-- MGRP.Q (R168). -/
def mgrpQFields (o : DOp) : Option WfError :=
  zero (o.aux.extractLsb' 3 1) <|> zero o.vb <|> zero o.wa <|> zero o.wb <|> smallType o

/-- MLDT, MLDT.FF and MSTT: base xs 0 to 30 (R168, R188). -/
def mldtFields (o : DOp) : Option WfError :=
  zero o.aux <|> zero o.va <|> zero o.vb <|> tailZeroD o
    <|> (if 2 ≤ o.tt.toNat ∧ o.tt.toNat ≤ 5 then none else some .badType) <|> evenTile o
    <|> (if o.xs = 31 then some .badRegister else none)

/-- What MRDV and MWRV share (R168). -/
def lineFields (o : DOp) : Option WfError :=
  zero (o.aux.extractLsb' 1 3) <|> zero o.vb <|> zero o.wa <|> zero o.wb
    <|> (if o.tt.toNat ≤ 5 then none else some .badType) <|> evenTile o

/-- MRDV: SAT only for the FP8 types (R168). -/
def mrdvFields (o : DOp) : Option WfError :=
  lineFields o <|> zero (o.imm.extractLsb' 1 11)
    <|> (if o.imm.getLsbD 0 && decide (1 < o.tt.toNat) then some .badValue else none)

/-- MWRV (R168). -/
def mwrvFields (o : DOp) : Option WfError := lineFields o <|> zero o.imm

/-- What BST and BCHAIN share: a group of 1 to 16 tiles, none past the last (R204). -/
def stageFields (o : DOp) : Option WfError :=
  zero o.va <|> zero o.vb <|> zero o.xs <|> zero o.cm <|> zero o.wa <|> zero o.wb
    <|> (if o.tt = 4 then none else some .badType)
    <|> (if 4 < o.aux.toNat ∨ 16 < o.acd.toNat + 2 ^ o.aux.toNat then some .badValue else none)

/-- BST (R204). -/
def bstFields (o : DOp) : Option WfError := stageFields o <|> zero (o.imm.extractLsb' 4 8)

/-- BCHAIN: no stride register past the last (R204). -/
def bchainFields (o : DOp) : Option WfError :=
  stageFields o <|> zero (o.imm.extractLsb' 9 3)
    <|> (if 16 < (o.imm.extractLsb' 0 4).toNat + (o.imm.extractLsb' 4 4).toNat + 1 then some .badValue else none)

/-- BSSET and BSGET (R204). -/
def bssetFields (o : DOp) : Option WfError :=
  zero o.acd <|> zero o.aux <|> zero o.va <|> zero o.vb <|> zero o.cm <|> zero o.tt <|> zero o.wa <|> zero o.wb
    <|> zero (o.imm.extractLsb' 4 8)

/-- The first check an instruction fails (R33); none for a legal one. -/
def Instr.illegal : Instr → Option WfError
  | .hJr o => zero o.rb
  | .clz o | .ctz o | .popc o => zero o.b
  | .slli o => shiImm 0 o
  | .srli o => shiImm 1 o
  | .srai o => shiImm 2 o
  | .fadd o | .fsub o | .fmul o | .fdiv o | .fmin o | .fmax o | .feq o | .flt o | .fle o | .fsgn o
  | .fma o | .fnma o =>
    fpType o.t
  | .fsqrt o | .fclass o => fpType o.t <|> zero o.b
  | .fcvt o => fcvtFields o
  | .fcvti o | .fcvtif o => fcvtIntFields o
  | .ctlrd o => zero o.a
  | .setvl o | .setvli o | .gsetvl o => zero (o.imm.extractLsb' 6 5)
  | .setcfg o => zero o.imm
  | .vcmpeq o | .vcmpne o | .vcmplt o | .vcmple o => maskDest o.vd
  | .vmv o => if o.sc = 1 then zero o.vs1 else zero o.vs2
  | .vmvx o | .rrecv o => scalar o <|> zero o.m
  | .vid o => vector o <|> zero o.vs1 <|> zero o.vs2
  | .vfadd o | .vfsub o | .vfmul o | .vfdiv o | .vfma o | .vfnma o | .vfmin o | .vfmax o => vfType o.t
  | .vfsqrt o | .vfrsqrt o => vfType o.t <|> vector o <|> zero o.vs2
  | .vfabs o | .vfneg o | .vfclass o => vfSmall o.t <|> vector o <|> zero o.vs2
  | .vfcmpeq o | .vfcmplt o | .vfcmple o => vfType o.t <|> maskDest o.vd
  | .vfcvt o => vfSmall o.t <|> vector o <|> vfSmall (o.vs2.extractLsb' 0 3) <|> satField o
  | .vfcvtScaled o => vscaledFields o
  | .vf2i o => vector o <|> vfSmall (o.vs2.extractLsb' 0 3) <|> zero (o.vs2.extractLsb' 3 2)
  | .vi2f o => vfSmall o.t <|> vector o <|> satField o
  | .viext o | .vbslice o | .vbunslice o => vector o <|> zero (o.vs2.extractLsb' 4 1)
  | .vredsum o | .vredmin o | .vredmax o | .vredor o => redFields o
  | .vfredsum o | .vfredosum o | .vfredmin o | .vfredmax o => vfSmall o.t <|> redFields o
  | .vscan o => clsType o
  | .vslideup o | .vslidedn o | .vlds o | .vsts o | .rsend o | .rrun o => scalar o
  | .stmtl o => stmtlFields o
  | .vcompress o | .vld o | .vldav o | .vldg o | .vst o | .stmld o | .stmst o | .stmcp o =>
    vector o <|> zero o.vs2
  | .vrank o => vector o <|> zero o.vs2 <|> maskSrc o.vs1
  | .vbfly o => scalar o <|> vfType o.t
  | .vsortk o => clsType o <|> zero o.vs2
  | .mand o | .mor o | .mxor o | .mandn o =>
    vector o <|> zero o.t <|> zero o.m <|> maskDest o.vd <|> maskSrc o.vs1 <|> maskSrc o.vs2
  | .mpopc o | .mfirst o => vector o <|> zero o.t <|> zero o.vs2 <|> maskSrc o.vs1
  | .mset o => scalar o <|> zero o.t <|> zero o.m <|> zero o.vs1 <|> maskDest o.vd
  | .vmaxi o | .vmini o => clsType o <|> zero o.vs2 <|> (if o.vd = 31 then some .badRegister else none)
  | .vldx o | .vldxu o | .vldxf o | .vstx o | .vstxu o => vector o
  | .vldxc o => vector o <|> vldxcFields o
  | .qlds o => scalar o <|> zero o.m <|> scaleReg o.vd <|> qldsType o.t
  | .vstxadd o | .vstxmax o | .vstxmin o => scatterType o
  | .mld o => vector o <|> zero o.vs2 <|> zero o.t <|> zero o.m <|> maskDest o.vd
  | .mst o => vector o <|> zero o.vs2 <|> zero o.t <|> zero o.m <|> maskSrc o.vd
  | .xopen o | .xdeadl o | .tlaunch o | .twait o | .lease o | .dreg o | .dchk o | .dwait o =>
    scalar o <|> zero o.t <|> zero o.m
  | .xsplit o | .xcap o | .xwait o | .xstat o | .xrebal o | .shape o | .dpub o | .dfinal o | .dstop o
  | .hpass o =>
    vector o <|> zero o.t <|> zero o.m <|> zero o.vs2
  | .xclose o | .garrive o | .hdone o => vector o <|> zero o.t <|> zero o.m <|> zero o.vs2 <|> zero o.vs1
  | .gwait o => vector o <|> zero o.t <|> zero o.m <|> zero o.vs2 <|> zero o.vd
  | .stmldShaped o | .stmstShaped o | .stmcpShaped o => scalar o <|> zero o.t
  | .stmwait o | .stmstat o | .stmcancel o => vector o <|> zero o.t <|> zero o.vs2 <|> zero o.vs1
  | .matt o => mattFields o
  | .mzero o => mzeroFields o
  | .msetlen o => msetlenFields o
  | .msave o | .mload o => msaveFields o
  | .opadd o | .opsub o => opaddFields o
  | .opaddSp o => opaddSpFields o
  | .opaddBs o => opaddBsFields o
  | .opaddQ o => opaddQFields o
  | .mgrp o => mgrpFields o
  | .mgrpQ o => mgrpQFields o
  | .mldt o | .mldtFf o | .mstt o => mldtFields o
  | .mrdv o => mrdvFields o
  | .mwrv o => mwrvFields o
  | .bst o => bstFields o
  | .bchain o => bchainFields o
  | .bsset o | .bsget o => bssetFields o
  | _ => none

/-- A legal instruction (R33). -/
def Instr.wf (i : Instr) : Bool := i.illegal.isNone

end Sys2Proof
end

