-- ==== Sys2Proof/Machine/Run.lean ====
section
/-! DEFINITION. Running fetched bytes: decode, the legality checks (R33), the interlock on x registers (R108), the
meaning; the passing of time (R18, R391, R392) and the order of moves (log 4).  What `step` calls. -/

namespace Sys2Proof.Machine

/-- The x registers a queued instruction delivers (R108). -/
def xDests : Instr → List Reg
  | .vmvx o => [o.vd]
  | .vredsum o => [o.vd]
  | .vredmin o => [o.vd]
  | .vredmax o => [o.vd]
  | .vredor o => [o.vd]
  | .vfredsum o => [o.vd]
  | .vfredosum o => [o.vd]
  | .vfredmin o => [o.vd]
  | .vfredmax o => [o.vd]
  | .mpopc o => [o.vd]
  | .mfirst o => [o.vd]
  | .vmaxi o => [o.vd, o.vd + 1]
  | .vmini o => [o.vd, o.vd + 1]
  | .bsget o => [o.xs]
  | .matt o => [o.xs]
  | .xclose o => [o.vd]
  | _ => []

/-- The registers a 16-bit form names (R24). -/
def namesH (o : HOp) : List Reg := [o.ra, o.rb, 30]

/-- The register fields of a word that can hold an x register, by its major (R25, R29). -/
def namesWord (p : WordFields) : List Reg :=
  match p.mj.toNat with
  | 1 | 0xA | 0xC => [p.a, p.b, p.d]
  | 2 | 3 | 7 | 0xE | 0x10 => [p.a, p.d]
  | 4 | 5 => [p.a, p.b]
  | 6 | 8 | 9 => [p.d]
  | 0x2C => [p.a, p.b, p.d, p.b + 1, p.b + 2]
  | _ => [p.a, p.b, p.d]

/-- The x registers a doubleword can name: xs, and x[xs + 1] of the tile loads and stores (R28). -/
def namesTile (p : TileFields) : List Reg := [p.o.xs, p.o.xs + 1]

/-- The register fields an instruction may name as x registers (R25, R28). -/
def xNames (i : Instr) : List Reg :=
  match encode i with
  | some (.half h) => namesH { ra := h.extractLsb' 5 5, rb := h.extractLsb' 0 5 }
  | some (.word w) => namesWord (splitWord w)
  | some (.tile w) => namesTile (splitTile w)
  | none => []

/-- Whether a word may run before the scalar load ahead of it is performed (R255): the scalar computations, loads, stores and branches,
an atomic that does not release, the fences that order no scalar access before another, the setting of VL, and what executes in the
vector queue. -/
def passesWord (p : WordFields) : Bool :=
  match p.mj.toNat with
  | 0xC => !p.f.getLsbD 5
  | 0xD => p.f == 1 || p.f == 2
  | 0xE => false
  | 0x10 => decide (p.x.toNat ≤ 2)
  | n => n < 0x28

/-- Whether an instruction may run before the scalar load ahead of it is performed (R255). -/
def passesLoad (i : Instr) : Bool :=
  match encode i with
  | some (.half _) => true
  | some (.word w) => passesWord (splitWord w)
  | some (.tile _) => true
  | none => false

/-- The state in which an instruction that names some registers runs: the scalar load ahead of it is performed for good, unless it may
pass it and does not name its register (R255, log 65). -/
def State.behindLoad (s : State) (passes : Bool) (rs : List Reg) : State :=
  match s.hart.late with
  | some l => if passes && !rs.contains l.d then s else s.dropLate
  | none => s

/-- Whether an x register among some is yet to be delivered by the queue, which does not stand frozen (R108). -/
def State.owes (s : State) (rs : List Reg) : Bool :=
  !s.hart.frozen && s.hart.queue.any fun e => (xDests e.instr).any fun d => d ≠ 0 && rs.contains d

/-- The outcome with the operands of the event that ran put away. -/
def putAway : Result → Result
  | .next t => .next { t with arg := EvArg.none }
  | r => r

/-- A fetched instruction that is not legal (R33): its bytes reach the trap as bits. -/
def State.runIllegal (s : State) (bs : List Byte) : Result :=
  putAway (exec .illegalInstruction { s with arg := { EvArg.none with val := BitVec.ofNat 256 (leNat bs) } })

/-- A fetch that faults (R36). -/
def State.runFetchFault (s : State) (cause : Nat) (va : Word) : Result :=
  putAway (exec .fetchFault { s with arg := { EvArg.none with aux := cause, val := va.zeroExtend 256 } })

/-- A fetched and decoded instruction runs: an illegal one traps (R33), one that names a register still owed waits
(R108). -/
def State.runInstr (s : State) (i : Instr) (bs : List Byte) : Result :=
  if i.wf then (if s.owes (xNames i) then .next s else exec i (s.behindLoad (passesLoad i) (xNames i))) else s.runIllegal bs

/-- The bytes of one fetched instruction run (R21, R33). -/
noncomputable def runBytes (bs : List Byte) (s : State) : Result :=
  match decode bs with
  | .ok (i, _) => s.runInstr i bs
  | .error _ => s.runIllegal bs

/-! ### The compiled form: a 16-bit instruction runs by its meaning (`runBytes_eq_impl`) -/

/-- The 16-bit form of a cop runs, by its meaning. -/
def State.runHalf (s : State) (bs : List Byte) (cop : BitVec 5) (o : HOp) (wf : Bool) (f : HOp → State → Result) : Result :=
  let h : BitVec 16 := (0 : BitVec 1) ++ cop ++ o.ra ++ o.rb
  let rs := namesH { ra := h.extractLsb' 5 5, rb := h.extractLsb' 0 5 }
  if wf then (if s.owes rs then .next s else f o (s.behindLoad true rs))
  else s.runIllegal bs

/-- The meanings of the cops 1 to 16 (R24). -/
def runCop (o : HOp) (bs : List Byte) (s : State) (cop : Nat) : Result :=
  match cop with
  | 1 => s.runHalf bs 1 o true execHAddi
  | 2 => s.runHalf bs 2 o true execHLi
  | 3 => s.runHalf bs 3 o true execHMv
  | 4 => s.runHalf bs 4 o true execHAdd
  | 5 => s.runHalf bs 5 o true execHSub
  | 6 => s.runHalf bs 6 o true execHAnd
  | 7 => s.runHalf bs 7 o true execHOr
  | 8 => s.runHalf bs 8 o true execHXor
  | 9 => s.runHalf bs 9 o true execHSlli
  | 10 => s.runHalf bs 10 o true execHSrli
  | 11 => s.runHalf bs 11 o true execHLdd
  | 12 => s.runHalf bs 12 o true execHStd
  | 13 => s.runHalf bs 13 o true execHBeqz
  | 14 => s.runHalf bs 14 o true execHBnez
  | 15 => s.runHalf bs 15 o true execHJ
  | 16 => s.runHalf bs 16 o (zero o.rb).isNone execHJr
  | 17 => if o.ra = 0 ∧ o.rb = 0 then s.runInstr .hNop bs else s.runIllegal bs
  | 18 => s.runHalf bs 18 o true execHSetvl
  | _ => s.runIllegal bs

/-- A 16-bit parcel runs (R22 to R24). -/
def runParcel (h : BitVec 16) (bs : List Byte) (s : State) : Result :=
  if h = 0 then s.runIllegal bs
  else runCop { ra := h.extractLsb' 5 5, rb := h.extractLsb' 0 5 } bs s (h.extractLsb' 10 5).toNat

/-- What a longer instruction decodes to runs. -/
def State.runDecoded (s : State) (bs : List Byte) : Except DecodeError Instr → Result
  | .ok i => s.runInstr i bs
  | .error _ => s.runIllegal bs

/-- `runBytes`, in the form that is compiled. -/
def runBytesImpl (bs : List Byte) (s : State) : Result :=
  match bs with
  | b0 :: b1 :: _ =>
    let n := parcelLength (BitVec.ofNat 16 (leNat [b0, b1]))
    if bs.length < n then s.runIllegal bs
    else
      let v := leNat (bs.take n)
      if n = 2 then runParcel (BitVec.ofNat 16 v) bs s
      else if n = 4 then s.runDecoded bs (decodeWord (BitVec.ofNat 32 v))
      else s.runDecoded bs (decodeTile (BitVec.ofNat 64 v))
  | _ => s.runIllegal bs

/-- A parcel runs as what it decodes to. -/
theorem runParcel_eq (h : BitVec 16) (bs : List Byte) (s : State) :
    runParcel h bs s = s.runDecoded bs (decodeHalf h) := by
  have hc : (h.extractLsb' 10 5).toNat < 32 := (h.extractLsb' 10 5).isLt
  unfold runParcel decodeHalf
  by_cases h0 : h = 0
  · simp [h0, State.runDecoded]
  · simp only [h0, if_false]
    generalize h.extractLsb' 10 5 = c at hc
    generalize c.toNat = c at hc
    generalize h.extractLsb' 5 5 = a
    generalize h.extractLsb' 0 5 = b
    interval_cases c <;> (try rfl)
    show (if a = 0 ∧ b = 0 then _ else _) = s.runDecoded bs (if a = 0 ∧ b = 0 then _ else _)
    split <;> rfl

/-- The compiled form is the model's. -/
@[csimp] theorem runBytes_eq_impl : @runBytes = @runBytesImpl := by
  funext bs s
  unfold runBytes runBytesImpl decode
  match bs with
  | [] => rfl
  | [_] => rfl
  | b0 :: b1 :: rest =>
    simp only [runParcel_eq]
    by_cases hl : (b0 :: b1 :: rest).length < parcelLength (BitVec.ofNat 16 (leNat [b0, b1]))
    · simp only [hl, if_true]
    · simp only [hl, if_false]
      have key (r : Except DecodeError Instr) (l : List Byte) :
          (match (match r with
            | .ok i => Except.ok (i, l)
            | .error e => .error e) with
          | .ok (i, _) => s.runInstr i (b0 :: b1 :: rest)
          | .error _ => s.runIllegal (b0 :: b1 :: rest)) = s.runDecoded (b0 :: b1 :: rest) r := by
        cases r <;> rfl
      split_ifs <;> exact key _ _

/-! ### Moves (log 4) -/

/-- Whether the current hart may move: it has a task, and its core is not halted or halting (R356). -/
def State.canMove (s : State) : Bool := s.hart.run == .running && !s.stopped s.cur

/-- Whether a pre-emption asked of the task stops its scalar side now: every hart of it runs at user level, and none waits for
a hall pass (R348 step 1). -/
def State.stopsNow (s : State) : Bool :=
  s.hart.preempt.isSome && (s.taskHarts s.cur).all fun g => !(s.getHart g).prv && !(s.getHart g).asked

/-- The outcome of an instruction, where it freezes the vector queue once the lanes stand level: a VLDXC under way first comes to a place
where it may be frozen (R338, R344, log 5). -/
def State.freezeFirst (s : State) (r : Result) : Result :=
  match s.levelMove, r with
  | some u, .next t => if t.cur = s.cur ∧ t.hart.frozen then .next u else r
  | _, r => r

/-- The scalar side of the current hart moves: a pre-emption asked for, or the instruction at its pc (R348, R21, R36). -/
def State.scalarMove (s : State) : Result :=
  if !s.canMove then .next s
  else if s.stopsNow then .next (s.preemptNow s.cur (s.hart.preempt.getD 0))
  else
    match s.fetch with
    | .bytes bs t => s.freezeFirst (runBytes bs t)
    | .bad c va => s.runFetchFault c va
    | .wait => .next s

/-- An event of an agent, as against the two ends of a fetch. -/
def agentKind (i : Instr) : Bool :=
  match i with
  | .illegalInstruction | .fetchFault => false
  | _ => (encode i).isNone

/-- Event number `k` is taken. -/
def State.eventMove (s : State) (k : Nat) : Result :=
  match s.events[k]? with
  | some e =>
    let t := { s with events := s.events.eraseIdx k }
    if agentKind e.kind then putAway (exec e.kind { t with arg := e.arg }) else .next t
  | none => .next s

/-- One move. -/
inductive Move where
  | scalar
  | queue
  | event (k : Nat)
  | turn (g : Nat)
  | place (p k : Nat)
  | late
  deriving DecidableEq, Repr

/-- Whether write `k` of a package that is not placed yet may be: no earlier one is for a byte of it, and no hub holds a replica of its
page (R252, R389). -/
def PkgRec.placeable (r : PkgRec) (k : Nat) : Bool :=
  match r.held[k]? with
  | some w => SMap.get 0 r.holders (keyPage w.key) = 0 && !(r.held.take k).any fun v => v.hits w.key w.len
  | none => false

/-- The writes on their way that may be placed: package and number. -/
def State.placeables (s : State) : List (Nat × Nat) :=
  s.packages.flatMap fun p => ((List.range (s.pkg p).held.length).filter (s.pkg p).placeable).map fun k => (p, k)

/-- A write on its way is placed (R253). -/
def State.placeMove (s : State) (p k : Nat) : State :=
  let r := s.pkg p
  match r.held[k]? with
  | some w =>
    if r.placeable k then
      let t := s.setPkg p { r with held := r.held.eraseIdx k }
      t.placeOne w
    else s
  | none => s

/-- The harts that may move, by number, the current one aside. -/
def State.otherHarts (s : State) : List Nat :=
  (s.harts.filter fun p => p.2.run == .running && !s.stopped p.1 && p.1 ≠ s.cur).map Prod.fst

/-- The next hart that may move, in the order of their numbers. -/
def State.nextHart (s : State) : Option Nat :=
  match s.otherHarts.find? (fun g => decide (s.cur < g)) with
  | some g => some g
  | none => s.otherHarts.head?

/-- Whether the current hart's queue has work to do. -/
def State.queueReady (s : State) : Bool := s.canMove && !s.hart.frozen && !s.hart.queue.isEmpty

/-- The move of the eager schedule: harts take turns of sixteen steps; in each, events, the queue and the scalar side come
round. -/
def State.eagerMove (s : State) : Move :=
  match s.nextHart with
  | some g => if s.tick % 16 = 0 || !s.canMove && s.events.isEmpty then .turn g else own s
  | none => own s
where
  own (s : State) : Move :=
    if !s.events.isEmpty && (s.tick % 2 = 0 || !s.canMove) then .event 0
    else if s.queueReady && s.tick % 4 = 3 then .queue
    else if s.tick % 8 = 5 then (match s.placeables with
      | r :: _ => .place r.1 r.2
      | [] => .scalar)
    else .scalar

/-- Whether event number `k` may come next: no write that the host of the same bridge requested before it waits still (R395, R398). -/
def State.eventReady (s : State) (k : Nat) : Bool :=
  match s.events[k]? with
  | some e => !(s.events.take k).any fun v => v.ofHost e.arg.pkg && v.kind != .hostRead && e.ofHost e.arg.pkg
  | none => false

/-- Every move there is. -/
def State.moves (s : State) : List Move :=
  [.scalar, .queue] ++ (if s.hart.late.isSome then [.late] else [])
    ++ ((List.range s.events.length).filter s.eventReady).map .event ++ s.otherHarts.map .turn
    ++ s.placeables.map fun r => .place r.1 r.2

/-- The move that comes: the eager schedule's, or any there is. -/
def State.nextMove (s : State) : Move :=
  if s.eager then s.eagerMove else s.moves.getD (Config.freeChoice s.free s.moves.length % s.moves.length) .scalar

/-- A move is made. -/
def State.move (s : State) : Result :=
  match s.nextMove with
  | .scalar => s.scalarMove
  | .queue => .next s.queueMove
  | .event k => s.eventMove k
  | .turn g => .next (s.switch g)
  | .place p k => .next (s.placeMove p k)
  | .late => .next (if s.canMove then s.lateRead else s)

/-! ### Time (log 8) -/

/-- A package's time after the ns gone by: it slews at 200 ppm, 1 ns in 5,000 (R392). -/
def PkgRec.slewed (r : PkgRec) (ns : Nat) : PkgRec :=
  let n := min ((ns - r.slewFrom) / 5000) r.slew.natAbs
  if r.slew = 0 ∨ n = 0 then r
  else
    let d : Int := if 0 < r.slew then n else -(n : Int)
    { r with timeOff := r.timeOff + BitVec.ofInt 64 d, slew := r.slew - d, slewFrom := r.slewFrom + 5000 * n }

/-- Time passes, and the next of the turns that a state lists comes (R18, R391, R392). -/
def State.pass (s : State) : State :=
  let t := { s with
    tick := s.tick + 1
    clk := s.clk + Config.freeClocks s.tick
    ns := s.ns + Config.freeNs s.tick
    free := if s.eager then s.free else s.free + 1 }
  let t := { t with pkgs := SMap.mapVals PkgRec.reset (PkgRec.slewed · t.ns) t.pkgs }
  match t.turns with
  | g :: rest => { t with turns := rest }.switch g
  | [] => t

/-! ### Placing an instruction (log 3) -/

/-- Eight bytes written where the parcels from an address are fetched. -/
def State.placeParcels (s : State) (va : Word) (v : Nat) : Nat → Option State
  | 0 => some s
  | n + 1 =>
    match s.fetchLoc va with
    | .place p l _ =>
      let t := s.putUnder (s.leafKey l) p.key 2 v false
      State.placeParcels { t with hart := { t.hart with code := t.mem } } (va + 2) (v / 65536) n
    | _ => none

/-- A root table at frame 0 of package 0, die 0, that maps the address's 64 KiB page to frame 4 with every permission (R360,
R361), and the current hart under it. -/
def State.mapPage (s : State) (va : Word) : State :=
  let at_ (frame lo n : Nat) : Nat := frame * 65536 + 8 * field va lo n
  let m := s.mem.write (at_ 0 47 10) 8 0x1001
  let m := m.write (at_ 1 36 11) 8 0x2001
  let m := m.write (at_ 2 25 11) 8 0x3001
  let m := m.write (at_ 3 16 9) 8 0x407F
  { s with mem := m, hart := { s.hart with code := m, ctl := { s.hart.ctl with ptbase := 1, ptbaseNow := 1 } } }

/-- The state with a word of eight bytes where the next instruction is fetched: where the pc is mapped, there; else behind a
table of its own.  The step that follows is the current hart's scalar side's (log 3). -/
def State.withWord (s : State) (v : Nat) : State :=
  let t := { s with
    turns := [], eager := true, tick := 0
    hart := { s.hart with run := .running, preempt := none, late := none } }
  match t.placeParcels t.hart.pc v 4 with
  | some u => u
  | none =>
    let t := t.mapPage t.hart.pc
    match t.placeParcels t.hart.pc v 4 with
    | some u => u
    | none => t

end Sys2Proof.Machine
end

