-- ==== Sys2Proof/Machine/Step.lean ====
section
/-! DEFINITION. One step of the group: time passes, and one agent makes one move (log 4). -/

namespace Sys2Proof.Machine

/-- One step. -/
def step (s : State) : Host.Outcome State Fault Refusal := s.pass.move

/-- The state in which the next step fetches and runs the instruction of a word (log 3). -/
def State.withFetchWord (s : State) (_nbits w : Nat) : State := s.withWord w

end Sys2Proof.Machine
end

