-- ==== Sys2Proof/Laws/Coding.lean ====
section
/-! SUPPORT. The fields of a word and the word of its fields are each other's inverse (R23, R25, R28), and what that gives
for decoding encoded bytes (R12, R21). -/

namespace Sys2Proof

/-! ### Fields -/

/-- A 32-bit word is cut back into the fields it was joined from (R25). -/
@[simp] theorem splitWord_joinWord (p : WordFields) : splitWord (joinWord p) = p := by
  obtain ⟨a, b, f, mj, d, x⟩ := p
  simp only [splitWord, joinWord, WordFields.mk.injEq]
  refine ⟨?_, ?_, ?_, ?_, ?_, ?_⟩ <;>
    (apply BitVec.eq_of_getLsbD_eq; intro i hi; simp only [BitVec.getLsbD_extractLsb', BitVec.getLsbD_append]; interval_cases i <;> simp)

/-- A doubleword is cut back into the fields it was joined from (R28). -/
@[simp] theorem splitTile_joinTile (p : TileFields) : splitTile (joinTile p) = p := by
  obtain ⟨mj, f, ⟨⟩⟩ := p
  simp only [splitTile, joinTile, TileFields.mk.injEq, DOp.mk.injEq]
  refine ⟨?_, ?_, ?_, ?_, ?_, ?_, ?_, ?_, ?_, ?_, ?_, ?_⟩ <;>
    (apply BitVec.eq_of_getLsbD_eq; intro i hi; simp only [BitVec.getLsbD_extractLsb', BitVec.getLsbD_append]; interval_cases i <;> simp)

/-- The length marker of a joined word (R21). -/
@[simp] theorem joinWord_marker (p : WordFields) : (joinWord p).extractLsb' 14 2 = 2 := by
  obtain ⟨a, b, f, mj, d, x⟩ := p
  simp only [joinWord]
  apply BitVec.eq_of_getLsbD_eq; intro i hi
  simp only [BitVec.getLsbD_extractLsb', BitVec.getLsbD_append]; interval_cases i <;> simp

/-- The length marker of a joined doubleword (R21). -/
@[simp] theorem joinTile_marker (p : TileFields) : (joinTile p).extractLsb' 14 2 = 3 := by
  obtain ⟨mj, f, ⟨⟩⟩ := p
  simp only [joinTile]
  apply BitVec.eq_of_getLsbD_eq; intro i hi
  simp only [BitVec.getLsbD_extractLsb', BitVec.getLsbD_append]; interval_cases i <;> simp

/-- A field cut in two and joined. -/
theorem cut_join {n m k : Nat} (v : BitVec n) (h : n = m + k) :
    (v.extractLsb' k m ++ v.extractLsb' 0 k : BitVec (m + k)) = v.cast h := by
  subst h
  apply BitVec.eq_of_getLsbD_eq; intro i hi
  simp only [BitVec.getLsbD_extractLsb', BitVec.getLsbD_append, BitVec.getLsbD_cast]
  split_ifs with h1
  · simp [h1]
  · rw [show k + (i - k) = i by omega, show decide (i - k < m) = true by simp; omega, Bool.true_and]

/-! ### Bytes -/

/-- As many bytes as a number's width give the number back (R12). -/
theorem leNat_leBytes (n v : Nat) : leNat (leBytes n v) = v % 256 ^ n := by
  induction n generalizing v with
  | zero => simp [leNat, leBytes, Nat.mod_one]
  | succ n ih => rw [leBytes, leNat, ih, BitVec.toNat_ofNat, Nat.pow_succ' (n := n), Nat.mod_mul (a := 256)]

/-- The number of bytes. -/
@[simp] theorem length_leBytes (n v : Nat) : (leBytes n v).length = n := by
  induction n generalizing v with
  | zero => rfl
  | succ n ih => simp [leBytes, ih]

/-- The length marker of a first parcel, from a number of more bits (R21). -/
theorem parcelLength_low (v : Nat) :
    (BitVec.ofNat 16 (leNat [BitVec.ofNat 8 v, BitVec.ofNat 8 (v / 256)])).extractLsb' 14 2 = BitVec.ofNat 2 (v / 2 ^ 14) := by
  apply BitVec.eq_of_toNat_eq
  simp only [leNat, BitVec.extractLsb'_toNat, BitVec.toNat_ofNat, Nat.shiftRight_eq_div_pow]
  omega

/-- The bytes of a number of 2, 4 or 8 bytes whose marker gives that length decode as the number (R21). -/
theorem decode_leBytes (n v : Nat) (hn : n = 2 ∨ n = 4 ∨ n = 8) (hv : v < 256 ^ n)
    (hl : parcelLength (BitVec.ofNat 16 (leNat [BitVec.ofNat 8 v, BitVec.ofNat 8 (v / 256)])) = n) :
    decode (leBytes n v) =
      (if n = 2 then decodeHalf (BitVec.ofNat 16 v) else if n = 4 then decodeWord (BitVec.ofNat 32 v)
        else decodeTile (BitVec.ofNat 64 v)).map fun i => (i, []) := by
  have h8 : leNat (leBytes n v) = v := by rw [leNat_leBytes]; exact Nat.mod_eq_of_lt hv
  have ht : (leBytes n v).take n = leBytes n v := List.take_of_length_le (by simp)
  have hd : (leBytes n v).drop n = [] := List.drop_of_length_le (by simp)
  have hs : ∃ t, leBytes n v = BitVec.ofNat 8 v :: BitVec.ofNat 8 (v / 256) :: t := by
    rcases hn with rfl | rfl | rfl <;> exact ⟨_, rfl⟩
  obtain ⟨t, hs⟩ := hs
  have key : ∀ r : Except DecodeError Instr, (match r with
      | .ok i => Except.ok (i, ([] : List Byte))
      | .error e => .error e) = r.map fun i => (i, []) := by intro r; cases r <;> rfl
  rw [← key]
  conv_lhs => rw [hs]
  unfold decode
  simp only [hl, ← hs, ht, hd, h8, length_leBytes, lt_irrefl, if_false] <;> rfl

/-- The bytes of a 32-bit word decode as the word (R21). -/
theorem decode_word (w : BitVec 32) (h : w.extractLsb' 14 2 = 2) :
    decode (Encoded.word w).bytes = (decodeWord w).map fun i => (i, []) := by
  have hm := parcelLength_low w.toNat
  have : BitVec.ofNat 2 (w.toNat / 2 ^ 14) = 2 := by
    rw [← h]; apply BitVec.eq_of_toNat_eq
    simp [BitVec.extractLsb'_toNat, Nat.shiftRight_eq_div_pow]
  rw [this] at hm
  have := decode_leBytes 4 w.toNat (by simp) w.isLt (by unfold parcelLength; rw [hm]; rfl)
  simpa [Encoded.bytes] using this

/-- The bytes of a doubleword decode as the doubleword (R21). -/
theorem decode_tile (w : BitVec 64) (h : w.extractLsb' 14 2 = 3) :
    decode (Encoded.tile w).bytes = (decodeTile w).map fun i => (i, []) := by
  have hm := parcelLength_low w.toNat
  have : BitVec.ofNat 2 (w.toNat / 2 ^ 14) = 3 := by
    rw [← h]; apply BitVec.eq_of_toNat_eq
    simp [BitVec.extractLsb'_toNat, Nat.shiftRight_eq_div_pow]
  rw [this] at hm
  have := decode_leBytes 8 w.toNat (by simp) w.isLt (by unfold parcelLength; rw [hm]; rfl)
  simpa [Encoded.bytes] using this

/-- The bytes of a 16-bit parcel decode as the parcel (R21). -/
theorem decode_half (h : BitVec 16) (h0 : h.extractLsb' 14 2 = 0 ∨ h.extractLsb' 14 2 = 1) :
    decode (Encoded.half h).bytes = (decodeHalf h).map fun i => (i, []) := by
  have hm := parcelLength_low h.toNat
  have : BitVec.ofNat 2 (h.toNat / 2 ^ 14) = h.extractLsb' 14 2 := by
    apply BitVec.eq_of_toNat_eq
    simp [BitVec.extractLsb'_toNat, Nat.shiftRight_eq_div_pow]
  rw [this] at hm
  have := decode_leBytes 2 h.toNat (by simp) h.isLt (by unfold parcelLength; rw [hm]; rcases h0 with e | e <;> rw [e] <;> rfl)
  simpa [Encoded.bytes] using this

end Sys2Proof
end

