-- ==== Sys2Proof/Laws/PerInstr.lean ====
section
/-! SUPPORT. For every instruction: a well-formed one is what its encoding decodes to, whatever its operands (R21 to R32).
An event has no encoding. -/

namespace Sys2Proof.Laws.Coding

set_option Elab.async false

/-- The bytes of a well-formed instruction decode to it and to nothing after it. -/
def Statement (i : Instr) : Prop := i.wf = true → ∀ e, encode i = some e → decode e.bytes = .ok (i, [])

/-- An event has no bytes. -/
theorem event {i : Instr} (h : encode i = none) : Statement i := fun _ e he => by rw [h] at he; cases he

/-- A word whose fields decode to the instruction. -/
theorem wordCase {i : Instr} {p : WordFields} (he : encode i = some (.word (joinWord p))) (hd : decodeFields p = .ok i) :
    Statement i := fun _ e h => by
  rw [he] at h; cases h
  rw [decode_word _ (joinWord_marker p), decodeWord, splitWord_joinWord, hd]; rfl

/-- A doubleword whose fields decode to the instruction. -/
theorem tileCase {i : Instr} {mj f : BitVec 6} {o : DOp} (he : encode i = encD mj f o)
    (hd : (match tileTable[mj.toNat]? with
      | none => .error .badMajor
      | some t => match t[f.toNat]? with
        | none => .error .badSelector
        | some (.one k) => .ok (k o)
        | some (.bare i) => if o = zeroTile then .ok i else .error .nonzeroField : Except DecodeError Instr) = .ok i) :
    Statement i := fun _ e h => by
  rw [he] at h; cases h
  rw [decode_tile _ (joinTile_marker _), decodeTile, splitTile_joinTile]
  show Except.map _ (match tileTable[mj.toNat]? with
      | none => .error .badMajor
      | some t => match t[f.toNat]? with
        | none => .error .badSelector
        | some (.one k) => .ok (k o)
        | some (.bare i) => if o = zeroTile then .ok i else .error .nonzeroField : Except DecodeError Instr) = _
  rw [hd]; rfl

/-- The immediate of an I form is its two fields joined (R25). -/
theorem iop_join (o : IOp) :
    ({ d := o.d, a := o.a, imm := o.imm.extractLsb' 6 5 ++ o.imm.extractLsb' 0 6 } : IOp) = o := by
  obtain ⟨d, a, imm⟩ := o
  simp only [IOp.mk.injEq, true_and]
  exact cut_join imm rfl

/-- The immediate of an S form is its two fields joined (R25). -/
theorem sop_join (o : SOp) :
    ({ a := o.a, b := o.b, imm := o.imm.extractLsb' 5 6 ++ o.imm.extractLsb' 0 5 } : SOp) = o := by
  obtain ⟨a, b, imm⟩ := o
  simp only [SOp.mk.injEq, true_and]
  exact cut_join imm rfl

/-- The immediate of a U form is its four fields joined (R25). -/
theorem uop_join (o : UOp) :
    ({ d := o.d, imm := o.imm.extractLsb' 14 5 ++ o.imm.extractLsb' 9 5 ++ o.imm.extractLsb' 3 6 ++ o.imm.extractLsb' 0 3 } : UOp) =
      o := by
  obtain ⟨d, imm⟩ := o
  simp only [UOp.mk.injEq, true_and]
  apply BitVec.eq_of_getLsbD_eq; intro i hi
  simp only [BitVec.getLsbD_extractLsb', BitVec.getLsbD_append]
  interval_cases i <;> simp

/-- An I form. -/
theorem immCase (k : IOp → Instr) {o : IOp} {mj : BitVec 6} {x : BitVec 3} (he : encode (k o) = encI mj x o)
    (hd : decodeFields { a := o.a, b := o.imm.extractLsb' 6 5, f := o.imm.extractLsb' 0 6, mj := mj, d := o.d, x := x } =
      .ok (k { d := o.d, a := o.a, imm := o.imm.extractLsb' 6 5 ++ o.imm.extractLsb' 0 6 })) : Statement (k o) :=
  wordCase he (by rw [hd, iop_join])

/-- An S or B form. -/
theorem storeCase (k : SOp → Instr) {o : SOp} {mj : BitVec 6} {x : BitVec 3} (he : encode (k o) = encS mj x o)
    (hd : decodeFields { a := o.a, b := o.b, f := o.imm.extractLsb' 5 6, mj := mj, d := o.imm.extractLsb' 0 5, x := x } =
      .ok (k { a := o.a, b := o.b, imm := o.imm.extractLsb' 5 6 ++ o.imm.extractLsb' 0 5 })) : Statement (k o) :=
  wordCase he (by rw [hd, sop_join])

/-- A U or J form. -/
theorem upperCase (k : UOp → Instr) {o : UOp} {mj : BitVec 6} (he : encode (k o) = encU mj o)
    (hd : decodeFields
        { a := o.imm.extractLsb' 14 5, b := o.imm.extractLsb' 9 5, f := o.imm.extractLsb' 3 6, mj := mj, d := o.d,
          x := o.imm.extractLsb' 0 3 } =
      .ok (k { d := o.d, imm := (o.imm.extractLsb' 14 5 ++ o.imm.extractLsb' 9 5 ++ o.imm.extractLsb' 3 6 ++ o.imm.extractLsb' 0 3) }))
    : Statement (k o) :=
  wordCase he (by rw [hd, uop_join])

/-- A shift by an immediate: its selector stands in the immediate of a well-formed one (R26). -/
theorem shiCase (k : IOp → Instr) {o : IOp} {sel : BitVec 2} (he : encode (k o) = encShi sel o)
    (hw : (k o).illegal = shiImm sel o) (hd : o.imm.extractLsb' 9 2 = sel → decodeShi o = .ok (k o)) : Statement (k o) := fun h => by
  have hs : o.imm.extractLsb' 9 2 = sel := by
    simp only [Instr.wf, hw, shiImm] at h
    split_ifs at h with hc
    · exact hc.1
    · simp at h
  have hi : sel ++ o.imm.extractLsb' 0 9 = o.imm := by rw [← hs]; exact cut_join o.imm rfl
  refine wordCase (he.trans (by rw [encShi, hi]; rfl)) ?_ h
  show decodeShi _ = _
  rw [show ({ a := o.a, b := o.imm.extractLsb' 6 5, f := o.imm.extractLsb' 0 6, mj := 2, d := o.d, x := 6 } : WordFields).i = o
    from iop_join o, hd hs]

/-- An atomic (R29). -/
theorem amoCase (k : AOp → Instr) {o : AOp} {op : BitVec 4} (he : encode (k o) = encA op o)
    (hd : pick amoTable op.toNat o = .ok (k o)) : Statement (k o) := by
  refine wordCase he ?_
  have h1 : ((1 : BitVec 2) ++ o.w : BitVec 3).extractLsb' 1 2 = 1 := by
    apply BitVec.eq_of_getLsbD_eq; intro i hi
    simp only [BitVec.getLsbD_extractLsb', BitVec.getLsbD_append]; interval_cases i <;> simp
  have h2 : (o.o ++ op : BitVec 6).extractLsb' 0 4 = op := by
    apply BitVec.eq_of_getLsbD_eq; intro i hi
    simp only [BitVec.getLsbD_extractLsb', BitVec.getLsbD_append]; interval_cases i <;> simp
  have h3 : (o.o ++ op : BitVec 6).extractLsb' 4 2 = o.o := by
    apply BitVec.eq_of_getLsbD_eq; intro i hi
    simp only [BitVec.getLsbD_extractLsb', BitVec.getLsbD_append]; interval_cases i <;> simp
  have h4 : ((1 : BitVec 2) ++ o.w : BitVec 3).extractLsb' 0 1 = o.w := by
    apply BitVec.eq_of_getLsbD_eq; intro i hi
    simp only [BitVec.getLsbD_extractLsb', BitVec.getLsbD_append]; interval_cases i; simp
  show (if ((1 : BitVec 2) ++ o.w : BitVec 3).extractLsb' 1 2 = 1 then
    pick amoTable ((o.o ++ op : BitVec 6).extractLsb' 0 4).toNat
      { d := o.d, a := o.a, b := o.b, o := (o.o ++ op : BitVec 6).extractLsb' 4 2,
        w := ((1 : BitVec 2) ++ o.w : BitVec 3).extractLsb' 0 1 } else _) = _
  rw [h1, if_pos rfl, h2, h3, h4]
  exact hd

/-- S, T and op2 are cut from funct6 as they were joined (R25). -/
theorem funct6_cut (a : BitVec 1) (b : BitVec 3) (c : BitVec 2) :
    (a ++ b ++ c : BitVec 6).extractLsb' 5 1 = a ∧ (a ++ b ++ c : BitVec 6).extractLsb' 2 3 = b ∧
      (a ++ b ++ c : BitVec 6).extractLsb' 0 2 = c := by
  revert a b c; decide

/-- The fields of a V form joined in funct6 (R25). -/
theorem vec_fields (o : VOp) (op2 : BitVec 2) (mj : BitVec 6) :
    ({ a := o.vs1, b := o.vs2, f := o.sc ++ o.t ++ op2, mj := mj, d := o.vd, x := o.m } : WordFields).v = o ∧
    ({ a := o.vs1, b := o.vs2, f := o.sc ++ o.t ++ op2, mj := mj, d := o.vd, x := o.m } : WordFields).op2 = op2 := by
  obtain ⟨h1, h2, h3⟩ := funct6_cut o.sc o.t op2
  constructor
  · unfold WordFields.v; dsimp only; rw [h1, h2]
  · unfold WordFields.op2; dsimp only; rw [h3]

/-- The cell of a major and an op2 (R29). -/
def cellOf (mj : BitVec 6) (op2 : BitVec 2) : Option VCell :=
  match vTable[mj.toNat - 0x11]? with
  | none => none
  | some (c0, c1, c2, c3) =>
    match op2 with
    | 0 => some c0
    | 1 => some c1
    | 2 => some c2
    | _ => some c3

/-- The majors of the V form (R29). -/
theorem decodeFields_v {p : WordFields} (h1 : 0x11 ≤ p.mj.toNat) (h2 : p.mj.toNat ≤ 0x30) : decodeFields p = decodeV p := by
  unfold decodeFields
  generalize p.mj.toNat = n at h1 h2
  interval_cases n <;> rfl

/-- A V form of a cell decodes as the cell does. -/
theorem decodeV_cell {p : WordFields} {c : VCell} (hc : cellOf p.mj p.op2 = some c) : decodeV p = c.decode p.v := by
  unfold cellOf at hc
  unfold decodeV
  generalize vTable[p.mj.toNat - 0x11]? = q at hc ⊢
  generalize p.op2 = n at hc ⊢
  match q with
  | none => cases hc
  | some (c0, c1, c2, c3) =>
    dsimp only at hc ⊢
    split at hc <;> (cases hc; simp_all)

/-- A V form joined from its fields decodes as its cell does. -/
theorem vecFields {o : VOp} {mj : BitVec 6} {op2 : BitVec 2} {c : VCell} (hm : 0x11 ≤ mj.toNat ∧ mj.toNat ≤ 0x30)
    (hc : cellOf mj op2 = some c) :
    decodeFields { a := o.vs1, b := o.vs2, f := o.sc ++ o.t ++ op2, mj := mj, d := o.vd, x := o.m } = c.decode o := by
  obtain ⟨hv, ho⟩ := vec_fields o op2 mj
  rw [decodeFields_v hm.1 hm.2, decodeV_cell (c := c) (by rw [ho]; exact hc), hv]

/-- A V form whose cell names one instruction (R29). -/
theorem vecCase (k : VOp → Instr) {o : VOp} {mj : BitVec 6} {op2 : BitVec 2} (he : encode (k o) = encV mj op2 o)
    (hc : cellOf mj op2 = some (.one k)) (hm : 0x11 ≤ mj.toNat ∧ mj.toNat ≤ 0x30 := by decide) : Statement (k o) :=
  wordCase he (vecFields hm hc)

/-- A V form that S tells from another (R132, R268): S is what the well-formed one shows. -/
theorem vecCaseS (k : VOp → Instr) {o : VOp} {mj : BitVec 6} {op2 : BitVec 2} {sc : BitVec 1} {k0 k1 : VOp → Instr}
    (hm : 0x11 ≤ mj.toNat ∧ mj.toNat ≤ 0x30) (he : encode (k o) = encVS mj op2 sc o) (hc : cellOf mj op2 = some (.byS k0 k1))
    (hk : (if sc = 0 then k0 else k1) = k) (hs : (k o).wf = true → o.sc = sc) : Statement (k o) := fun h => by
  have h1 : ({ o with sc := sc } : VOp) = o := by rw [← hs h]
  refine wordCase (he.trans (by rw [encVS, h1]; rfl)) ?_ h
  rw [vecFields hm hc, VCell.decode, hs h]
  split_ifs at hk ⊢ <;> rw [hk]

/-- A field cut of a parcel (R23). -/
theorem half_cut (c : BitVec 5) (o : HOp) :
    ((0 : BitVec 1) ++ c ++ o.ra ++ o.rb : BitVec 16).extractLsb' 5 5 = o.ra ∧
    ((0 : BitVec 1) ++ c ++ o.ra ++ o.rb : BitVec 16).extractLsb' 0 5 = o.rb ∧
    ((0 : BitVec 1) ++ c ++ o.ra ++ o.rb : BitVec 16).extractLsb' 10 5 = c := by
  obtain ⟨a, b⟩ := o
  refine ⟨?_, ?_, ?_⟩ <;> apply BitVec.eq_of_getLsbD_eq <;> intro i hi <;>
    simp only [BitVec.getLsbD_extractLsb', BitVec.getLsbD_append] <;> interval_cases i <;> simp

/-- A 16-bit form (R23, R24). -/
theorem halfCase {i : Instr} {c : BitVec 5} {o : HOp} (he : encode i = encH c o) (hc : c ≠ 0)
    (hd : ∀ h : BitVec 16, h ≠ 0 → h.extractLsb' 5 5 = o.ra → h.extractLsb' 0 5 = o.rb → h.extractLsb' 10 5 = c → decodeHalf h = .ok i)
    : Statement i := fun _ e h => by
  rw [he] at h; cases h
  obtain ⟨h1, h2, h3⟩ := half_cut c o
  have h0 : ((0 : BitVec 1) ++ c ++ o.ra ++ o.rb : BitVec 16) ≠ 0 := fun e0 => hc (by rw [← h3, e0]; decide)
  have hm : ((0 : BitVec 1) ++ c ++ o.ra ++ o.rb : BitVec 16).getLsbD 15 = false := by
    simp only [BitVec.getLsbD_append]; simp
  rw [decode_half _ ?_, hd _ h0 h1 h2 h3]; rfl
  generalize ((0 : BitVec 1) ++ c ++ o.ra ++ o.rb : BitVec 16) = w at hm
  have hb : (w.extractLsb' 14 2).toNat < 2 := by
    have : w.getLsbD 15 = (w.extractLsb' 14 2).getLsbD 1 := by simp
    rw [this] at hm
    generalize w.extractLsb' 14 2 = m at hm
    revert m; decide
  generalize w.extractLsb' 14 2 = m at hb
  revert m; decide

/-- A parcel whose cop stands in the table of the plain ones (R24). -/
theorem decodeHalf_table {c : BitVec 5} {o : HOp} {k : HOp → Instr} (hc : c.toNat ≠ 0 ∧ c.toNat ≤ 16)
    (hk : hTable[c.toNat - 1]? = some k) (h : BitVec 16) (h0 : h ≠ 0) (h1 : h.extractLsb' 5 5 = o.ra)
    (h2 : h.extractLsb' 0 5 = o.rb) (h3 : h.extractLsb' 10 5 = c) : decodeHalf h = .ok (k o) := by
  simp only [decodeHalf, if_neg h0, h1, h2, h3, if_neg hc.1, if_pos hc.2, pick, hk]

/-- H.SETVL and H.NOP stand after the table (R24). -/
theorem hNop : Statement .hNop :=
  halfCase (c := 17) (o := { ra := 0, rb := 0 }) rfl (by decide) fun h h0 h1 h2 h3 => by
    simp only [decodeHalf, if_neg h0, h1, h2, h3]; rfl

/-- H.SETVL (R24). -/
theorem hSetvl (o : HOp) : Statement (.hSetvl o) :=
  halfCase (c := 18) (o := o) rfl (by decide) fun h h0 h1 h2 h3 => by
    simp only [decodeHalf, if_neg h0, h1, h2, h3]; rfl

/-- S of a well-formed VFCVT (R132). -/
theorem vfcvt_s {o : VOp} (h : (Instr.vfcvt o).wf = true) : o.sc = 0 := by
  by_contra hc
  have h : (vfSmall o.t <|> vector o <|> vfSmall (o.vs2.extractLsb' 0 3) <|> satField o).isNone = true := h
  unfold vector at h
  rw [if_neg hc] at h
  generalize vfSmall o.t = q at h
  cases q <;> cases h

/-- S of a well-formed scaled VFCVT (R132). -/
theorem vfcvtScaled_s {o : VOp} (h : (Instr.vfcvtScaled o).wf = true) : o.sc = 1 := by
  by_contra hc
  have h : (vscaledFields o).isNone = true := h
  unfold vscaledFields at h
  rw [if_pos hc] at h
  cases h

/-- S of a well-formed unshaped stream instruction (R266). -/
theorem vector_s {o : VOp} (h : (vector o <|> zero o.vs2).isNone = true) : o.sc = 0 := by
  by_contra hc
  unfold vector at h
  rw [if_neg hc] at h
  cases h

/-- S of a well-formed shaped stream instruction (R266). -/
theorem shaped_s {o : VOp} (h : (scalar o <|> zero o.t).isNone = true) : o.sc = 1 := by
  by_contra hc
  unfold scalar at h
  rw [if_neg hc] at h
  cases h

/-- A selector picks its shift (R26). -/
theorem shi_pick (q : IOp) :
    (q.imm.extractLsb' 9 2 = 0 → decodeShi q = .ok (.slli q)) ∧ (q.imm.extractLsb' 9 2 = 1 → decodeShi q = .ok (.srli q)) ∧
      (q.imm.extractLsb' 9 2 = 2 → decodeShi q = .ok (.srai q)) := by
  unfold decodeShi
  refine ⟨?_, ?_, ?_⟩ <;> intro h <;> rw [h] <;> rfl

/-- An I form without an immediate (R345 to R347). -/
theorem encI_zero (x : BitVec 3) (a : Reg) :
    encI 0x10 x { d := 0, a := a, imm := 0 } = some (.word (joinWord { a := a, b := 0, f := 0, mj := 0x10, d := 0, x := x })) := by
  have h1 : (0 : BitVec 11).extractLsb' 6 5 = 0 := by decide
  have h2 : (0 : BitVec 11).extractLsb' 0 6 = 0 := by decide
  simp only [encI, h1, h2]

theorem hAddi (o : HOp) : Statement (.hAddi o) := halfCase rfl (by decide) (decodeHalf_table (k := .hAddi) (by decide) rfl)
theorem hLi (o : HOp) : Statement (.hLi o) := halfCase rfl (by decide) (decodeHalf_table (k := .hLi) (by decide) rfl)
theorem hMv (o : HOp) : Statement (.hMv o) := halfCase rfl (by decide) (decodeHalf_table (k := .hMv) (by decide) rfl)
theorem hAdd (o : HOp) : Statement (.hAdd o) := halfCase rfl (by decide) (decodeHalf_table (k := .hAdd) (by decide) rfl)
theorem hSub (o : HOp) : Statement (.hSub o) := halfCase rfl (by decide) (decodeHalf_table (k := .hSub) (by decide) rfl)
theorem hAnd (o : HOp) : Statement (.hAnd o) := halfCase rfl (by decide) (decodeHalf_table (k := .hAnd) (by decide) rfl)
theorem hOr (o : HOp) : Statement (.hOr o) := halfCase rfl (by decide) (decodeHalf_table (k := .hOr) (by decide) rfl)
theorem hXor (o : HOp) : Statement (.hXor o) := halfCase rfl (by decide) (decodeHalf_table (k := .hXor) (by decide) rfl)
theorem hSlli (o : HOp) : Statement (.hSlli o) := halfCase rfl (by decide) (decodeHalf_table (k := .hSlli) (by decide) rfl)
theorem hSrli (o : HOp) : Statement (.hSrli o) := halfCase rfl (by decide) (decodeHalf_table (k := .hSrli) (by decide) rfl)
theorem hLdd (o : HOp) : Statement (.hLdd o) := halfCase rfl (by decide) (decodeHalf_table (k := .hLdd) (by decide) rfl)
theorem hStd (o : HOp) : Statement (.hStd o) := halfCase rfl (by decide) (decodeHalf_table (k := .hStd) (by decide) rfl)
theorem hBeqz (o : HOp) : Statement (.hBeqz o) := halfCase rfl (by decide) (decodeHalf_table (k := .hBeqz) (by decide) rfl)
theorem hBnez (o : HOp) : Statement (.hBnez o) := halfCase rfl (by decide) (decodeHalf_table (k := .hBnez) (by decide) rfl)
theorem hJ (o : HOp) : Statement (.hJ o) := halfCase rfl (by decide) (decodeHalf_table (k := .hJ) (by decide) rfl)
theorem hJr (o : HOp) : Statement (.hJr o) := halfCase rfl (by decide) (decodeHalf_table (k := .hJr) (by decide) rfl)
theorem add (o : ROp) : Statement (.add o) := wordCase rfl rfl
theorem sub (o : ROp) : Statement (.sub o) := wordCase rfl rfl
theorem mul (o : ROp) : Statement (.mul o) := wordCase rfl rfl
theorem mulh (o : ROp) : Statement (.mulh o) := wordCase rfl rfl
theorem mulhu (o : ROp) : Statement (.mulhu o) := wordCase rfl rfl
theorem div (o : ROp) : Statement (.div o) := wordCase rfl rfl
theorem divu (o : ROp) : Statement (.divu o) := wordCase rfl rfl
theorem rem (o : ROp) : Statement (.rem o) := wordCase rfl rfl
theorem remu (o : ROp) : Statement (.remu o) := wordCase rfl rfl
theorem and (o : ROp) : Statement (.and o) := wordCase rfl rfl
theorem or (o : ROp) : Statement (.or o) := wordCase rfl rfl
theorem xor (o : ROp) : Statement (.xor o) := wordCase rfl rfl
theorem sll (o : ROp) : Statement (.sll o) := wordCase rfl rfl
theorem srl (o : ROp) : Statement (.srl o) := wordCase rfl rfl
theorem sra (o : ROp) : Statement (.sra o) := wordCase rfl rfl
theorem slt (o : ROp) : Statement (.slt o) := wordCase rfl rfl
theorem sltu (o : ROp) : Statement (.sltu o) := wordCase rfl rfl
theorem min (o : ROp) : Statement (.min o) := wordCase rfl rfl
theorem max (o : ROp) : Statement (.max o) := wordCase rfl rfl
theorem minu (o : ROp) : Statement (.minu o) := wordCase rfl rfl
theorem maxu (o : ROp) : Statement (.maxu o) := wordCase rfl rfl
theorem clz (o : ROp) : Statement (.clz o) := wordCase rfl rfl
theorem ctz (o : ROp) : Statement (.ctz o) := wordCase rfl rfl
theorem popc (o : ROp) : Statement (.popc o) := wordCase rfl rfl
theorem addi (o : IOp) : Statement (.addi o) := immCase .addi rfl rfl
theorem andi (o : IOp) : Statement (.andi o) := immCase .andi rfl rfl
theorem ori (o : IOp) : Statement (.ori o) := immCase .ori rfl rfl
theorem xori (o : IOp) : Statement (.xori o) := immCase .xori rfl rfl
theorem slti (o : IOp) : Statement (.slti o) := immCase .slti rfl rfl
theorem sltiu (o : IOp) : Statement (.sltiu o) := immCase .sltiu rfl rfl
theorem slli (o : IOp) : Statement (.slli o) := shiCase .slli rfl rfl (shi_pick o).1
theorem srli (o : IOp) : Statement (.srli o) := shiCase .srli rfl rfl (shi_pick o).2.1
theorem srai (o : IOp) : Statement (.srai o) := shiCase .srai rfl rfl (shi_pick o).2.2
theorem ldb (o : IOp) : Statement (.ldb o) := immCase .ldb rfl rfl
theorem ldh (o : IOp) : Statement (.ldh o) := immCase .ldh rfl rfl
theorem ldw (o : IOp) : Statement (.ldw o) := immCase .ldw rfl rfl
theorem ldd (o : IOp) : Statement (.ldd o) := immCase .ldd rfl rfl
theorem ldbu (o : IOp) : Statement (.ldbu o) := immCase .ldbu rfl rfl
theorem ldhu (o : IOp) : Statement (.ldhu o) := immCase .ldhu rfl rfl
theorem ldwu (o : IOp) : Statement (.ldwu o) := immCase .ldwu rfl rfl
theorem stb (o : SOp) : Statement (.stb o) := storeCase .stb rfl rfl
theorem sth (o : SOp) : Statement (.sth o) := storeCase .sth rfl rfl
theorem stw (o : SOp) : Statement (.stw o) := storeCase .stw rfl rfl
theorem std (o : SOp) : Statement (.std o) := storeCase .std rfl rfl
theorem beq (o : SOp) : Statement (.beq o) := storeCase .beq rfl rfl
theorem bne (o : SOp) : Statement (.bne o) := storeCase .bne rfl rfl
theorem blt (o : SOp) : Statement (.blt o) := storeCase .blt rfl rfl
theorem bge (o : SOp) : Statement (.bge o) := storeCase .bge rfl rfl
theorem bltu (o : SOp) : Statement (.bltu o) := storeCase .bltu rfl rfl
theorem bgeu (o : SOp) : Statement (.bgeu o) := storeCase .bgeu rfl rfl
theorem jal (o : UOp) : Statement (.jal o) := upperCase .jal rfl rfl
theorem jalr (o : IOp) : Statement (.jalr o) := immCase .jalr rfl rfl
theorem lui (o : UOp) : Statement (.lui o) := upperCase .lui rfl rfl
theorem addpc (o : UOp) : Statement (.addpc o) := upperCase .addpc rfl rfl
theorem fadd (o : FOp) : Statement (.fadd o) := wordCase rfl rfl
theorem fsub (o : FOp) : Statement (.fsub o) := wordCase rfl rfl
theorem fmul (o : FOp) : Statement (.fmul o) := wordCase rfl rfl
theorem fdiv (o : FOp) : Statement (.fdiv o) := wordCase rfl rfl
theorem fsqrt (o : FOp) : Statement (.fsqrt o) := wordCase rfl rfl
theorem fmin (o : FOp) : Statement (.fmin o) := wordCase rfl rfl
theorem fmax (o : FOp) : Statement (.fmax o) := wordCase rfl rfl
theorem feq (o : FOp) : Statement (.feq o) := wordCase rfl rfl
theorem flt (o : FOp) : Statement (.flt o) := wordCase rfl rfl
theorem fle (o : FOp) : Statement (.fle o) := wordCase rfl rfl
theorem fclass (o : FOp) : Statement (.fclass o) := wordCase rfl rfl
theorem fcvt (o : FOp) : Statement (.fcvt o) := wordCase rfl rfl
theorem fcvti (o : FOp) : Statement (.fcvti o) := wordCase rfl rfl
theorem fcvtif (o : FOp) : Statement (.fcvtif o) := wordCase rfl rfl
theorem fsgn (o : FOp) : Statement (.fsgn o) := wordCase rfl rfl
theorem fma (o : FOp) : Statement (.fma o) := wordCase rfl rfl
theorem fnma (o : FOp) : Statement (.fnma o) := wordCase rfl rfl
theorem amoswap (o : AOp) : Statement (.amoswap o) := amoCase .amoswap rfl rfl
theorem amoadd (o : AOp) : Statement (.amoadd o) := amoCase .amoadd rfl rfl
theorem amoand (o : AOp) : Statement (.amoand o) := amoCase .amoand rfl rfl
theorem amoor (o : AOp) : Statement (.amoor o) := amoCase .amoor rfl rfl
theorem amoxor (o : AOp) : Statement (.amoxor o) := amoCase .amoxor rfl rfl
theorem amomin (o : AOp) : Statement (.amomin o) := amoCase .amomin rfl rfl
theorem amomax (o : AOp) : Statement (.amomax o) := amoCase .amomax rfl rfl
theorem amominu (o : AOp) : Statement (.amominu o) := amoCase .amominu rfl rfl
theorem amomaxu (o : AOp) : Statement (.amomaxu o) := amoCase .amomaxu rfl rfl
theorem amocas (o : AOp) : Statement (.amocas o) := amoCase .amocas rfl rfl
theorem amofadd (o : AOp) : Statement (.amofadd o) := amoCase .amofadd rfl rfl
theorem fenceSv : Statement .fenceSv := wordCase rfl rfl
theorem fenceVs : Statement .fenceVs := wordCase rfl rfl
theorem fenceVv : Statement .fenceVv := wordCase rfl rfl
theorem fenceAll : Statement .fenceAll := wordCase rfl rfl
theorem fenceI : Statement .fenceI := wordCase rfl rfl
theorem trap (a : Reg) : Statement (.trap a) := wordCase rfl rfl
theorem tret : Statement .tret := wordCase rfl rfl
theorem wfe : Statement .wfe := wordCase rfl rfl
theorem brk : Statement .brk := wordCase rfl rfl
theorem ctlrd (o : IOp) : Statement (.ctlrd o) := immCase .ctlrd rfl rfl
theorem ctlwr (o : IOp) : Statement (.ctlwr o) := immCase .ctlwr rfl rfl
theorem ctlset (o : IOp) : Statement (.ctlset o) := immCase .ctlset rfl rfl
theorem ctlclr (o : IOp) : Statement (.ctlclr o) := immCase .ctlclr rfl rfl
theorem ctlwri (o : IOp) : Statement (.ctlwri o) := immCase .ctlwri rfl rfl
theorem setvl (o : IOp) : Statement (.setvl o) := immCase .setvl rfl rfl
theorem setvli (o : IOp) : Statement (.setvli o) := immCase .setvli rfl rfl
theorem setcfg (o : IOp) : Statement (.setcfg o) := immCase .setcfg rfl rfl
theorem vclaim : Statement .vclaim := wordCase rfl rfl
theorem vsave (a : Reg) : Statement (.vsave a) := wordCase (encI_zero 4 a) rfl
theorem vrestore (a : Reg) : Statement (.vrestore a) := wordCase (encI_zero 5 a) rfl
theorem gsetvl (o : IOp) : Statement (.gsetvl o) := immCase .gsetvl rfl rfl
theorem vadd (o : VOp) : Statement (.vadd o) := vecCase .vadd rfl rfl
theorem vsub (o : VOp) : Statement (.vsub o) := vecCase .vsub rfl rfl
theorem vmul (o : VOp) : Statement (.vmul o) := vecCase .vmul rfl rfl
theorem vmulh (o : VOp) : Statement (.vmulh o) := vecCase .vmulh rfl rfl
theorem vmin (o : VOp) : Statement (.vmin o) := vecCase .vmin rfl rfl
theorem vmax (o : VOp) : Statement (.vmax o) := vecCase .vmax rfl rfl
theorem vdiv (o : VOp) : Statement (.vdiv o) := vecCase .vdiv rfl rfl
theorem vrem (o : VOp) : Statement (.vrem o) := vecCase .vrem rfl rfl
theorem vand (o : VOp) : Statement (.vand o) := vecCase .vand rfl rfl
theorem vor (o : VOp) : Statement (.vor o) := vecCase .vor rfl rfl
theorem vxor (o : VOp) : Statement (.vxor o) := vecCase .vxor rfl rfl
theorem vsll (o : VOp) : Statement (.vsll o) := vecCase .vsll rfl rfl
theorem vsr (o : VOp) : Statement (.vsr o) := vecCase .vsr rfl rfl
theorem vsadd (o : VOp) : Statement (.vsadd o) := vecCase .vsadd rfl rfl
theorem vssub (o : VOp) : Statement (.vssub o) := vecCase .vssub rfl rfl
theorem vmac (o : VOp) : Statement (.vmac o) := vecCase .vmac rfl rfl
theorem vcmpeq (o : VOp) : Statement (.vcmpeq o) := vecCase .vcmpeq rfl rfl
theorem vcmpne (o : VOp) : Statement (.vcmpne o) := vecCase .vcmpne rfl rfl
theorem vcmplt (o : VOp) : Statement (.vcmplt o) := vecCase .vcmplt rfl rfl
theorem vcmple (o : VOp) : Statement (.vcmple o) := vecCase .vcmple rfl rfl
theorem vmerge (o : VOp) : Statement (.vmerge o) := vecCase .vmerge rfl rfl
theorem vmv (o : VOp) : Statement (.vmv o) := vecCase .vmv rfl rfl
theorem vmvx (o : VOp) : Statement (.vmvx o) := vecCase .vmvx rfl rfl
theorem vid (o : VOp) : Statement (.vid o) := vecCase .vid rfl rfl
theorem vfadd (o : VOp) : Statement (.vfadd o) := vecCase .vfadd rfl rfl
theorem vfsub (o : VOp) : Statement (.vfsub o) := vecCase .vfsub rfl rfl
theorem vfmul (o : VOp) : Statement (.vfmul o) := vecCase .vfmul rfl rfl
theorem vfdiv (o : VOp) : Statement (.vfdiv o) := vecCase .vfdiv rfl rfl
theorem vfma (o : VOp) : Statement (.vfma o) := vecCase .vfma rfl rfl
theorem vfnma (o : VOp) : Statement (.vfnma o) := vecCase .vfnma rfl rfl
theorem vfmin (o : VOp) : Statement (.vfmin o) := vecCase .vfmin rfl rfl
theorem vfmax (o : VOp) : Statement (.vfmax o) := vecCase .vfmax rfl rfl
theorem vfsqrt (o : VOp) : Statement (.vfsqrt o) := vecCase .vfsqrt rfl rfl
theorem vfrsqrt (o : VOp) : Statement (.vfrsqrt o) := vecCase .vfrsqrt rfl rfl
theorem vfabs (o : VOp) : Statement (.vfabs o) := vecCase .vfabs rfl rfl
theorem vfneg (o : VOp) : Statement (.vfneg o) := vecCase .vfneg rfl rfl
theorem vfcmpeq (o : VOp) : Statement (.vfcmpeq o) := vecCase .vfcmpeq rfl rfl
theorem vfcmplt (o : VOp) : Statement (.vfcmplt o) := vecCase .vfcmplt rfl rfl
theorem vfcmple (o : VOp) : Statement (.vfcmple o) := vecCase .vfcmple rfl rfl
theorem vfclass (o : VOp) : Statement (.vfclass o) := vecCase .vfclass rfl rfl
theorem vfcvt (o : VOp) : Statement (.vfcvt o) := vecCaseS .vfcvt (by decide) rfl rfl rfl vfcvt_s
theorem vfcvtScaled (o : VOp) : Statement (.vfcvtScaled o) := vecCaseS .vfcvtScaled (by decide) rfl rfl rfl vfcvtScaled_s
theorem vf2i (o : VOp) : Statement (.vf2i o) := vecCase .vf2i rfl rfl
theorem vi2f (o : VOp) : Statement (.vi2f o) := vecCase .vi2f rfl rfl
theorem viext (o : VOp) : Statement (.viext o) := vecCase .viext rfl rfl
theorem vredsum (o : VOp) : Statement (.vredsum o) := vecCase .vredsum rfl rfl
theorem vredmin (o : VOp) : Statement (.vredmin o) := vecCase .vredmin rfl rfl
theorem vredmax (o : VOp) : Statement (.vredmax o) := vecCase .vredmax rfl rfl
theorem vredor (o : VOp) : Statement (.vredor o) := vecCase .vredor rfl rfl
theorem vfredsum (o : VOp) : Statement (.vfredsum o) := vecCase .vfredsum rfl rfl
theorem vfredosum (o : VOp) : Statement (.vfredosum o) := vecCase .vfredosum rfl rfl
theorem vfredmin (o : VOp) : Statement (.vfredmin o) := vecCase .vfredmin rfl rfl
theorem vfredmax (o : VOp) : Statement (.vfredmax o) := vecCase .vfredmax rfl rfl
theorem vscan (o : VOp) : Statement (.vscan o) := vecCase .vscan rfl rfl
theorem vperm (o : VOp) : Statement (.vperm o) := vecCase .vperm rfl rfl
theorem vslideup (o : VOp) : Statement (.vslideup o) := vecCase .vslideup rfl rfl
theorem vslidedn (o : VOp) : Statement (.vslidedn o) := vecCase .vslidedn rfl rfl
theorem vcompress (o : VOp) : Statement (.vcompress o) := vecCase .vcompress rfl rfl
theorem vrank (o : VOp) : Statement (.vrank o) := vecCase .vrank rfl rfl
theorem vbfly (o : VOp) : Statement (.vbfly o) := vecCase .vbfly rfl rfl
theorem vsortk (o : VOp) : Statement (.vsortk o) := vecCase .vsortk rfl rfl
theorem mand (o : VOp) : Statement (.mand o) := vecCase .mand rfl rfl
theorem mor (o : VOp) : Statement (.mor o) := vecCase .mor rfl rfl
theorem mxor (o : VOp) : Statement (.mxor o) := vecCase .mxor rfl rfl
theorem mandn (o : VOp) : Statement (.mandn o) := vecCase .mandn rfl rfl
theorem mpopc (o : VOp) : Statement (.mpopc o) := vecCase .mpopc rfl rfl
theorem mfirst (o : VOp) : Statement (.mfirst o) := vecCase .mfirst rfl rfl
theorem mset (o : VOp) : Statement (.mset o) := vecCase .mset rfl rfl
theorem vmaxi (o : VOp) : Statement (.vmaxi o) := vecCase .vmaxi rfl rfl
theorem vmini (o : VOp) : Statement (.vmini o) := vecCase .vmini rfl rfl
theorem vbslice (o : VOp) : Statement (.vbslice o) := vecCase .vbslice rfl rfl
theorem vbunslice (o : VOp) : Statement (.vbunslice o) := vecCase .vbunslice rfl rfl
theorem vld (o : VOp) : Statement (.vld o) := vecCase .vld rfl rfl
theorem vlds (o : VOp) : Statement (.vlds o) := vecCase .vlds rfl rfl
theorem vldav (o : VOp) : Statement (.vldav o) := vecCase .vldav rfl rfl
theorem vldg (o : VOp) : Statement (.vldg o) := vecCase .vldg rfl rfl
theorem vldx (o : VOp) : Statement (.vldx o) := vecCase .vldx rfl rfl
theorem vldxu (o : VOp) : Statement (.vldxu o) := vecCase .vldxu rfl rfl
theorem vldxf (o : VOp) : Statement (.vldxf o) := vecCase .vldxf rfl rfl
theorem qlds (o : VOp) : Statement (.qlds o) := vecCase .qlds rfl rfl
theorem vst (o : VOp) : Statement (.vst o) := vecCase .vst rfl rfl
theorem vsts (o : VOp) : Statement (.vsts o) := vecCase .vsts rfl rfl
theorem vstx (o : VOp) : Statement (.vstx o) := vecCase .vstx rfl rfl
theorem vstxu (o : VOp) : Statement (.vstxu o) := vecCase .vstxu rfl rfl
theorem vstxadd (o : VOp) : Statement (.vstxadd o) := vecCase .vstxadd rfl rfl
theorem vstxmax (o : VOp) : Statement (.vstxmax o) := vecCase .vstxmax rfl rfl
theorem vstxmin (o : VOp) : Statement (.vstxmin o) := vecCase .vstxmin rfl rfl
theorem mld (o : VOp) : Statement (.mld o) := vecCase .mld rfl rfl
theorem mst (o : VOp) : Statement (.mst o) := vecCase .mst rfl rfl
theorem vldxc (o : VOp) : Statement (.vldxc o) := vecCase .vldxc rfl rfl
theorem xopen (o : VOp) : Statement (.xopen o) := vecCase .xopen rfl rfl
theorem xsplit (o : VOp) : Statement (.xsplit o) := vecCase .xsplit rfl rfl
theorem xcap (o : VOp) : Statement (.xcap o) := vecCase .xcap rfl rfl
theorem xdeadl (o : VOp) : Statement (.xdeadl o) := vecCase .xdeadl rfl rfl
theorem rsend (o : VOp) : Statement (.rsend o) := vecCase .rsend rfl rfl
theorem rrun (o : VOp) : Statement (.rrun o) := vecCase .rrun rfl rfl
theorem rend : Statement .rend := wordCase rfl rfl
theorem xclose (o : VOp) : Statement (.xclose o) := vecCase .xclose rfl rfl
theorem rrecv (o : VOp) : Statement (.rrecv o) := vecCase .rrecv rfl rfl
theorem xwait (o : VOp) : Statement (.xwait o) := vecCase .xwait rfl rfl
theorem xstat (o : VOp) : Statement (.xstat o) := vecCase .xstat rfl rfl
theorem xrebal (o : VOp) : Statement (.xrebal o) := vecCase .xrebal rfl rfl
theorem shape (o : VOp) : Statement (.shape o) := vecCase .shape rfl rfl
theorem stmld (o : VOp) : Statement (.stmld o) := vecCaseS .stmld (by decide) rfl rfl rfl vector_s
theorem stmldShaped (o : VOp) : Statement (.stmldShaped o) := vecCaseS .stmldShaped (by decide) rfl rfl rfl shaped_s
theorem stmst (o : VOp) : Statement (.stmst o) := vecCaseS .stmst (by decide) rfl rfl rfl vector_s
theorem stmstShaped (o : VOp) : Statement (.stmstShaped o) := vecCaseS .stmstShaped (by decide) rfl rfl rfl shaped_s
theorem stmcp (o : VOp) : Statement (.stmcp o) := vecCaseS .stmcp (by decide) rfl rfl rfl vector_s
theorem stmcpShaped (o : VOp) : Statement (.stmcpShaped o) := vecCaseS .stmcpShaped (by decide) rfl rfl rfl shaped_s
theorem stmwait (o : VOp) : Statement (.stmwait o) := vecCase .stmwait rfl rfl
theorem stmstat (o : VOp) : Statement (.stmstat o) := vecCase .stmstat rfl rfl
theorem stmtl (o : VOp) : Statement (.stmtl o) := vecCase .stmtl rfl rfl
theorem stmcancel (o : VOp) : Statement (.stmcancel o) := vecCase .stmcancel rfl rfl
theorem tlaunch (o : VOp) : Statement (.tlaunch o) := vecCase .tlaunch rfl rfl
theorem texit : Statement .texit := wordCase rfl rfl
theorem tyield : Statement .tyield := wordCase rfl rfl
theorem twait (o : VOp) : Statement (.twait o) := vecCase .twait rfl rfl
theorem gbar : Statement .gbar := wordCase rfl rfl
theorem garrive (o : VOp) : Statement (.garrive o) := vecCase .garrive rfl rfl
theorem gwait (o : VOp) : Statement (.gwait o) := vecCase .gwait rfl rfl
theorem lease (o : VOp) : Statement (.lease o) := vecCase .lease rfl rfl
theorem dreg (o : VOp) : Statement (.dreg o) := vecCase .dreg rfl rfl
theorem dpub (o : VOp) : Statement (.dpub o) := vecCase .dpub rfl rfl
theorem dfinal (o : VOp) : Statement (.dfinal o) := vecCase .dfinal rfl rfl
theorem dstop (o : VOp) : Statement (.dstop o) := vecCase .dstop rfl rfl
theorem dchk (o : VOp) : Statement (.dchk o) := vecCase .dchk rfl rfl
theorem dwait (o : VOp) : Statement (.dwait o) := vecCase .dwait rfl rfl
theorem hpass (o : VOp) : Statement (.hpass o) := vecCase .hpass rfl rfl
theorem hdone (o : VOp) : Statement (.hdone o) := vecCase .hdone rfl rfl
theorem matt (o : DOp) : Statement (.matt o) := tileCase rfl rfl
theorem mrel : Statement .mrel := tileCase (o := zeroTile) rfl rfl
theorem mzero (o : DOp) : Statement (.mzero o) := tileCase rfl rfl
theorem msetlen (o : DOp) : Statement (.msetlen o) := tileCase rfl rfl
theorem msave (o : DOp) : Statement (.msave o) := tileCase rfl rfl
theorem mload (o : DOp) : Statement (.mload o) := tileCase rfl rfl
theorem opadd (o : DOp) : Statement (.opadd o) := tileCase rfl rfl
theorem opsub (o : DOp) : Statement (.opsub o) := tileCase rfl rfl
theorem opaddSp (o : DOp) : Statement (.opaddSp o) := tileCase rfl rfl
theorem opaddBs (o : DOp) : Statement (.opaddBs o) := tileCase rfl rfl
theorem opaddQ (o : DOp) : Statement (.opaddQ o) := tileCase rfl rfl
theorem mgrp (o : DOp) : Statement (.mgrp o) := tileCase rfl rfl
theorem mgrpQ (o : DOp) : Statement (.mgrpQ o) := tileCase rfl rfl
theorem mldt (o : DOp) : Statement (.mldt o) := tileCase rfl rfl
theorem mldtFf (o : DOp) : Statement (.mldtFf o) := tileCase rfl rfl
theorem mstt (o : DOp) : Statement (.mstt o) := tileCase rfl rfl
theorem mrdv (o : DOp) : Statement (.mrdv o) := tileCase rfl rfl
theorem mwrv (o : DOp) : Statement (.mwrv o) := tileCase rfl rfl
theorem bst (o : DOp) : Statement (.bst o) := tileCase rfl rfl
theorem bchain (o : DOp) : Statement (.bchain o) := tileCase rfl rfl
theorem bsset (o : DOp) : Statement (.bsset o) := tileCase rfl rfl
theorem bsget (o : DOp) : Statement (.bsget o) := tileCase rfl rfl
theorem queueHeadExecute : Statement .queueHeadExecute := event rfl
theorem dispatchSlot : Statement .dispatchSlot := event rfl
theorem copyHandoff : Statement .copyHandoff := event rfl
theorem levelAging : Statement .levelAging := event rfl
theorem tailWrite : Statement .tailWrite := event rfl
theorem queueEnable : Statement .queueEnable := event rfl
theorem queueDisable : Statement .queueDisable := event rfl
theorem relaunch : Statement .relaunch := event rfl
theorem pipelineArm : Statement .pipelineArm := event rfl
theorem leasewaitExpiry : Statement .leasewaitExpiry := event rfl
theorem taskResume : Statement .taskResume := event rfl
theorem hallPassGrant : Statement .hallPassGrant := event rfl
theorem hpwaitExpiry : Statement .hpwaitExpiry := event rfl
theorem tileGrant : Statement .tileGrant := event rfl
theorem streamElementLanding : Statement .streamElementLanding := event rfl
theorem chunkDelivered : Statement .chunkDelivered := event rfl
theorem recordMerge : Statement .recordMerge := event rfl
theorem recordArrival : Statement .recordArrival := event rfl
theorem closeMarkerArrival : Statement .closeMarkerArrival := event rfl
theorem batchDeadline : Statement .batchDeadline := event rfl
theorem roundFailureNotice : Statement .roundFailureNotice := event rfl
theorem linkFail : Statement .linkFail := event rfl
theorem transferTimeout : Statement .transferTimeout := event rfl
theorem gatherPieceResponse : Statement .gatherPieceResponse := event rfl
theorem flitReceive : Statement .flitReceive := event rfl
theorem portRetrain : Statement .portRetrain := event rfl
theorem retrainTimeout : Statement .retrainTimeout := event rfl
theorem replicaInvalidate : Statement .replicaInvalidate := event rfl
theorem replicaAck : Statement .replicaAck := event rfl
theorem replicaAckTimeout : Statement .replicaAckTimeout := event rfl
theorem replicaCreate : Statement .replicaCreate := event rfl
theorem ptpSync : Statement .ptpSync := event rfl
theorem pdelay : Statement .pdelay := event rfl
theorem noGm : Statement .noGm := event rfl
theorem timeSet : Statement .timeSet := event rfl
theorem hostRead : Statement .hostRead := event rfl
theorem hostWrite : Statement .hostWrite := event rfl
theorem apertureDescriptorWrite : Statement .apertureDescriptorWrite := event rfl
theorem msixUnmask : Statement .msixUnmask := event rfl
theorem corrected : Statement .corrected := event rfl
theorem poisoned : Statement .poisoned := event rfl
theorem parityError : Statement .parityError := event rfl
theorem rowRepair : Statement .rowRepair := event rfl
theorem fatalError : Statement .fatalError := event rfl
theorem coldReset : Statement .coldReset := event rfl
theorem warmReset : Statement .warmReset := event rfl
theorem bootConfigWrite : Statement .bootConfigWrite := event rfl
theorem minVersionRaise : Statement .minVersionRaise := event rfl
theorem load : Statement .load := event rfl
theorem clear : Statement .clear := event rfl
theorem transportKeyWrite : Statement .transportKeyWrite := event rfl
theorem formQuiesce : Statement .formQuiesce := event rfl
theorem quiesceLimit : Statement .quiesceLimit := event rfl
theorem fwUpdate : Statement .fwUpdate := event rfl
theorem budgetWrite : Statement .budgetWrite := event rfl
theorem getVersion : Statement .getVersion := event rfl
theorem getCapabilities : Statement .getCapabilities := event rfl
theorem negotiateAlgorithms : Statement .negotiateAlgorithms := event rfl
theorem getDigests : Statement .getDigests := event rfl
theorem getCertificate : Statement .getCertificate := event rfl
theorem challenge : Statement .challenge := event rfl
theorem getMeasurements : Statement .getMeasurements := event rfl
theorem keyExchange : Statement .keyExchange := event rfl
theorem finish : Statement .finish := event rfl
theorem haltreq : Statement .haltreq := event rfl
theorem haltComplete : Statement .haltComplete := event rfl
theorem haltQuietTimeout : Statement .haltQuietTimeout := event rfl
theorem resume : Statement .resume := event rfl
theorem debugStateAccess : Statement .debugStateAccess := event rfl
theorem invalidate : Statement .invalidate := event rfl
theorem migrate : Statement .migrate := event rfl
theorem translationOpDone : Statement .translationOpDone := event rfl
theorem registerWrite : Statement .registerWrite := event rfl
theorem illegalInstruction : Statement .illegalInstruction := event rfl
theorem fetchFault : Statement .fetchFault := event rfl
theorem retrainDone : Statement .retrainDone := event rfl
theorem timeSlew : Statement .timeSlew := event rfl
theorem powerLoss : Statement .powerLoss := event rfl

end Sys2Proof.Laws.Coding
end

