-- ==== Sys2Proof/Safety.lean ====
section
/-! DEFINITION. The terms in which claims speak of a run: what a completed instruction has written and what it has left, the
state in which a queued instruction is performed as it issues, and the canonical form of every memory. -/

namespace Sys2Proof.Machine

/-! ### Scalar instructions -/

/-- RETIRED after one more completed instruction: it counts at user level (R18). -/
def Hart.retiredNext (h : Hart) : Word := if h.prv then h.ctl.retired else h.ctl.retired + 1

/-- `t` is `s` with an instruction completed that wrote `v` to x[d] and moved the pc to `pc`: x0 keeps reading as zero, every
other register, control register, flag, byte of memory and every other agent is as it was, and RETIRED counts the
instruction at user level (R6, R7, R18). -/
structure Wrote (s t : State) (d : Reg) (v pc : Word) : Prop where
  reg : ∀ k : Reg, t.readX k = if k = d ∧ k ≠ 0 then v else s.readX k
  rest : t = { s with hart := { s.hart with
    x := t.hart.x, pc := pc, ctl := { s.hart.ctl with retired := s.hart.retiredNext } } }

/-- Executing `i` at `s` completes, with `v` in x[d] and the pc at `pc`, and nothing else. -/
def Gives (i : Instr) (s : State) (d : Reg) (v pc : Word) : Prop := ∃ t, exec i s = .next t ∧ Wrote s t d v pc

/-- As `Gives`, from the state `u` that the instruction's side effect made of `s`. -/
def GivesFrom (i : Instr) (s u : State) (d : Reg) (v pc : Word) : Prop := ∃ t, exec i s = .next t ∧ Wrote u t d v pc

/-- The state with the pc at `pc` and RETIRED counting one more instruction at user level: a completed instruction that wrote
nothing (R6, R18). -/
def State.went (s : State) (pc : Word) : State :=
  { s with hart := { s.hart with pc := pc, ctl := { s.hart.ctl with retired := s.hart.retiredNext } } }

/-- The state after a V-form of the scalar side that wrote nothing: ESTART is 0 too (R160). -/
def State.wentV (s : State) : State := s.endV.went (s.hart.pc + 4)

/-- As `GivesFrom`, for a V-form of the scalar side: ESTART is 0 too (R160). -/
def GivesV (i : Instr) (s u : State) (d : Reg) (v : Word) : Prop := GivesFrom i s u.endV d v (u.hart.pc + 4)

/-- The state after a trap was taken at user level: the trap registers written, PRV and VFROZEN set and PPRV clear, the pc at the
handler, and a rollbook event of code 1 (R338). -/
def State.trapped (s : State) (t : TrapInfo) (pc : Word) : State :=
  State.rollHart { s with hart := s.hart.enterTrap t pc } s.cur 1 t.word.toNat t.fb t.va

/-- The hart runs at user level, its instruction asks for no hall pass, and no MATT of it waits for tiles. -/
def State.plainUser (s : State) : Bool := !s.hart.prv && !s.hart.asked && !s.hart.mat.asked

/-- A scalar access of `n` bytes leads to a place: no Registrar window lies there, and the checks of R71 and the translation pass. -/
def Reaches (s : State) (k : Kind) (va : Word) (n : Nat) (p : Place) (l : Option LeafAt) : Prop :=
  s.windowAt va n = none ∧ s.scalarLoc k va n = .place p l false

/-- A scalar store of the current hart to `n` bytes is performed at once at a memory key: no replica of the page stands elsewhere, no
write to them is on its way before it, nor is it itself for a while, and the line is encrypted under its leaf's key (R81, R252, R253, R389,
R409). -/
def State.freeToStore (s : State) (leaf : Option LeafAt) (key n : Nat) : Bool :=
  !s.holds (agentNo s.cur .scalar) key n && !s.alien (s.leafKey leaf) key n

/-- `t` is `u` with the low `n` bytes of `v` stored at `key`, least significant first, `r` in x[d], the pc at `pc` and the instruction
counted: every other byte is as it was, a word wholly written loses its poison and no other does, and nothing else changes
(R12, R353). -/
structure Stored (u t : State) (key n v : Nat) (d : Reg) (r pc : Word) : Prop where
  reg : ∀ k : Reg, t.readX k = if k = d ∧ k ≠ 0 then r else u.readX k
  bytes : ∀ a, t.mem.byte a = if key ≤ a ∧ a < key + n then BitVec.ofNat 8 (v / 256 ^ (a - key)) else u.mem.byte a
  pois : ∀ w, SMap.get false t.mem.pois w = (SMap.get false u.mem.pois w && !(decide (key ≤ 8 * w) && decide (8 * w + 8 ≤ key + n)))
  rest : t = { u with
    mem := t.mem
    hart := { u.hart with x := t.hart.x, pc := pc, ctl := { u.hart.ctl with retired := u.hart.retiredNext } } }

/-- The state in which a scalar access of `n` bytes to a place is performed: its transfer has gone there and its leaf is used, and the load
before it is performed for good where it touched one of the bytes (R252, R364, R378). -/
def State.accessed (s : State) (k : Kind) (p : Place) (l : Option LeafAt) (n : Nat) : State :=
  (s.visit (dieKey s.cur) p k l).closeLate p.key n

/-- Every word of a context area of 4 MiB can be reached by its accesses of a kind, and for a read holds no poison (R341, R342). -/
def State.areaOpen (s : State) (k : Kind) (base : Word) : Prop :=
  ∀ off, off % 8 = 0 → off < 0x400000 →
    ∃ p l, s.areaLoc s.cur (s.hart.areaAccess s.cur k) (base + wordOf off) = .place p l false
      ∧ (k = .read → s.mem.poisoned p.key 8 = false)

/-! ### Numbers -/

/-- The exponent field of a pattern (R44). -/
def Fmt.exponent (f : Fmt) (v : Nat) : Nat := v / 2 ^ f.fbits % 2 ^ f.ebits

/-- The fraction field of a pattern (R44). -/
def Fmt.fraction (f : Fmt) (v : Nat) : Nat := v % 2 ^ f.fbits

/-- The sign bit of a pattern, set for a negative one (R44). -/
def Fmt.negative (f : Fmt) (v : Nat) : Bool := v / 2 ^ (f.width - 1) % 2 == 1

/-- A NaN by its fields (R44, R45). -/
def Fmt.isNaN (f : Fmt) (v : Nat) : Bool :=
  f.exponent v == 2 ^ f.ebits - 1 && (if f.finiteOnly then f.fraction v == 2 ^ f.fbits - 1 else f.fraction v != 0)

/-- A signalling NaN by its fields (R45). -/
def Fmt.isSignalling (f : Fmt) (v : Nat) : Bool := f.isNaN v && !f.finiteOnly && decide (f.fraction v < 2 ^ (f.fbits - 1))

/-- An infinity by its fields (R44, R45). -/
def Fmt.isInf (f : Fmt) (v : Nat) : Bool := f.exponent v == 2 ^ f.ebits - 1 && !f.finiteOnly && f.fraction v == 0

/-- A finite number by its fields. -/
def Fmt.isFinite (f : Fmt) (v : Nat) : Bool := !f.isNaN v && !f.isInf v

/-- The magnitude of a finite pattern, in units of the format's smallest subnormal number (R44). -/
def Fmt.units (f : Fmt) (v : Nat) : Nat :=
  if f.exponent v = 0 then f.fraction v else (2 ^ f.fbits + f.fraction v) * 2 ^ (f.exponent v - 1)

/-- A finite pattern's number, in units of the format's smallest subnormal number (R44). -/
def Fmt.number (f : Fmt) (v : Nat) : Int := if f.negative v then -(f.units v : Int) else f.units v

/-- A format's smallest subnormal number is 2 to the minus this: 149 for FP32 (R44). -/
def Fmt.scale (f : Fmt) : Nat := f.bias + f.fbits - 1

/-- The canonical NaN of a format (R46). -/
def Fmt.canonical (f : Fmt) : Nat :=
  if f.finiteOnly then 0x7F else (2 ^ f.ebits - 1) * 2 ^ f.fbits + 2 ^ (f.fbits - 1)

/-- How an exact positive number compares with the fraction n ⁄ d: `.gt` where the fraction is the greater. -/
abbrev Magnitude := Nat → Nat → Ordering

/-- The positive number x ⁄ y. -/
def ratio (x y : Nat) : Magnitude := fun n d => compare (n * y) (x * d)

/-- The positive root of x ⁄ y. -/
def root (x y : Nat) : Magnitude := fun n d => compare (n * n * y) (x * d * d)

/-- Whether a number, in a mode, rounds to N among the multiples of u ⁄ d (R48): the nearest with the even N on a tie, the one below in
magnitude, or the one above. -/
def Magnitude.roundsTo (c : Magnitude) (rm : Rm) (neg : Bool) (u d N : Nat) : Prop :=
  match rm, neg with
  | .rne, _ =>
    c ((2 * N + 1) * u) (2 * d) ≠ .lt ∧ (N = 0 ∨ c ((2 * N - 1) * u) (2 * d) ≠ .gt)
    ∧ (c ((2 * N + 1) * u) (2 * d) = .eq ∨ N ≠ 0 ∧ c ((2 * N - 1) * u) (2 * d) = .eq → N % 2 = 0)
  | .rdn, true | .rup, false => c (N * u) d ≠ .lt ∧ (N = 0 ∨ c ((N - 1) * u) d = .lt)
  | _, _ => c (N * u) d ≠ .gt ∧ c ((N + 1) * u) d = .gt

/-- Whether a number of units lies in the binade of `fbits + 1` bits whose last place is 2^j (below it too for the lowest one). -/
def Magnitude.binade (c : Magnitude) (f : Fmt) (j : Nat) : Prop :=
  (j = 0 ∨ c (2 ^ (f.fbits + j)) 1 ≠ .gt) ∧ c (2 ^ (f.fbits + 1 + j)) 1 = .gt

/-- Whether a number of units is tiny (R50): below the smallest normal one, and so when it is rounded with `fbits + 1` bits whatever its
exponent. -/
def Magnitude.tiny (c : Magnitude) (f : Fmt) (rm : Rm) (neg : Bool) : Prop :=
  c (2 ^ f.fbits) 1 = .gt ∧ ∀ i N, c (2 ^ f.fbits) (2 ^ i) ≠ .gt → c (2 ^ (f.fbits + 1)) (2 ^ i) = .gt → c.roundsTo rm neg 1 (2 ^ i) N →
    N < 2 ^ (f.fbits + i)

/-- What rounding a positive number of units of a format, of a sign, delivers (R48, R50, R53): N units of the last place 2^j, with NX where
that differs and UF where the number is tiny besides; or on overflow infinity or the largest finite number as the mode says, in E4M3 a NaN
for infinity, and under SAT the largest finite number, with OF and NX. -/
def Magnitude.delivers (c : Magnitude) (f : Fmt) (rm : Rm) (sat neg : Bool) (r : FRes) : Prop :=
  let sign := if neg then 2 ^ (f.width - 1) else 0
  let top := if f.finiteOnly then f.canonical - 1 else f.canonical - 2 ^ (f.fbits - 1) - 1
  ∃ j N, c.binade f j ∧ c.roundsTo rm neg (2 ^ j) 1 N ∧
    if N * 2 ^ j ≤ f.units top then
      ∃ g, g ≤ top ∧ f.units g = N * 2 ^ j ∧ r.bits = sign + g
        ∧ (if c (N * 2 ^ j) 1 = .eq then r.flags = 0 else (c.tiny f rm neg → r.flags = 3) ∧ (¬ c.tiny f rm neg → r.flags = 1))
    else
      r.flags = 5 ∧ r.bits =
        (if sat ∨ rm = .rtz ∨ rm = .rdn ∧ neg = false ∨ rm = .rup ∧ neg = true then sign + top
          else if f.finiteOnly then f.canonical
          else sign + top + 1)

/-- What an exact number of units delivers, a zero one with a sign of its own (R51). -/
def FRes.isNumber (r : FRes) (f : Fmt) (rm : Rm) (sat : Bool) (x : Int) (y : Nat) (zero : Bool) : Prop :=
  if x = 0 then r.bits = (if zero then 2 ^ (f.width - 1) else 0) ∧ r.flags = 0
  else (ratio x.natAbs y).delivers f rm sat (decide (x < 0)) r

/-! ### Queued instructions -/

/-- The vector side performs an instruction as it issues: the schedule is eager, the queue empty and not frozen, no stream owes a
mask, no FENCE.VV has gone before, no mask is poisoned, the hart runs a task of its own lease, and its registers are laid out for the
clusters it holds (logs 4 and 5). -/
def State.ready (s : State) : Bool :=
  s.eager && s.hart.queue.isEmpty && !s.hart.frozen && s.hart.mode == .plain && s.hart.owner == s.cur
    && s.hart.slots.toList.all (fun sl => sl.pendingMask == 0) && s.hart.vvFence.isNone && s.hart.maskPois.isEmpty
    && s.hart.lease.lanes == s.hart.lease.held

/-- An entry stands alone in the queue of the hart that the queue's event names, and nothing keeps it from its work: the hart runs a task
of its own lease and is not frozen, its core is not halted, no stream owes a mask, no FENCE.VV stands before the entry and no mask is
poisoned (logs 4 and 5). -/
structure State.headAlone (s : State) (e : QEntry) : Prop where
  named : s.arg.idx = s.cur
  queue : s.hart.queue = [e]
  eager : s.eager = true
  running : s.hart.run = .running
  awake : s.hart.frozen = false ∧ s.stopped s.cur = false
  plain : s.hart.mode = .plain ∧ s.hart.owner = s.cur
  masks : s.hart.maskOwed e = false ∧ s.hart.maskPois = []
  fresh : e.fenced = none ∧ e.mlen = none

/-- The matrix unit performs an instruction as it issues: no other hart of the form has one at the head of its queue (R194, logs 4
and 5). -/
def State.matReady (s : State) : Bool := s.ready && s.rivals.isEmpty

/-- The state as a queued instruction leaves it when it completes: the pc past it, RETIRED counted, ESTART 0 (R6, R18, R160). -/
def State.vdone (s : State) (len : Nat) : State :=
  { s with hart := { s.hart with
    pc := s.hart.pc + wordOf len
    ctl := { s.hart.ctl with retired := s.hart.retiredNext, estart := 0 } } }

/-- The same for a queued instruction that leaves ESTART alone: the matrix unit's and the exchange's (R160). -/
def State.qdone (s : State) (len : Nat) : State := s.went (s.hart.pc + wordOf len)

/-- The entry of an instruction that issues now stands alone in the queue, its address past (R107). -/
def State.placed (s : State) (i : Instr) (len : Nat) (xa xb : Word) : State :=
  { s with hart := { s.hart with
    pc := s.hart.pc + wordOf len
    ctl := { s.hart.ctl with retired := s.hart.retiredNext }
    queue := [s.entryOf i xa xb] } }

/-- The same for a matrix instruction, to whose hart the matrix unit has turned (R194). -/
def State.mplaced (s : State) (i : Instr) (xa xb : Word) : State := (s.placed i 8 xa xb).takeTurn

/-- No active element below VL of the groups `srcs`, as register number and bytes an element, holds poison (R122). -/
def State.clean (s : State) (mask : Nat) (srcs : List (Nat × Nat)) : Bool :=
  (List.range s.vctxNow.vl).all fun i => !s.hart.maskBit mask i || srcs.all fun r => !vpoisoned s.vmem s.vctxNow.reg r.1 r.2 i

/-- The register store and the VSTAT bits after an element-wise instruction wrote the group at `vd`, `wb` bytes an element (R122). -/
def State.elems (s : State) (vd : Reg) (wb mask : Nat) (f : Nat → EOut) : Memory × Word :=
  let x := s.vctxNow
  let r := writeElems x vd.toNat wb (s.hart.maskBit mask) f x.vl 0 (s.vmem, 0)
  (x.tailZero r.1 vd.toNat wb x.vl, r.2)

/-- The state after an element-wise instruction: the group written, the VSTAT bits raised, and the rest of a completed
instruction (R122, R123). -/
def State.wroteElems (s : State) (vd : Reg) (wb mask : Nat) (f : Nat → EOut) : State :=
  let r := s.elems vd wb mask f
  let t := s.vdone 4
  { t with hart := { t.hart with
    lease := { s.hart.lease with vmem := r.1 }
    ctl := { t.hart.ctl with vstat := s.hart.ctl.vstat ||| r.2 } } }

/-- The mask register and the VSTAT bits after an element-wise instruction with a mask destination (R104, R126). -/
def State.bits (s : State) (md wb mask : Nat) (f : Nat → Bool × Word) : Nat × Word :=
  let x := s.vctxNow
  let r := writeBits x.maskz (s.hart.maskBit mask) f x.vl 0 (s.hart.mask md, 0)
  (if x.tail && x.vl ≠ 0 then maskClear r.1 x.vl (x.capacity wb) else r.1, r.2)

/-- The state after an instruction with a mask destination (R104, R126). -/
def State.wroteBits (s : State) (md wb mask : Nat) (f : Nat → Bool × Word) : State :=
  let r := s.bits md wb mask f
  let t := s.vdone 4
  { t with hart := { t.hart with
    masks := (s.hart.setMask md r.1).masks
    ctl := { t.hart.ctl with vstat := s.hart.ctl.vstat ||| r.2 } } }

/-- The state after a queued instruction that delivers `v` to x[d] and raises VSTAT bits (R108, R133). -/
def State.delivered (s : State) (d : Reg) (v st : Word) : State :=
  let t := (s.vdone 4).writeX d v
  { t with hart := { t.hart with ctl := { t.hart.ctl with vstat := t.hart.ctl.vstat ||| st } } }

/-- The second operand of element `i`: the register of vs2 broadcast for S = 1, else the element of vs2 (R121). -/
def State.second (s : State) (o : VOp) (wb i : Nat) : Nat :=
  if o.sc = 1 then low (8 * wb) (s.readX o.vs2).toNat else velem s.vmem s.vctxNow.reg o.vs2.toNat wb i

/-- The element `i` of a group as the vector side reads it now. -/
def State.elem (s : State) (n : Reg) (wb i : Nat) : Nat := velem s.vmem s.vctxNow.reg n.toNat wb i

/-- The state after an element-wise instruction that takes its elements from `lo` on and raises no VSTAT bit: a slide (R144). -/
def State.wroteFrom (s : State) (vd : Reg) (wb mask lo : Nat) (f : Nat → EOut) : State :=
  let x := s.vctxNow
  let m := (writeElems x vd.toNat wb (s.hart.maskBit mask) f (x.vl - lo) lo (s.vmem, 0)).1
  let t := s.vdone 4
  { t with hart := { t.hart with lease := { s.hart.lease with vmem := x.tailZero m vd.toNat wb x.vl } } }

/-- The state after an instruction that writes consecutive elements of `wb` bytes from element 0, with the group's tail from `end_` on (R145). -/
def State.wroteList (s : State) (vd : Reg) (wb : Nat) (vs : List Nat) (end_ : Nat) : State :=
  let x := s.vctxNow
  let t := s.vdone 4
  { t with hart := { t.hart with
    lease := { s.hart.lease with vmem := x.tailZero (putFrom x.reg vd.toNat wb 0 vs s.vmem) vd.toNat wb end_ } } }

/-- The indices below VL whose bit of a mask register is set. -/
def State.indices (s : State) (mask : Nat) : List Nat := (List.range s.vctxNow.vl).filter (s.hart.maskBit mask)

/-- `t` with its only queue entry gone and ESTART 0: a queued instruction has completed (R160). -/
def State.vends (t : State) : State := State.popFront { t with hart := { t.hart with ctl := { t.hart.ctl with estart := 0 } } }

/-- `t` with its only queue entry gone and the stage progress (0, 0): a matrix instruction has completed (R203). -/
def State.mends (t : State) : State := (t.setProgress 0 0).popFront

/-! ### Agents' events -/

/-- The package that the running event names is present (R380). -/
def State.pkgHere (s : State) : Prop := s.present s.arg.pkg = true

/-- The compute die that the running event names is present (R1, R380). -/
def State.dieHere (s : State) : Prop := s.present s.arg.pkg = true ∧ s.arg.die < s.dieCount

/-- `t` is `s` but for one package's record, which is `r` (R380). -/
def PkgNow (s t : State) (p : Nat) (r : PkgRec) : Prop :=
  (∀ q, t.pkg q = if q = p then r else s.pkg q) ∧ t = { s with pkgs := t.pkgs }

/-! ### The canonical form of every table -/

/-- The accumulators and the register store of a hart are canonical. -/
def Hart.Tables (h : Hart) : Prop := SMap.wf 0 h.mat.acc = true ∧ h.lease.vmem.wf = true

/-- Every table of the group is canonical, its keys strictly rising and no entry equal to what an unlisted key reads as: the harts,
dies, packages, cores, forms and XIDs, the queues of each die, the ports, descriptors and holders of each package, and the
accumulators and the register store of each hart, pre-empted ones too. -/
structure State.Tables (s : State) : Prop where
  harts : SMap.wf Hart.reset s.harts = true
  dies : SMap.wf DieRec.reset s.dies = true
  pkgs : SMap.wf PkgRec.reset s.pkgs = true
  cores : SMap.wf CoreRec.reset s.cores = true
  forms : SMap.wf FormRec.reset s.forms = true
  xids : SMap.wf XidRec.reset s.xids = true
  queues : ∀ k, SMap.wf QueueRec.reset (s.die k).queues = true
  ports : ∀ p, SMap.wf PortRec.reset (s.pkg p).ports = true
  apertures : ∀ p, SMap.wf 0 (s.pkg p).apertures = true
  holders : ∀ p, SMap.wf 0 (s.pkg p).holders = true
  current : s.hart.Tables
  others : ∀ p ∈ s.harts ++ s.parked, p.2.Tables

end Sys2Proof.Machine
end

