-- ==== Sys2Proof/Certificates/Slice0/Obligations.lean ====
section
/-! DEFINITION. The statements for the provers: what decoding, a step and every instruction do (OBLIGATIONS.json). -/

open Sys2Proof Sys2Proof.Machine

/-! ### Encoding -/

/-- Every well-formed instruction is what the bytes of its encoding decode to, with nothing left over (R21 to R32). -/
def Obligations.RoundTrip : Prop := ∀ i : Instr, Laws.Coding.Statement i

/-- Whatever decodes is the encoding of what it decodes to, followed by the bytes not read: no two words of one length are one instruction (R21 to R32). -/
def Obligations.DecodingIsEncoding : Prop :=
  ∀ (bs : List Byte) (i : Instr) (rest : List Byte), decode bs = .ok (i, rest) →
    ∃ e, encode i = some e ∧ bs = e.bytes ++ rest

/-- Words written out from the forms of R23 to R31, field by field from the top, and what they decode to; parcels that are no instruction decode to none. -/
def Obligations.EncodingWords : Prop :=
  let half (h : BitVec 16) (i : Instr) : Prop := decode (leBytes 2 h.toNat) = .ok (i, [])
  let word (w : BitVec 32) (i : Instr) : Prop := decode (leBytes 4 w.toNat) = .ok (i, [])
  let tile (w : BitVec 64) (i : Instr) : Prop := decode (leBytes 8 w.toNat) = .ok (i, [])
  -- H.ADDI x5, −3 is R24's own example; H.J by −2 bytes; H.NOP is always 0x4400
  half 0x04BD (.hAddi { ra := 5, rb := 29 })
  ∧ half (0b0#1 ++ 15#5 ++ 31#5 ++ 31#5) (.hJ { ra := 31, rb := 31 })
  ∧ half 0x4400 .hNop
  -- SUB x1, x2, x3; FMA.F64 x4, x5, x6; AMO CAS acquire, 64 bits, x7, x8, x9; WFE
  ∧ word (2#5 ++ 3#5 ++ 1#6 ++ 0b10#2 ++ 0x01#6 ++ 1#5 ++ 0#3) (.sub { d := 1, a := 2, b := 3 })
  ∧ word (5#5 ++ 6#5 ++ 15#6 ++ 0b10#2 ++ 0x0A#6 ++ 4#5 ++ 5#3) (.fma { d := 4, a := 5, b := 6, t := 5 })
  ∧ word (8#5 ++ 9#5 ++ (1#2 ++ 9#4) ++ 0b10#2 ++ 0x0C#6 ++ 7#5 ++ 3#3) (.amocas { d := 7, a := 8, b := 9, o := 1, w := 1 })
  ∧ word (0#5 ++ 0#5 ++ 7#6 ++ 0b10#2 ++ 0x0D#6 ++ 0#5 ++ 0#3) .wfe
  -- ADDI x5, x6, −3; SRAI x1, x2, 17; LDW x7, [x8 − 4]; CTLWR x1, 0x123, x2
  ∧ word (6#5 ++ (0b11111#5 ++ 0b111101#6) ++ 0b10#2 ++ 0x02#6 ++ 5#5 ++ 0#3) (.addi { d := 5, a := 6, imm := 0x7FD })
  ∧ word (2#5 ++ (0b10000#5 ++ 0b010001#6) ++ 0b10#2 ++ 0x02#6 ++ 1#5 ++ 6#3) (.srai { d := 1, a := 2, imm := 0b10000010001 })
  ∧ word (8#5 ++ (0b11111#5 ++ 0b111100#6) ++ 0b10#2 ++ 0x03#6 ++ 7#5 ++ 2#3) (.ldw { d := 7, a := 8, imm := 0x7FC })
  ∧ word (2#5 ++ (0b00100#5 ++ 0b100011#6) ++ 0b10#2 ++ 0x0E#6 ++ 1#5 ++ 1#3) (.ctlwr { d := 1, a := 2, imm := 0x123 })
  -- STD x9, [x10 + 40]; BLT x1, x2, −2 bytes; JAL x1, −2 bytes
  ∧ word (10#5 ++ 9#5 ++ 0b000001#6 ++ 0b10#2 ++ 0x04#6 ++ 0b01000#5 ++ 3#3) (.std { a := 10, b := 9, imm := 40 })
  ∧ word (1#5 ++ 2#5 ++ 0b111111#6 ++ 0b10#2 ++ 0x05#6 ++ 0b11111#5 ++ 2#3) (.blt { a := 1, b := 2, imm := 0x7FF })
  ∧ word (31#5 ++ 31#5 ++ 63#6 ++ 0b10#2 ++ 0x06#6 ++ 1#5 ++ 7#3) (.jal { d := 1, imm := 0x7FFFF })
  -- VSUB.I32 v8, v16, v24, m3; VFMA.F32 v1, v2, x3
  ∧ word (16#5 ++ 24#5 ++ (0#1 ++ 4#3 ++ 1#2) ++ 0b10#2 ++ 0x11#6 ++ 8#5 ++ 3#3)
      (.vsub { vd := 8, vs1 := 16, vs2 := 24, sc := 0, t := 4, m := 3 })
  ∧ word (2#5 ++ 3#5 ++ (1#1 ++ 4#3 ++ 0#2) ++ 0b10#2 ++ 0x18#6 ++ 1#5 ++ 0#3)
      (.vfma { vd := 1, vs1 := 2, vs2 := 3, sc := 1, t := 4, m := 0 })
  -- OPADD.F32 ac2, v3, v4 under m1
  ∧ tile (0#12 ++ 0#4 ++ 0#4 ++ 4#4 ++ 0#6 ++ 1#3 ++ 0#5 ++ 4#5 ++ 3#5 ++ 0b11#2 ++ 0x01#6 ++ 2#4 ++ 0#4)
      (.opadd { imm := 0, wb := 0, wa := 0, tt := 4, cm := 1, xs := 0, vb := 4, va := 3, acd := 2, aux := 0 })
  ∧ (∃ e, decode [0, 0] = .error e) ∧ (∃ e, decode [0, 0x80, 0, 0] = .error e)

/-! ### The machine -/

/-- A step runs the decoded instruction (R6, R21, R33 to R36, R108; the order of moves is the model's, log 4): time passes, and when the scalar side moves, the instruction at the pc is executed: `step` is then `exec` of what its bytes decode to, behind a scalar load that it has to follow (R255, log 65), and unless a VLDXC has first to come to where it may be frozen (R344, log 5). One that names a register the vector queue still owes waits; bytes that are no legal instruction and a fetch that faults are executed as those events. The other moves are the vector queue's head, an agent's event with its operands, the next hart's turn, the placing of a write on its way, and a scalar load performed later.
What a fetch gives (R21, R35, R84, R364, R365): the bytes where the parcels from the pc are, as many as the first parcel's top bits say, as memory was at the hart's last FENCE.I or when its task started (log 9); and it changes no register, and of memory nothing but what its accesses do (`AccessUses`). -/
def Obligations.StepRuns : Prop :=
  (
  ∀ s : State,
    let t := s.pass
    let bitsOf_ (u : State) (bs : List Byte) : State := { u with arg := { EvArg.none with val := BitVec.ofNat 256 (leNat bs) } }
    (t.mem = s.mem ∧ (s.turns = [] → t.hart = s.hart ∧ t.cur = s.cur ∧ t.harts = s.harts ∧ t.events = s.events) ∧ t.tick = s.tick + 1)
    ∧ (t.nextMove = .scalar → t.canMove = false → step s = .next t)
    ∧ (t.nextMove = .scalar → t.canMove = true → t.stopsNow = true → step s = .next (t.preemptNow t.cur (t.hart.preempt.getD 0)))
    ∧ (t.nextMove = .scalar → t.canMove = true → t.stopsNow = false →
        (∀ (bs : List Byte) (u : State), t.fetch = .bytes bs u →
          (∀ (i : Instr) (rest : List Byte), decode bs = .ok (i, rest) →
            (i.wf = true → u.owes (xNames i) = false → step s = t.freezeFirst (exec i (u.behindLoad (passesLoad i) (xNames i))))
            ∧ (i.wf = true → u.owes (xNames i) = true → step s = t.freezeFirst (.next u))
            ∧ (i.wf = false → step s = t.freezeFirst (putAway (exec .illegalInstruction (bitsOf_ u bs)))))
          ∧ ∀ e, decode bs = .error e → step s = t.freezeFirst (putAway (exec .illegalInstruction (bitsOf_ u bs))))
        ∧ (∀ c va, t.fetch = .bad c va →
            step s = putAway (exec .fetchFault { t with arg := { EvArg.none with aux := c, val := va.zeroExtend 256 } }))
        ∧ (t.fetch = .wait → step s = .next t))
    ∧ (t.hart.queue.all (·.chunks.isNone) = true → ∀ r, t.freezeFirst r = r)
    ∧ (∀ u : State, t.freezeFirst (.next u) = .next u ∨ u.hart.frozen = true ∧ ∃ v, t.levelMove = some v ∧ t.freezeFirst (.next u) = .next v)
    ∧ (∀ (u : State) (b : Bool) (rs : List Reg),
        (u.hart.late = none → u.behindLoad b rs = u)
        ∧ ∀ l, u.hart.late = some l → u.behindLoad b rs = if b && !rs.contains l.d then u else { u with hart := { u.hart with late := none } })
    ∧ (t.nextMove = .queue → step s = .next t.queueMove)
    ∧ (∀ p k, t.nextMove = .place p k → step s = .next (t.placeMove p k))
    ∧ (t.nextMove = .late → step s = .next (if t.canMove then t.lateRead else t))
    ∧ (∀ g, t.nextMove = .turn g → step s = .next (t.switch g))
    ∧ ∀ k e, t.nextMove = .event k → t.events[k]? = some e → agentKind e.kind = true →
        step s = putAway (exec e.kind { t with events := t.events.eraseIdx k, arg := e.arg })
  )
  ∧ (
  ∀ (s : State) (bs : List Byte) (u : State), s.fetch = .bytes bs u →
    (∃ p l, s.fetchLoc s.hart.pc = .place p l false ∧ bs.length = parcelLength (BitVec.ofNat 16 (s.parcelAt l p.key)))
    ∧ (∀ k, 2 * k < bs.length → ∃ p l, s.fetchLoc (s.hart.pc + wordOf (2 * k)) = .place p l false
        ∧ bs[2 * k]? = some (BitVec.ofNat 8 (s.parcelAt l p.key)) ∧ bs[2 * k + 1]? = some (BitVec.ofNat 8 (s.parcelAt l p.key / 256))
        ∧ (s.alien (s.leafKey l) p.key 2 = false →
            bs[2 * k]? = some (s.hart.code.byte p.key) ∧ bs[2 * k + 1]? = some (s.hart.code.byte (p.key + 1))))
    ∧ u = { s with mem := u.mem, tlb := u.tlb, events := u.events, pkgs := u.pkgs, outbox := u.outbox, free := u.free }
  )

/-- Every step keeps the canonical form of memory: addresses strictly rising, no byte listed at the value an unlisted one reads as, and the same for the poisoned words. -/
def Obligations.MemoryInvariant : Prop :=
  ∀ s t : State, s.mem.wf = true → step s = .next t → t.mem.wf = true

/-- Every step keeps every table of the group canonical. -/
def Obligations.TableInvariant : Prop :=
  ∀ s t : State, s.Tables → step s = .next t → t.Tables

/-- Reset (R12, R20, R399, R400; what the rules give no value for is the model's choice, logs 2 and 13): memory is zero and free of poison but for the boot record in the last 64 bytes of the slate of core 0 of each die, and every table is canonical; the machine is one package whose dies' boot harts run at supervisor level with a lease of one cluster, x10 at the record and x12 1; every queue is disabled, and only key slot 0 holds a key. -/
def Obligations.ResetHolds : Prop :=
  let s := State.reset
  let record (d : Nat) : Nat := (Place.slate (192 * d) 786368).key
  s.mem.wf = true ∧ s.Tables ∧ s.hart.run = .running ∧ s.hart.prv = true ∧ s.hart.frozen = false ∧ s.hart.queue = []
  ∧ (∀ d, d < 4 → s.mem.read (record d) 60 = BootCfg.reset.record)
  ∧ (∀ k, (∀ d, d < 4 → ¬ (record d ≤ k ∧ k < record d + 60)) → s.mem.byte k = 0)
  ∧ (∀ k n, s.mem.poisoned k n = false) ∧ s.hart.ctl.trapvec = 0 ∧ s.lease.held = 1 ∧ s.hart.ctl.retired = 0
  ∧ (∀ p q, (s.queue p q).enabled = false) ∧ (∀ p n, SMap.get none (s.pkg p).keys n = if n = 0 then some 0 else none)
  ∧ (∀ d, d < 4 →
      let h := s.getHart (768 * d)
      h.run = .running ∧ h.prv = true ∧ h.pc = 0x0000004000000000 ∧ h.readX 10 = wordOf (0x7F0000000000 + 786368) ∧ h.readX 12 = 1
      ∧ h.readX 30 = 0x7F0000104000 ∧ h.ctl.vsaveptr = wordOf (4194304 * d) ∧ h.ctl.ptbase = 1 ∧ h.ctl.space = 0)
  ∧ ∀ g, g % 768 ≠ 0 ∨ 3072 ≤ g → (s.getHart g).run = .idle

/-! ### The integer registers -/

/-- The register operations of R66 but for the divisions: each completes with its result in x[d] and changes nothing else. -/
def Obligations.IntegerResults : Prop :=
  ∀ (o : ROp) (s : State),
    let a := s.readX o.a
    let b := s.readX o.b
    let gives (i : Instr) (v : Word) : Prop := Gives i s o.d v (s.hart.pc + 4)
    gives (.add o) (a + b) ∧ gives (.sub o) (a - b) ∧ gives (.mul o) (a * b)
    ∧ gives (.mulh o) (BitVec.ofInt 64 (a.toInt * b.toInt / 2 ^ 64))
    ∧ gives (.mulhu o) (BitVec.ofNat 64 (a.toNat * b.toNat / 2 ^ 64))
    ∧ gives (.and o) (a &&& b) ∧ gives (.or o) (a ||| b) ∧ gives (.xor o) (a ^^^ b)
    ∧ gives (.sll o) (a <<< (b &&& 63)) ∧ gives (.srl o) (a >>> (b &&& 63)) ∧ gives (.sra o) (a.sshiftRight' (b &&& 63))
    ∧ gives (.slt o) (if a.toInt < b.toInt then 1 else 0) ∧ gives (.sltu o) (if a < b then 1 else 0)
    ∧ gives (.min o) (if a.toInt ≤ b.toInt then a else b) ∧ gives (.max o) (if a.toInt ≤ b.toInt then b else a)
    ∧ gives (.minu o) (if a ≤ b then a else b) ∧ gives (.maxu o) (if a ≤ b then b else a)
    ∧ gives (.clz o) (BitVec.ofNat 64 ((List.range 64).findIdx fun i => a.getLsbD (63 - i)))
    ∧ gives (.ctz o) (BitVec.ofNat 64 ((List.range 64).findIdx fun i => a.getLsbD i))
    ∧ gives (.popc o) (BitVec.ofNat 64 ((List.range 64).countP fun i => a.getLsbD i))

/-- Division (R67): truncated towards zero, the remainder with the sign of the dividend, the two boundary cases as the table gives them, and no trap. -/
def Obligations.Division : Prop :=
  ∀ (o : ROp) (s : State),
    let a := s.readX o.a
    let b := s.readX o.b
    let gives (i : Instr) (v : Word) : Prop := Gives i s o.d v (s.hart.pc + 4)
    let small : Word := BitVec.ofInt 64 (-2 ^ 63)
    let q : Word := if b = 0 then -1 else if a = small ∧ b = -1 then small else BitVec.ofInt 64 (a.toInt.tdiv b.toInt)
    let u : Word := if b = 0 then -1 else BitVec.ofNat 64 (a.toNat / b.toNat)
    gives (.div o) q ∧ gives (.divu o) u
    ∧ gives (.rem o) (if b = 0 then a else if a = small ∧ b = -1 then 0 else a - b * q)
    ∧ gives (.remu o) (if b = 0 then a else a - b * u)

/-- The operations on an immediate, LUI and ADDPC (R68, R69, R26).
The 16-bit register forms (R24): their first field is destination and first operand, and the pc moves by 2. -/
def Obligations.ImmediateResults : Prop :=
  (
  ∀ (o : IOp) (p : UOp) (s : State),
    let a := s.readX o.a
    let imm : Word := o.imm.signExtend 64
    let sh := (o.imm.extractLsb' 0 6).toNat
    let gives (i : Instr) (v : Word) : Prop := Gives i s o.d v (s.hart.pc + 4)
    gives (.addi o) (a + imm) ∧ gives (.andi o) (a &&& imm) ∧ gives (.ori o) (a ||| imm) ∧ gives (.xori o) (a ^^^ imm)
    ∧ gives (.slti o) (if a.toInt < imm.toInt then 1 else 0) ∧ gives (.sltiu o) (if a < imm then 1 else 0)
    ∧ gives (.slli o) (a <<< sh) ∧ gives (.srli o) (a >>> sh) ∧ gives (.srai o) (a.sshiftRight sh)
    ∧ Gives (.lui p) s p.d (p.imm.signExtend 64 * 2 ^ 11) (s.hart.pc + 4)
    ∧ Gives (.addpc p) s p.d (s.hart.pc + p.imm.signExtend 64 * 2 ^ 11) (s.hart.pc + 4)
  )
  ∧ (
  ∀ (o : HOp) (s : State),
    let a := s.readX o.ra
    let b := s.readX o.rb
    let imm : Word := o.rb.signExtend 64
    let gives (i : Instr) (v : Word) : Prop := Gives i s o.ra v (s.hart.pc + 2)
    gives (.hAddi o) (a + imm) ∧ gives (.hLi o) imm ∧ gives (.hMv o) b ∧ gives (.hAdd o) (a + b) ∧ gives (.hSub o) (a - b)
    ∧ gives (.hAnd o) (a &&& b) ∧ gives (.hOr o) (a ||| b) ∧ gives (.hXor o) (a ^^^ b)
    ∧ gives (.hSlli o) (a <<< o.rb.toNat) ∧ gives (.hSrli o) (a >>> o.rb.toNat)
    ∧ exec .hNop s = .next (s.went (s.hart.pc + 2))
  )

/-- Branches (R72, R24): a taken one sets the pc to its target with bit 0 cleared, one not taken continues past itself, and neither writes a register.
Jumps (R73, R24): the link is written with the address past the jump, the target's bit 0 is cleared, and the target is taken from the registers as they were. -/
def Obligations.ControlTransfers : Prop :=
  (
  ∀ (o : SOp) (h : HOp) (s : State),
    let a := s.readX o.a
    let b := s.readX o.b
    let target : Word := (s.hart.pc + o.imm.signExtend 64 * 2) &&& ~~~1
    let near : Word := (s.hart.pc + h.rb.signExtend 64 * 2) &&& ~~~1
    let goes (i : Instr) (taken : Bool) : Prop := exec i s = .next (s.went (if taken then target else s.hart.pc + 4))
    goes (.beq o) (decide (a = b)) ∧ goes (.bne o) (decide (a ≠ b))
    ∧ goes (.blt o) (decide (a.toInt < b.toInt)) ∧ goes (.bge o) (decide (a.toInt ≥ b.toInt))
    ∧ goes (.bltu o) (decide (a < b)) ∧ goes (.bgeu o) (decide (a ≥ b))
    ∧ exec (.hBeqz h) s = .next (s.went (if s.readX h.ra = 0 then near else s.hart.pc + 2))
    ∧ exec (.hBnez h) s = .next (s.went (if s.readX h.ra ≠ 0 then near else s.hart.pc + 2))
  )
  ∧ (
  ∀ (p : UOp) (o : IOp) (h : HOp) (s : State),
    Gives (.jal p) s p.d (s.hart.pc + 4) ((s.hart.pc + p.imm.signExtend 64 * 2) &&& ~~~1)
    ∧ Gives (.jalr o) s o.d (s.hart.pc + 4) ((s.readX o.a + o.imm.signExtend 64) &&& ~~~1)
    ∧ exec (.hJ h) s = .next (s.went ((s.hart.pc + (h.ra ++ h.rb).signExtend 64 * 2) &&& ~~~1))
    ∧ exec (.hJr h) s = .next (s.went (s.readX h.ra &&& ~~~1))
  )

/-! ### Scalar memory -/

/-- Scalar loads (R70, R24): an access that reaches a place free of poison puts the bytes there, sign- or zero-extended, in x[d], and changes nothing else but what its access does (`AccessUses`). Under a schedule that is not eager the load may be performed later still, which is the model's choice (log 65): then only the note of that is left besides.
What an access leaves besides its effect (R364, R378, R409): no register, no other hart and no byte of memory but the entry that its leaf came from, whose accessed bit is set, and for a write its dirty bit; a place without a leaf has no entry; bytes whose lines are encrypted under the leaf's key read as they stand. -/
def Obligations.Loads : Prop :=
  (
  ∀ (o : IOp) (h : HOp) (s : State) (p : Place) (l : Option LeafAt),
    let va := s.readX o.a + o.imm.signExtend 64
    let at_ (va : Word) (n : Nat) : Prop := Reaches s .read va n p l ∧ s.mem.poisoned p.key n = false
    let v (n : Nat) : BitVec (8 * n) := BitVec.ofNat (8 * n) (s.readAt l p.key n)
    let gives (i : Instr) (d : Reg) (n : Nat) (signed : Bool) (v pc : Word) : Prop :=
      ∃ u, (u = s.accessed .read p l n ∨ s.eager = false ∧ u = { s.accessed .read p l n with hart := { (s.accessed .read p l n).hart with
          late := some { d := d, key := p.key, len := n, signed := signed, cipher := s.leafKey l } } })
        ∧ GivesFrom i s u d v pc
    let pc := s.hart.pc + 4
    (at_ va 1 → gives (.ldb o) o.d 1 true ((v 1).signExtend 64) pc) ∧ (at_ va 2 → gives (.ldh o) o.d 2 true ((v 2).signExtend 64) pc)
    ∧ (at_ va 4 → gives (.ldw o) o.d 4 true ((v 4).signExtend 64) pc) ∧ (at_ va 8 → gives (.ldd o) o.d 8 false (v 8) pc)
    ∧ (at_ va 1 → gives (.ldbu o) o.d 1 false ((v 1).zeroExtend 64) pc) ∧ (at_ va 2 → gives (.ldhu o) o.d 2 false ((v 2).zeroExtend 64) pc)
    ∧ (at_ va 4 → gives (.ldwu o) o.d 4 false ((v 4).zeroExtend 64) pc)
    ∧ (at_ (s.readX 30 + h.rb.zeroExtend 64 * 8) 8 → gives (.hLdd h) h.ra 8 false (v 8) (s.hart.pc + 2))
  )
  ∧ (
  ∀ (s : State) (k : Kind) (p : Place) (l : Option LeafAt) (n : Nat),
    let u := s.visit (dieKey s.cur) p k l
    u.hart = s.hart ∧ u.harts = s.harts ∧ u.cur = s.cur
    ∧ (s.alien (s.leafKey l) p.key n = false → s.readAt l p.key n = s.mem.read p.key n)
    ∧ (l = none → u.mem = s.mem)
    ∧ (∀ e, l = some e → s.atomicOnWay e.key 8 = false → s.alien e.cipher e.key 8 = false → e.key % 8 = 0 →
        (∀ a, ¬ (e.key ≤ a ∧ a < e.key + 8) → u.mem.byte a = s.mem.byte a)
        ∧ (s.mem.wf = true → wordOf (s.mem.read e.key 8) = e.pte →
            wordOf (u.mem.read e.key 8) = e.pte ||| (if k = .write then 0x60 else 0x20)))
  )

/-- Scalar stores (R70, R24, R353): an access that reaches a place stores the low bytes of its register there, least significant first, and changes no other byte but what its access does (`AccessUses`). -/
def Obligations.Stores : Prop :=
  ∀ (o : SOp) (h : HOp) (s : State) (p : Place) (l : Option LeafAt), s.mem.wf = true →
    let va := s.readX o.a + o.imm.signExtend 64
    let at_ (va : Word) (n : Nat) : Prop := Reaches s .write va n p l ∧ (s.accessed .write p l n).freeToStore l p.key n = true
    let stores (i : Instr) (n : Nat) : Prop :=
      at_ va n → ∃ t, exec i s = .next t ∧ Stored (s.accessed .write p l n) t p.key n (s.readX o.b).toNat 0 0 (s.hart.pc + 4)
    stores (.stb o) 1 ∧ stores (.sth o) 2 ∧ stores (.stw o) 4 ∧ stores (.std o) 8
    ∧ (at_ (s.readX 30 + h.rb.zeroExtend 64 * 8) 8 →
        ∃ t, exec (.hStd h) s = .next t ∧ Stored (s.accessed .write p l 8) t p.key 8 (s.readX h.ra).toNat 0 0 (s.hart.pc + 2))

/-- Atomics (R80): the old value, sign-extended but for AMOFADD, goes to x[d], and the new one to memory; AMOCAS stores nothing where the comparand x[d] differs. One that releases completes once the hart's earlier scalar writes are placed (R82, R255). -/
def Obligations.Atomics : Prop :=
  ∀ (o : AOp) (s : State) (p : Place) (l : Option LeafAt), s.mem.wf = true →
    let n := if o.w = 0 then 4 else 8
    let w := 8 * n
    let u := s.accessed .write p l n
    let old : BitVec w := BitVec.ofNat w (u.readAt l p.key n)
    let b : BitVec w := (s.readX o.b).setWidth w
    Reaches s .write (s.readX o.a) n p l → s.mem.poisoned p.key n = false → s.pageHolds p.key = false → u.freeToStore l p.key n = true →
    (o.o.getLsbD 1 = true → s.agentHeld (agentNo s.cur .scalar) = false) →
    let does (i : Instr) (v : BitVec w) : Prop :=
      ∃ t, exec i s = .next t ∧ Stored u t p.key n v.toNat o.d (old.signExtend 64) (s.hart.pc + 4)
    does (.amoswap o) b ∧ does (.amoadd o) (old + b) ∧ does (.amoand o) (old &&& b) ∧ does (.amoor o) (old ||| b)
    ∧ does (.amoxor o) (old ^^^ b)
    ∧ does (.amomin o) (if old.toInt ≤ b.toInt then old else b) ∧ does (.amomax o) (if old.toInt ≤ b.toInt then b else old)
    ∧ does (.amominu o) (if old ≤ b then old else b) ∧ does (.amomaxu o) (if old ≤ b then b else old)
    ∧ (if old = (s.readX o.d).setWidth w then does (.amocas o) b
        else GivesFrom (.amocas o) s u o.d (old.signExtend 64) (s.hart.pc + 4))
    ∧ (∃ t, exec (.amofadd o) s = .next t ∧
        Stored u t p.key n (addF (if n = 4 then fp32 else fp64) .rne old.toNat b.toNat).bits o.d (old.zeroExtend 64) (s.hart.pc + 4))

/-! ### Scalar floating point -/

/-- FSGN (R78): the bits of a with the sign bit replaced by the exclusive-or of the two signs, every other bit copied, no flag. -/
def Obligations.SignInjection : Prop :=
  ∀ (o : FOp) (s : State), 2 ≤ o.t.toNat → o.t.toNat ≤ 5 →
    let w := if o.t.toNat ≤ 3 then 16 else if o.t.toNat = 4 then 32 else 64
    let a := (s.readX o.a).toNat % 2 ^ w
    let b := (s.readX o.b).toNat % 2 ^ w
    Gives (.fsgn o) s o.d (BitVec.ofNat 64 (Nat.xor a (b / 2 ^ (w - 1) * 2 ^ (w - 1)))) (s.hart.pc + 4)

/-- FCLASS (R77): one of bits 0 to 9 set, by sign, exponent and fraction of the operand, and no flag. -/
def Obligations.Classes : Prop :=
  ∀ (o : FOp) (s : State) (w f : Nat),
    (o.t = 2 ∧ w = 16 ∧ f = 10) ∨ (o.t = 3 ∧ w = 16 ∧ f = 7) ∨ (o.t = 4 ∧ w = 32 ∧ f = 23) ∨ (o.t = 5 ∧ w = 64 ∧ f = 52) →
    let a := (s.readX o.a).toNat % 2 ^ w
    let neg := decide (2 ^ (w - 1) ≤ a)
    let e := a % 2 ^ (w - 1) / 2 ^ f
    let m := a % 2 ^ f
    let top := 2 ^ (w - 1 - f) - 1
    let bit := if e = top then (if m = 0 then (if neg then 0 else 7) else if 2 ^ (f - 1) ≤ m then 9 else 8)
      else if e = 0 then (if m = 0 then (if neg then 3 else 4) else if neg then 2 else 5)
      else if neg then 1 else 6
    Gives (.fclass o) s o.d (BitVec.ofNat 64 (2 ^ bit)) (s.hart.pc + 4)

/-- Scalar floating point (R74 to R76): operands are the low bits of their registers, a result is zero-extended, the flags go to FSTAT, and nothing else changes. What the operations on formats give is stated after it.
Rounding and conversion between formats (R48, R50, R52, R53, R56): what a pattern stands for; a number in units of the format's smallest subnormal number delivers what R48, R50 and R53 say; infinities and NaNs as R52, R53 and R56 say.
Arithmetic on finite numbers (R49 to R51, R55): the exact result in units of the format's smallest subnormal number, rounded once, with the sign of a zero that R51 gives; division by zero and the root of a negative number; an integer to a format.
Arithmetic on NaNs and infinities (R56): a NaN gives the canonical one, with NV where an operand is signalling; an invalid operation gives it with NV; and infinities as IEEE 754 has them.
Minimum, maximum, comparison and conversion to an integer (R54, R56): one NaN gives the other operand and two the canonical one; −0 orders below +0; a comparison is false on a NaN; an integer is rounded, then clamped. -/
def Obligations.FloatResults : Prop :=
  (
  ∀ (o : FOp) (s : State),
    let t := o.t.toNat
    let f := Fmt.ofCode t
    let rm := s.hart.frm
    let a := s.readFp o.a t
    let b := s.readFp o.b t
    let c := s.readFp o.d t
    let src := (o.b.extractLsb' 0 3).toNat
    let gives (i : Instr) (r : FRes) : Prop :=
      GivesFrom i s { s with hart := s.hart.raise r.flags } o.d (BitVec.ofNat 64 r.bits) (s.hart.pc + 4)
    let tells (i : Instr) (r : Bool × FFlags) : Prop :=
      GivesFrom i s { s with hart := s.hart.raise r.2 } o.d (if r.1 then 1 else 0) (s.hart.pc + 4)
    let r := f2i f rm (intWidth src) (intSigned src) a
    gives (.fadd o) (addF f rm a b) ∧ gives (.fsub o) (subF f rm a b) ∧ gives (.fmul o) (mulF f rm a b)
    ∧ gives (.fdiv o) (divF f rm a b) ∧ gives (.fsqrt o) (sqrtF f rm a) ∧ gives (.fmin o) (minmaxF f false a b)
    ∧ gives (.fmax o) (minmaxF f true a b) ∧ tells (.feq o) (cmpF f .eq a b) ∧ tells (.flt o) (cmpF f .lt a b)
    ∧ tells (.fle o) (cmpF f .le a b) ∧ gives (.fma o) (fmaF f rm a b c) ∧ gives (.fnma o) (fnmaF f rm a b c)
    ∧ gives (.fcvt o) (cvtF f (Fmt.ofCode src) rm (o.b.getLsbD 3) (s.readFp o.a src))
    ∧ GivesFrom (.fcvti o) s { s with hart := s.hart.raise r.2 } o.d (BitVec.ofInt 64 r.1) (s.hart.pc + 4)
    ∧ gives (.fcvtif o) (i2f f rm false (intOf (intWidth src) (intSigned src) (s.readX o.a).toNat))
  )
  ∧ (
  ∀ (t q v m : Nat) (e : Int) (rm : Rm) (sat neg : Bool), t ≤ 5 → q ≤ 5 →
    let f := Fmt.ofCode t
    let g := Fmt.ofCode q
    let top := if f.finiteOnly then f.canonical - 1 else f.canonical - 2 ^ (f.fbits - 1) - 1
    let k := e + f.scale
    let x : Int := (m * 2 ^ k.toNat : Nat)
    let infinite (r : FRes) (sat neg : Bool) : Prop :=
      let sign := if neg then 2 ^ (f.width - 1) else 0
      r = if sat then { bits := sign + top, flags := 1 } else if f.finiteOnly then { bits := f.canonical, flags := 16 }
        else { bits := sign + top + 1, flags := 0 }
    (v < 2 ^ f.width →
      (f.isNaN v = true → f.value v = .nan (f.isSignalling v)) ∧ (f.isInf v = true → f.value v = .inf (f.negative v))
      ∧ (f.isFinite v = true → ∃ n d : Nat, f.value v = .fin (f.negative v) n ((d : Int) - f.scale) ∧ n * 2 ^ d = f.units v))
    ∧ (roundVal f rm sat (.fin neg m e)).isNumber f rm sat (if neg then -x else x) (2 ^ (-k).toNat) neg
    ∧ infinite (roundVal f rm sat (.inf neg)) sat neg
    ∧ roundVal f rm sat (.nan neg) = { bits := f.canonical, flags := if neg then 16 else 0 }
    ∧ (v < 2 ^ g.width →
      (g.isNaN v = true → cvtF f g rm sat v = { bits := f.canonical, flags := if g.isSignalling v then 16 else 0 })
      ∧ (g.isInf v = true → infinite (cvtF f g rm sat v) (sat && t != q) (g.negative v))
      ∧ (g.isFinite v = true →
          (cvtF f g rm sat v).isNumber f rm (sat && t != q) (g.number v * (2 ^ f.scale : Nat)) (2 ^ g.scale) (g.negative v)))
  )
  ∧ (
  ∀ (t a b d : Nat) (rm : Rm) (sat : Bool) (z : Int), 2 ≤ t → t ≤ 5 →
    let f := Fmt.ofCode t
    let A := f.number a
    let B := f.number b
    let D := f.number d
    let one : Nat := 2 ^ f.scale
    let s := f.negative a != f.negative b
    let zero (p q : Bool) : Bool := if p = q then p else rm == .rdn
    let inf (neg : Bool) : Nat := (if neg then 2 ^ (f.width - 1) else 0) + f.canonical - 2 ^ (f.fbits - 1)
    a < 2 ^ f.width → b < 2 ^ f.width → d < 2 ^ f.width → f.isFinite a = true → f.isFinite b = true → f.isFinite d = true →
    (addF f rm a b).isNumber f rm false (A + B) 1 (zero (f.negative a) (f.negative b))
    ∧ (subF f rm a b).isNumber f rm false (A - B) 1 (zero (f.negative a) (!f.negative b))
    ∧ (mulF f rm a b).isNumber f rm false (A * B) one s
    ∧ (fmaF f rm a b d).isNumber f rm false (A * B + D * one) one (zero s (f.negative d))
    ∧ (fnmaF f rm a b d).isNumber f rm false (D * one - A * B) one (zero (!s) (f.negative d))
    ∧ (B ≠ 0 → (divF f rm a b).isNumber f rm false (A * B.sign * one) B.natAbs s)
    ∧ (B = 0 → divF f rm a b = if A = 0 then { bits := f.canonical, flags := 16 } else { bits := inf s, flags := 8 })
    ∧ (0 < A → (root (A.natAbs * one) 1).delivers f rm false false (sqrtF f rm a)
        ∧ (root (one * one * one) A.natAbs).delivers f rm false false (rsqrtF f rm a))
    ∧ (A = 0 → sqrtF f rm a = { bits := a, flags := 0 } ∧ rsqrtF f rm a = { bits := inf (f.negative a), flags := 8 })
    ∧ (A < 0 → sqrtF f rm a = { bits := f.canonical, flags := 16 } ∧ rsqrtF f rm a = { bits := f.canonical, flags := 16 })
    ∧ (i2f f rm sat z).isNumber f rm sat (z * one) 1 false
  )
  ∧ (
  ∀ (t a b d : Nat) (rm : Rm), 2 ≤ t → t ≤ 5 →
    let f := Fmt.ofCode t
    let s := f.negative a != f.negative b
    let inf (neg : Bool) : FRes := { bits := (if neg then 2 ^ (f.width - 1) else 0) + f.canonical - 2 ^ (f.fbits - 1), flags := 0 }
    let nothing (neg : Bool) : FRes := { bits := if neg then 2 ^ (f.width - 1) else 0, flags := 0 }
    let nan (invalid : Bool) : FRes := { bits := f.canonical, flags := if invalid then 16 else 0 }
    let signals := f.isSignalling a || f.isSignalling b
    let lost := f.isInf a && decide (f.units b = 0) || f.isInf b && decide (f.units a = 0)
    let prodInf := f.isInf a || f.isInf b
    a < 2 ^ f.width → b < 2 ^ f.width → d < 2 ^ f.width →
    (f.isNaN a = true ∨ f.isNaN b = true → addF f rm a b = nan signals ∧ subF f rm a b = nan signals ∧ mulF f rm a b = nan signals
      ∧ divF f rm a b = nan signals
      ∧ fmaF f rm a b d = nan (signals || f.isSignalling d) ∧ fnmaF f rm a b d = nan (signals || f.isSignalling d))
    ∧ (f.isNaN a = true → sqrtF f rm a = nan (f.isSignalling a) ∧ rsqrtF f rm a = nan (f.isSignalling a))
    ∧ (f.isNaN a = false → f.isNaN b = false →
      (f.isInf a = true → addF f rm a b = (if f.isInf b && s then nan true else inf (f.negative a))
        ∧ subF f rm a b = (if f.isInf b && !s then nan true else inf (f.negative a))
        ∧ divF f rm a b = (if f.isInf b then nan true else inf s)
        ∧ sqrtF f rm a = (if f.negative a then nan true else inf false) ∧ rsqrtF f rm a = (if f.negative a then nan true else nothing false))
      ∧ (f.isInf b = true → f.isInf a = false →
          addF f rm a b = inf (f.negative b) ∧ subF f rm a b = inf (!f.negative b) ∧ divF f rm a b = nothing s)
      ∧ (prodInf = true → mulF f rm a b = if lost then nan true else inf s)
      ∧ (prodInf = true → lost = true → f.isNaN d = false → fmaF f rm a b d = nan true ∧ fnmaF f rm a b d = nan true)
      ∧ (lost = false → f.isNaN d = true → fmaF f rm a b d = nan (f.isSignalling d) ∧ fnmaF f rm a b d = nan (f.isSignalling d))
      ∧ (prodInf = true → lost = false → f.isNaN d = false →
          fmaF f rm a b d = (if f.isInf d && f.negative d != s then nan true else inf s)
          ∧ fnmaF f rm a b d = (if f.isInf d && f.negative d == s then nan true else inf (!s)))
      ∧ (prodInf = false → f.isInf d = true → fmaF f rm a b d = inf (f.negative d) ∧ fnmaF f rm a b d = inf (f.negative d)))
  )
  ∧ (
  ∀ (t w a b : Nat) (rm : Rm) (signed : Bool), t ≤ 5 → w ∈ [8, 16, 32, 64] →
    let f := Fmt.ofCode t
    let A := f.number a
    let B := f.number b
    let sig : FFlags := if f.isSignalling a || f.isSignalling b then 16 else 0
    let lo : Int := if signed then -2 ^ (w - 1) else 0
    let hi : Int := if signed then 2 ^ (w - 1) - 1 else 2 ^ w - 1
    a < 2 ^ f.width → b < 2 ^ f.width →
    (f.isNaN a = true → f.isNaN b = true → ∀ big, minmaxF f big a b = { bits := f.canonical, flags := sig })
    ∧ (f.isNaN a = true → f.isNaN b = false → ∀ big, minmaxF f big a b = { bits := b, flags := sig } ∧ minmaxF f big b a = { bits := b, flags := sig })
    ∧ (f.isNaN a = false → f.isNaN b = false →
        minmaxF f false a b = { bits := if A < B ∨ A = B ∧ f.negative a = true then a else b, flags := 0 }
        ∧ minmaxF f true a b = { bits := if B < A ∨ A = B ∧ f.negative a = false then a else b, flags := 0 }
        ∧ cmpF f .eq a b = (decide (A = B), 0) ∧ cmpF f .lt a b = (decide (A < B), 0) ∧ cmpF f .le a b = (decide (A ≤ B), 0))
    ∧ (f.isNaN a = true ∨ f.isNaN b = true → cmpF f .eq a b = (false, sig) ∧ cmpF f .lt a b = (false, 16) ∧ cmpF f .le a b = (false, 16))
    ∧ (f.isNaN a = true → f2i f rm w signed a = (0, 16))
    ∧ (f.isInf a = true → f2i f rm w signed a = (if f.negative a then lo else hi, 16))
    ∧ (f.isFinite a = true → ∃ N : Nat, (ratio (f.units a) (2 ^ f.scale)).roundsTo rm (f.negative a) 1 1 N ∧
        let z : Int := if f.negative a then -(N : Int) else N
        f2i f rm w signed a = (max lo (min hi z), if z < lo ∨ hi < z then 16 else if N * 2 ^ f.scale = f.units a then 0 else 1))
  )

/-! ### System -/

/-- Fences (R83, R84, R421): each completes once the queue and the streams it waits for are done and its agents' writes are ordered (`Ordering`), and else waits with nothing changed; FENCE.VV completes at once, and marks what comes after it in the queue; FENCE.I waits for the writes themselves, and what is fetched from then on is memory as it stands.
Ordering (R250, R253, R255, R258, R389): the writes on their way that are an agent's own, or that a release or fence has made visible in a scope instance of its hart, are those that it must order; at a scope of DIE or larger it waits until they are placed, and nothing changes; at a smaller one it waits for those to a page with replicas alone, and the others are visible in its instance from then on.
WFE (R87): with the event flag set it clears it and completes; without it nothing changes. -/
def Obligations.FencesAndEvents : Prop :=
  (
  ∀ s : State,
    let pc := s.hart.pc + 4
    let level := min (field s.hart.ctl.vcfg 7 3 + 1) 4
    let held (as : List Agent) : Bool := as.any fun a => s.agentHeld (agentNo s.cur a)
    let quiet : Bool := s.hart.queue.isEmpty || s.hart.vfrozen && !s.hart.vclaimed
    let when (i : Instr) (ready : Bool) (as : List Agent) : Prop :=
      (ready = false ∨ s.order (as.map (agentNo s.cur)) level = none → exec i s = .next s)
      ∧ ∀ t, ready = true → s.order (as.map (agentNo s.cur)) level = some t → exec i s = .next (t.went pc)
    when .fenceSv true [.scalar] ∧ when .fenceVs quiet [.vector]
    ∧ when .fenceAll (quiet && !s.hart.streaming) [.scalar, .vector, .matrix, .stream]
    ∧ exec .fenceI s = .next (if quiet && !held [.scalar, .vector] then State.went { s with hart := { s.hart with code := s.mem } } pc else s)
    ∧ exec .fenceVv s = .next (State.went { s with hart := { s.hart with
        vvFence := some (max (s.hart.vvFence.getD 0) level)
        queue := if s.hart.frozen then s.hart.queue.mapIdx (fun i e => if i = 0 then { e with fenced := some (max (e.fenced.getD 0) level) } else e)
          else s.hart.queue } } pc)
  )
  ∧ (
  ∀ (s : State) (ws : List Nat) (level : Nat), SMap.wf PkgRec.reset s.pkgs = true →
    let own (w : HeldWrite) : Prop := ∃ a ∈ ws, w.writer = a ∨ a < 2 ^ 32 ∧
      (w.seen = 1 ∧ w.writer / 8 = a / 8 ∨ w.seen = 2 ∧ w.writer / 8 / 4 = a / 8 / 4
        ∨ 3 ≤ w.seen ∧ formKey (w.writer / 8) = formKey (a / 8))
    let on (w : HeldWrite) : Prop := ∃ p ∈ s.packages, w ∈ (s.pkg p).held
    (s.order ws level = none ↔ ∃ w, on w ∧ own w ∧ (4 ≤ level ∨ s.pageHolds w.key = true))
    ∧ (4 ≤ level → ∀ t, s.order ws level = some t → t = s)
    ∧ (∀ t : State, s.order ws level = some t → t = { s with pkgs := t.pkgs } ∧ ∀ p : Nat,
        t.pkg p = { s.pkg p with held := (t.pkg p).held } ∧ (t.pkg p).held.length = (s.pkg p).held.length
        ∧ ∀ (k : Nat) (v w : HeldWrite), (s.pkg p).held[k]? = some v → (t.pkg p).held[k]? = some w →
          (own v → p ∈ s.packages → w = { v with seen := max v.seen level }) ∧ (¬ own v ∨ p ∉ s.packages → w = v))
  )
  ∧ (
  ∀ s : State,
    (s.hart.event = true → exec .wfe s = .next (State.went { s with hart := { s.hart with event := false } } (s.hart.pc + 4)))
    ∧ (s.hart.event = false → s.hart.stop = false → exec .wfe s = .next s)
  )

/-- TRAP and BRK at user level take their traps (R85, R334 to R338): TRAPPC and TRAPFB at the instruction, TRAPINFO x[a] for TRAP; a BRK that the debugger has armed halts the core instead.
The checks of a scalar access at user level, in their order (R71, R80, R24): an address that is not canonical traps ADDRESS, then a misaligned one MISALIGN_ISSUE, each with the address in TRAPVA, for every scalar load and store, the two 16-bit forms and every atomic; nothing is loaded or stored. An atomic that releases does so first (R82).
ILLEGAL_INSTRUCTION and FETCH_FAULT, the two ends of a fetch that is no instruction (R33, R36, R338): at user level illegal bits trap with cause ILLEGAL and the bits, a fetch that faults with its cause and address. -/
def Obligations.UserTraps : Prop :=
  (
  ∀ (a : Reg) (s : State), s.plainUser = true →
    let trap (cause : Nat) (info : Word) : State :=
      s.trapped { cause := cause, src := 0, slot := 0, fb := s.hart.pc, va := 0, info := info } s.hart.pc
    exec (.trap a) s = .next (trap 17 (s.readX a))
    ∧ ((s.core (s.cur / 4)).armbrk.getLsbD (s.cur % 4) = false → exec .brk s = .next (trap 18 0))
    ∧ ((s.core (s.cur / 4)).armbrk.getLsbD (s.cur % 4) = true →
        exec .brk s = .next (s.askHalt (s.cur / 4) 1 ((s.core (s.cur / 4)).quiet.getLsbD (s.cur % 4))))
  )
  ∧ (
  ∀ (o : IOp) (q : SOp) (h : HOp) (a : AOp) (s : State), s.plainUser = true →
    let trap (cause : Nat) (va : Word) : State :=
      s.trapped { cause := cause, src := 0, slot := 0, fb := s.hart.pc, va := va, info := 0 } s.hart.pc
    let checked (va : Word) (n : Nat) (i : Instr) : Prop :=
      (canonical va = false → exec i s = .next (trap 3 va))
      ∧ (canonical va = true → va.toNat % n ≠ 0 → exec i s = .next (trap 4 va))
    let la := s.readX o.a + o.imm.signExtend 64
    let sa := s.readX q.a + q.imm.signExtend 64
    let ha := s.readX 30 + h.rb.zeroExtend 64 * 8
    let ordered := a.o.getLsbD 1 = true → s.agentHeld (agentNo s.cur .scalar) = false
    (∀ i ∈ [Instr.ldb o, .ldbu o], checked la 1 i) ∧ (∀ i ∈ [Instr.ldh o, .ldhu o], checked la 2 i)
    ∧ (∀ i ∈ [Instr.ldw o, .ldwu o], checked la 4 i) ∧ checked la 8 (.ldd o)
    ∧ checked sa 1 (.stb q) ∧ checked sa 2 (.sth q) ∧ checked sa 4 (.stw q) ∧ checked sa 8 (.std q)
    ∧ checked ha 8 (.hLdd h) ∧ checked ha 8 (.hStd h)
    ∧ (ordered → ∀ i ∈ [Instr.amoswap a, .amoadd a, .amoand a, .amoor a, .amoxor a, .amomin a, .amomax a, .amominu a, .amomaxu a, .amocas a,
        .amofadd a], checked (s.readX a.a) (if a.w = 0 then 4 else 8) i)
  )
  ∧ (
  ∀ s : State, s.plainUser = true →
    exec .illegalInstruction s = .next (s.trapped
      { cause := cILLEGAL, src := 0, slot := 0, fb := s.hart.pc, va := 0, info := wordOf s.arg.val.toNat } s.hart.pc)
    ∧ exec .fetchFault s = .next (s.trapped
      { cause := s.arg.aux, src := 0, slot := 0, fb := s.hart.pc, va := wordOf s.arg.val.toNat, info := 0 } s.hart.pc)
  )

/-- What taking a trap at user level writes and leaves (R338, R335): the five trap registers, PRV and VFROZEN set and PPRV clear in STATUS, the pc at TRAPVEC; no x, vector or mask register, no tile, no queue entry, no lease, no event flag, no FSTAT and no byte of memory changes. -/
def Obligations.TrapEntry : Prop :=
  ∀ (s : State) (t : TrapInfo) (pc : Word), t.cause < 256 → t.slot < 8 → t.src < 4 →
    let u := s.trapped t pc
    u.hart.ctl.trapcause.toNat = t.cause + 256 * t.slot + 4096 * t.src ∧ u.hart.ctl.trappc = pc ∧ u.hart.ctl.trapfb = t.fb
    ∧ u.hart.ctl.trapva = t.va ∧ u.hart.ctl.trapinfo = t.info ∧ u.hart.pc = s.hart.ctl.trapvec &&& ~~~1
    ∧ u.hart.ctl.status = (s.hart.ctl.status &&& ~~~7) ||| 5
    ∧ u.hart = { s.hart with pc := u.hart.pc, doomed := false, dwait := none, late := none, ctl := { s.hart.ctl with
        trapcause := u.hart.ctl.trapcause, trappc := pc, trapfb := t.fb, trapva := t.va, trapinfo := t.info, status := u.hart.ctl.status } }
    ∧ u.mem = s.mem ∧ u.harts = s.harts ∧ u.cur = s.cur

/-- TRET (R86, R362): at supervisor level without a claimed context it returns to TRAPPC at the saved level, the queue no longer frozen and SPACE and PTBASE as written; at user level it traps PRIVILEGE with its bits. -/
def Obligations.TrapReturn : Prop :=
  ∀ s : State,
    (s.hart.prv = true → s.hart.vclaimed = false → (∀ j, j < 8 → (s.hart.slot j).state ≠ .retry) →
      exec .tret s = .next { s with hart := { s.hart with
        pc := s.hart.ctl.trappc &&& ~~~1
        ctl := { s.hart.ctl with
          status := (s.hart.ctl.status &&& ~~~7) ||| (if s.hart.ctl.status.getLsbD 1 then 1 else 0)
          spaceNow := s.hart.ctl.space, ptbaseNow := s.hart.ctl.ptbase } } })
    ∧ (s.plainUser = true → exec .tret s = .next (s.trapped
        { cause := 2, src := 0, slot := 0, fb := s.hart.pc, va := 0, info := 0x68D00 } s.hart.pc))

/-- Control-register access (R88, R15): with the level the register asks for and nothing queued, the old value goes to x[d], and a register that can be written takes the new one, read-only and reserved bits keeping their values (R14).
What a write of a control register leaves in the registers the vector side and the status use (R14, R16, R17, R98, R176): the writable bits are those of the value, every other bit is as it was, and STATUS takes only PPRV.
Control registers at user level (R14, R15): an unassigned number traps ILLEGAL, a supervisor one PRIVILEGE, a write of a read-only one ILLEGAL; each trap reports the instruction's bits, and no register is read or written. -/
def Obligations.ControlRegisters : Prop :=
  (
  ∀ (o : IOp) (s : State),
    let n := o.imm.toNat
    let old := s.ctlRead n
    ctlAssigned n = true → n < 0x200 → (n < 0x100 ∨ s.hart.prv = true) → s.hart.queue = [] →
    Gives (.ctlrd o) s o.d old (s.hart.pc + 4)
    ∧ (ctlReadOnly n = false →
        let u (v : Word) : State := { s with hart := { s.hart with ctl := s.hart.ctl.write n v } }
        let gives (i : Instr) (v : Word) : Prop := GivesFrom i s (u v) o.d old (s.hart.pc + 4)
        gives (.ctlwr o) (s.readX o.a) ∧ gives (.ctlset o) (old ||| s.readX o.a) ∧ gives (.ctlclr o) (old &&& ~~~s.readX o.a)
        ∧ gives (.ctlwri o) (o.a.zeroExtend 64))
  )
  ∧ (
  ∀ (c : Ctl) (v : Word) (b : Nat),
    ((c.write 0x001 v).vcfg.getLsbD b = if b < 24 then v.getLsbD b else c.vcfg.getLsbD b)
    ∧ ((c.write 0x004 v).fstat.getLsbD b = if b < 7 then v.getLsbD b else c.fstat.getLsbD b)
    ∧ ((c.write 0x011 v).mlen.getLsbD b = if b < 7 then v.getLsbD b else c.mlen.getLsbD b)
    ∧ ((c.write 0x100 v).status.getLsbD b = if b = 1 then v.getLsbD b else c.status.getLsbD b)
    ∧ (c.write 0x102 v).trappc = v ∧ (c.write 0x10A v).scratch = v
    ∧ (∀ n, ctlReadOnly n = true → c.write n v = c)
  )
  ∧ (
  ∀ (o : IOp) (s : State), s.plainUser = true →
    let n := o.imm.toNat
    let trap (i : Instr) (cause : Nat) : Prop := exec i s = .next (s.trapped
      { cause := cause, src := 0, slot := 0, fb := s.hart.pc, va := 0, info := instrBits i } s.hart.pc)
    let all (cause : Nat) : Prop := trap (.ctlrd o) cause ∧ trap (.ctlwr o) cause ∧ trap (.ctlset o) cause
      ∧ trap (.ctlclr o) cause ∧ trap (.ctlwri o) cause
    (ctlAssigned n = false → all 1) ∧ (ctlAssigned n = true → 0x100 ≤ n → all 2)
    ∧ (ctlAssigned n = true → n < 0x100 → ctlReadOnly n = true →
        trap (.ctlwr o) 1 ∧ trap (.ctlset o) 1 ∧ trap (.ctlclr o) 1 ∧ trap (.ctlwri o) 1)
  )

/-- Setting the vector length (R93, R100, R116 to R118): with no target pending, VL and x[d] become the smaller of AVL and VLMAX under the configuration the instruction installs, and VCFG takes the fields the instruction names; the queue is empty and the registers are laid out for the count held. A cohort's GSETVL completes, once its members are released, with their common VL (R114, R119).
The fields SETVL installs (R116, R117): SEW from bits 1 and 0 of the immediate, GRP from bits 3 and 2, TAIL from bit 4 and MASKPOL from bit 5; every other bit of VCFG stays.
A boundary takes a pending raise (R93, R103): the lease's count becomes the target, the target is gone, and VL follows from VLMAX at the new count; with no stream's mask owed the registers that CARRY names keep their elements where the configuration stays, and the masks the bits of those elements. -/
def Obligations.SetLength : Prop :=
  (
  ∀ (o : IOp) (h : HOp) (s : State), s.hart.stop = false → s.hart.lease.target = none → s.hart.queue = [] →
    s.hart.lease.lanes = s.hart.lease.held → s.lease.lanes = s.lease.held →
    let held := s.lease.held
    let reg := (if s.hart.mode = .pipeline then 4096 else 6144) * held
    let most (vcfg : Word) : Nat := if field vcfg 0 3 < 4 then 2 ^ field vcfg 3 2 * reg / 2 ^ field vcfg 0 3 else 0
    let imm := installImm s.hart.ctl.vcfg o.imm
    let sets (i : Instr) (avl : Nat) (vcfg : Word) (d : Reg) (len : Word) : Prop :=
      let vl := wordOf (min avl (most vcfg))
      GivesFrom i s { s with hart := { s.hart with ctl := { s.hart.ctl with vl := vl, vcfg := vcfg }, gsetVl := false } } d vl
        (s.hart.pc + len)
    sets (.setvl o) (s.readX o.a).toNat imm o.d 4 ∧ sets (.setvli o) o.a.toNat imm o.d 4
    ∧ (s.hart.mode ≠ .cohort → sets (.gsetvl o) (s.readX o.a).toNat imm o.d 4)
    ∧ (∀ vl, s.hart.mode = .cohort → s.hart.gset = .released vl →
        GivesFrom (.gsetvl o) s { s with hart := { s.hart with
          ctl := { s.hart.ctl with vl := wordOf vl, vcfg := imm }, gset := .none, gsetVl := true } } o.d (wordOf vl) (s.hart.pc + 4))
    ∧ (field s.hart.ctl.vcfg 0 3 < 4 → sets (.hSetvl h) (s.readX h.rb).toNat s.hart.ctl.vcfg h.ra 2)
    ∧ (let v := s.readX o.a
       field v 0 3 < 4 → field v 18 4 ≤ 10 → field v 7 3 ≤ 5 →
        sets (.setcfg o) s.hart.ctl.vl.toNat ((s.hart.ctl.vcfg &&& ~~~0xFFFFFF) ||| (v &&& 0xFFFFFF)) o.d 4)
  )
  ∧ (
  ∀ (vcfg : Word) (imm : BitVec 11),
    let r := installImm vcfg imm
    field r 0 3 = (imm.extractLsb' 0 2).toNat ∧ field r 3 2 = (imm.extractLsb' 2 2).toNat
    ∧ r.getLsbD 5 = imm.getLsbD 4 ∧ r.getLsbD 6 = imm.getLsbD 5 ∧ ∀ b, 7 ≤ b → r.getLsbD b = vcfg.getLsbD b
  )
  ∧ (
  ∀ (o : IOp) (s : State) (c : Nat), s.hart.stop = false → s.hart.queue = [] → s.hart.owner = s.cur → s.hart.samples = true →
    s.hart.lease.lanes = s.hart.lease.held → s.hart.lease.target = some c → s.hart.lease.held ≤ c →
    let old := s.hart.ctl.vcfg
    let new := installImm old o.imm
    let wb := 2 ^ field old 0 3
    let keep := min s.hart.ctl.vl.toNat (2 ^ field old 3 2 * (6144 * c) / wb)
    ∃ t, exec (.setvl o) s = .next t ∧ t.hart.lease.held = c ∧ t.hart.lease.target = none
      ∧ t.hart.ctl.vl = wordOf (min (s.readX o.a).toNat (t.vlmaxOf t.hart.ctl.vcfg))
      ∧ t.hart.ctl.vcfg = new ∧ t.hart.pc = s.hart.pc + 4 ∧ t.mem = s.mem
      ∧ (s.hart.lease.held < c → s.hart.slots.toList.all (fun sl => sl.pendingMask == 0) = true → s.hart.vvFence = none →
          t.hart.queue = [] ∧ t.hart.lease.lanes = c
          ∧ (field old 0 5 = field new 0 5 → field old 0 3 < 4 →
              (∀ k i, k < 8 → k % 2 ^ field old 3 2 = 0 → (field old 10 8).testBit k = true → i < keep →
                velem t.hart.lease.vmem (6144 * c) (24 + k) wb i = velem s.hart.lease.vmem (6144 * s.hart.lease.held) (24 + k) wb i)
              ∧ ∀ n b, 1 ≤ n → n < 8 → (t.hart.mask n).testBit b = (decide (b < keep) && (s.hart.mask n).testBit b)))
  )

/-- The context instructions at supervisor level (R120, R341, R345, R346, R347; R14): with streams quiet and no MATT under way, at an area aligned to 4 KiB whose words can be reached, VSAVE completes, with the image of the vector parts written and nothing of the hart changed; VCLAIM completes, the image written at VSAVEPTR, the queue empty, VL, ESTART and the stage progress 0, and VCLAIMED set; a second VCLAIM does nothing; VRESTORE completes, of an area of another count, mode or role with nothing of the hart changed, of one that matches with the vector parts loaded and VCLAIMED clear: control registers here, contents in `ContextContents`. That reserved bits of an altered image are dropped is the model's choice (log 26).
What VRESTORE loads (R342, R343, R347): the v registers of the hart's mode and role, the masks, the scale registers, the stride registers, the stream slots, the queue entries and the computer's rings, each from its place in the area; and where VSAVE puts them.
VCLAIM, VSAVE and VRESTORE at user level trap PRIVILEGE with their bits (R120). -/
def Obligations.ContextInstructions : Prop :=
  (
  ∀ (a : Reg) (s : State), s.hart.prv = true → s.hart.streaming = false → s.hart.mat.asked = false →
    (s.hart.vclaimed = true → s.hart.queue = []) → s.lease.lanes ≤ 16 → s.hart.queue.length ≤ 32 →
    let area := s.areaOf a
    let saved (va : Word) (u : State) : Prop :=
      s.putImage s.cur s.hart va false (s.hart.vectorImage s.lease s.hart.ctxWord) = .ok u ∧ u.hart = s.hart
    (area.toNat % 4096 = 0 → s.areaOpen .write area →
        ∃ u, saved area u ∧ exec (.vsave a) s = .next (u.went (s.hart.pc + 4)))
    ∧ (s.hart.vclaimed = true → exec .vclaim s = .next (s.went (s.hart.pc + 4)))
    ∧ (s.hart.vclaimed = false → s.hart.ctl.vsaveptr.toNat % 4096 = 0 → s.areaOpen .write s.hart.ctl.vsaveptr →
        ∃ u, saved s.hart.ctl.vsaveptr u ∧ exec .vclaim s = .next (State.went { u with hart := { s.hart with
          queue := [], claimGset := s.hart.gsetVl, claimFences := s.hart.vvFence :: s.hart.queue.map QEntry.fenced, vvFence := none
          ctl := { s.hart.ctl with status := s.hart.ctl.status ||| 8, vl := 0, estart := 0 }
          mat := { s.hart.mat with block0 := 0, stage0 := 0 } } } (s.hart.pc + 4)))
    ∧ (let rd (off : Nat) : Nat := (s.areaWord s.cur (s.hart.areaAccess s.cur .read) area off).1
       let matches_ : Prop := bitsOf (rd 0x150) 0 5 = s.lease.lanes ∧ bitsOf (rd 0x158) 1 3 = bitsOf s.hart.ctxWord 1 3
       area.toNat % 4096 = 0 → s.areaOpen .read area →
        (¬ matches_ → ∃ u : State, exec (.vrestore a) s = .next (u.went (s.hart.pc + 4)) ∧ u.hart = s.hart ∧ u.lease = s.lease)
        ∧ (matches_ → ∃ v, exec (.vrestore a) s = .next v
              ∧ v.hart.ctl.vl = wordOf (rd 0x108) ∧ v.hart.ctl.vcfg = (s.hart.ctl.vcfg &&& ~~~0xFFFFFF) ||| (wordOf (rd 0x110) &&& 0xFFFFFF)
              ∧ v.hart.ctl.estart = wordOf (rd 0x118) ∧ v.hart.ctl.vstat = wordOf (rd 0x120) &&& 0x3FD
              ∧ v.hart.ctl.slip = wordOf (rd 0x130) &&& 7 ∧ v.hart.ctl.mlen = wordOf (rd 0x138) &&& 0x7F
              ∧ v.hart.ctl.mstat = wordOf (rd 0x140) &&& 0x3FC ∧ v.lease.minc = bitsOf (rd 0x150) 5 5
              ∧ v.lease.prefc = bitsOf (rd 0x150) 10 5 ∧ v.hart.mat.stage0 = bitsOf (rd 0x160) 0 4
              ∧ v.hart.mat.block0 = bitsOf (rd 0x160) 4 2 ∧ v.hart.vclaimed = false ∧ v.hart.pc = s.hart.pc + 4
              ∧ v.hart.x = s.hart.x))
  )
  ∧ (
  ∀ (a : Reg) (s v : State), s.hart.prv = true → s.hart.streaming = false → s.hart.mat.asked = false →
    (s.hart.vclaimed = true → s.hart.queue = []) → s.lease.lanes ≤ 16 → s.hart.lease.lanes = s.hart.lease.held → s.Tables →
    let area := s.areaOf a
    let rd (off : Nat) : Nat := (s.areaWord s.cur (s.hart.areaAccess s.cur .read) area off).1
    let pipe := s.hart.mode == .pipeline
    let n := (if pipe then 4096 else 6144) * s.lease.lanes / 8
    let regs (k : Nat) : Prop := if pipe then
        (match s.hart.role with
          | 0 => k < 8
          | 1 => 8 ≤ k ∧ k < 24
          | _ => 24 ≤ k ∧ k < 28)
      else k < 32
    let regAt (k : Nat) : Nat := 0x100000 + (if pipe then 0x10000 else 0x18000) * k
    let count := rd 0x168
    let image := s.hart.vectorImage s.lease s.hart.ctxWord
    area.toNat % 4096 = 0 → s.areaOpen .read area → bitsOf (rd 0x150) 0 5 = s.lease.lanes → bitsOf (rd 0x158) 1 3 = bitsOf s.hart.ctxWord 1 3 →
    exec (.vrestore a) s = .next v →
    (∀ k i, regs k → i < n → v.lease.vmem.read (98304 * k + 8 * i) 8 = rd (regAt k + 8 * i))
    ∧ (∀ k b, 1 ≤ k → k < 8 → b < 64 * n → (v.hart.mask k).testBit b = (rd (0x10000 + 0x18000 * (k - 1) + 8 * (b / 64))).testBit (b % 64))
    ∧ (∀ k, k < 16 → v.hart.mat.stride k = wordOf (rd (0x180 + 8 * k)) &&& 0xFFFFFFFF000007FF)
    ∧ (∀ e, e < 4096 → (SMap.get 0 v.hart.q e).toNat = bitsOf (rd (0x1000 + 8 * (e / 2))) (32 * (e % 2)) 32)
    ∧ (∀ j, j < 8 →
        let sl := v.hart.slot j
        let b := 0x400 + 128 * j
        sl.status = wordOf (rd b) ∧ sl.bits = wordOf (rd (b + 8)) ∧ sl.dst = wordOf (rd (b + 16)) ∧ sl.src = wordOf (rd (b + 24))
        ∧ sl.recAddr = wordOf (rd (b + 32)) ∧ ∀ i, i < 8 → bitsOf sl.shape.toNat (64 * i) 64 = rd (b + 64 + 8 * i))
    ∧ (∀ (bits : Word) (i : Instr), (headOf i).isSome = true →
        (parcelLength (bits.setWidth 16) = 4 → decodeWord (bits.setWidth 32) = .ok i → queuedOf bits = some i)
        ∧ (parcelLength (bits.setWidth 16) = 8 → decodeTile bits = .ok i → queuedOf bits = some i))
    ∧ (count ≤ 32 → (∀ k, k < count → (queuedOf (wordOf (rd (0x800 + 64 * k)))).isSome = true) →
        v.hart.queue.length = count
        ∧ ∀ (k : Nat) (e : QEntry), v.hart.queue[k]? = some e →
          let b := 0x800 + 64 * k
          e.bits = wordOf (rd b) ∧ queuedOf e.bits = some e.instr ∧ e.addr = wordOf (rd (b + 8)) ∧ e.xa = wordOf (rd (b + 16)) ∧ e.xb = wordOf (rd (b + 24))
          ∧ e.vl = rd (b + 32) ∧ e.vcfg = wordOf (rd (b + 40)) ∧ e.p = bitsOf (rd (b + 48)) 0 32 ∧ e.estart0 = bitsOf (rd (b + 48)) 32 32
          ∧ e.begun = decide (rd (b + 56) % 4 = 2))
    ∧ (pipe = true → s.hart.role = 1 → ∀ j, j < 4 → (s.lease.ring j).all (fun e => e.reader.isNone && e.writer.isNone) = true →
        (v.lease.ring j).length = min 4 (bitsOf (rd 0x170) (4 * j) 3)
        ∧ ∀ (k : Nat) (e : RingEntry), (v.lease.ring j)[k]? = some e → e.reader = none ∧ e.writer = none
          ∧ ∀ i, i < n → e.data.read (8 * i) 8 = rd (0x100000 + 0x10000 * (28 + 4 * j + k) + 8 * i))
    ∧ (∀ k i, regs k → i < n → (⟨regAt k + 8 * i, s.lease.vmem.read (98304 * k + 8 * i) 8,
        s.lease.vmem.poisoned (98304 * k + 8 * i) 8⟩ : ImageWord) ∈ image)
    ∧ (∀ k i, 1 ≤ k → k < 8 → i < n → ∃ w ∈ image, w.off = 0x10000 + 0x18000 * (k - 1) + 8 * i ∧ w.val = bitsOf (s.hart.mask k) (64 * i) 64)
    ∧ ∀ (k : Nat) (e : QEntry), s.hart.queue[k]? = some e → ∀ p ∈ [(0, e.bits.toNat), (8, e.addr.toNat), (16, e.xa.toNat), (24, e.xb.toNat),
        (32, e.vl), (40, e.vcfg.toNat)], (⟨0x800 + 64 * k + p.1, p.2, false⟩ : ImageWord) ∈ image
  )
  ∧ (
  ∀ (a : Reg) (s : State), s.plainUser = true →
    let trap (i : Instr) : Prop := exec i s = .next (s.trapped
      { cause := 2, src := 0, slot := 0, fb := s.hart.pc, va := 0, info := instrBits i } s.hart.pc)
    trap .vclaim ∧ trap (.vsave a) ∧ trap (.vrestore a)
  )

/-! ### Vector arithmetic -/

/-- The issue checks over vector operands, in their order (R34, R95, R99, R101, R110): a SEW without a meaning, a VL above VLMAX, a group that is not legal or what the instruction's own rule adds traps ILLEGAL; then no lease traps NO_LEASE; then, in pipeline mode, a group that leaves the role's partition, or a ring in a group of more than one, traps ROLE_REG.
Where a vector instruction traps at its issue, at user level (R34, R101, R155): it reports what the issue checks over its operand groups find, each at its own element width, and then, for a unit-stride or strided access under a VL that is not 0, MISALIGN_ISSUE with the base, where the base or the stride is no multiple of the width; the trap reports the instruction's bits but for MISALIGN_ISSUE, and the instruction does nothing. That the checks take the VL that stands at issue, whatever an earlier instruction in the queue may make it, is the model's choice (log 61).
The rings of pipeline mode (R109 to R111), over leases that all roles share and with nothing before the instruction: naming a ring as a destination pushes one entry with the instruction's elements and waits while the ring is full; naming it as a source pops its oldest entry, which is read once for every field that names it, and waits while it is empty; an instruction that does both pops first, so that it runs with a full ring; no other ring changes. -/
def Obligations.VectorChecks : Prop :=
  (
  ∀ (s : State) (ops : List VReg) (bad : Bool),
    let x := s.vctxNow
    let grp (v : VReg) (g : Nat) : Prop := g * 2 ^ (3 + x.sew) = x.grp * v.2
    let legal (v : VReg) : Prop := ∃ g, grp v g ∧ (g = 1 ∨ g = 2 ∨ g = 4 ∨ g = 8) ∧ v.1.toNat % g = 0
    let part (g : Nat) (n : Nat) : Prop :=
      if 28 ≤ n then g = 1 else if s.hart.role = 0 then n + g ≤ 8 else if s.hart.role = 1 then 8 ≤ n ∧ n + g ≤ 24 else 24 ≤ n ∧ n + g ≤ 28
    let ok : Prop := x.sew < 4 ∧ (x.vl ≤ x.grp * x.reg / 2 ^ x.sew ∨ x.c = 0) ∧ (∀ v ∈ ops, legal v) ∧ bad = false
    let inRole : Prop := s.hart.mode = .pipeline → ∀ v ∈ ops, ∀ g, grp v g → part g v.1.toNat
    let finds (c : Nat) : Prop := s.vecCheck ops bad = some { cause := c, va := 0, bits := true }
    (¬ ok → finds 1) ∧ (ok → x.c = 0 → finds 9) ∧ (ok → x.c ≠ 0 → ¬ inRole → finds 10)
    ∧ (ok → x.c ≠ 0 → inRole → s.vecCheck ops bad = none)
  )
  ∧ (
  ∀ (o : VOp) (s : State), s.plainUser = true →
    let x := s.vctxNow
    let trap (i : Instr) (cause : Nat) (va info : Word) : Prop := exec i s = .next (s.trapped
      { cause := cause, src := 0, slot := 0, fb := s.hart.pc, va := va, info := info } s.hart.pc)
    let checks (i : Instr) (ops : List (Reg × Nat)) (bad : Bool) : Prop :=
      ∀ t, s.vecCheck (ops.map fun v => (v.1, 8 * v.2)) bad = some t → trap i t.cause t.va (if t.bits then instrBits i else 0)
    let mem (i : Instr) (ops : List (Reg × Nat)) (bad : Bool) (w : Nat) (strided : Bool) : Prop :=
      checks i ops bad
      ∧ (s.vecCheck (ops.map fun v => (v.1, 8 * v.2)) bad = none → s.hart.ctl.vl ≠ 0 →
          (s.readX o.vs1).toNat % w ≠ 0 ∨ (strided = true ∧ (s.readX o.vs2).toNat % w ≠ 0) → trap i 4 (s.readX o.vs1) 0)
    let iw := intBytes o.t
    let fw := fpBytes o.t
    let cw := if o.sc = 1 then fw else iw
    let src := (o.vs2.extractLsb' 0 3).toNat
    let two (w : Nat) : List (Reg × Nat) := if o.sc = 1 then [(o.vs1, w)] else [(o.vs1, w), (o.vs2, w)]
    let bad2 := match x.group (8 * fw) with
      | some g => decide (2 * g > 8)
      | none => true
    let planes := decide (((o.vs2.extractLsb' 0 4).toNat + 1) * ((x.vl + 63) / 64 * 64) > 8 * x.capacity 1)
    let blocks := decide (x.blk > 10) || (decide (x.vl > 0) && decide ((x.vl - 1) / 2 ^ x.blk > 511))
    (∀ i ∈ [Instr.vadd o, .vsub o, .vmul o, .vmulh o, .vmin o, .vmax o, .vdiv o, .vrem o, .vand o, .vor o, .vxor o, .vsll o, .vsr o, .vsadd o, .vssub o, .vmac o,
        .vmerge o], checks i ((o.vd, iw) :: two iw) false)
    ∧ (∀ i ∈ [Instr.vfadd o, .vfsub o, .vfmul o, .vfdiv o, .vfmin o, .vfmax o, .vfma o, .vfnma o], checks i ((o.vd, fw) :: two fw) false)
    ∧ (∀ i ∈ [Instr.vfsqrt o, .vfrsqrt o, .vfabs o, .vfneg o], checks i [(o.vd, fw), (o.vs1, fw)] false)
    ∧ checks (.vfclass o) [(o.vd, 2), (o.vs1, fw)] false ∧ checks (.vfcvt o) [(o.vd, fw), (o.vs1, fpWidth src / 8)] false
    ∧ checks (.vf2i o) [(o.vd, iw), (o.vs1, fpWidth src / 8)] false ∧ checks (.vi2f o) [(o.vd, fw), (o.vs1, intWidth src / 8)] false
    ∧ checks (.viext o) [(o.vd, iw), (o.vs1, intWidth src / 8)] false
    ∧ checks (.vfcvtScaled o) [(o.vd, fw), (o.vs1, fpWidth (if o.t.toNat ≤ 1 then 4 else if o.vs2.getLsbD 3 then 1 else 0) / 8)] blocks
    ∧ (∀ i ∈ [Instr.vcmpeq o, .vcmpne o, .vcmplt o, .vcmple o], checks i (two iw) false)
    ∧ (∀ i ∈ [Instr.vfcmpeq o, .vfcmplt o, .vfcmple o], checks i (two fw) false)
    ∧ checks (.vmv o) ((o.vd, iw) :: if o.sc = 1 then [] else [(o.vs1, iw)]) false
    ∧ (∀ i ∈ [Instr.vid o, .vrank o], checks i [(o.vd, iw)] false)
    ∧ (∀ i ∈ [Instr.vmvx o, .vredsum o, .vredor o, .vredmin o, .vredmax o], checks i [(o.vs1, iw)] false)
    ∧ (∀ i ∈ [Instr.vfredsum o, .vfredosum o, .vfredmin o, .vfredmax o], checks i [(o.vs1, fw)] false)
    ∧ (∀ i ∈ [Instr.vmaxi o, .vmini o], checks i [(o.vs1, cw)] false)
    ∧ (∀ i ∈ [Instr.mand o, .mor o, .mxor o, .mandn o, .mset o, .mpopc o, .mfirst o, .mld o, .mst o], checks i [] false)
    ∧ checks (.vperm o) ([(o.vd, iw), (o.vs1, iw)] ++ if o.sc = 1 then [] else [(o.vs2, 4)]) false
    ∧ (∀ i ∈ [Instr.vslideup o, .vslidedn o, .vcompress o], checks i [(o.vd, iw), (o.vs1, iw)] false)
    ∧ checks (.vscan o) [(o.vd, cw), (o.vs1, cw)] false ∧ checks (.vsortk o) [(o.vd, 4), (o.vs1, cw)] false
    ∧ checks (.vbfly o) [(o.vd, fw), (o.vs1, 2 * fw)] bad2
    ∧ checks (.vbslice o) [(o.vd, 1), (o.vs1, iw)] planes ∧ checks (.vbunslice o) [(o.vd, iw), (o.vs1, 1)] planes
    ∧ (∀ i ∈ [Instr.vld o, .vldav o, .vst o], mem i [(o.vd, iw)] false iw false)
    ∧ (s.hart.mode ≠ .cohort → mem (.vldg o) [(o.vd, iw)] false iw false)
    ∧ (∀ i ∈ [Instr.vlds o, .vsts o], mem i [(o.vd, iw)] false iw true)
    ∧ mem (.qlds o) [] blocks (if o.t = 3 then 2 else 4) true
    ∧ (∀ i ∈ [Instr.vldx o, .vldxu o, .vldxf o, .vldxc o], checks i [(o.vd, iw), (o.vs2, 4)] (s.overlaps o))
    ∧ (∀ i ∈ [Instr.vstx o, .vstxu o], checks i [(o.vd, iw), (o.vs2, 4)] false)
    ∧ (∀ i ∈ [Instr.vstxadd o, .vstxmax o, .vstxmin o], checks i [(o.vd, cw), (o.vs2, 4)] false)
    ∧ (∀ i ∈ [Instr.rsend o, .rrun o], checks i [(o.vd, iw), (o.vs1, 4)] false) ∧ checks (.rrecv o) [(o.vd, iw), (o.vs1, 8)] false
  )
  ∧ (
  ∀ (o : VOp) (s : State) (n : Nat), s.eager = true → s.hart.queue = [] → s.hart.frozen = false → s.hart.mode = .pipeline →
    (∀ sl ∈ s.hart.slots.toList, sl.pendingMask = 0) → s.hart.vvFence = none → s.hart.maskPois = [] → s.lease.lanes = s.lease.held →
    s.lease.held ≤ 16 → s.Tables → s.lease.vmem.wf = true → n < 4 → o.m = 0 →
    (∀ k, k < 4 → ∀ e ∈ s.lease.ring k, e.reader ≠ some s.ringTag ∧ e.writer ≠ some s.ringTag) →
    let w := intBytes o.t
    let x := s.vctxNow
    let ring (k : Nat) := s.lease.ring k
    let reg (r : Reg) : Prop := r.toNat = 28 + n
    let entry (es : List RingEntry) (e : RingEntry) (f : Nat → Nat) : Prop :=
      (∃ before, es = before ++ [e]) ∧ e.reader = none ∧ e.writer = none ∧ ∀ k, k < x.vl → e.data.read (k * w) w = f k
    let done (i : Instr) (t : State) : Prop :=
      exec i s = .next t ∧ t.hart.pc = s.hart.pc + 4 ∧ t.hart.queue = [] ∧ t.hart.x = s.hart.x ∧ t.mem = s.mem
      ∧ ∀ k, k < 4 → k ≠ n → t.lease.ring k = ring k
    let wide (e : RingEntry) : Prop := e.data.wf = true ∧ e.data.pois = [] ∧ ∀ c ∈ e.data.cells, c.1 < x.reg
    (o.sc = 1 → reg o.vd → s.vecCheck [(o.vd, 8 * w)] false = none →
      ((ring n).length < 4 → ∃ t e, done (.vmv o) t ∧ t.lease.ring n = ring n ++ [e]
          ∧ entry (t.lease.ring n) e fun _ => (s.readX o.vs2).toNat % 2 ^ (8 * w))
      ∧ (4 ≤ (ring n).length → exec (.vmv o) s = .next (s.placed (.vmv o) 4 (s.readX o.vs2) 0)))
    ∧ (o.sc = 0 → reg o.vs1 → o.vd.toNat < 28 → s.vecCheck [(o.vd, 8 * w), (o.vs1, 8 * w)] false = none →
      (ring n = [] → exec (.vmv o) s = .next (s.placed (.vmv o) 4 0 0))
      ∧ ∀ e rest, ring n = e :: rest → e.reader = none → e.writer = none → wide e →
          ∃ t, done (.vmv o) t ∧ t.lease.ring n = rest ∧ ∀ k, k < x.vl → t.elem o.vd w k = e.data.read (k * w) w)
    ∧ (o.sc = 0 → reg o.vs1 → reg o.vs2 → reg o.vd → s.vecCheck [(o.vd, 8 * w), (o.vs1, 8 * w), (o.vs2, 8 * w)] false = none →
      ∀ e rest, ring n = e :: rest → e.reader = none → e.writer = none → wide e → rest.length ≤ 3 →
        ∃ t f, done (.vadd o) t ∧ t.lease.ring n = rest ++ [f] ∧ entry (t.lease.ring n) f fun k => 2 * e.data.read (k * w) w % 2 ^ (8 * w))
  )

/-- Vector integer arithmetic (R122, R124, R125): an instruction that issues over elements free of poison writes, for each active element below VL, its operation on the two operand elements, in the destination's type, and SAT where a saturating result was clamped. -/
def Obligations.VectorInteger : Prop :=
  ∀ (o : VOp) (s : State), s.ready = true →
    let wb := intBytes o.t
    let w := 8 * wb
    let sg := intSigned o.t.toNat
    s.vecCheck ((o.vd :: binSrcs o).map fun r => (r, w)) false = none → s.clean o.m.toNat (srcsAt (binSrcs o) wb) = true →
    let a (i : Nat) := s.elem o.vs1 wb i
    let b (i : Nat) := s.second o wb i
    let d (i : Nat) := s.elem o.vd wb i
    let gives (i : Instr) (f : Nat → EOut) : Prop := exec i s = .next (s.wroteElems o.vd wb o.m.toNat f)
    let wraps (i : Instr) (z : Nat → Int) : Prop := gives i fun k => { val := ofInt w (z k), stat := 0 }
    let plain (i : Instr) (v : Nat → Nat) : Prop := gives i fun k => { val := v k, stat := 0 }
    let lo : Int := if sg then -2 ^ (w - 1) else 0
    let hi : Int := if sg then 2 ^ (w - 1) - 1 else 2 ^ w - 1
    let clamps (i : Instr) (z : Nat → Int) : Prop := gives i fun k =>
      { val := ofInt w (max lo (min hi (z k))), stat := if z k < lo ∨ hi < z k then 1 else 0 }
    let x (k : Nat) := intOf w sg (a k)
    let y (k : Nat) := intOf w sg (b k)
    wraps (.vadd o) (fun k => x k + y k) ∧ wraps (.vsub o) (fun k => x k - y k) ∧ wraps (.vmul o) (fun k => x k * y k)
    ∧ wraps (.vmulh o) (fun k => x k * y k / 2 ^ w)
    ∧ plain (.vmin o) (fun k => if y k < x k then b k else a k) ∧ plain (.vmax o) (fun k => if x k < y k then b k else a k)
    ∧ wraps (.vdiv o) (fun k => if b k = 0 then -1 else (x k).tdiv (y k))
    ∧ plain (.vrem o) (fun k => if b k = 0 then a k else ofInt w ((x k).tmod (y k)))
    ∧ plain (.vand o) (fun k => Nat.land (a k) (b k)) ∧ plain (.vor o) (fun k => Nat.lor (a k) (b k))
    ∧ plain (.vxor o) (fun k => Nat.xor (a k) (b k))
    ∧ plain (.vsll o) (fun k => a k * 2 ^ (b k % w) % 2 ^ w) ∧ wraps (.vsr o) (fun k => x k / 2 ^ (b k % w))
    ∧ clamps (.vsadd o) (fun k => x k + y k) ∧ clamps (.vssub o) (fun k => x k - y k)
    ∧ (s.clean o.m.toNat [(o.vd.toNat, wb)] = true → wraps (.vmac o) fun k => intOf w sg (d k) + x k * y k)

/-- Vector floating point on two or three operands (R127, R128): each active element is the scalar operation of the type, rounded in VCFG.FRM, with its flags in VSTAT. -/
def Obligations.VectorFloat : Prop :=
  ∀ (o : VOp) (s : State), s.ready = true →
    let wb := fpBytes o.t
    let f := Fmt.ofCode o.t.toNat
    let rm := s.vctxNow.rm
    s.vecCheck ((o.vd :: binSrcs o).map fun r => (r, 8 * wb)) false = none → s.clean o.m.toNat (srcsAt (binSrcs o) wb) = true →
    let a (i : Nat) := s.elem o.vs1 wb i
    let b (i : Nat) := s.second o wb i
    let d (i : Nat) := s.elem o.vd wb i
    let gives (i : Instr) (r : Nat → FRes) : Prop := exec i s = .next (s.wroteElems o.vd wb o.m.toNat fun k => EOut.ofF (r k))
    gives (.vfadd o) (fun k => addF f rm (a k) (b k)) ∧ gives (.vfsub o) (fun k => subF f rm (a k) (b k))
    ∧ gives (.vfmul o) (fun k => mulF f rm (a k) (b k)) ∧ gives (.vfdiv o) (fun k => divF f rm (a k) (b k))
    ∧ gives (.vfmin o) (fun k => minmaxF f false (a k) (b k)) ∧ gives (.vfmax o) (fun k => minmaxF f true (a k) (b k))
    ∧ (s.clean o.m.toNat [(o.vd.toNat, wb)] = true →
        gives (.vfma o) (fun k => fmaF f rm (a k) (b k) (d k)) ∧ gives (.vfnma o) fun k => fnmaF f rm (a k) (b k) (d k))

/-- Vector operations on one operand (R127 to R132): roots, sign operations, classes and conversions, each with its own destination width. -/
def Obligations.VectorConvert : Prop :=
  ∀ (o : VOp) (s : State), s.ready = true →
    let rm := s.vctxNow.rm
    let f := Fmt.ofCode o.t.toNat
    let src := (o.vs2.extractLsb' 0 3).toNat
    let sat := o.vs2.getLsbD 3
    let gives (i : Instr) (db sb : Nat) (bad : Bool) (r : Nat → Nat → EOut) : Prop :=
      s.vecCheck [(o.vd, 8 * db), (o.vs1, 8 * sb)] bad = none → s.clean o.m.toNat [(o.vs1.toNat, sb)] = true →
      exec i s = .next (s.wroteElems o.vd db o.m.toNat fun k => r k (s.elem o.vs1 sb k))
    let fb := fpBytes o.t
    let w := intWidth o.t.toNat
    let sw := intWidth src
    let z (a : Nat) := intOf sw (intSigned src) a
    gives (.vfsqrt o) fb fb false (fun _ a => EOut.ofF (sqrtF f rm a))
    ∧ gives (.vfrsqrt o) fb fb false (fun _ a => EOut.ofF (rsqrtF f rm a))
    ∧ gives (.vfabs o) fb fb false (fun _ a => { val := f.mag a, stat := 0 })
    ∧ gives (.vfneg o) fb fb false (fun _ a => { val := f.withSign (!f.sign a) (f.mag a), stat := 0 })
    ∧ gives (.vfclass o) 2 fb false (fun _ a => { val := classF f a, stat := 0 })
    ∧ gives (.vfcvt o) fb (fpWidth src / 8) false (fun _ a => EOut.ofF (cvtF f (Fmt.ofCode src) rm sat a))
    ∧ gives (.vf2i o) (intBytes o.t) (fpWidth src / 8) false (fun _ a =>
        let r := f2i (Fmt.ofCode src) rm w (intSigned o.t.toNat) a
        { val := ofInt w r.1, stat := orFlags 0 r.2 })
    ∧ gives (.vi2f o) fb (sw / 8) false (fun _ a => EOut.ofF (i2f f rm sat (z a)))
    ∧ gives (.viext o) (intBytes o.t) (sw / 8) false (fun _ a =>
        if sat then satOut w (intSigned o.t.toNat) (z a) else { val := ofInt w (z a), stat := 0 })
    ∧ (let from_ := if o.t.toNat ≤ 1 then 4 else if sat then 1 else 0
       let x := s.vctxNow
       gives (.vfcvtScaled o) fb (fpWidth from_ / 8)
         (decide (x.blk > 10) || (decide (x.vl > 0) && decide ((x.vl - 1) / 2 ^ x.blk > 511))) fun k a =>
          EOut.ofF (roundVal f rm (decide (o.t.toNat ≤ 1) && sat)
            (mulVal ((Fmt.ofCode from_).value a) (fp32.value (s.hart.scale src x.blk k)))))

/-- Vector compares (R126, R129): one bit of the destination mask for each element, 1 where the relation holds. -/
def Obligations.VectorCompare : Prop :=
  ∀ (o : VOp) (s : State), s.ready = true →
    let gives (i : Instr) (wb : Nat) (f : Nat → Nat → Bool × Word) : Prop :=
      s.vecCheck ((binSrcs o).map fun r => (r, 8 * wb)) false = none → s.clean o.m.toNat (srcsAt (binSrcs o) wb) = true →
      exec i s = .next (s.wroteBits o.vd.toNat wb o.m.toNat fun k => f (s.elem o.vs1 wb k) (s.second o wb k))
    let z (a : Nat) := intOf (intWidth o.t.toNat) (intSigned o.t.toNat) a
    let ints (i : Instr) (f : Int → Int → Bool) : Prop := gives i (intBytes o.t) fun a b => (f (z a) (z b), 0)
    let flts (i : Instr) (c : Cmp) : Prop := gives i (fpBytes o.t) fun a b =>
      let r := cmpF (Fmt.ofCode o.t.toNat) c a b
      (r.1, orFlags 0 r.2)
    ints (.vcmpeq o) (fun a b => decide (a = b)) ∧ ints (.vcmpne o) (fun a b => decide (a ≠ b))
    ∧ ints (.vcmplt o) (fun a b => decide (a < b)) ∧ ints (.vcmple o) (fun a b => decide (a ≤ b))
    ∧ flts (.vfcmpeq o) .eq ∧ flts (.vfcmplt o) .lt ∧ flts (.vfcmple o) .le

/-- Merges, moves and indices (R139, R140): VMERGE writes every element below VL, from the second operand where the mask is set; VMV and VID write the active ones; VMVX delivers one element, 0 with BADARG beyond VL. -/
def Obligations.VectorMoves : Prop :=
  ∀ (o : VOp) (s : State), s.ready = true →
    let wb := intBytes o.t
    let w := 8 * wb
    let chk (rs : List Reg) : Prop := s.vecCheck (rs.map fun r => (r, w)) false = none
    let gives (i : Instr) (mask : Nat) (f : Nat → Nat) : Prop :=
      exec i s = .next (s.wroteElems o.vd wb mask fun k => { val := f k, stat := 0 })
    let v := (s.readX o.vs2).toNat
    (chk (o.vd :: binSrcs o) → s.clean 0 (srcsAt (binSrcs o) wb) = true →
      gives (.vmerge o) 0 fun k => if s.hart.maskBit o.m.toNat k then s.second o wb k else s.elem o.vs1 wb k)
    ∧ (o.sc = 1 → chk [o.vd] → gives (.vmv o) o.m.toNat fun _ => v % 2 ^ w)
    ∧ (o.sc = 0 → chk [o.vd, o.vs1] → s.clean o.m.toNat [(o.vs1.toNat, wb)] = true → gives (.vmv o) o.m.toNat (s.elem o.vs1 wb))
    ∧ (chk [o.vd] → gives (.vid o) o.m.toNat fun k => k % 2 ^ w)
    ∧ (chk [o.vs1] → v < s.vctxNow.vl → vpoisoned s.vmem s.vctxNow.reg o.vs1.toNat wb v = false →
        exec (.vmvx o) s = .next (s.delivered o.vd (BitVec.ofInt 64 (intOf w (intSigned o.t.toNat) (s.elem o.vs1 wb v))) 0))
    ∧ (chk [o.vs1] → s.vctxNow.vl ≤ v → exec (.vmvx o) s = .next (s.delivered o.vd 0 0x100))

/-- What an element-wise instruction leaves in its destination group (R122): below VL an active element has its result, one masked off has 0 under MASKPOL 1 and is else as it was; elements from VL to the group's end are 0 under TAIL 1 unless VL is 0, and else as they were.
An element-wise instruction leaves every byte of the register store outside its destination group as it was (R122).
What writing mask bits leaves (R104, R126): bit i below VL is the result where active, 0 where masked off under MASKPOL 1, else as it was. -/
def Obligations.ElementLaws : Prop :=
  (
  ∀ (s : State) (vd : Reg) (sew mask g : Nat) (f : Nat → EOut) (i : Nat),
    s.Tables → s.hart.mode = .plain → s.hart.owner = s.cur → sew ≤ 3 →
    let wb := 2 ^ sew
    let x := s.vctxNow
    x.group (8 * wb) = some g → 0 < x.c → x.c ≤ 16 → vd.toNat + g ≤ 32 → x.vl ≤ x.capacity wb → i < x.capacity wb →
    (∀ k, (f k).val < 2 ^ (8 * wb)) →
    (s.wroteElems vd wb mask f).elem vd wb i =
      (if i < x.vl then
        (if s.hart.maskBit mask i then (f i).val else if x.maskz then 0 else s.elem vd wb i)
      else if x.tail ∧ x.vl ≠ 0 then 0 else s.elem vd wb i)
  )
  ∧ (
  ∀ (s : State) (vd : Reg) (sew mask g : Nat) (f : Nat → EOut) (k : Nat),
    s.Tables → s.hart.mode = .plain → s.hart.owner = s.cur → sew ≤ 3 →
    let wb := 2 ^ sew
    let x := s.vctxNow
    x.group (8 * wb) = some g → 0 < x.c → x.c ≤ 16 → x.vl ≤ x.capacity wb →
    k / Config.regStride < vd.toNat ∨ vd.toNat + g ≤ k / Config.regStride →
    (s.wroteElems vd wb mask f).vmem.byte k = s.vmem.byte k
  )
  ∧ (
  ∀ (s : State) (md wb mask : Nat) (f : Nat → Bool × Word) (i : Nat), 0 < md → md < 8 →
    let x := s.vctxNow
    (s.wroteBits md wb mask f).hart.maskBit md i =
      (if i < x.vl then (if s.hart.maskBit mask i then (f i).1 else if x.maskz then false else s.hart.maskBit md i)
      else if x.tail ∧ x.vl ≠ 0 ∧ i < x.capacity wb then false else s.hart.maskBit md i)
  )

/-! ### Masks, permutes and selection -/

/-- Reductions (R133, R134): the active elements, extended and combined, then the initial value where S is 1, to x[d]. -/
def Obligations.Reductions : Prop :=
  ∀ (o : VOp) (s : State), s.ready = true →
    let idx := s.indices o.m.toNat
    let gives (i : Instr) (wb : Nat) (f : List Nat → Word × Word) : Prop :=
      s.vecCheck [(o.vs1, 8 * wb)] false = none → s.clean o.m.toNat [(o.vs1.toNat, wb)] = true →
      let r := f (idx.map (s.elem o.vs1 wb))
      exec i s = .next (s.delivered o.vd r.1 r.2)
    let sg := intSigned o.t.toNat
    let ext (v : Nat) : Word := BitVec.ofInt 64 (intOf (intWidth o.t.toNat) sg v)
    let init : List Word := if o.sc = 1 then [s.readX o.vs2] else []
    let ints (i : Instr) (start : Word) (f : Word → Word → Word) : Prop :=
      gives i (intBytes o.t) fun l => ((l.map ext ++ init).foldl f start, 0)
    let least (b : Bool) : Word := redBound o b
    let acc := accFmt o.t.toNat
    let finit (w : Nat) : Option Nat := if o.sc = 1 then some ((s.readX o.vs2).toNat % 2 ^ w) else none
    let sums (i : Instr) (f : Fmt → List Nat → Option Nat → Nat × FFlags) : Prop := gives i (fpBytes o.t) fun l =>
      let r := f acc (widenAll o.t.toNat l).1 (finit acc.width)
      (wordOf r.1, orFlags 0 ((widenAll o.t.toNat l).2 ||| r.2))
    let picks (i : Instr) (larger : Bool) : Prop := gives i (fpBytes o.t) fun l =>
      let r := minmaxRed (Fmt.ofCode o.t.toNat) larger l (finit (Fmt.ofCode o.t.toNat).width)
      (wordOf r.1, orFlags 0 r.2)
    ints (.vredsum o) 0 (· + ·) ∧ ints (.vredor o) 0 (· ||| ·)
    ∧ ints (.vredmin o) (least false) (fun a b => if (if sg then a.toInt < b.toInt else a < b) then a else b)
    ∧ ints (.vredmax o) (least true) (fun a b => if (if sg then a.toInt < b.toInt else a < b) then b else a)
    ∧ sums (.vfredsum o) treeSum ∧ sums (.vfredosum o) orderedSum ∧ picks (.vfredmin o) false ∧ picks (.vfredmax o) true

/-- Masks (R136 to R138): each bit below VL is its function of the operands' bits, at the width of SEW; a count or a first index of the bits set in both masks goes to x[d].
Scale loads and mask loads and stores (R165, R166): with every check passed, QLDS loads one scale for each block of elements, widened to FP32; MLD takes the bits below VL from the bytes at its address, and MST stores them, zeros above VL in the last byte. -/
def Obligations.Masks : Prop :=
  (
  ∀ (o : VOp) (s : State), s.ready = true → s.vecCheck [] false = none →
    let a (k : Nat) := s.hart.maskBit o.vs1.toNat k
    let b (k : Nat) := s.hart.maskBit o.vs2.toNat k
    let x := s.vctxNow
    let bits (f : Nat → Bool) : Nat :=
      let v := (writeBits false (fun _ => true) (fun k => (f k, 0)) x.vl 0 (s.hart.mask o.vd.toNat, 0)).1
      if x.tail ∧ x.vl ≠ 0 then maskClear v x.vl (x.capacity (2 ^ x.sew)) else v
    let sets (i : Instr) (f : Nat → Bool) : Prop :=
      let t := s.vdone 4
      exec i s = .next { t with hart := { t.hart with masks := (s.hart.setMask o.vd.toNat (bits f)).masks } }
    let both := (List.range x.vl).filter fun k => a k && s.hart.maskBit o.m.toNat k
    sets (.mand o) (fun k => a k && b k) ∧ sets (.mor o) (fun k => a k || b k) ∧ sets (.mxor o) (fun k => a k != b k)
    ∧ sets (.mandn o) (fun k => a k && !b k) ∧ sets (.mset o) (fun k => decide (k < (s.readX o.vs2).toNat))
    ∧ exec (.mpopc o) s = .next (s.delivered o.vd (wordOf both.length) 0)
    ∧ exec (.mfirst o) s = .next (s.delivered o.vd (match both with
        | [] => -1
        | k :: _ => wordOf k) 0)
  )
  ∧ (
  ∀ (o : VOp) (s : State), s.ready = true →
    let b := s.readX o.vs1
    let st := s.readX o.vs2
    let x := s.vctxNow
    let bytes := List.range ((x.vl + 7) / 8)
    let addr (k : Nat) : Word := b + wordOf (k * 1)
    let qn := if o.t = 3 then 2 else 4
    let count := if x.vl = 0 then 0 else (x.vl - 1) / 2 ^ x.blk + 1
    (s.memCheck [] (decide (x.blk > 10) || decide (count > 512)) qn b st = none →
      let t := s.placed (.qlds o) 4 b st
      let a := t.accLoad Fates.own qn .strided fun k => b + wordOf k * st
      (∀ k, k < count → (a.check k).good = true) → exec (.qlds o) s = .next (loadScales a o (List.range count) t).vends)
    ∧ (s.vecCheck [] false = none →
        let t := s.placed (.mld o) 4 b 0
        let check (k : Nat) := t.elemCheck .read false 1 (addr k)
        (∀ k ∈ bytes, (check k).good = true) →
        let got (k : Nat) : Bool := match check (k / 8) with
          | .ok p l => (s.readAt l p.key 1).testBit (k % 8)
          | _ => false
        let v := (writeBits false (fun _ => true) (fun k => (got k, 0)) x.vl 0 (s.hart.mask o.vd.toNat, 0)).1
        let v := if x.tail ∧ x.vl ≠ 0 then maskClear v x.vl (x.capacity (2 ^ x.sew)) else v
        let u := bytes.foldl (fun u k => match check k with
          | .ok p l => u.visit (dieKey u.cur) p .read l
          | _ => u) t
        exec (.mld o) s = .next (State.vends { u with hart := u.hart.setMask o.vd.toNat v }))
    ∧ (s.vecCheck [] false = none →
        let t := s.placed (.mst o) 4 b 0
        let check (k : Nat) := t.elemCheck .write false 1 (addr k)
        (∀ k ∈ bytes, (check k).good = true) →
        let touched := bytes.foldl (fun u k => match check k with
          | .ok p l => u.visit (dieKey u.cur) p .write l
          | _ => u) t
        exec (.mst o) s = .next (bytes.foldl (fun u k => match check k with
          | .ok p l => u.place (agentNo u.cur .vector) l p.key 1
              (byteOf fun j => decide (8 * k + j < x.vl) && s.hart.maskBit o.vd.toNat (8 * k + j))
          | _ => u) touched).vends)
  )

/-- Permutes and slides (R143, R144): element i of VPERM is the element its index names, 0 with BADARG for an index not below VL; a slide up leaves the elements below its amount, a slide down fills with zeros.
Scan, compress, rank and sort (R141, R145, R149): running sums of the active elements; the active elements packed from element 0; how many lower indices are set in both masks; and the active indices in ascending order of their elements, equal ones by index, before the others. -/
def Obligations.Permutes : Prop :=
  (
  ∀ (o : VOp) (s : State), s.ready = true → s.clean 0 [(o.vs1.toNat, intBytes o.t)] = true →
    let wb := intBytes o.t
    let w := 8 * wb
    let vl := s.vctxNow.vl
    let k := (s.readX o.vs2).toNat
    let a (i : Nat) := s.elem o.vs1 wb i
    let j (i : Nat) := if o.sc = 1 then k else s.elem o.vs2 4 i
    (s.vecCheck ([(o.vd, w), (o.vs1, w)] ++ (if o.sc = 1 then [] else [(o.vs2, 32)])) false = none →
      (o.sc = 1 ∨ s.clean o.m.toNat [(o.vs2.toNat, 4)] = true) →
      exec (.vperm o) s = .next (s.wroteElems o.vd wb o.m.toNat fun i =>
        if j i < vl then { val := a (j i), stat := 0 } else { val := 0, stat := 0x100 }))
    ∧ (s.vecCheck [(o.vd, w), (o.vs1, w)] false = none →
        exec (.vslideup o) s = .next (s.wroteFrom o.vd wb o.m.toNat k fun i => { val := a (i - k), stat := 0 })
        ∧ exec (.vslidedn o) s = .next (s.wroteFrom o.vd wb o.m.toNat 0 fun i =>
            { val := if i + k < vl then a (i + k) else 0, stat := 0 }))
  )
  ∧ (
  ∀ (o : VOp) (s : State), s.ready = true →
    let wb := intBytes o.t
    let cb := if o.sc = 1 then fpBytes o.t else wb
    let idx := s.indices o.m.toNat
    let init : Option Nat := if o.vs2 = 0 then none
      else some ((s.readX o.vs2).toNat % 2 ^ (if o.sc = 1 then (accFmt o.t.toNat).width else 8 * cb))
    let scan := scanFrom (scanStep o) init (idx.map fun i => (i, s.elem o.vs1 cb i))
    let both := (List.range s.vctxNow.vl).filter fun k => s.hart.maskBit o.vs1.toNat k && s.hart.maskBit o.m.toNat k
    let rest := (List.range s.vctxNow.vl).filter fun k => !s.hart.maskBit o.m.toNat k
    (s.vecCheck [(o.vd, 8 * cb), (o.vs1, 8 * cb)] false = none → s.clean o.m.toNat [(o.vs1.toNat, cb)] = true →
      exec (.vscan o) s = .next (s.wroteElems o.vd cb o.m.toNat (lookOut scan)))
    ∧ (s.vecCheck [(o.vd, 8 * wb), (o.vs1, 8 * wb)] false = none → s.clean o.m.toNat [(o.vs1.toNat, wb)] = true →
      exec (.vcompress o) s = .next (s.wroteList o.vd wb (idx.map (s.elem o.vs1 wb)) idx.length))
    ∧ (s.vecCheck [(o.vd, 8 * wb)] false = none →
      exec (.vrank o) s = .next (s.wroteElems o.vd wb o.m.toNat fun i =>
        { val := (both.filter (· < i)).length % 2 ^ (8 * wb), stat := 0 }))
    ∧ (s.vecCheck [(o.vd, 32), (o.vs1, 8 * cb)] false = none → s.clean o.m.toNat [(o.vs1.toNat, cb)] = true →
      exec (.vsortk o) s = .next (s.wroteList o.vd 4 (sortIdx (fun i => selKey o (s.elem o.vs1 cb i)) idx ++ rest) s.vctxNow.vl))
  )

/-- Selection (R146, R147): the first of the greatest or least active elements goes to x[d] and its value to x[d + 1], and its mask bit is cleared; with none active, all ones, the empty value and EMPTY. -/
def Obligations.Selections : Prop :=
  ∀ (o : VOp) (s : State), s.ready = true →
    let wb := if o.sc = 1 then fpBytes o.t else intBytes o.t
    s.vecCheck [(o.vs1, 8 * wb)] false = none → s.clean o.m.toNat [(o.vs1.toNat, wb)] = true →
    let pairs := (s.indices o.m.toNat).map fun i => (i, s.elem o.vs1 wb i)
    let gives (i : Instr) (max : Bool) : Prop :=
      let t := s.vdone 4
      match selBest o max pairs with
      | none =>
        let t := (t.writeX o.vd (-1)).writeX (o.vd + 1) (wordOf (emptyVal o max))
        exec i s = .next { t with hart := { t.hart with ctl := { t.hart.ctl with vstat := t.hart.ctl.vstat ||| 0x80 } } }
      | some (j, v) =>
        let t := (t.writeX o.vd (wordOf j)).writeX (o.vd + 1) (wordOf v)
        exec i s = .next { t with hart := t.hart.setMask o.m.toNat (maskPut (t.hart.mask o.m.toNat) j false) }
    gives (.vmaxi o) true ∧ gives (.vmini o) false

/-- An integer sum reduction is the sum of its elements modulo 2^64, whatever their order and their mask (R133).
The order of VSORTK (R149): its indices are the active ones, each once, their elements ascending, and equal elements by index.
What a selection picks (R147): a pair of the list, no other has a better key, and none before it an equal one. -/
def Obligations.ListLaws : Prop :=
  (
  ∀ (o : VOp) (s : State), s.ready = true → o.sc = 0 → s.vecCheck [(o.vs1, 8 * intBytes o.t)] false = none →
    s.clean o.m.toNat [(o.vs1.toNat, intBytes o.t)] = true →
    let terms := (List.range s.vctxNow.vl).map fun i =>
      if s.hart.maskBit o.m.toNat i then intOf (8 * intBytes o.t) (intSigned o.t.toNat) (s.elem o.vs1 (intBytes o.t) i) else 0
    exec (.vredsum o) s = .next (s.delivered o.vd (BitVec.ofInt 64 terms.sum) 0)
  )
  ∧ (
  ∀ (key : Nat → Int) (n : Nat) (act : Nat → Bool),
    let l := sortIdx key ((List.range n).filter act)
    List.Perm l ((List.range n).filter act)
      ∧ l.Pairwise fun i j => key i < key j ∨ (key i = key j ∧ i < j)
  )
  ∧ (
  ∀ (o : VOp) (max : Bool) (l : List (Nat × Nat)) (p : Nat × Nat), selBest o max l = some p →
    ∃ before after, l = before ++ p :: after
      ∧ (∀ q ∈ before, if max then selKey o q.2 < selKey o p.2 else selKey o p.2 < selKey o q.2)
      ∧ ∀ q ∈ after, if max then selKey o q.2 ≤ selKey o p.2 else selKey o p.2 ≤ selKey o q.2
  )

/-- The vector butterfly stage (R150): element i becomes the sum of two products, of its own and its partner's element with the pair of weights 2i and 2i + 1; a stride that is no power of two writes nothing and raises BADARG.
Bit-slice packing (R151): plane p of VBSLICE holds bit p of each element, clamped to the planes' width, and VBUNSLICE puts the bits of the planes together again. -/
def Obligations.ButterflyAndSlices : Prop :=
  (
  ∀ (o : VOp) (s : State), s.ready = true →
    let wb := fpBytes o.t
    let w := 8 * wb
    let x := s.vctxNow
    let f := Fmt.ofCode o.t.toNat
    let st := (s.readX o.vs2).toNat
    s.vecCheck [(o.vd, w), (o.vs1, 2 * w)] (match x.group w with
      | some g => decide (2 * g > 8)
      | none => true) = none →
    ((∀ n, st ≠ 2 ^ n) → exec (.vbfly o) s = .next (s.delivered 0 0 0x100))
    ∧ (∀ n, st = 2 ^ n →
        (∀ j, vpoisoned s.vmem x.reg o.vs1.toNat wb j = false ∧ vpoisoned s.vmem x.reg o.vd.toNat wb j = false) →
        exec (.vbfly o) s = .next (s.wroteElems o.vd wb o.m.toNat fun i =>
          let p := Nat.xor i st
          let wt (j : Nat) := f.value (s.elem o.vs1 wb j)
          let d (j : Nat) := f.value (s.elem o.vd wb j)
          let xp := if p < x.vl then d p else .fin false 0 0
          let r := roundVal f x.rm false (sumVal x.rm [mulVal (wt (2 * i)) (d i), mulVal (wt (2 * i + 1)) xp])
          { val := r.bits, stat := orFlags (if p < x.vl then 0 else 0x100) r.flags }))
  )
  ∧ (
  ∀ (o : VOp) (s : State), s.ready = true →
    let wb := intBytes o.t
    let x := s.vctxNow
    let w := (o.vs2.extractLsb' 0 4).toNat + 1
    let len := (x.vl + 63) / 64 * 64
    let over_ := decide (w * len > 8 * x.capacity 1)
    let sg := intSigned o.t.toNat
    let idx := s.indices o.m.toNat
    let clamp (i : Nat) := clampInt w sg (intOf (8 * wb) sg (s.elem o.vs1 wb i))
    let bitAt (q : Nat) : Bool :=
      let i := q % len
      decide (i < x.vl) && s.hart.maskBit o.m.toNat i && (ofInt w (clamp i).1).testBit (q / len)
    let plane (q : Nat) : Bool := (s.elem o.vs1 1 (q / 8)).testBit (q % 8)
    (s.vecCheck [(o.vd, 8), (o.vs1, 8 * wb)] over_ = none → s.clean o.m.toNat [(o.vs1.toNat, wb)] = true →
      let t := s.wroteList o.vd 1 ((List.range (w * len / 8)).map fun b => byteOf fun j => bitAt (8 * b + j)) (w * len / 8)
      exec (.vbslice o) s = .next { t with hart := { t.hart with ctl := { t.hart.ctl with
        vstat := t.hart.ctl.vstat ||| if idx.any fun i => (clamp i).2 then 1 else 0 } } })
    ∧ (s.vecCheck [(o.vd, 8 * wb), (o.vs1, 8)] over_ = none → (∀ j, vpoisoned s.vmem x.reg o.vs1.toNat 1 j = false) →
      exec (.vbunslice o) s = .next (s.wroteElems o.vd wb o.m.toNat fun i =>
        let v := (List.range w).foldl (fun a p => a + (if plane (p * len + i) then 2 ^ p else 0)) 0
        { val := ofInt (8 * wb) (intOf w sg v), stat := 0 }))
  )

/-! ### Vector memory -/

/-- Vector loads (R154, R156, R158): with elements homed here and every check passed, VLD, VLDS, VLDAV, VLDG and VLDXF load their active elements from element 0 and VLDX and VLDXU from ESTART, each from its own address; masked-off and tail elements follow MASKPOL and TAIL, and ESTART becomes 0. That a load runs in the step of its issue, and whole before the hart's next one, is the model's eager schedule (logs 4, 5).
Vector loads with elements homed in other packages (R385, R386): with a route to each, a piece goes to every such home and the load stays at the queue's head; once every piece is settled, and every element passes its checks with its piece's fate, the load completes as one homed here, and leaves the queue.
The chunk gather VLDXC (R281): it starts by clearing the completion mask below VL and stays at the queue's head with no chunk set and a delivery to come; VL 0 completes at once; a delivery loads the elements of an open chunk and sets their completion bits; with every chunk set it completes and leaves the queue, its tail zeroed by TAIL. That the lowest open chunk comes first, and in one move, is the model's eager schedule (logs 4, 5). -/
def Obligations.VectorLoads : Prop :=
  (
  ∀ (o : VOp) (s : State), s.ready = true →
    let wb := intBytes o.t
    let b := s.readX o.vs1
    let st := s.readX o.vs2
    let x := s.vctxNow
    let mask := o.m.toNat
    let active (lo : Nat) := activeFrom (s.hart.maskBit mask) lo (x.vl - lo)
    let unit (k : Nat) : Word := b + wordOf (k * wb)
    let strided (k : Nat) : Word := b + wordOf k * st
    let indexed (k : Nat) : Word := b + wordOf (s.elem o.vs2 4 k * wb)
    let able (t : State) (a : VAcc) (lo : Nat) : Prop :=
      t.homes a.addr (active lo) = [] ∧ ∀ k ∈ active lo, (a.check k).good = true
    let acc (i : Instr) (xb : Word) (hot : Hot) (addr : Nat → Word) : VAcc :=
      (s.placed i 4 b xb).accLoad Fates.own wb hot addr
    let accX (i : Instr) : VAcc := (s.placed i 4 b 0).accLoadX Fates.own o (s.entryOf i b 0)
    let fof (i : Instr) (xb : Word) (a : VAcc) (addr : Nat → Word) : Prop :=
      able (s.placed i 4 b xb) a 0 →
        a.addr = addr ∧ exec i s = .next ((s.placed i 4 b xb).fofAll o (s.entryOf i b xb) a).vends
    let precise (i : Instr) (a : VAcc) : Prop :=
      let lo := s.hart.ctl.estart.toNat
      able (s.placed i 4 b 0) a lo →
        let t := (loadElems a x.reg o.vd.toNat (active lo) (s.placed i 4 b 0)).zeroMasked x o.vd.toNat wb mask lo (x.vl - lo)
        a.addr = indexed ∧ exec i s = .next (t.setVmem (x.tailZero t.vmem o.vd.toNat wb x.vl)).vends
    (s.memCheck [(o.vd, 8 * wb)] false wb b 0 = none →
      fof (.vld o) 0 (acc (.vld o) 0 .unit unit) unit ∧ fof (.vldav o) 0 (acc (.vldav o) 0 .unit unit) unit
      ∧ fof (.vldg o) 0 (acc (.vldg o) 0 .unit unit) unit)
    ∧ (s.memCheck [(o.vd, 8 * wb)] false wb b st = none → fof (.vlds o) st (acc (.vlds o) st .strided strided) strided)
    ∧ (s.vecCheck [(o.vd, 8 * wb), (o.vs2, 32)] (s.overlaps o) = none →
        fof (.vldxf o) 0 (accX (.vldxf o)) indexed ∧ precise (.vldx o) (accX (.vldx o)) ∧ precise (.vldxu o) (accX (.vldxu o)))
  )
  ∧ (
  ∀ (o : VOp) (s : State) (e : QEntry), s.headAlone e →
    let wb := intBytes o.t
    let x := s.vctx e
    let own := dieKey s.cur
    let remote (i : Instr) (lo : Nat) (addr : Nat → Word) (acc : Fates → VAcc) (loaded : VAcc → List Nat → State) : Prop :=
      let idx := activeFrom (s.hart.maskBit o.m.toNat) lo (x.vl - lo)
      let hs := s.homes addr idx
      e.instr = i → hs ≠ [] →
      (e.pieces = [] → s.dieLinkUp (own / 4) (own % 4) 4 = true → (∀ h ∈ hs, (s.route (own / 4) (h.2.1 / 4)).isSome = true) →
        ∃ t f, exec .queueHeadExecute s = .next t ∧ t.hart.queue = [f] ∧ f.instr = i
          ∧ (∀ q, (∃ r ∈ f.pieces, r.home = q) ↔ ∃ h ∈ hs, h.2.1 / 4 = q)
          ∧ (∀ r ∈ f.pieces, r.settled = false ∧ pieceEvent s.cur r.home ∈ t.events)
          ∧ t.mem = s.mem ∧ t.hart.x = s.hart.x ∧ t.hart.pc = s.hart.pc)
      ∧ (e.pieces ≠ [] → e.pieces.all Piece.settled = true →
          let a := acc (pieceFate e.pieces hs)
          (∀ k ∈ idx, (a.check k).good = true) → exec .queueHeadExecute s = .next (loaded a idx).vends)
    let fof (i : Instr) (hot : Hot) (addr : Nat → Word) : Prop :=
      remote i e.p addr (fun f => s.accLoad f wb hot addr) fun a _ => s.fofAll o e a
    let precise (i : Instr) : Prop :=
      remote i (s.startAt e) (s.indexAddr o e) (fun f => s.accLoadX f o e) fun a idx =>
        let t := (loadElems a x.reg o.vd.toNat idx s).zeroMasked x o.vd.toNat wb o.m.toNat (s.startAt e) (x.vl - s.startAt e)
        t.setVmem (x.tailZero t.vmem o.vd.toNat wb x.vl)
    fof (.vld o) .unit (addrUnit e wb) ∧ fof (.vldav o) .unit (addrUnit e wb) ∧ fof (.vldg o) .unit (addrUnit e wb)
    ∧ fof (.vlds o) .strided (addrStride e)
    ∧ remote (.vldxf o) e.p (s.indexAddr o e) (fun f => s.accLoadX f o e) (fun a _ => s.fofAll o e a)
    ∧ precise (.vldx o) ∧ precise (.vldxu o)
  )
  ∧ (
  ∀ (o : VOp) (s : State),
    (s.ready = true → s.vecCheck [(o.vd, 8 * intBytes o.t), (o.vs2, 32)] (s.overlaps o) = none →
      let i : Instr := .vldxc o
      let b := s.readX o.vs1
      let x := s.vctxNow
      let t := s.placed i 4 b 0
      let e0 := s.entryOf i b 0
      let u := t.startMask o x (intBytes o.t)
      let a := u.accLoadX Fates.own o (s.entryOf i b 0)
      (x.vl = 0 → exec i s = .next u.vends)
      ∧ (0 < x.vl → u.homes (u.indexAddr o (s.entryOf i b 0)) (List.range x.vl) = [] → (a.check 0).good = true →
          exec i s = .next (State.pushOnce (u.setFront { e0 with begun := true, chunks := some 0, pages := u.leaves a 0 (List.range x.vl) })
            { kind := .chunkDelivered, arg := { EvArg.none with idx := s.cur } })))
    ∧ (∀ (e : QEntry) (done : Nat), s.headAlone e → e.instr = .vldxc o → e.chunks = some done → done + 1 = 2 ^ chunkCount e.vl →
        exec .queueHeadExecute s = .next (s.setVmem ((s.vctx e).tailZero s.vmem o.vd.toNat (intBytes o.t) e.vl)).vends)
    ∧ ∀ (e : QEntry) (q : List QEntry) (done c : Nat) (rest : List Nat), s.arg.idx = s.cur → s.eager = true → s.hart.queue = e :: q →
        e.instr = .vldxc o → e.chunks = some done → s.hart.frozen = false → e.pieces = [] → e.p = 0 →
        ((List.range (((s.vctx e).vl + 63) / 64)).filter fun k => !done.testBit k) = c :: rest →
        let u := s.nextFree
        let a := u.accLoadX Fates.own o e
        let es := ((List.range 64).map (64 * c + ·)).filter (· < (s.vctx e).vl)
        (∀ k ∈ es, (a.check k).good = true) →
        let t := loadElems a (s.vctx e).reg ((s.vctx e).dreg o.vd) es
          (u.setFront { e with chunks := some (done + 2 ^ c), pages := u.leaves a (Kind.touches .read) es })
        let v := es.foldl (fun v k => maskPut v k true) (t.hart.mask o.m.toNat)
        exec .chunkDelivered s = .next { t with hart := t.hart.setMask o.m.toNat v }
  )

/-- Vector stores (R154, R158, R162): with every check passed, the active elements from ESTART are stored at their addresses in element order, those of VSTXU in any order; no register changes, and ESTART becomes 0.
Combining scatters (R163, R164): with every check passed and nothing poisoned, each address is updated once with its elements combined in ascending index; the order of the addresses is open (log 7). -/
def Obligations.VectorStores : Prop :=
  (
  ∀ (o : VOp) (s : State), s.ready = true →
    let wb := intBytes o.t
    let b := s.readX o.vs1
    let st := s.readX o.vs2
    let lo := s.hart.ctl.estart.toNat
    let active := activeFrom (s.hart.maskBit o.m.toNat) lo (s.vctxNow.vl - lo)
    let unit (k : Nat) : Word := b + wordOf (k * wb)
    let strided (k : Nat) : Word := b + wordOf k * st
    let stores (i : Instr) (xb : Word) (a : VAcc) (order : List Nat → List Nat) : Prop :=
      (∀ k ∈ active, (a.check k).good = true) →
        exec i s = .next ((storeElems a s.vctxNow.reg o.vd.toNat s.vmem (order active) (s.placed i 4 b xb)).nextFree).vends
    let acc (i : Instr) (xb : Word) (hot : Hot) (addr : Nat → Word) : VAcc :=
      (s.placed i 4 b xb).accStore o (s.entryOf i b xb) hot addr
    let accX (i : Instr) : VAcc := (s.placed i 4 b 0).accStoreX o (s.entryOf i b 0) wb
    (s.memCheck [(o.vd, 8 * wb)] false wb b 0 = none → stores (.vst o) 0 (acc (.vst o) 0 .unit unit) id)
    ∧ (s.memCheck [(o.vd, 8 * wb)] false wb b st = none → stores (.vsts o) st (acc (.vsts o) st .strided strided) id)
    ∧ (s.vecCheck [(o.vd, 8 * wb), (o.vs2, 32)] false = none → stores (.vstx o) 0 (accX (.vstx o)) id
        ∧ stores (.vstxu o) 0 (accX (.vstxu o)) (sortIdx fun k => (Config.freeChoice s.free k : Int)))
  )
  ∧ (
  ∀ (o : VOp) (s : State), s.ready = true →
    let wb := if o.sc = 1 then fpBytes o.t else intBytes o.t
    let b := s.readX o.vs1
    let lo := s.hart.ctl.estart.toNat
    let active := activeFrom (s.hart.maskBit o.m.toNat) lo (s.vctxNow.vl - lo)
    let f := Fmt.ofCode o.t.toNat
    let w := intWidth o.t.toNat
    let sg := intSigned o.t.toNat
    s.vecCheck [(o.vd, 8 * wb), (o.vs2, 32)] false = none →
    let scatters (i : Instr) (op : Nat → Nat → Nat) : Prop :=
      let t := s.placed i 4 b 0
      let a := t.accStoreX o (s.entryOf i b 0) wb
      let gs := byAddr a active []
      let order := (sortIdx (fun k => (Config.freeChoice s.free k : Int)) (List.range gs.length)).filterMap fun k => gs[k]?
      (∀ k ∈ active, (a.check k).good = true) →
      (∀ g ∈ gs, s.pageHolds g.key = false ∧ s.mem.poisoned g.key wb = false) →
        exec i s = .next ((order.foldl (fun u g => u.updateAt wb op (s.elem o.vd wb) s.free g) (performAll .write a active t)).nextFree).vends
    scatters (.vstxadd o) (fun p q => if o.sc = 1 then (addF f .rne p q).bits else (p + q) % 2 ^ w)
    ∧ scatters (.vstxmax o) (fun p q => if o.sc = 1 then (minmaxF f true p q).bits else if intOf w sg p < intOf w sg q then q else p)
    ∧ scatters (.vstxmin o) (fun p q => if o.sc = 1 then (minmaxF f false p q).bits else if intOf w sg q < intOf w sg p then q else p)
  )

/-- What loading elements leaves (R104, R156, R158): each element has the bytes of its place, a byte of the register store in none of them is as it was, and memory is as it was where no page's bits are to be set. A fault-only-first load without a fault besides leaves the elements masked off as MASKPOL says, and those from VL to the group's end as TAIL says.
What storing elements leaves (R158): at places that do not overlap, each has its element's bytes, and a byte of memory in none of them is as it was; for places without a page to count, in a slate. -/
def Obligations.ContentLaws : Prop :=
  (
  ∀ (a : VAcc) (s : State) (p : Nat → Place) (l : Nat → Option LeafAt),
    s.Tables → s.hart.owner = s.cur → (∃ sew, sew ≤ 3 ∧ a.wb = 2 ^ sew) →
    (∀ (reg d : Nat) (idx : List Nat), 0 < reg → reg % 8 = 0 → reg ≤ Config.regStride → idx.Nodup → (∀ k ∈ idx, a.check k = .ok (p k) (l k)) →
      let t := loadElems a reg d idx s
      (∀ k ∈ idx, velem t.vmem reg d a.wb k = s.readAt (l k) (p k).key a.wb % 2 ^ (8 * a.wb))
      ∧ ((∀ k ∈ idx, l k = none) → t.mem = s.mem)
      ∧ ∀ q, (∀ k ∈ idx, q < vkey reg d (k * a.wb) ∨ vkey reg d (k * a.wb) + a.wb ≤ q) → t.vmem.byte q = s.vmem.byte q)
    ∧ ∀ (o : VOp) (e : QEntry) (g i : Nat), s.hart.mode = .plain → s.hart.maskPois = [] → e.p = 0 →
        let x := s.vctx e
        x.group (8 * a.wb) = some g → 0 < x.c → x.c ≤ 16 → o.vd.toNat + g ≤ 32 → x.vl ≤ x.capacity a.wb → i < x.capacity a.wb →
        (∀ k, k < x.vl → s.hart.maskBit o.m.toNat k = true → a.check k = .ok (p k) (l k)) →
        velem (s.fofAll o e a).vmem x.reg o.vd.toNat a.wb i =
          (if i < x.vl then
            (if s.hart.maskBit o.m.toNat i then s.readAt (l i) (p i).key a.wb % 2 ^ (8 * a.wb)
              else if x.maskz then 0 else velem s.vmem x.reg o.vd.toNat a.wb i)
          else if x.tail ∧ x.vl ≠ 0 then 0 else velem s.vmem x.reg o.vd.toNat a.wb i)
  )
  ∧ (
  ∀ (a : VAcc) (s : State) (reg n : Nat) (m : Memory) (idx : List Nat) (p : Nat → Place),
    s.mem.wf = true → s.eager = true → 0 < a.wb → idx.Nodup →
    (∀ k ∈ idx, a.check k = .ok (p k) none ∧ s.holds (agentNo s.cur .vector) (p k).key a.wb = false) →
    (∀ k ∈ idx, ∀ j ∈ idx, k ≠ j → (p k).key + a.wb ≤ (p j).key ∨ (p j).key + a.wb ≤ (p k).key) →
    let t := storeElems a reg n m idx s
    (∀ k ∈ idx, t.mem.read (p k).key a.wb = velem m reg n a.wb k)
    ∧ (∀ q, (∀ k ∈ idx, q < (p k).key ∨ (p k).key + a.wb ≤ q) → t.mem.byte q = s.mem.byte q)
    ∧ t.hart = s.hart
  )

/-! ### The matrix unit -/

/-- Where a matrix instruction traps, at user level (R110, R173, R176, R178, R188, R192): at issue ILLEGAL for an MLEN of 0 or above 64, then NO_LEASE where it names a vector register or a column mask without a lease, then in pipeline mode ROLE_REG for a register outside the role's partition that is no ring, then MISALIGN_ISSUE with the base for a tile's base or stride that is no multiple of the width, or an area of MSAVE or MLOAD that is not aligned to 64; and in the queue NO_TILE, with the lowest tile named that is not attached, before everything else found there.
Attaching and releasing tiles (R169 to R171): with none attached, no request waiting, tiles enough and room in the power budget, MATT takes up to its maximum, zeroed, under a hall pass, and x[xs] has their number; with tiles attached it changes nothing but x[xs] and BADARG; MREL gives tiles and hall pass back.
MSETLEN, BSSET and BSGET (R176, R206): MLEN becomes the immediate or x[xs], at most 64, and 0 raises BADARG; a stride register is written with its reserved bits clear, or read.
MZERO (R191): every active entry of its tiles becomes 0, and every other entry of every tile is as it was. -/
def Obligations.TilesAndRegisters : Prop :=
  (
  ∀ (o : DOp) (s : State), s.plainUser = true → s.setlenQueued = false →
    let mlen := s.hart.mlen
    let b := s.readX o.xs
    let w := tileBytes o.tt.toNat
    let alone (v : Reg) : Prop := 28 ≤ v.toNat ∨
      (if s.hart.role = 0 then v.toNat < 8 else if s.hart.role = 1 then 8 ≤ v.toNat ∧ v.toNat < 24 else 24 ≤ v.toNat)
    let atIssue (i : Instr) (cause : Nat) (va info : Word) : Prop := exec i s = .next (s.trapped
      { cause := cause, src := 0, slot := 0, fb := s.hart.pc, va := va, info := info } s.hart.pc)
    let illegal (len : Bool) : Prop := len = true ∧ (mlen = 0 ∨ 64 < mlen)
    let noLease (rs : List Reg) (cm : Bool) : Prop := (rs ≠ [] ∨ (cm = true ∧ o.cm ≠ 0)) ∧ s.clusters = 0
    let badRole (rs : List Reg) : Prop := s.hart.mode = .pipeline ∧ ∃ v ∈ rs, ¬ alone v
    let passes (len : Bool) (rs : List Reg) (cm : Bool) : Prop := ¬ illegal len ∧ ¬ noLease rs cm ∧ ¬ badRole rs
    let issues (i : Instr) (len : Bool) (rs : List Reg) (cm : Bool) : Prop :=
      (illegal len → atIssue i 1 0 (instrBits i)) ∧ (¬ illegal len → noLease rs cm → atIssue i 9 0 (instrBits i))
      ∧ (¬ illegal len → ¬ noLease rs cm → badRole rs → atIssue i 10 0 (instrBits i))
    let noTile (i : Instr) (len : Bool) (rs : List Reg) (cm : Bool) (xa xb : Word) (n : Nat) : Prop :=
      passes len rs cm → s.matReady = true → s.hart.mat.tiles < o.acd.toNat + n →
        let t := (s.mplaced i xa xb).setFront { s.entryOf i xa xb with begun := true }
        exec i s = .next (t.trapped { cause := 11, src := 2, slot := 0, fb := s.hart.pc, va := 0, info := wordOf (max o.acd.toNat s.hart.mat.tiles) }
          (s.hart.pc + 8))
    let both (i : Instr) (len : Bool) (rs : List Reg) (xa : Word) (n : Nat) : Prop := issues i len rs true ∧ noTile i len rs true xa 0 n
    let k := tileCount o.tt.toNat
    let sp : Reg := o.imm.extractLsb' 0 5
    both (.mzero o) true [] 0 ((o.aux.toNat + 1) * k)
    ∧ (∀ i ∈ [Instr.opadd o, .opsub o, .opaddQ o], both i true [o.va, o.vb] 0 k) ∧ both (.opaddSp o) true [o.va, o.vb, sp] 0 k
    ∧ both (.opaddBs o) true [o.va, o.vb] 0 1 ∧ both (.mgrp o) true [o.va] b k ∧ both (.mgrpQ o) true [o.va] b k
    ∧ both (.mrdv o) (o.aux.getLsbD 0) [o.va] b k ∧ both (.mwrv o) (o.aux.getLsbD 0) [o.va] b k
    ∧ (∀ i ∈ [Instr.mldt o, .mldtFf o, .mstt o],
        issues i true [] true
        ∧ (passes true [] true → b.toNat % w ≠ 0 ∨ (s.readX (o.xs + 1)).toNat % w ≠ 0 → atIssue i 4 b 0)
        ∧ (b.toNat % w = 0 → (s.readX (o.xs + 1)).toNat % w = 0 → noTile i true [] true b (s.readX (o.xs + 1)) k))
    ∧ (∀ i ∈ [Instr.bst o, .bchain o],
        issues i true [] false ∧ (s.vctxNow.blk ≤ 10 → noTile i true [] false 0 0 (2 ^ o.aux.toNat)))
    ∧ ∀ i ∈ [Instr.msave o, .mload o], b.toNat % 64 ≠ 0 → atIssue i 4 b 0
  )
  ∧ (
  ∀ (o : DOp) (s : State), s.matReady = true →
    let fk := formKey s.cur
    let dk := dieKey s.cur
    let f := s.form fk
    let n := s.hart.mat.tiles
    (n ≠ 0 → exec (.matt o) s = .next (State.writeX (State.orMstat (s.mplaced (.matt o) 0 0) 0x200) o.xs (wordOf n)).mends)
    ∧ (n = 0 → s.hart.mat.asked = false → s.hart.mat.reply = none → f.tileWait = [] → o.aux.toNat + 1 ≤ f.tiles →
        (s.die dk).waiting = [] → 4700 + (s.die dk).granted ≤ (s.die dk).budget →
        let k := min f.tiles (o.imm.extractLsb' 0 5).toNat
        ∃ t, exec (.matt o) s = .next t ∧ t.hart.mat.tiles = k ∧ t.hart.mat.pass = true
          ∧ t.readX o.xs = (if o.xs = 0 then 0 else wordOf k) ∧ (∀ a i j, t.hart.mat.entry a i j = 0)
          ∧ t.hart.pc = s.hart.pc + 8 ∧ t.hart.queue = [] ∧ t.mem = s.mem)
    ∧ (∃ t, exec .mrel s = .next t ∧ t.hart.mat.tiles = 0 ∧ t.hart.mat.pass = false ∧ (∀ a i j, t.hart.mat.entry a i j = 0)
          ∧ t.hart.pc = s.hart.pc + 8 ∧ t.hart.queue = [] ∧ t.hart.x = s.hart.x ∧ t.mem = s.mem)
  )
  ∧ (
  ∀ (o : DOp) (s : State), s.matReady = true →
    let v := if o.xs = 0 then o.imm.toNat else (s.readX o.xs).toNat
    let n := (o.imm.extractLsb' 0 4).toNat
    let len := s.mplaced (.msetlen o) (s.readX o.xs) 0
    (v = 0 → exec (.msetlen o) s = .next (len.orMstat 0x200).mends)
    ∧ (v ≠ 0 → exec (.msetlen o) s =
        .next (State.mends { len with hart := { len.hart with ctl := { len.hart.ctl with mlen := wordOf (min v 64) } } }))
    ∧ (∃ t, exec (.bsset o) s = .next t ∧ (∀ k, k < 16 → t.hart.mat.stride k =
          if k = n then s.readX o.xs &&& ~~~0xFFFFF800 else s.hart.mat.stride k) ∧ t.hart.pc = s.hart.pc + 8 ∧ t.hart.x = s.hart.x)
    ∧ exec (.bsget o) s = .next (State.writeX (s.mplaced (.bsget o) 0 0) o.xs (s.hart.mat.stride n)).mends
  )
  ∧ (
  ∀ (o : DOp) (s : State), s.matReady = true → s.Tables →
    let n := (o.aux.toNat + 1) * if o.tt = 5 then 2 else 1
    s.matIssue true [] o.cm.toNat = none → o.acd.toNat + n ≤ s.hart.mat.tiles →
    ∃ t, exec (.mzero o) s = .next t ∧ t.hart.pc = s.hart.pc + 8 ∧ t.mem = s.mem ∧ t.hart.x = s.hart.x
      ∧ ∀ a i j, i < 64 → j < 64 → t.hart.mat.entry a i j =
        if o.acd.toNat ≤ a ∧ a < o.acd.toNat + n ∧ i < s.hart.mlen ∧ s.hart.maskBit o.cm.toNat j = true then 0
        else s.hart.mat.entry a i j
  )

/-- Outer products (R179 to R182): over operands and entries free of poison, each active entry gains, or for OPSUB loses, the exact sum of the products of its row and its column, rounded once; OPADD.Q scales the sum by the two scales, OPADD.SP takes the columns its metadata names, OPADD.BS reads its operands as planes of bits. That a position of OPADD.SP out of range or named again is no term of the sum, so that an entry of -0 keeps its sign, is the model's choice (log 63). -/
def Obligations.OuterProducts : Prop :=
  ∀ (o : DOp) (s : State), s.matReady = true →
    let tt := o.tt.toNat
    let k := tileDepth tt
    let wb := tileBytes tt
    let acd := o.acd.toNat
    let va (e : Nat) := s.elem o.va wb e
    let vb (e : Nat) := s.elem o.vb wb e
    let act := s.hart.activeEntries o.cm.toNat
    let whole (r : Reg) (w n : Nat) : Prop := ∀ e, e < n → vpoisoned s.vmem s.vctxNow.reg r.toNat w e = false
    let does (i : Instr) (t5 : Nat) (st : Word) (f : Nat → Nat → Nat → FRes) : Prop :=
      acd + tileCount t5 ≤ s.hart.mat.tiles → (∀ p ∈ act, s.hart.mat.bad t5 acd p.1 p.2 = false) →
        let t := s.mplaced i 0 0
        let r := accumulateAll t5 acd f act (s.hart.mat, st)
        exec i s = .next ((t.modMat fun _ => r.1).orMstat r.2).mends
    let prods (i j : Nat) : List FVal := (List.range k).map fun q => mulVal (tileVal tt (va (i * k + q))) (tileVal tt (vb (j * k + q)))
    let scale (r i : Nat) : FVal := fp32.value (SMap.get 0 s.hart.q (512 * r + i)).toNat
    (s.matIssue true [o.va, o.vb] o.cm.toNat = none → whole o.va wb (64 * k) → whole o.vb wb (64 * k) →
      does (.opadd o) tt 0 (fun i j old => accEntry tt none false old (prods i j))
      ∧ does (.opsub o) tt 0 (fun i j old => accEntry tt none true old (prods i j))
      ∧ does (.opaddQ o) tt 0 (fun i j old => accEntry tt
          (some (mulVal (scale (o.imm.extractLsb' 0 3).toNat i) (scale (o.imm.extractLsb' 3 3).toNat j))) false old (prods i j)))
    ∧ (let m : Reg := o.imm.extractLsb' 0 5
       let meta_ : Array Nat := ((List.range (64 * k)).map (s.elem m 1)).toArray
       let n := if o.wa = 1 then 2 else 4
       s.matIssue true [o.va, o.vb, m] o.cm.toNat = none → whole o.va wb (64 * k) → whole o.vb wb (128 * k) → whole m 1 (64 * k) →
        does (.opaddSp o) tt (if (List.range (min s.hart.mlen 64)).any fun i => (spRow meta_ n k i).2 then 0x80 else 0)
          fun i j old => accEntry tt none false old ((spRow meta_ n k i).1.map fun r =>
            mulVal (tileVal tt (va r.1)) (tileVal tt (vb (j * (2 * k) + r.2)))))
    ∧ (let a := o.wa.toNat + 1
       let b := o.wb.toNat + 1
       let d := 512 / (a * b)
       let planes (r : Reg) (w : Nat) : Array Nat := ((List.range (8 * d * w)).map (s.elem r 1)).toArray
       let sg := o.tt == 8
       s.matIssue true [o.va, o.vb] o.cm.toNat = none → whole o.va 1 (8 * d * a) → whole o.vb 1 (8 * d * b) →
        does (.opaddBs o) 6 0 fun i j old => accEntry 6 none false old ((List.range d).map fun q =>
          FVal.ofInt (planeElem (planes o.va a) a (64 * d) sg (i * d + q) * planeElem (planes o.vb b) b (64 * d) sg (j * d + q))))

/-- Grouped products (R183 to R187): over a group record in the own slate, free of poison, whose panels can be read, each active entry of a row in a group gains the products of the row with its group's panel; MGRP.Q scales them. -/
def Obligations.GroupedProducts : Prop :=
  ∀ (o : DOp) (s : State) (r : Nat), s.matReady = true → s.matIssue true [o.va] o.cm.toNat = none →
    let tt := o.tt.toNat
    let k := tileDepth tt
    let wb := tileBytes tt
    let acd := o.acd.toNat
    let base := s.readX o.xs
    let n := s.mem.read r 2
    let mlen := s.hart.mlen
    let os := (List.range (n + 1)).map fun j => s.mem.read (r + 8 + 2 * j) 2
    acd + tileCount tt ≤ s.hart.mat.tiles → base.toNat % 16 = 0 → 1 ≤ n → n ≤ 64 →
    (s.mem.poisoned r 2 = false ∧ s.mem.poisoned (r + 8) (2 * n + 2) = false ∧ s.mem.poisoned (r + 144) (8 * n) = false) →
    (∀ e, e < 64 * k → vpoisoned s.vmem s.vctxNow.reg o.va.toNat wb e = false) →
    let does (i : Instr) (q : Option Nat) : Prop :=
      let t := s.mplaced i base 0
      let bytes := if q.isSome then 768 else if tt = 4 then 256 else 512
      let spans := (groupSpans (groupEnds mlen 0 os)).map fun p =>
        (p.1, p.2.1, p.2.2, wordOf (s.mem.read (r + 144 + 8 * p.1) 8) + wordOf (o.imm.toNat * bytes))
      let ps := spans.map fun p => (p.1, p.2.2.2)
      let panels := spans.map fun p => (p.2.1, p.2.2.1, t.panelRead p.2.2.2 bytes)
      let panel (i : Nat) := (panels.find? fun p => decide (p.1 ≤ i) && decide (i < p.2.1)).map (·.2.2)
      let act := (s.hart.activeEntries o.cm.toNat).filter fun p => (panel p.1).isSome
      t.ownSlate base 656 = some r → t.heldBy (agentNo t.cur .matrix) r 656 = false → t.panelCheck bytes ps = none → (∀ p ∈ act, s.hart.mat.bad tt acd p.1 p.2 = false) →
      let res := accumulateAll tt acd (fun i j old =>
        let b := (panel i).getD #[]
        accEntry tt (q.map fun z => mulVal (s.hart.scaleVal z i) (fp32.value (panelElem b (512 + 4 * j) 4))) false old
          ((List.range k).map fun c => mulVal (tileVal tt (s.elem o.va wb (i * k + c))) (tileVal tt (panelElem b ((j * k + c) * wb) wb))))
        act (s.hart.mat, if groupOff mlen os then 0x100 else 0)
      exec i s = .next (((t.panelTouch wb bytes ps).modMat fun _ => res.1).orMstat res.2).mends
    does (.mgrp o) none ∧ does (.mgrpQ o) (some (o.aux.extractLsb' 0 3).toNat)

/-- Tile loads and stores, and saves and loads of every tile (R188, R189, R192): with every access checked, each active entry is loaded from or stored at base + row · stride + column · width, and each pair of entries of the tiles attached at its place of the area.
What moving tile entries to and from memory leaves (R188, R189, R192; TileMemory's operations): MLDT puts the bytes of each entry's place into it, widened to the tile's format, and no other entry of any tile changes; MSTT puts each entry, narrowed, into the bytes of its place, and no other byte of memory changes; MSAVE and MLOAD move each pair of entries, least significant first, as one word, and the poison with them, and nothing else. For places that do not overlap, and leaves that are none or have their bits set, performed at once.
Moves of one line (R190): a row or a column goes to the 64 elements of a vector register or comes from them, under the mask; a line above 63 moves nothing and raises BADARG. -/
def Obligations.TileMemory : Prop :=
  (
  ∀ (o : DOp) (s : State), s.matReady = true →
    let tt := o.tt.toNat
    let w := tileBytes tt
    let acd := o.acd.toNat
    let b := s.readX o.xs
    let act := s.hart.activeEntries o.cm.toNat
    let addr (p : Nat × Nat) : Word := b + wordOf p.1 * s.readX (o.xs + 1) + wordOf (p.2 * w)
    let words := List.range (2048 * s.hart.mat.tiles)
    let at_ (n : Nat) : Word := b + wordOf (8 * n)
    (s.tileIssue o = none → acd + tileCount tt ≤ s.hart.mat.tiles →
      let loads (i : Instr) : Prop :=
        let t := s.mplaced i b (s.readX (o.xs + 1))
        let check (p : Nat × Nat) := t.matCheck .read true w (addr p)
        (∀ p ∈ act, (check p).good = true) → exec i s = .next (mldtEntries tt acd addr check act t).mends
      loads (.mldt o) ∧ loads (.mldtFf o)
      ∧ (let t := s.mplaced (.mstt o) b (s.readX (o.xs + 1))
         let check (p : Nat × Nat) := t.matCheck .write false w (addr p)
         (∀ p ∈ act, (check p).good = true ∧ s.hart.mat.bad tt acd p.1 p.2 = false) →
          ∃ c, (∀ p ∈ act, c p = check p) ∧ exec (.mstt o) s = .next (msttEntries tt acd addr c act t).mends))
    ∧ (b.toNat % 64 = 0 →
        (let t := s.mplaced (.msave o) b 0
         let check (n : Nat) := t.matCheck .write false 8 (at_ n)
         (∀ n ∈ words, (check n).good = true) → exec (.msave o) s = .next (moveWords .write at_ check saveWord words t).mends)
        ∧ (let t := s.mplaced (.mload o) b 0
           let check (n : Nat) := t.matCheck .read false 8 (at_ n)
           (∀ n ∈ words, (check n).good = true) → exec (.mload o) s = .next (moveWords .read at_ check loadWord words t).mends))
  )
  ∧ (
  ∀ (s : State) (tt acd : Nat) (addr : Nat × Nat → Word) (at_ : Nat → Word) (pl : Nat × Nat → Place) (ql : Nat → Place) (act : List (Nat × Nat))
    (ws : List Nat), s.eager = true → s.mem.wf = true → s.hart.Tables → SMap.wf false s.hart.mat.accPois = true → act.Nodup → ws.Nodup → tt ≤ 7 →
    (∀ p ∈ act, p.1 < 64 ∧ p.2 < 64) →
    let w := tileBytes tt
    let check (p : Nat × Nat) : ECheck := .ok (pl p) none
    let word (n : Nat) : ECheck := .ok (ql n) none
    let free (k n : Nat) : Prop := s.holds (agentNo s.cur .matrix) k n = false
    let a := s.hart.mat
    (let t := mldtEntries tt acd addr check act s
     t.mem = s.mem ∧ t.hart.x = s.hart.x
     ∧ (∀ p ∈ act, t.hart.mat.value tt acd p.1 p.2 = (mldtVal tt (s.mem.read (pl p).key w)).bits % 2 ^ (if tt = 5 then 64 else 32))
     ∧ ∀ c i j, i < 64 → j < 64 → (i, j) ∉ act ∨ c < acd ∨ acd + tileCount tt ≤ c → t.hart.mat.entry c i j = a.entry c i j)
    ∧ ((∀ p ∈ act, free (pl p).key w) →
      (∀ p ∈ act, ∀ q ∈ act, p ≠ q → (pl p).key + w ≤ (pl q).key ∨ (pl q).key + w ≤ (pl p).key) →
      let t := msttEntries tt acd addr check act s
      t.hart.mat = a ∧ t.hart.x = s.hart.x
      ∧ (∀ p ∈ act, t.mem.read (pl p).key w = (msttVal tt (a.value tt acd p.1 p.2)).bits % 2 ^ (8 * w))
      ∧ ∀ k, (∀ p ∈ act, k < (pl p).key ∨ (pl p).key + w ≤ k) → t.mem.byte k = s.mem.byte k)
    ∧ ((∀ n ∈ ws, free (ql n).key 8 ∧ (ql n).key % 8 = 0) → (∀ m ∈ ws, ∀ n ∈ ws, m ≠ n → (ql m).key ≠ (ql n).key) →
      let t := moveWords .write at_ word saveWord ws s
      t.hart.mat = a ∧ t.hart.x = s.hart.x
      ∧ (∀ n ∈ ws, t.mem.read (ql n).key 8 = (SMap.get 0 a.acc (2 * n)).toNat + 2 ^ 32 * (SMap.get 0 a.acc (2 * n + 1)).toNat
        ∧ t.mem.poisoned (ql n).key 8 = (SMap.get false a.accPois (2 * n) || SMap.get false a.accPois (2 * n + 1)))
      ∧ ∀ k, (∀ n ∈ ws, k < (ql n).key ∨ (ql n).key + 8 ≤ k) → t.mem.byte k = s.mem.byte k)
    ∧ (let t := moveWords .read at_ word loadWord ws s
       t.mem = s.mem ∧ t.hart.x = s.hart.x
       ∧ (∀ n ∈ ws, (SMap.get 0 t.hart.mat.acc (2 * n)).toNat + 2 ^ 32 * (SMap.get 0 t.hart.mat.acc (2 * n + 1)).toNat = s.mem.read (ql n).key 8
         ∧ SMap.get false t.hart.mat.accPois (2 * n) = s.mem.poisoned (ql n).key 8
         ∧ SMap.get false t.hart.mat.accPois (2 * n + 1) = s.mem.poisoned (ql n).key 8)
       ∧ ∀ n, n / 2 ∉ ws → SMap.get 0 t.hart.mat.acc n = SMap.get 0 a.acc n ∧ SMap.get false t.hart.mat.accPois n = SMap.get false a.accPois n)
  )
  ∧ (
  ∀ (o : DOp) (s : State), s.matReady = true → s.matIssue (o.aux.getLsbD 0) [o.va] o.cm.toNat = none →
    let tt := o.tt.toNat
    let wb := tileBytes tt
    let acd := o.acd.toNat
    let line := (s.readX o.xs).toNat
    let x := s.vctxNow
    let col := o.aux.getLsbD 0
    let place (t : Nat) : Nat × Nat := if col then (t, line) else (line, t)
    let act (t : Nat) : Bool := s.hart.maskBit o.cm.toNat t && (!col || decide (t < s.hart.mlen))
    let none_ (i : Instr) : Prop := 63 < line → exec i s = .next (State.orMstat (s.mplaced i (s.readX o.xs) 0) 0x200).mends
    acd + tileCount tt ≤ s.hart.mat.tiles →
    none_ (.mrdv o) ∧ none_ (.mwrv o)
    ∧ (line ≤ 63 → (∀ t, t < 64 → act t = true → s.hart.mat.bad tt acd (place t).1 (place t).2 = false) →
        let p := s.mplaced (.mrdv o) (s.readX o.xs) 0
        let r := writeElems x o.va.toNat wb act (fun t => EOut.ofF (mrdvVal o (s.hart.mat.value tt acd (place t).1 (place t).2)))
          64 0 (s.vmem, 0)
        let m := if x.tail then vclear r.1 x.reg o.va.toNat (64 * wb) x.reg 1 else r.1
        exec (.mrdv o) s = .next ((p.setVmem m).orMstat r.2).mends)
    ∧ (line ≤ 63 → (∀ t, t < 64 → vpoisoned s.vmem x.reg o.va.toNat wb t = false) →
        let p := s.mplaced (.mwrv o) (s.readX o.xs) 0
        let r := mwrvLine o line (s.elem o.va wb) ((List.range 64).filter act) (s.hart.mat, 0)
        exec (.mwrv o) s = .next ((p.modMat fun _ => r.1).orMstat r.2).mends)
  )

/-- Butterfly stages (R198 to R203): with legal stages, tiles enough and weights and entries free of poison, BST and BCHAIN perform the step the progress names on the 16 rows of its block, and either complete with the progress (0, 0) or stay at the queue's head with the next step as progress. -/
def Obligations.ButterflyStages : Prop :=
  ∀ (o : DOp) (s : State) (b t : Nat), s.matReady = true → s.matIssue true [] 0 = none →
    let blk := s.vctxNow.blk
    let a := s.hart.mat
    let mlen := s.hart.mlen
    let runs (i : Instr) (c : Chain) : Prop :=
      let p := (s.mplaced i 0 0).setProgress b t
      let e0 := s.entryOf i 0 0
      let r := Stage.ofWord (a.stride (c.f + t))
      let rows := ((List.range 16).map (16 * b + ·)).filter (· < mlen)
      (10 < blk → ∀ q ∈ c.stages a, q.wtype ≠ 2) → c.acd + c.g ≤ a.tiles → (∀ q ∈ c.stages a, q.ok c.n blk = true) →
      c.start mlen a.block0 a.stage0 = some (b, t) →
      p.heldBy (agentNo p.cur .matrix) (Place.slate (coreKey p.cur) r.woff).key (c.n * r.pair) = false → p.badWeight r c.n = none → c.badEntry a rows = none →
      let wt (second : Bool) := ((List.range c.n).map fun j => p.weight r blk j second).toArray
      let res := rows.foldl (fun m i => stageRow c r.lstr (c.isr && decide (t + 1 ≠ c.count)) (wt false) (wt true) i m) (p.hart.mat, 0)
      let u := (p.modMat fun _ => res.1).orMstat res.2
      match c.next mlen b t with
      | none => exec i s = .next u.mends
      | some (b', t') => exec i s = .next ((u.setProgress b' t').setFront { e0 with begun := true })
    runs (.bst o) (bstChain o) ∧ runs (.bchain o) (bchainChain o)

/-- What accumulating leaves (R174, R179): each entry of the list, read and written alone, has its new value, of 64 bits in a pair of tiles for FP64; every other entry is as it was.
The integer outer product of one entry (R179): the old value plus the sum of the k products of signed or unsigned bytes, modulo 2^32.
The rows of a group record (R184): the bounds never fall and never pass MLEN, so that every row lies in at most one group.
One row of a stage (R198): element c becomes the sum of the first weight times element c and the second times its partner, every element read before any is written; no other row changes. -/
def Obligations.MatrixLaws : Prop :=
  (
  ∀ (tt acd : Nat) (f : Nat → Nat → Nat → FRes) (act : List (Nat × Nat)) (a : Mat) (st : Word),
    SMap.wf 0 a.acc = true → act.Nodup → (∀ p ∈ act, p.1 < 64 ∧ p.2 < 64) →
    let b := (accumulateAll tt acd f act (a, st)).1
    (∀ p ∈ act, b.value tt acd p.1 p.2 = (f p.1 p.2 (a.value tt acd p.1 p.2)).bits % 2 ^ (if tt = 5 then 64 else 32))
    ∧ ∀ t i j, i < 64 → j < 64 → (i, j) ∉ act ∨ t < acd ∨ acd + tileCount tt ≤ t → b.entry t i j = a.entry t i j
  )
  ∧ (
  ∀ (tt k i j old : Nat) (va vb : Array Nat), 6 ≤ tt →
    (accEntry tt none false old (products tt k i j va vb)).bits =
      (((old : Int) + ((List.range k).map fun q =>
        intOf 8 (tt == 6) (va.getD (i * k + q) 0) * intOf 8 (tt == 6) (vb.getD (j * k + q) 0)).sum) % 2 ^ 32).toNat
  )
  ∧ (
  ∀ (mlen : Nat) (os : List Nat),
    (groupEnds mlen 0 os).Pairwise (· ≤ ·) ∧ (∀ e ∈ groupEnds mlen 0 os, e ≤ mlen)
      ∧ (groupSpans (groupEnds mlen 0 os)).Pairwise fun p q => p.2.2 ≤ q.2.1
  )
  ∧ (
  ∀ (c : Chain) (lstr : Nat) (half : Bool) (wa wb : Array FVal) (i : Nat) (a : Mat) (st : Word),
    SMap.wf 0 a.acc = true → i < 64 → 0 < c.g →
    let zero : FVal := .fin false 0 0
    let b := (stageRow c lstr half wa wb i (a, st)).1
    let x (q : Nat) : FVal := if q < c.n then fp32.value (a.rowElem c.acd i q) else zero
    (∀ q, q < c.n → b.rowElem c.acd i q =
      (stageElem half (wa.getD q zero) (wb.getD q zero) (x q) (x (Nat.xor q (2 ^ lstr)))).bits % 2 ^ 32)
    ∧ ∀ t i' j, i' < 64 → j < 64 → i' ≠ i ∨ t < c.acd ∨ c.acd + c.g ≤ t → b.entry t i' j = a.entry t i' j
  )

/-! ### Streams, tasks, drafts and exchange -/

/-- The forms of a stream (R266, R267): what each instruction's slot does, whether it is shaped, and the width of its elements.
The issue of a stream (R160, R265 to R271): with nothing queued, its slot free and its checks passed, the slot starts with its element count, none under a VL of 0, and the instruction completes; STMTL also cuts VL to its row. SHAPE puts the code of the first failing check of a record in x[d].
Where a stream traps at user level (R71, R267, R271): MISALIGN_ISSUE at a record that is not aligned to 64 bytes; the faults of the record's read; BADSHAPE with the code of a record that fails a check; then, unless VL is 0, MISALIGN_ISSUE at a base that is no multiple of the width, ADDRESS at the first byte outside the own slate, and BOUNDS where an STMTL's origin leaves no element of a row. That ADDRESS is not looked for where there is none is the model's choice (log 67). -/
def Obligations.StreamIssue : Prop :=
  (
  ∀ (o : VOp) (s : State) (rec_ : BitVec 512),
    let sl (i : Instr) := s.slotOf i o rec_
    ((sl (.stmld o)).op = .load ∧ (sl (.stmst o)).op = .store ∧ (sl (.stmcp o)).op = .copy ∧ (sl (.stmldShaped o)).op = .load
      ∧ (sl (.stmstShaped o)).op = .store ∧ (sl (.stmcpShaped o)).op = .copy ∧ (sl (.stmtl o)).op = .tile)
    ∧ ((sl (.stmld o)).shaped = false ∧ (sl (.stmst o)).shaped = false ∧ (sl (.stmcp o)).shaped = false
      ∧ (sl (.stmldShaped o)).shaped = true ∧ (sl (.stmstShaped o)).shaped = true ∧ (sl (.stmcpShaped o)).shaped = true
      ∧ (o.sc = 1 → (sl (.stmtl o)).shaped = true))
    ∧ ((sl (.stmld o)).width = intBytes o.t ∧ (sl (.stmst o)).width = intBytes o.t ∧ (sl (.stmcp o)).width = intBytes o.t)
  )
  ∧ (
  ∀ (o : VOp) (s : State), s.hart.queue = [] → (s.hart.slot o.m.toNat).state ≠ .active →
    let j := o.m.toNat
    let vl := s.hart.ctl.vl.toNat
    let va := s.readX o.vs2
    let set (sl : Slot) (n : Nat) : Slot := { sl with status := slotWord .active 0 0 n 0 }
    let tileOk : Prop := o.sc = 1 ∧ (o.t = 0 ∨ s.vecCheck [] false = none ∧ s.hart.owesMask o.t.toNat = false)
    let plain (i : Instr) : Prop :=
      let sl := s.slotOf i o 0
      (vl = 0 → exec i s = .next (s.startStream j sl).advanceV)
      ∧ (vl ≠ 0 → s.streamCheck sl vl = none → exec i s = .next (s.startStream j (set sl vl)).advanceV)
    let shaped (i : Instr) (v : Nat) (u : State) : Prop :=
      let sl := s.slotOf i o (BitVec.ofNat 512 v)
      let n := min u.hart.ctl.vl.toNat (shapeTiles (BitVec.ofNat 512 v) 0)
      (u.hart.ctl.vl = 0 → exec i s = .next (u.startStream j sl).advanceV)
      ∧ (u.hart.ctl.vl ≠ 0 → u.streamCheck sl n = none → exec i s = .next (u.startStream j (set sl n)).advanceV)
    plain (.stmld o) ∧ plain (.stmst o) ∧ plain (.stmcp o)
    ∧ (∀ (v : Nat) (u : State), va.toNat % 64 = 0 → s.readRecord va 64 = .ok v u → shapeCode va (BitVec.ofNat 512 v) = 0 →
        shaped (.stmldShaped o) v u ∧ shaped (.stmstShaped o) v u ∧ shaped (.stmcpShaped o) v u
        ∧ (tileOk →
            let sl := s.slotOf (.stmtl o) o (BitVec.ofNat 512 v)
            let n := sl.rows * sl.rowCount u.hart.ctl.vl.toNat
            let w : State := { u with hart := { u.hart with
              ctl := { u.hart.ctl with vl := wordOf (sl.rowCount u.hart.ctl.vl.toNat) }, gsetVl := false } }
            (u.hart.ctl.vl = 0 → exec (.stmtl o) s = .next (u.startStream j sl).advanceV)
            ∧ (u.hart.ctl.vl ≠ 0 → u.streamCheck sl n = none → exec (.stmtl o) s = .next (w.startStream j (set sl n)).advanceV)))
    ∧ (∀ (v : Nat) (u : State), s.readRecord (s.readX o.vs1) 64 = .ok v u →
        GivesV (.shape o) s u o.vd (wordOf (shapeCode (s.readX o.vs1) (BitVec.ofNat 512 v))))
  )
  ∧ (
  ∀ (o : VOp) (s : State), s.hart.queue = [] → (s.hart.slot o.m.toNat).state ≠ .active → s.plainUser = true →
    let va := s.readX o.vs2
    let trap (u : State) (i : Instr) (cause : Nat) (at_ info : Word) : Prop := exec i s = .next (u.trapped
      { cause := cause, src := 0, slot := 0, fb := s.hart.pc, va := at_, info := info } s.hart.pc)
    let tileOk : Prop := o.sc = 1 ∧ (o.t = 0 ∨ s.vecCheck [] false = none ∧ s.hart.owesMask o.t.toNat = false)
    let plain : List Instr := [.stmld o, .stmst o, .stmcp o]
    let shaped : List Instr := [.stmldShaped o, .stmstShaped o, .stmcpShaped o, .stmtl o]
    (∀ i ∈ shaped, i = .stmtl o → tileOk) →
    (va.toNat % 64 ≠ 0 → ∀ i ∈ shaped, trap s i 4 va 0)
    ∧ (∀ c, va.toNat % 64 = 0 → s.readRecord va 64 = .bad c → ∀ i ∈ shaped, trap s i c va (if c = 2 then instrBits i else 0))
    ∧ (canonical va = false → s.readRecord va 64 = .bad 3)
    ∧ (∀ (v : Nat) (u : State), va.toNat % 64 = 0 → s.readRecord va 64 = .ok v u →
        (shapeCode va (BitVec.ofNat 512 v) ≠ 0 → ∀ i ∈ shaped, trap u i 12 va (wordOf (shapeCode va (BitVec.ofNat 512 v))))
        ∧ (shapeCode va (BitVec.ofNat 512 v) = 0 → u.hart.ctl.vl ≠ 0 → ∀ i ∈ shaped, ∀ c,
            let sl := s.slotOf i o (BitVec.ofNat 512 v)
            u.streamCheck sl (if i = .stmtl o then sl.rows * sl.rowCount u.hart.ctl.vl.toNat
              else min u.hart.ctl.vl.toNat (shapeTiles (BitVec.ofNat 512 v) 0)) = some c → trap u i c.cause c.va c.info))
    ∧ (s.hart.ctl.vl ≠ 0 → ∀ i ∈ plain, ∀ c, s.streamCheck (s.slotOf i o 0) s.hart.ctl.vl.toNat = some c → trap s i c.cause c.va c.info)
    ∧ ∀ (sl : Slot) (n : Nat),
        let w := sl.width
        let base := if sl.op = .store then sl.src else sl.dst
        let b := base.toNat
        let local_ := 0x7F0000000000
        let alias_ := 0x7E0000000000 + s.cur / 3072 * 2 ^ 31 + s.cur % 3072 / 4 * 2 ^ 21
        let in_ (lo : Nat) : Prop := lo ≤ b ∧ b < lo + 786432
        let late : Option StreamTrap := if sl.op = .tile ∧ shapeSize sl.shape 0 ≤ sl.org 0 then some ⟨13, 0, 0⟩ else none
        (sl.dst.toNat % w ≠ 0 → s.streamCheck sl n = some ⟨4, sl.dst, 0⟩)
        ∧ (sl.dst.toNat % w = 0 → sl.src.toNat % w ≠ 0 → s.streamCheck sl n = some ⟨4, sl.src, 0⟩)
        ∧ (sl.dst.toNat % w = 0 → sl.src.toNat % w = 0 →
            (sl.op = .copy ∨ n = 0 → s.streamCheck sl n = late)
            ∧ (sl.op ≠ .copy → n ≠ 0 →
                (¬ in_ local_ → ¬ in_ alias_ → s.streamCheck sl n = some ⟨3, base, 0⟩)
                ∧ (∀ lo, lo = local_ ∨ lo = alias_ → in_ lo → lo + 786432 < b + n * w → s.streamCheck sl n = some ⟨3, wordOf (lo + 786432), 0⟩)
                ∧ (∀ lo, lo = local_ ∨ lo = alias_ → in_ lo → b + n * w ≤ lo + 786432 → s.streamCheck sl n = late)))
  )

/-- What starting a stream leaves (R262, R263, R269): a short stream that does not overlap itself is ACTIVE with its count and nothing available, one of no elements DONE with the hart's event flag set, and an overlapping copy of more than a megabyte in ERROR with code 2; no register and no byte of memory changes.
The landing of an element (R262, R268, R272): the next element of an ACTIVE stream is copied to its destination, AVAIL rises by one, and the last one makes the slot DONE and sets the event flag; for places without a page to count, in slates.
STMWAIT, STMSTAT and STMCANCEL (R160, R276 to R278): a slot neither ACTIVE nor FAULTED gives its status word, any slot gives it to STMSTAT, and a cancelled slot stands IDLE, its counts reported. -/
def Obligations.StreamRun : Prop :=
  (
  ∀ (s : State) (j n : Nat) (sl : Slot), n < 2 ^ 24 → sl.status = slotWord .active 0 0 n 0 → j < 8 →
    let t := s.startStream j sl
    let r := t.hart.slot j
    t.mem = s.mem ∧ t.hart.x = s.hart.x ∧ t.hart.pc = s.hart.pc
    ∧ (n = 0 → r.state = .done ∧ t.hart.event = true)
    ∧ (0 < n → sl.overlaps = false → n * sl.width ≤ 2 ^ 20 →
        r.state = .active ∧ r.count = n ∧ r.avail = 0 ∧ r.src = sl.src ∧ r.dst = sl.dst
        ∧ { kind := .streamElementLanding, arg := { EvArg.none with idx := s.cur, aux := j } } ∈ t.events)
    ∧ (0 < n → sl.overlaps = true → 2 ^ 20 < n * sl.width → r.state = .error ∧ field r.status 56 4 = 2 ∧ t.hart.event = true)
  )
  ∧ (
  ∀ (s : State) (j : Nat) (va : Word) (p q : Place), j < 8 → s.arg.idx = s.cur → s.arg.aux = j → s.eager = true →
    let sl := s.hart.slot j
    let e := sl.avail
    let u := s.nextFree
    s.mem.wf = true → s.Tables → s.hart.doomed = false → sl.state = .active → sl.asked = false → sl.pass = false → sl.overlaps = false → sl.op ≠ .tile → e < sl.count →
    sl.landed = 2 ^ e - 1 →
    sl.srcAddr e = some va → u.streamLoc s.cur sl .read va = .ok p none → u.guardBut (some (s.cur, j)) p sl.width = .free →
    s.mem.poisoned p.key sl.width = false → u.streamLoc s.cur sl .write (sl.dstAddr e) = .ok q none → s.pageHolds q.key = false →
    s.atomicOnWay q.key sl.width = false →
    ∃ t, exec .streamElementLanding s = .next t
      ∧ (∀ a, t.mem.byte a = if q.key ≤ a ∧ a < q.key + sl.width then s.mem.byte (p.key + (a - q.key)) else s.mem.byte a)
      ∧ (t.hart.slot j).avail = e + 1 ∧ (t.hart.slot j).count = sl.count
      ∧ (t.hart.slot j).state = (if e + 1 = sl.count then .done else .active)
      ∧ (e + 1 = sl.count → t.hart.event = true) ∧ t.hart.x = s.hart.x ∧ t.hart.pc = s.hart.pc
  )
  ∧ (
  ∀ (o : VOp) (s : State),
    let sl := s.hart.slot o.m.toNat
    (sl.state ≠ .active → sl.state ≠ .faulted → GivesV (.stmwait o) s s o.vd sl.status)
    ∧ GivesV (.stmstat o) s s o.vd sl.status
    ∧ (sl.pass = false → sl.asked = false →
        GivesV (.stmcancel o) s { s with hart := s.hart.setSlot o.m.toNat Slot.idle } o.vd
          (wordOf (sl.avail + sl.count * 2 ^ 24 + 6 * 2 ^ 60)))
    ∧ (∃ t, exec (.stmcancel o) s = .next t ∧ (t.hart.slot o.m.toNat).state = .idle ∧ t.mem = s.mem ∧ t.hart.pc = s.hart.pc + 4
        ∧ t.readX o.vd = if o.vd = 0 then 0 else wordOf (sl.avail + sl.count * 2 ^ 24 + 6 * 2 ^ 60))
    ∧ (sl.state = .faulted → s.hart.loadAhead = false → s.plainUser = true →
        let t : State := { s with hart := s.hart.setSlot o.m.toNat (sl.enter .retry 0 sl.cause) }
        exec (.stmwait o) s = .next (t.trapped
          { cause := sl.cause, src := 3, slot := o.m.toNat, fb := s.hart.pc, va := sl.recAddr, info := wordOf sl.avail } s.hart.pc))
  )

/-- The task instructions (R160, R224 to R227, R230): TLAUNCH, once the hart's scalar writes are placed, puts its packet in the queue's ring and gives its index, or a code; it completes where the packet and the ring slot can be accessed; TWAIT gives DONE once the packet is done; TYIELD completes, and where a copy waits has the task pre-empted; TEXIT completes with nothing pending, or at once where the hart is to be stopped.
What TLAUNCH answers when it does not launch (R224): -1 for a number beyond the queues, -2 for a queue disabled or not for its level, -3 for one not for devices, -4 for a full one; nothing changes. -/
def Obligations.TaskInstructions : Prop :=
  (
  ∀ (o : VOp) (s : State),
    let qn := (s.readX o.vs2).toNat
    let wn := (s.readX o.vs1).toNat
    let n := field (s.readX o.vs2) 0 32
    let p := pkgOf s.cur
    (∀ (pl : Place) (l : Option LeafAt), s.agentHeld (agentNo s.cur .scalar) = false →
      s.scalarLoc .read (s.readX o.vs1) 64 = .place pl l false → s.mem.poisoned pl.key 64 = false →
      let u := s.visit (dieKey s.cur) pl .read l
      let q := u.queue p qn
      (∀ v t, u.launch qn (s.readAt l pl.key 64) = some (v, t) → exec (.tlaunch o) s = .next (t.finishV o.vd v))
      ∧ (s.Tables → qn < s.idCount → q.enabled = true → (q.cap.sup = true → s.hart.prv = true) → q.cap.device = true →
          q.count ≠ 2 ^ q.cap.lsz →
          (∀ i, i < 8 → ∃ p' l', u.locate (regAccess (homeDie p qn) q.cap.space q.cap.ptbase .write) (q.slot q.tail + wordOf (8 * i)) = .place p' l' false) →
          ∃ t, exec (.tlaunch o) s = .next t ∧ (t.queue p qn).tail = (q.tail + 1) % 2 ^ 32 ∧ t.hart.pc = s.hart.pc + 4
            ∧ t.readX o.vd = if o.vd = 0 then 0 else wordOf q.tail))
    ∧ (wn < s.idCount → (s.queue p wn).enabled = true → ((s.queue p wn).done + 2 ^ 33 - n - 1) % 2 ^ 32 < 2 ^ 31 →
        GivesV (.twait o) s s o.vd (wordOf (s.queue p wn).done))
    ∧ (s.idCount ≤ wn ∨ (s.queue p wn).enabled = false → GivesV (.twait o) s s o.vd (-1))
    ∧ (exec .tyield s = .next (if s.copyWaits (coreKey s.cur) s.hart.task.prio then s.wentV.askPreempt s.cur 0 else s.wentV))
    ∧ (s.hart.stop = true ∨ (s.hart.queue = [] ∧ s.hart.streaming = false ∧ s.ownHeld [.scalar, .vector, .matrix, .stream] = false) →
        exec .texit s = .next (s.endTask s.cur))
  )
  ∧ (
  ∀ (s : State) (qn bytes : Nat),
    let q := s.queue (pkgOf s.cur) qn
    let r := s.launch qn bytes
    (s.idCount ≤ qn → r = some (-1, s))
    ∧ (qn < s.idCount → (q.enabled = false ∨ (q.cap.sup = true ∧ s.hart.prv = false)) → r = some (-2, s))
    ∧ (qn < s.idCount → q.enabled = true → (q.cap.sup = true → s.hart.prv = true) →
        (q.cap.device = false → r = some (-3, s)) ∧ (q.cap.device = true → q.count = 2 ^ q.cap.lsz → r = some (-4, s)))
  )

/-- The cohort's barrier (R115, R160, R228, R230), once the hart's scalar writes are placed: for a hart that is no cohort's member GBAR and GARRIVE complete the phase at once, which inverts it and sets the event flag; GWAIT completes when the phase differs from bit 0 of its register; the last live member of a cohort to arrive inverts the phase at every copy and sets its event flag.
LEASE (R160, R229): an acceptable pair becomes the lease's minimum and preference, x[d] has the old GRANT; an unacceptable one changes nothing but x[d] and BADARG.
HPASS and HDONE (R160, R403 to R405): with room in the budget and none waiting, the charge is granted, added to the die's sum and given to x[d]; a bad amount or a pass already held gives 0 and BADARG; HDONE gives the charge back, with which a pre-empted task of the die may resume. -/
def Obligations.SharedGrants : Prop :=
  (
  ∀ (o : VOp) (s : State), s.agentHeld (agentNo s.cur .scalar) = false →
    let u : State := { s with hart := { s.hart with phase := !s.hart.phase, arrived := false, event := true } }
    let ph : Word := if s.hart.phase then 1 else 0
    (s.hart.mode ≠ .cohort →
      (s.hart.gbar = none → exec .gbar s = .next u.wentV)
      ∧ GivesV (.garrive o) s u o.vd ph
      ∧ (s.hart.arrived = false → s.hart.phase ≠ (s.readX o.vs1).getLsbD 0 → exec (.gwait o) s = .next s.wentV))
    ∧ (s.Tables → s.hart.mode = .cohort → s.hart.sameLaunch s.hart = true →
        (∀ g ∈ s.copiesOf s.hart, g ≠ s.cur → (s.getHart g).arrived = true) →
        (∀ r ∈ s.parked, r.2.sameLaunch s.hart = true → r.2.arrived = true) →
        ∃ t, exec (.garrive o) s = .next t ∧ t.hart.pc = s.hart.pc + 4 ∧ (t.readX o.vd = if o.vd = 0 then 0 else ph)
          ∧ ∀ g ∈ s.copiesOf s.hart, (t.getHart g).phase = !(s.getHart g).phase ∧ (t.getHart g).arrived = false ∧ (t.getHart g).event = true)
  )
  ∧ (
  ∀ (o : VOp) (s : State), s.hart.queue = [] →
    let mn := (s.readX o.vs1).toNat
    let pf := (s.readX o.vs2).toNat
    let l := s.lease
    let bad : Prop := s.hart.mode = .pipeline ∨ l.prefc = 0 ∨ pf = 0 ∨ 16 < pf ∨ pf < mn ∨ l.held < mn
    (bad → GivesV (.lease o) s { s with hart := { s.hart with ctl := { s.hart.ctl with vstat := s.hart.ctl.vstat ||| 0x100 } } }
      o.vd l.grant)
    ∧ (¬ bad →
        let u : State := { s with hart := { s.hart with lease := { s.hart.lease with minc := mn, prefc := pf } } }
        exec (.lease o) s = .next (((u.leaseTarget s.cur pf).pokePackage (pkgOf s.cur)).finishV o.vd l.grant))
  )
  ∧ (
  ∀ (o : VOp) (s : State), s.Tables →
    let q := (s.readX o.vs1).toNat
    let dk := dieKey s.cur
    let d := s.die dk
    (s.hart.asked = false → s.hart.hpass = 0 → 0 < q → q ≤ 65535 → d.waiting = [] → q + d.granted ≤ d.budget →
      GivesV (.hpass o) s (State.setDie { s with hart := { s.hart with hpass := q, reply := none } } dk { d with granted := d.granted + q })
        o.vd (wordOf q))
    ∧ (s.hart.asked = false → q = 0 ∨ 65535 < q ∨ s.hart.hpass ≠ 0 →
        GivesV (.hpass o) s { s with hart := { s.hart with ctl := { s.hart.ctl with vstat := s.hart.ctl.vstat ||| 0x100 } } } o.vd 0)
    ∧ (s.hart.hpass = 0 → GivesV (.hdone o) s s o.vd 0)
    ∧ (s.hart.hpass ≠ 0 → d.waiting = [] →
        GivesV (.hdone o) s
          ((State.setDie { s with hart := { s.hart with hpass := 0 } } dk { d with granted := d.granted - s.hart.hpass }).pokeResume dk)
          o.vd (wordOf s.hart.hpass))
  )

/-- Drafts (R160, R312 to R318): registering and unregistering; publishing by the run that registered, where a DFINAL of a run with an input that is not FINAL traps DRAFT_ORDER before any wait, at user level; asking for a stop, which sets the event flag of every hart with a copy of the producer; reading a draft's status, and awaiting it, where the hart stalls, and may yield, while none of the conditions holds.
Why a publication is refused (R314): an unknown or unbound draft, one another run registered, one final or abandoned, one at its last version; else it is not refused. -/
def Obligations.Drafts : Prop :=
  (
  ∀ (o : VOp) (s : State),
    let p := pkgOf s.cur
    let h := s.readX o.vs1
    let d2 := (s.readX o.vs2).toNat
    let d1 := (s.readX o.vs1).toNat
    let e := s.draft p d1
    let next (i : Instr) (t : State) (v : Word) : Prop := exec i s = .next (t.finishV o.vd v)
    let inputsFinal : Prop := ∀ q, s.runOf s.hart = some q → ∀ n ∈ q.snap, n.final = true
    (h = 0 → next (.dreg o) (if s.dregCode 0 d2 = 0 then s.dregGo 0 d2 else s) (wordOf (s.dregCode 0 d2)))
    ∧ (∀ (pl : Place) (l : Option LeafAt), h ≠ 0 → s.scalarLoc .write h 16 = .place pl l false →
        next (.dreg o) (if s.dregCode h d2 = 0 then s.dregGo h d2 else s) (wordOf (s.dregCode h d2)))
    ∧ (s.agentHeld (agentNo s.cur .scalar) = false → s.publishCode d1 = 0 →
        let done (final : Bool) : State :=
          ((s.setDraft p d1 { e with version := e.version + 1, final := final }).wakeDrafts p d1).draftChanged p d1
        next (.dpub o) (done false) (wordOf (e.version + 1))
        ∧ (inputsFinal → next (.dfinal o) (done true) (wordOf (e.version + 1))))
    ∧ (s.agentHeld (agentNo s.cur .scalar) = false → s.publishCode d1 ≠ 0 →
        next (.dpub o) s (BitVec.ofInt 64 (s.publishCode d1))
        ∧ (inputsFinal → next (.dfinal o) s (BitVec.ofInt 64 (s.publishCode d1))))
    ∧ (s.plainUser = true → ¬ inputsFinal → exec (.dfinal o) s = .next (s.trapped
        { cause := 15, src := 0, slot := 0, fb := s.hart.pc, va := 0, info := s.readX o.vs1 } s.hart.pc))
    ∧ (s.draftIn d1 = false ∨ e.bound = false → next (.dstop o) s (s.draftWord d1))
    ∧ (s.draftIn d1 = true → e.bound = true →
        let u := if e.final ∨ e.abandoned then s else (s.setDraft p d1 { e with stopreq := true }).draftTail p d1
        let w := u.wakeAll fun g h =>
          pkgOf g == p && h.run != .idle && !h.task.boot && h.task.queue == e.queue && h.task.packet == e.packet
        next (.dstop o) w (w.draftWord d1))
    ∧ (s.readX o.vs2 = 0 → next (.dchk o) s (s.draftWord d1))
    ∧ (s.readX o.vs2 = 1 → next (.dchk o) s
        (if s.draftIn d1 then ((s.runOf s.hart).bind fun r => (r.snap.find? fun i => i.did = d1).map SnapRec.status).getD draftNone
          else draftNone))
    ∧ (1 < d2 → next (.dchk o) { s with hart := { s.hart with ctl := { s.hart.ctl with vstat := s.hart.ctl.vstat ||| 0x100 } } } draftNone)
    ∧ (s.draftIn d1 = false ∨ e.bound = false ∨ e.final = true ∨ e.abandoned = true ∨ field (s.readX o.vs2) 0 32 < e.version →
        next (.dwait o) { s with hart := { s.hart with dwait := none } } (s.draftWord d1))
    ∧ (s.draftIn d1 = true → e.bound = true → e.final = false → e.abandoned = false → e.version ≤ field (s.readX o.vs2) 0 32 →
        s.hart.stop = false →
        let w : State := { s with hart := { s.hart with dwait := some d1 } }
        exec (.dwait o) s = .next (if s.hart.prv = false ∧ w.copyWaits (coreKey s.cur) s.hart.task.prio = true then w.askPreempt s.cur 0 else w))
  )
  ∧ (
  ∀ (s : State) (d : Nat),
    let e := s.draft (pkgOf s.cur) d
    let known := s.draftIn d = true ∧ e.bound = true
    let mine := e.queue = s.hart.task.queue ∧ e.packet = s.hart.task.packet
    (¬ known → s.publishCode d = -1) ∧ (known → ¬ mine → s.publishCode d = -2)
    ∧ (known → mine → e.final = true ∨ e.abandoned = true → s.publishCode d = -3)
    ∧ (known → mine → e.final = false → e.abandoned = false →
        s.publishCode d = if e.version = 2 ^ 32 - 1 then -4 else 0)
  )

/-- Joining a round and its settings (R160, R297 to R300): XOPEN of a legal record joins and gives 0, with a hall pass granted at once for a round that combines, or the code of the check that fails; the coordinator sets the table of splits, the capacity and the deadlines, from memory or, by XREBAL of 0, the table last proposed; another hart gets 7. XSPLIT and XREBAL read the table as a scalar load does.
Waiting and status (R160, R304, R305): XWAIT of an ended or unbound party, or for data with a batch to read, gives the status word; XSTAT gives the selected value, or all ones and BADARG for an invalid selector; that the selectors above 0 are invalid on a hart that has joined no round is the model's choice (log 36). -/
def Obligations.ExchangeSettings : Prop :=
  (
  ∀ (o : VOp) (s : State), s.hart.queue = [] →
    let xid := s.hart.xch.xid
    let x := s.xid xid
    let n := s.hart.xch.receivers - 1
    let va := s.readX o.vs1
    let gives (i : Instr) (v : Word) : Prop := GivesV i s s o.vd v
    let sets (i : Instr) (y : XidRec) : Prop := GivesV i s (s.setXid xid y) o.vd 0
    (s.hart.asked = false → s.hart.reply = none → (s.hart.xch.pass = true → s.hart.xch.bound = true) → va.toNat % 64 ≠ 0 →
        gives (.xopen o) 1)
    ∧ (∀ (v : Nat) (u : State), va.toNat % 64 = 0 → s.readRecord va 64 = .ok v u →
        u.xopenCode v (s.readX o.vs2) = 0 → hdrComb v = 0 → u.reachesHub u.cur (u.xidHub (hdrXid v)) = true →
        exec (.xopen o) s = .next ((u.join v (s.readX o.vs2) false).finishV o.vd 0))
    ∧ (∀ (v : Nat) (u : State), va.toNat % 64 = 0 → s.readRecord va 64 = .ok v u →
        u.xopenCode v (s.readX o.vs2) = 0 → hdrComb v ≠ 0 → u.reachesHub u.cur (u.xidHub (hdrXid v)) = true → u.hart.asked = false →
        let dk := dieKey u.cur
        let d := u.die dk
        d.waiting = [] → exchangeCharge + d.granted ≤ d.budget →
        exec (.xopen o) s = .next (((u.setDie dk { d with granted := d.granted + exchangeCharge }).join v (s.readX o.vs2) true).finishV o.vd 0))
    ∧ (s.hart.xch.coordinator = false → gives (.xsplit o) 7 ∧ gives (.xcap o) 7 ∧ gives (.xdeadl o) 7 ∧ gives (.xrebal o) 7)
    ∧ (s.hart.xch.coordinator = true → s.reachesHub s.cur (s.xidHub xid) = true →
        let table (i : Instr) : Prop :=
          (va.toNat % 4 ≠ 0 → gives i 8)
          ∧ (va.toNat % 4 = 0 → n = 0 → sets i { x with table := some [] })
          ∧ (∀ (v : Nat) (u : State), va.toNat % 4 = 0 → n ≠ 0 → s.readRecord va (4 * n) = .ok v u → u.hart = s.hart →
              exec i s = .next
                ((u.setXid xid { x with table := some ((List.range n).map fun i => bitsOf v (32 * i) 32) }).finishV o.vd 0))
        table (.xsplit o) ∧ (va ≠ 0 → table (.xrebal o))
        ∧ (va.toNat ≤ 65535 → sets (.xcap o) { x with capacity := va.toNat }) ∧ (65535 < va.toNat → gives (.xcap o) 8)
        ∧ sets (.xdeadl o) { x with t0 := va.toNat, period := (s.readX o.vs2).toNat }
        ∧ (va = 0 → x.proposal = none → gives (.xrebal o) 8)
        ∧ (∀ t, va = 0 → x.proposal = some t → sets (.xrebal o) { x with table := some t }))
  )
  ∧ (
  ∀ (o : VOp) (s : State), s.hart.queue = [] →
    let p := s.hart.xch
    let c := s.readX o.vs1
    let bad : State := { s with hart := { s.hart with ctl := { s.hart.ctl with vstat := s.hart.ctl.vstat ||| 0x100 } } }
    (c.toNat ≤ 1 → (p.bound = false ∨ (c = 0 ∧ p.rstate = 3)) → GivesV (.xwait o) s s o.vd p.status)
    ∧ (1 < c.toNat → GivesV (.xwait o) s bad o.vd p.status)
    ∧ (c = 0 → GivesV (.xstat o) s s o.vd p.status)
    ∧ (c = 1 → p.rstate ≠ 0 → GivesV (.xstat o) s s o.vd (wordOf p.emitted))
    ∧ (c = 2 → p.rstate ≠ 0 → GivesV (.xstat o) s s o.vd (wordOf p.written))
    ∧ (p.rstate ≠ 0 → p.recv = true →
        (c = 3 → GivesV (.xstat o) s s o.vd (wordOf p.batch)) ∧ (c = 4 → GivesV (.xstat o) s s o.vd (wordOf p.counted))
        ∧ (c = 5 → GivesV (.xstat o) s s o.vd (wordOf p.samples.length))
        ∧ ∀ i k, p.samples.length ≤ 64 → p.samples[i]? = some k → c.toNat = 0x100 + i → GivesV (.xstat o) s s o.vd (wordOf k))
    ∧ (p.rstate ≠ 0 → ∀ i t k, (s.xid p.xid).proposal = some t → t[i]? = some k → c.toNat = 0x1000 + i → GivesV (.xstat o) s s o.vd (wordOf k))
    ∧ (c ≠ 0 → p.rstate = 0 ∨ (3 ≤ c.toNat ∧ c.toNat < 0x1000 ∧ p.recv = false) ∨ (5 < c.toNat ∧ c.toNat < 0x100)
        ∨ (0x100 + p.samples.length ≤ c.toNat ∧ c.toNat < 0x1000) ∨ (0x1000 ≤ c.toNat ∧ (s.xid p.xid).proposal = none)
        ∨ (∃ t, (s.xid p.xid).proposal = some t ∧ 0x1000 + t.length ≤ c.toNat) → GivesV (.xstat o) s bad o.vd (-1))
  )

/-- Sending (R284, R301, R302): the active elements of a sender that is bound and open go out as records in element order, those of RRUN ascending by key; a payload or a group too large emits nothing and raises BADARG; REND ends a run; XCLOSE closes and counts; a hart that cannot send gets BADARG, unless its round failed (RSEND, RRUN, REND).
Receiving (R286, R303): RRECV of a hart that is not a receiver of an open round sets VL to 0 and raises BADARG; under VL 0 nothing happens; a round that is WAITING or OPEN, or has failed, sets VL to 0; a batch with no record left sets EOB and VL 0 and is left; with a batch of records it delivers the first of them, as many as VL and the payload group allow, and sets VL to their number.
What the operations of the last two statements leave (R283, R284, R286, R301 to R303): `emit` puts a record for each pair of key and payload behind the round's records in their order, with the sender's rank, the next sequence numbers and the time of its port, marked where its key falls below the one before it in the run, and counts them; `closeSender` marks the sender closed and puts a close marker for every receiver behind them; `receive` takes the first records from the batch, writes their headers and payloads, cut or padded with zeros, and sets VL to their number, EOB clear; `nextBatch` leaves the batch, EOB set, READY with another, OPEN with none, at END after the final one. Records and markers of an armed round hold their receiver by its table. -/
def Obligations.ExchangeTransfer : Prop :=
  (
  ∀ (o : VOp) (s : State), s.ready = true →
    let p := s.hart.xch
    let w := intBytes o.t
    let m := (s.readX o.vs2).toNat
    let vl := s.vctxNow.vl
    let act := s.indices o.m.toNat
    let key (i : Nat) := s.elem o.vs1 4 i
    let data (i : Nat) : Nat := ((List.range m).map (i * m + ·)).foldr (fun j a => s.elem o.vd w j + 2 ^ (8 * w) * a) 0
    let clean := (∀ i, vpoisoned s.vmem s.vctxNow.reg o.vs1.toNat 4 i = false) ∧ ∀ i, vpoisoned s.vmem s.vctxNow.reg o.vd.toNat w i = false
    let sends (i : Instr) (sorted : Bool) : Prop :=
      s.vecCheck [(o.vd, 8 * w), (o.vs1, 32)] false = none → p.sending = true → m * w ≤ 512 → vl * m ≤ s.vctxNow.capacity w → clean →
        let idx := if sorted then sortIdx (fun i => (key i : Int)) act else act
        exec i s = .next (State.emit (s.placed i 4 (s.readX o.vs2) 0) (m * w) sorted (idx.map fun i => (key i, data i))).vends
    let refuses (i : Instr) : Prop :=
      s.vecCheck [(o.vd, 8 * w), (o.vs1, 32)] false = none →
        let t := s.placed i 4 (s.readX o.vs2) 0
        (p.sending = false → exec i s = .next (State.vends (if p.failed then t else t.orVstat 0x100)))
        ∧ (p.sending = true → 512 < m * w ∨ s.vctxNow.capacity w < vl * m → exec i s = .next (State.orVstat t 0x100).vends)
    sends (.rsend o) false ∧ sends (.rrun o) true ∧ refuses (.rsend o) ∧ refuses (.rrun o)
    ∧ (p.sending = true → exec .rend s = .next (State.setParty (s.placed .rend 4 0 0) { p with lastKey := none }).vends)
    ∧ (p.sending = true →
        let t := (State.setParty (s.placed (.xclose o) 4 0 0) { p.flag 0x4000 with lastKey := none }).closeSender p.xid p.rank
        exec (.xclose o) s = .next (t.writeX o.vd (wordOf p.emitted)).vends)
    ∧ (p.sending = false → exec (.xclose o) s = .next (s.delivered o.vd 0 0x100)
        ∧ exec .rend s = .next (s.delivered 0 0 (if p.failed then 0 else 0x100)))
  )
  ∧ (
  ∀ (o : VOp) (s : State), s.ready = true → s.vecCheck [(o.vd, 8 * intBytes o.t), (o.vs1, 64)] false = none →
    let p := s.hart.xch
    let i : Instr := .rrecv o
    let t := s.placed i 4 (s.readX o.vs2) 0
    let e0 := s.entryOf i (s.readX o.vs2) 0
    let vl := s.vctxNow.vl
    (p.recv = false ∨ (p.bound = false ∧ p.failed = false) → exec i s = .next ((State.orVstat t 0x100).trim 0).vends)
    ∧ (p.recv = true → p.bound = true ∨ p.failed = true → vl = 0 → exec i s = .next t.vends)
    ∧ (p.recv = true → 0 < vl → p.failed = true ∨ (p.bound = true ∧ p.rstate ≠ 3) → exec i s = .next (State.trim t 0).vends)
    ∧ (p.recv = true → p.bound = true → p.failed = false → p.rstate = 3 → 0 < vl →
        ∀ (r : Round) (j : Receiver), (s.xid p.xid).round = some r → r.receiver p.ridx = some j →
        (∀ bs, j.batches = [] :: bs → exec i s = .next ((t.nextBatch r j).trim 0).vends)
        ∧ ∀ (q : Rec) (b : List Rec) (bs : List (List Rec)), j.batches = (q :: b) :: bs →
            exec i s = .next (t.receive o e0 s.vctxNow r j (q :: b)).vends)
  )
  ∧ (
  ∀ (s : State),
    let p := s.hart.xch
    let to_ (r : Round) (f : Flight) : Prop := ∀ t, r.table = some t → f.ridx = some (receiverOf t f.record.key)
    (∀ (len : Nat) (sorted : Bool) (l : List (Nat × Nat)),
      let t := s.emit len sorted l
      t.mem = s.mem ∧ t.hart.x = s.hart.x ∧ t.hart.pc = s.hart.pc ∧ t.hart.xch.emitted = p.emitted + l.length
      ∧ ∀ r, (s.xid p.xid).round = some r → (r.table = none → ∃ r', (t.xid p.xid).round = some r')
        ∧ ∀ r', (t.xid p.xid).round = some r' → ∃ fs, r'.flights = r.flights ++ fs ∧ fs.length = l.length ∧
          (∀ n k d, l[n]? = some (k, d) → ∃ f, fs[n]? = some f ∧ to_ r f ∧ f.marker = false ∧ f.record.key = k ∧ f.record.data = d
            ∧ f.record.rank = p.rank ∧ f.record.seq = p.emitted + n ∧ f.record.len = len ∧ f.record.time = s.timeNs (pkgOf s.cur)
            ∧ (f.record.badord = true ↔ ∃ k', (if n = 0 then (if sorted then none else p.lastKey) else (l[n - 1]?).map Prod.fst) = some k'
                ∧ k < k'))
          ∧ (r'.order = true ↔ r.order = true ∨ ∃ f ∈ fs, f.record.badord = true))
    ∧ (∀ (xid rank : Nat) (r : Round), (s.xid xid).round = some r →
      let t := s.closeSender xid rank
      t.mem = s.mem ∧ t.hart = s.hart
      ∧ (r.table = none → ∃ r', (t.xid xid).round = some r')
      ∧ ∀ r', (t.xid xid).round = some r' →
        (∀ a ∈ r'.senders, a.rank = rank → a.closed = true) ∧ r'.senders.map Sender.rank = r.senders.map Sender.rank
        ∧ ∃ fs, r'.flights = r.flights ++ fs ∧ fs.length = hdrKm1 r.header + 1
          ∧ ∀ n, n ≤ hdrKm1 r.header → ∃ f, fs[n]? = some f ∧ f.marker = true ∧ f.ridx = some n ∧ f.record.rank = rank)
    ∧ (∀ (o : VOp) (x : VCtx) (w m : Nat) (l : List Rec) (mem : Memory), mem.wf = true → 0 < w →
      let hdr (n : Nat) := vkey x.reg (x.dreg o.vs1) (n * 8)
      let pay (n : Nat) := vkey x.reg (x.dreg o.vd) (n * w)
      let n := l.length
      (∀ a b, a < n → b < n → a ≠ b → hdr a + 8 ≤ hdr b ∨ hdr b + 8 ≤ hdr a) →
      (∀ a b, a < n * m → b < n * m → a ≠ b → pay a + w ≤ pay b ∨ pay b + w ≤ pay a) →
      (∀ a b, a < n → b < n * m → hdr a + 8 ≤ pay b ∨ pay b + w ≤ hdr a) →
      let t := s.receiveAll o x w m 0 l mem
      (∀ a q, l[a]? = some q → velem t x.reg (x.dreg o.vs1) 8 a = q.header % 2 ^ 64
        ∧ ∀ k, k < m → velem t x.reg (x.dreg o.vd) w (a * m + k) = bitsOf (low (8 * q.len) q.data) (8 * w * k) (8 * w))
      ∧ ∀ at_, (∀ a, a < n → at_ < hdr a ∨ hdr a + 8 ≤ at_) → (∀ a, a < n * m → at_ < pay a ∨ pay a + w ≤ at_) →
          t.byte at_ = mem.byte at_)
    ∧ (∀ (o : VOp) (e q : QEntry) (x : VCtx) (r : Round) (j : Receiver) (b : List Rec), s.hart.queue = [q] → s.hart.owner = s.cur →
      x.tail = false →
      let w := intBytes o.t
      let m := e.xa.toNat
      let n := min (min x.vl b.length) (if m = 0 then b.length else x.capacity w / m)
      let t := s.receive o e x r j b
      t.mem = s.mem ∧ t.vmem = s.receiveAll o x w m 0 (b.take n) s.vmem ∧ t.hart.ctl.vl = wordOf n ∧ t.hart.xch = p.eob false
      ∧ (t.xid p.xid).round = some (r.setReceiver { j with batches := b.drop n :: j.batches.tail })
      ∧ t.hart.ctl.vstat = s.hart.ctl.vstat ||| (if (b.take n).any fun q => decide (m * w < q.len) then 0x100 else 0))
    ∧ ∀ (r : Round) (j : Receiver), p.isReceiver p.xid p.ridx = true → j.ridx = p.ridx → (s.xid p.xid).round = some r → r.receiver p.ridx = some j →
      let rest := j.batches.tail
      let t := s.nextBatch r j
      t.mem = s.mem ∧ t.hart.x = s.hart.x ∧ t.hart.xch.batch = p.batch + 1 ∧ t.hart.xch.status.getLsbD 13 = true
      ∧ t.hart.xch.rstate = (if rest ≠ [] then 3 else if j.final then 4 else 2)
      ∧ (rest ≠ [] ∨ j.final = false → (t.xid p.xid).round = some (r.setReceiver { j with batches := rest }))
  )

/-! ### The agents' events -/

/-- QUEUE_HEAD_EXECUTE (R107, R194, R344, R421): of a hart that runs, is not frozen and not halted, whose front instruction owes nothing to a stream, and of a fence what the fence orders, that instruction is performed: completed it leaves the queue, waiting it stays, trapped it stays and its trap is taken once the lanes have realigned. That a poisoned word of a mask it reads traps before anything else, with its lowest bit, is the model's choice (log 64); tile instructions test their tiles first, loads and stores trap at the element. An idle hart's, a frozen and an empty queue stay.
DISPATCH_SLOT, COPY_HANDOFF, LEVEL_AGING, RELAUNCH and TASK_RESUME (R216, R218, R219, R226, R320): a slot serves the die's queues as `DispatchLaws` says, and is tried again while the Registrars' writes are not placed; copies handed off are known to the named die; a due run is fired again; aging raises what has been ready by one level for each 2^20 clocks; that the oldest pre-empted task that can resume does is the model's choice (log 43).
What dispatch and resumption leave (R215, R219): a copy starts on the lowest-numbered idle harts of its core, three for a pipeline copy, with the registers of its launch, and not where the core lacks them, its form is quiesced or short of tiles, or the core halts; of the backlogged groups the one with the least finish tag among those whose start tag is due is served; the first task that can resume is read back from its area to the lowest idle hart of its core.
LEASEWAIT_EXPIRY (R94, R321): after that many clocks of user-level code without a strip boundary a RESTART stop takes the task, or a revoke has it pre-empted, but for a member stalled at GSETVL; a hart that is idle, at supervisor level or halted, and one of which nothing was asked, goes on. -/
def Obligations.QueueAndDispatch : Prop :=
  (
  ∀ s : State, s.arg.idx = s.cur →
    (s.hart.run ≠ .running ∨ s.hart.frozen = true ∨ s.stopped s.cur = true ∨ s.hart.queue = [] → exec .queueHeadExecute s = .next s)
    ∧ (s.eager = true → s.hart.run = .running → s.hart.frozen = false → s.stopped s.cur = false →
        ∀ (e : QEntry) (l : List QEntry) (f : QEntry → State → HeadRes), s.hart.queue = e :: l → headOf e.instr = some f →
          (∀ q ∈ l.head?, s.besideChunks e q = false) → s.hart.maskOwed e = false → e.mlen = none → (e.isMatrix = true → s.rivals = []) →
          let w := if e.isMatrix then s.takeTurn else s
          (∀ level, e.fenced = some level → w.order [agentNo s.cur .vector] level = none → exec .queueHeadExecute s = .next w)
          ∧ ∀ v : State, (e.fenced = none → v = w) → (∀ level, e.fenced = some level → w.order [agentNo s.cur .vector] level = some v) →
            (e.ownMask = true ∨ v.hart.maskBad e = none →
              (∀ u, f e v = .done u → exec .queueHeadExecute s = .next ((u.healMask e v.hart.maskPois).popFront.switch s.cur))
              ∧ (∀ u, f e v = .wait u → exec .queueHeadExecute s = .next (u.switch s.cur))
              ∧ ∀ u ti, f e v = .trap u ti → exec .queueHeadExecute s = .next (((State.slip 1 u).takeTrap ti u.hart.pc).switch s.cur))
            ∧ (e.ownMask = false → ∀ k, v.hart.maskBad e = some k →
              let at_ := if e.precise = true ∧ e.begun = false then s.hart.ctl.estart.toNat else e.p
              exec .queueHeadExecute s = .next (((State.slip 1 (v.setFront { e with begun := true, p := at_, pieces := [], pages := [] })).takeTrap
                { cause := cPOISON, src := if e.isMatrix then 2 else 1, slot := 0, fb := e.addr, va := 0, info := wordOf k } s.hart.pc).switch s.cur)))
  )
  ∧ (
  ∀ s : State,
    let a := s.arg
    let dk := a.dieKey
    (s.dieHere → exec .dispatchSlot s = .next (s.dispatchSlot dk))
    ∧ (let d := s.die dk
       d.headers = [] → d.settling = [] → (∀ r ∈ s.runs, r.home = dk → r.spent = false) → s.regHeld a.pkg = true → s.Tables →
        ∀ t, exec .dispatchSlot s = .next t → t.hart = s.hart ∧ t.harts = s.harts ∧ t.mem = s.mem ∧ t.runs = s.runs
          ∧ dieEvent .dispatchSlot dk 0 ∈ t.events)
    ∧ (s.dieHere →
        let due (r : RunRec) : Prop := r.home / 4 = a.pkg ∧ r.queue = a.idx ∧ r.packet = a.aux
        ∃ t, exec .copyHandoff s = .next t ∧ t.mem = s.mem ∧ t.hart = s.hart ∧ t.runs.length = s.runs.length
          ∧ ∀ (k : Nat) (r : RunRec), s.runs[k]? = some r → ∃ r', t.runs[k]? = some r'
            ∧ (due r → a.die ∈ r'.handed) ∧ (¬ due r → r' = r) ∧ (∀ d ∈ r.handed, d ∈ r'.handed) ∧ r'.waiting = r.waiting)
    ∧ (s.dieHere → s.Tables →
        ∃ t, exec .levelAging s = .next t ∧ t.mem = s.mem ∧ t.hart = s.hart
          ∧ (t.die dk).queues = (s.die dk).queues.map fun q => (q.1, match q.2.ready with
              | some r => { q.2 with age := (s.clk - r) / 2 ^ 20 }
              | none => q.2))
    ∧ (s.dieHere →
        (∀ r, (s.runs.find? fun r => r.isOf dk a.idx a.aux && r.due) = some r → exec .relaunch s = .next (s.refire r))
        ∧ ((s.runs.find? fun r => r.isOf dk a.idx a.aux && r.due) = none → exec .relaunch s = .next s))
    ∧ (let tasks := s.parked.filter fun p => dieKey p.1 = dk
       (∀ t, s.resumeFirst tasks = some t → exec .taskResume s = .next (t.pokePackage a.pkg))
        ∧ (s.resumeFirst tasks = none →
            ((∀ p ∈ tasks, s.areaWaits (s.parkedTask p.1 p.2) = false) → exec .taskResume s = .next s)
            ∧ ((∃ p ∈ tasks, s.areaWaits (s.parkedTask p.1 p.2) = true) →
                exec .taskResume s = .next (s.pushOnce (dieEvent .taskResume dk 0)))))
  )
  ∧ (
  ∀ s : State, s.Tables →
    (∀ (r : RunRec) (rank core : Nat),
      let ck := 768 * (r.home / 4) + core
      let idle := ((List.range 4).map (4 * ck + ·)).filter fun g => (s.getHart g).run = .idle
      let n := if pkMode r.bytes = 1 then 3 else 1
      (idle.length < n ∨ (s.form (formKey (idle.headD 0))).quiesced = true ∨ (s.form (formKey (idle.headD 0))).tiles < pkTiles r.bytes
        ∨ s.stopped (4 * ck) = true → s.startCopy r rank core = none)
      ∧ ∀ (t : State) (g : Nat), s.startCopy r rank core = some (t, g) → t.mem = s.mem ∧ idle.head? = some g
        ∧ ∀ k j, k < n → idle[k]? = some j →
          let h := t.getHart j
          h.run = .starting ∧ h.prv = false ∧ h.role = k ∧ h.owner = g ∧ h.queue = [] ∧ h.pc = wordOf (pkEntry r.bytes)
          ∧ ∀ m : Reg, h.readX m = (if m = 10 then wordOf (pkArg r.bytes) else if m = 11 then wordOf rank
              else if m = 12 then wordOf (pkCopies r.bytes).length else if m = 13 then wordOf k else if m = 30 then stackTop (j % 4) else 0))
    ∧ (∀ (l : LevelRec) (gs : List Nat) (g : Nat) (v : Frac),
        let tag (h : Nat) : GroupRec := SMap.get GroupRec.reset l.groups h
        let le (a b : Frac) : Prop := a.num * b.den ≤ b.num * a.den
        (∀ h ∈ gs, 0 < (tag h).start.den ∧ 0 < (tag h).finish.den) → pickGroup l gs = some (g, v) →
          g ∈ gs ∧ le (tag g).start v
          ∧ (v = l.virt ∨ ∃ h ∈ gs, v = (tag h).start ∧ ∀ k ∈ gs, le v (tag k).start)
          ∧ ∀ h ∈ gs, le (tag h).start v → le (tag g).finish (tag h).finish ∧ (le (tag h).finish (tag g).finish → g ≤ h))
    ∧ (∀ (ps qs : List (Nat × Hart)) (p : Nat × Hart), (∀ q ∈ ps, s.resumeTask (s.parkedTask q.1 q.2) = none) →
        s.resumeFirst ps = none ∧ s.resumeFirst (ps ++ p :: qs) = (s.resumeTask (s.parkedTask p.1 p.2) <|> s.resumeFirst qs))
    ∧ ∀ (g j : Nat) (h : Hart) (t : State), h.owner = g → s.resumeTask [(g, h)] = some t →
        (s.idleHarts (coreKey g)).head? = some j →
        s.stopped g = false
        ∧ (∀ u h' l', s.readHart g h h.lease = .ok (u, h', l') →
            let k := t.getHart j
            k.run = .running ∧ k.owner = j ∧ k.pc = h'.pc ∧ k.x = h'.x ∧ k.ctl = h'.ctl ∧ k.masks = h'.masks ∧ k.q = h'.q ∧ k.queue = h'.queue
            ∧ k.slots = h'.slots ∧ k.mat = h'.mat ∧ k.lease.vmem = l'.vmem ∧ k.lease.held = l'.held ∧ (g, h) ∉ t.parked)
  )
  ∧ (
  ∀ s : State,
    let g := s.arg.idx
    let h := s.getHart g
    let live : Prop := h.run = .running ∧ h.prv = false ∧ s.stopped g = false
    (¬ live → exec .leasewaitExpiry s = .next s)
    ∧ (live → h.stop = true → exec .leasewaitExpiry s = .next (s.endTask g))
    ∧ (live → h.stop = false → h.mode ≠ .pipeline →
        (∀ n, h.lease.target = some n → n < h.lease.held →
          exec .leasewaitExpiry s = .next (if h.gsetLimit.isSome then s else s.askPreempt g 1))
        ∧ (h.lease.target = none → exec .leasewaitExpiry s = .next s))
    ∧ (live → h.stop = false → h.mode = .pipeline →
        exec .leasewaitExpiry s = .next (if h.lease.reserved = [] then s else s.askPreempt g 3))
  )

/-- TAIL_WRITE, QUEUE_ENABLE, QUEUE_DISABLE, PIPELINE_ARM, BUDGET_WRITE and REGISTER_WRITE (R209, R210, R256, R323, R402): a doorbell writes TAIL, once the hosts' earlier writes are placed, EN alone is set or cleared, an arming writes STATE, the budget its 20 bits, and any other write goes to its offset, where it is naturally aligned. Then the queue has the TAIL its ring has room for, is enabled where LSZ is 4 to 16, or disabled, the pipeline is armed until it settles, and the budget is the value.
HALL_PASS_GRANT, HPWAIT_EXPIRY and TILE_GRANT (R169, R170, R404): the oldest waiting request is granted when its charge fits the budget beside what is granted, and waits when it does not; one that has waited HPWAIT clocks is refused and counted, or a MATT's wait for tiles ends, whichever the event names; the oldest tile request takes as many tiles as it may once its minimum is free, and asks for its hall pass. -/
def Obligations.RegistrarEvents : Prop :=
  (
  ∀ s : State,
    let a := s.arg
    let dk := a.dieKey
    let free : Prop := ∀ p ∈ s.packages, s.agentHeld (hostWriter p) = false
    s.dieHere →
      (free → exec .tailWrite s = .next (s.winWrite dk (32 * a.idx + 20) 4 a.val.toNat))
      ∧ (¬ free → exec .tailWrite s = .next (s.hostAgain .tailWrite))
      ∧ exec .queueEnable s = .next (s.writeEnable 1) ∧ exec .queueDisable s = .next (s.writeEnable 0)
      ∧ exec .pipelineArm s = .next (s.winWrite dk (0x600000 + 32 * a.idx) 1 1)
      ∧ exec .budgetWrite s = .next (s.winWrite dk 0xA00000 8 (a.val.toNat % 2 ^ 20 * 2 ^ 20))
      ∧ (naturally a.idx a.aux = true → exec .registerWrite s = .next (s.winWrite dk a.idx a.aux a.val.toNat))
      ∧ (naturally a.idx a.aux = false → exec .registerWrite s = .next s)
      ∧ (let qn := 16384 * a.die + a.idx
         let q := s.queue a.pkg qn
         free → a.idx < 16384 → a.val.toNat < 2 ^ 32 → s.Tables → q.enabled = false ∨ q.cap.device = false →
          (a.val.toNat + 2 ^ 32 - q.head) % 2 ^ 32 ≤ 2 ^ (if q.enabled = true then q.cap.lsz else fieldB q.desc 10 5) →
          ∃ t, exec .tailWrite s = .next t ∧ (t.queue a.pkg qn).tail = a.val.toNat ∧ (t.queue a.pkg qn).head = q.head
            ∧ (t.queue a.pkg qn).enabled = q.enabled ∧ t.mem = s.mem ∧ t.hart = s.hart)
      ∧ (let qn := 16384 * a.die + a.idx
         let q := s.queue a.pkg qn
         a.idx < 16384 → s.Tables →
          (q.enabled = false → 4 ≤ fieldB q.desc 10 5 → fieldB q.desc 10 5 ≤ 16 →
            ∃ t, exec .queueEnable s = .next t ∧ (t.queue a.pkg qn).enabled = true ∧ (t.queue a.pkg qn).cap.lsz = fieldB q.desc 10 5)
          ∧ (∃ t, exec .queueDisable s = .next t ∧ (t.queue a.pkg qn).enabled = false)
          ∧ (s.settled a.pkg qn = false → ∃ t, exec .pipelineArm s = .next t ∧ fieldB (t.pipe a.pkg qn) 0 2 = 1))
      ∧ (s.Tables → ∃ t, exec .budgetWrite s = .next t ∧ (t.die dk).budget = a.val.toNat % 2 ^ 20)
  )
  ∧ (
  ∀ s : State,
    let dk := s.arg.dieKey
    let d := s.die dk
    let g := s.arg.idx
    let fk := 48 * dk + s.arg.idx
    (s.dieHere →
      (d.waiting = [] → exec .hallPassGrant s = .next s)
      ∧ ∀ (r : PassReq) (l : List PassReq), d.waiting = r :: l →
        (d.budget < r.charge + d.granted → exec .hallPassGrant s = .next s)
        ∧ (r.charge + d.granted ≤ d.budget →
            exec .hallPassGrant s =
              .next (((s.setDie dk { d with granted := d.granted + r.charge, waiting := l }).passGranted r).pokeProctor dk)))
    ∧ (let e := s.die (dieKey g)
       let mine := e.waiting.filter fun r => r.g = g
       let waits := (s.form (formKey g)).tileWait.any fun r => r.1 = g
       (∀ r, mine[s.arg.aux]? = some r →
          let t := s.setDie (dieKey g) { e with waiting := e.waiting.erase r, refused := min (e.refused + 1) (2 ^ 20 - 1) }
          exec .hpwaitExpiry s =
            .next (((t.roll (dieKey g) 4 0 0x14 r.charge (wordOf (dieHart g)) 0).passRefused r).pokeProctor (dieKey g)))
       ∧ (mine.length ≤ s.arg.aux → waits = false → exec .hpwaitExpiry s = .next s)
       ∧ (mine.length ≤ s.arg.aux → waits = true → s.Tables →
          ∃ t, exec .hpwaitExpiry s = .next t ∧ (t.getHart g).mat.reply = some false ∧ (t.getHart g).mat.taken = 0 ∧ (t.die (dieKey g)).waiting = e.waiting
            ∧ ((t.form (formKey g)).tileWait.any fun r => r.1 = g) = false))
    ∧ (s.dieHere →
        ((s.form fk).tileWait = [] → exec .tileGrant s = .next s)
        ∧ ∀ h mn mx l, (s.form fk).tileWait = (h, mn, mx) :: l →
          ((s.form fk).tiles < mn → exec .tileGrant s = .next s)
          ∧ (s.Tables → mn ≤ (s.form fk).tiles →
            let k := min (s.form fk).tiles mx
            let e := s.die (dieKey h)
            let has : Prop := e.waiting = [] ∧ 4700 + e.granted ≤ e.budget
            ∃ t, exec .tileGrant s = .next t ∧ (t.form fk).tiles = (s.form fk).tiles - k ∧ (t.form fk).tileWait = l ∧ t.mem = s.mem
              ∧ (t.getHart h).mat.taken = k ∧ (has → (t.getHart h).mat.reply = some true ∧ (t.die (dieKey h)).granted = e.granted + 4700)
              ∧ (¬ has → (t.getHart h).mat.reply = none
                ∧ (t.die (dieKey h)).waiting = e.waiting ++ [{ kind := .tile, g := h, slot := 0, charge := 4700 }])))
  )

/-- RECORD_MERGE, RECORD_ARRIVAL, CLOSE_MARKER_ARRIVAL, BATCH_DEADLINE and ROUND_FAILURE_NOTICE (R288, R289, R293, R294, R308): a record or a marker short of its merge points passes one, one past them arrives, returned records are written, a receiver's deadline closes its batch, a failure notice ends, with FAILED, the part of the party it is for and of no other; an XID with no round, and one not yet armed, moves nothing.
LINK_FAIL, TRANSFER_TIMEOUT, GATHER_PIECE_RESPONSE, FLIT_RECEIVE, PORT_RETRAIN, RETRAIN_DONE and RETRAIN_TIMEOUT (R376, R378, R379, R382, R385) at a port or an end of a die link: a flit whose CRC is right (its start value is UNVERIFIED, log 16) and whose number is expected is accepted, and any other leaves a NAK due; that an idle flit takes no number is the model's choice (log 62); retraining begins, ends, and fails after 1 ms or with a second lane; a failed port or die link carries nothing more, and a 7101 has none; pieces of gathers are answered as far as their home reaches its dies, or lost; that the next transfer is the one that times out is the model's choice (log 21).
REPLICA_CREATE, REPLICA_INVALIDATE, REPLICA_ACK and REPLICA_ACK_TIMEOUT (R388, R389): after a read a hub with room takes a replica of a page homed elsewhere, of which no write is held, and its home marks it a holder; an invalidate drops the replica and the translation-cache entries of it, and is acknowledged; with the last acknowledgement the held writes of the page are placed, oldest first, and none is held. -/
def Obligations.FabricEvents : Prop :=
  (
  ∀ s : State,
    let xid := s.arg.idx
    (∀ i ∈ ([.recordMerge, .recordArrival, .closeMarkerArrival] : List Instr),
      s.arg.aux ≠ 1 → ((s.xid xid).round = none ∨ ∃ r, (s.xid xid).round = some r ∧ r.table = none) → exec i s = .next s)
    ∧ (s.arg.aux = 1 → exec .recordArrival s = .next (((s.writeResiduals xid).closeRound xid).freeXid xid))
    ∧ (∀ (r : Round) (k : Nat) (f : Flight), (s.xid xid).round = some r → r.table ≠ none →
        let u := s.nextFree
        let gone := u.setRound xid { r with flights := r.flights.eraseIdx k }
        (s.pickFlight r (fun f => decide (0 < f.hops)) = some (k, f) →
          exec .recordMerge s = .next ((u.setRound xid { r with flights := r.flights.set k { f with hops := f.hops - 1 } }).pokeRound xid))
        ∧ (s.arg.aux ≠ 1 → s.pickFlight r (fun f => f.hops == 0 && !f.marker) = some (k, f) →
            exec .recordArrival s = .next ((gone.arriveRecord xid (f.ridx.getD 0) f.record).pokeRound xid))
        ∧ (s.pickFlight r (fun f => f.hops == 0 && f.marker) = some (k, f) →
            exec .closeMarkerArrival s = .next ((gone.arriveMarker xid (f.ridx.getD 0)).pokeRound xid)))
    ∧ (((s.settleDeadline xid s.arg.aux).xid xid).round = none → exec .batchDeadline s = .next (s.settleDeadline xid s.arg.aux))
    ∧ (∃ t, exec .batchDeadline s = .next t)
    ∧ exec .roundFailureNotice s = .next (s.failParty xid s.arg.val.toNat s.arg.aux)
    ∧ (s.Tables → ∀ g : Nat,
        let x := (s.getHart g).xch
        ((s.failParty xid s.arg.val.toNat s.arg.aux).getHart g).xch =
          if x.rstate ≠ 0 ∧ x.xid = xid ∧ x.serial = s.arg.val.toNat ∧ x.ident = s.arg.aux then { (x.flag xFAILED).enter 4 with pass := false } else x)
  )
  ∧ (
  ∀ s : State,
    let a := s.arg
    let r := s.port a.pkg a.idx
    let next (i : Instr) (p : PortRec → Prop) : Prop :=
      ∃ t, exec i s = .next t ∧ p (t.port a.pkg a.idx) ∧ t.mem = s.mem ∧ t.hart = s.hart
    let unit : Prop := (a.idx < 20 ∨ 22 ≤ a.idx ∧ a.idx < 32) ∧ s.part ≠ .p7101
    let end_ : Prop := (a.idx < 20 ∨ 22 ≤ a.idx ∧ a.idx < 42) ∧ s.part ≠ .p7101
    let no := if a.idx < 32 then a.idx else a.idx - 10
    let done (v : Bool) : PortRec := { r with retraining := false, spared := v, unacked := r.unacked.map fun u => { u with sent := 0 } }
    (s.pkgHere → s.Tables → end_ →
      let f := FlitHead.ofNat (leNat (a.data.take 4))
      let good := flitGood a.data && f.seq == r.expected
      (good = false → next .flitReceive fun q => q = { r with nak := true })
      ∧ (good = true → f.type ≠ 0 → next .flitReceive fun q => q.expected = (r.expected + 1) % 4096 ∧ q.nak = false
          ∧ q.got = (f.vc, f.type, BitVec.ofNat 928 (leNat ((a.data.drop 4).take 116))))
      ∧ (good = true → f.type = 0 → next .flitReceive fun q => q.expected = r.expected ∧ q.nak = false))
    ∧ (s.pkgHere → (¬ end_ → exec .flitReceive s = .next s ∧ exec .portRetrain s = .next s) ∧ (¬ unit → exec .linkFail s = .next s))
    ∧ (s.pkgHere → unit → exec .linkFail s = .next (s.failUnit a.pkg a.idx))
    ∧ (s.Tables → SMap.wf false (s.pkg a.pkg).portFailed = true → SMap.wf false (s.pkg a.pkg).linkFailed = true →
        let t := s.failUnit a.pkg a.idx
        t.mem = s.mem ∧ (a.idx < 22 → t.portUp a.pkg a.idx = false)
        ∧ (22 ≤ a.idx → ∀ b c, b < 5 → c < 5 → b ≠ c → linkNo b c = a.idx - 22 → t.dieLinkUp a.pkg b c = false))
    ∧ (s.pkgHere → s.Tables →
      (end_ → next .portRetrain fun q => q = { r with retraining := true })
      ∧ (r.retraining = true → a.flag = false → next .retrainDone fun q => q.retraining = false ∧ q.spared = r.spared)
      ∧ (r.retraining = true → a.flag = true → r.spared = false → next .retrainDone fun q => q.retraining = false ∧ q.spared = true))
    ∧ (s.pkgHere → r.retraining = true →
        exec .retrainTimeout s = .next ((s.setPort a.pkg a.idx { r with retraining := false }).failUnit a.pkg no)
        ∧ (a.flag = true → r.spared = true → exec .retrainDone s = .next
            ((((s.setPort a.pkg a.idx (done true)).resendAll a.pkg a.idx).drainPort a.pkg a.idx r.backlog.length).failUnit a.pkg no)))
    ∧ (s.pkgHere → r.retraining = false → exec .retrainDone s = .next s ∧ exec .retrainTimeout s = .next s)
    ∧ (a.val = 0 → a.flag = false → exec .transferTimeout s = .next (s.setHart a.idx { s.getHart a.idx with doomed := true }))
    ∧ (a.val ≠ 0 → exec .transferTimeout s = .next (s.setPkg a.pkg { s.pkg a.pkg with doomed := true }))
    ∧ (a.val = 0 → a.flag = true → exec .transferTimeout s =
        .next (s.nextFree.modPieces a.idx fun p => if p.home ≠ a.aux ∨ p.settled = true then p else p.lose s.free))
    ∧ (s.Tables → ∀ (e : QEntry) (l : List QEntry) (x : Piece), (s.getHart a.idx).queue = e :: l → x ∈ e.pieces → x.home = a.aux →
        x.settled = false →
        ∃ t e' l' y, exec .gatherPieceResponse s = .next t ∧ (t.getHart a.idx).queue = e' :: l' ∧ l'.length = l.length
          ∧ y ∈ e'.pieces ∧ y.home = x.home ∧ y.settled = true
          ∧ (s.pathUp a.idx x = true → (∀ d ∈ x.dies, s.dieLinkUp x.home (d % 4) 4 = true) → y.whole = true ∧ y.delivered = x.dies.length)
          ∧ (s.pathUp a.idx x = false → y.whole = false ∧ y.delivered ≤ x.dies.length))
    ∧ (∃ t, exec .gatherPieceResponse s = .next t)
  )
  ∧ (
  ∀ s : State, s.pkgHere → s.Tables →
    let p := s.arg.pkg
    let page := s.arg.idx
    let q := homeOf (65536 * page)
    let r := s.pkg p
    let h := s.pkg q
    (s.arg.flag = true → p ≠ q → s.present q = true → (s.route p q).isSome = true → page ∉ r.replicas → r.replicas.length < min r.boot.replPool 16384 →
      (∀ w ∈ h.held, keyPage w.key ≠ page) → SMap.get 0 h.awaited page = 0 →
        ∃ t, exec .replicaCreate s = .next t ∧ (t.pkg p).replicas = r.replicas ++ [page]
          ∧ (SMap.get 0 (t.pkg q).holders page).testBit p = true ∧ t.mem = s.mem)
    ∧ (s.arg.flag = false ∨ p = q ∨ page ∈ r.replicas ∨ SMap.get 0 h.awaited page ≠ 0 ∨ (∃ w ∈ h.held, keyPage w.key = page) →
        exec .replicaCreate s = .next s)
    ∧ ((s.route q p).isSome = true →
        ∃ t, exec .replicaInvalidate s = .next t ∧ page ∉ (t.pkg p).replicas ∧ pageEvent .replicaAck q page p ∈ t.events ∧ t.mem = s.mem
          ∧ t.tlb = s.tlb.filter (fun l => decide (l.die / 4 ≠ p ∨ l.framePage ≠ page)))
    ∧ ((s.route q p).isNone = true → exec .replicaInvalidate s = .next (s.pushOnce (pageEvent .replicaAckTimeout q page p)))
    ∧ (let left := SMap.get 0 r.awaited page
       let mine := r.held.filter fun w => keyPage w.key = page
       (left = 0 → exec .replicaAck s = .next s)
       ∧ (left = 2 ^ s.arg.aux → (∀ w ∈ mine, s.alien w.cipher w.key w.len = false) →
          ∃ t, exec .replicaAck s = .next t ∧ t.mem = mine.foldl (fun m w => m.writeBad w.key w.len w.value w.bad) s.mem ∧ t.hart = s.hart
            ∧ (t.pkg p).held = r.held.filter (fun w => keyPage w.key ≠ page)))
    ∧ ((s.route p s.arg.aux).isNone = true → exec .replicaAckTimeout s = exec .replicaAck s)
    ∧ ((s.route p s.arg.aux).isSome = true → exec .replicaAckTimeout s = .next s)
  )

/-- HOST_READ, HOST_WRITE, APERTURE_DESCRIPTOR_WRITE and MSIX_UNMASK (R209, R376, R389, R396 to R399, R416), once the bridge's earlier writes are placed: a read of a register or a descriptor completes with its bytes, least significant first, one of what is not assigned as unsupported; a write goes to its place, to one descriptor at once; a package with no bridge does neither; after a failed bring-up BAR 4 reads as the step and nothing else is there; a request whose transfer is lost completes as an abort; the memory window answers through its descriptor (`HostWindow`); unmasking an MSI-X vector sends what was latched once.
What a request to the memory window leaves (R382, R398), for one within an aligned word of 8 bytes: with its descriptor off a read is unsupported and a write dropped; where the translation fails, or its transfer is lost, a read completes as an abort and nothing is stored; else a read completes with the bytes of memory, as poisoned where they are, and a write stores its bytes and no other.
PTP_SYNC, PDELAY, NO_GM, TIME_SET and TIME_SLEW (R391, R392, R401): a synchronised hub measures its lag with an error of at most 20 ns, steps forward by more than 10 µs and slews otherwise, going on with what the grandmaster has left to slew by; a port's measured delay is kept; a hub with no route left to the grandmaster runs freely, with an event; before the first dispatch the host's time is taken at once by every hub that does not run freely, after it that time is a target; a 7101's controller sets its time once, forward, before the first dispatch, and slews it after. -/
def Obligations.HostEvents : Prop :=
  (
  ∀ s : State, s.pkgHere →
    let a := s.arg
    let p := a.pkg
    let r := s.pkg p
    let n := a.val.toNat
    let v := leNat a.data
    let said (c : Completion) (bs : List Byte) : State := { s with outbox := s.outbox ++ [.readData p c bs] }
    let lost (w : Nat × Nat) : Prop := s.hubReaches p w.1 = false ∨ (r.doomed = true ∧ w.1 / 4 ≠ p)
    let sized (k : Nat) : Prop := (k = 1 ∨ k = 2 ∨ k = 4 ∨ k = 8) ∧ a.aux % k = 0
    (s.bridges p = false → exec .hostRead s = .next s ∧ exec .hostWrite s = .next s)
    ∧ (s.bridges p = true → s.agentHeld (hostWriter p) = true →
        exec .hostRead s = .next (s.hostAgain .hostRead) ∧ (r.failedStep = 0 → exec .hostWrite s = .next (s.hostAgain .hostWrite)))
    ∧ (s.bridges p = true → r.failedStep = 0 → s.agentHeld (hostWriter p) = false →
        (a.idx = 0 → sized n →
          (∀ w u, s.bar0 a.aux = some w → s.winRead w.1 w.2 n = some u →
            (¬ lost w → exec .hostRead s = .next (said .success (leBytes n u)))
            ∧ (lost w → ∃ t, exec .hostRead s = .next t ∧ t.outbox = s.outbox ++ [.readData p .abort []] ∧ t.hart = s.hart ∧ t.mem = s.mem))
          ∧ (s.bar0 a.aux = none → exec .hostRead s = .next (said .unsupported [])))
        ∧ (a.idx = 4 → sized n → a.aux < 512 →
            exec .hostRead s = .next (said .success (leBytes n ((r.aperture (a.aux / 32)).toNat / 2 ^ (8 * (a.aux % 32)) % 2 ^ (8 * n)))))
        ∧ (a.idx = 4 → a.data.length = 32 → a.aux % 32 = 0 → a.aux < 512 → exec .hostWrite s = .next (s.apertureWrite p (a.aux / 32) 0 32 v))
        ∧ (a.idx = 2 → exec .hostRead s = .next (s.bar2Read p a.aux n) ∧ exec .hostWrite s = .next (s.bar2Write p a.aux a.data))
        ∧ (a.idx = 1 ∨ a.idx = 3 ∨ 4 < a.idx → exec .hostRead s = .next (said .unsupported []) ∧ exec .hostWrite s = .next s)
        ∧ (a.idx = 0 → sized a.data.length → ∀ w, s.bar0 a.aux = some w → ¬ lost w →
            exec .hostWrite s = .next (s.winWrite w.1 w.2 a.data.length v)))
    ∧ (r.failedStep ≠ 0 → exec .hostWrite s = .next s
        ∧ (s.bridges p = true → s.agentHeld (hostWriter p) = false → a.idx = 0 ∨ a.idx = 2 → exec .hostRead s = .next (said .unsupported []))
        ∧ (s.bridges p = true → s.agentHeld (hostWriter p) = false → a.idx = 4 → a.aux = 0 → sized n →
            exec .hostRead s = .next (said .success (leBytes n (r.failedStep % 2 ^ (8 * n))))))
    ∧ (a.idx < 16 → exec .apertureDescriptorWrite s = .next (s.apertureWrite p a.idx 0 32 n))
    ∧ (a.idx < 16 → s.Tables → ∀ t, exec .apertureDescriptorWrite s = .next t → (t.pkg p).aperture a.idx =
        let old := r.aperture a.idx
        let res := BitVec.ofNat 256 (2 ^ 112 - 2)
        if old.getLsbD 0 then (if a.val.getLsbD 0 then old else old &&& ~~~1#256) else (old &&& res) ||| (a.val &&& ~~~res))
    ∧ (16 ≤ a.idx → exec .apertureDescriptorWrite s = .next s)
    ∧ (a.idx < 4 → s.Tables →
        (a.flag = false → ∃ t, exec .msixUnmask s = .next t ∧ (t.pkg p).msixMask.testBit a.idx = false ∧ (t.pkg p).msixLatch.testBit a.idx = false
          ∧ t.outbox = s.outbox ++ (if r.msixLatch.testBit a.idx then [.msix p a.idx] else []) ∧ t.hart = s.hart ∧ t.mem = s.mem)
        ∧ (a.flag = true → ∃ t, exec .msixUnmask s = .next t ∧ (t.pkg p).msixMask.testBit a.idx = true ∧ (t.pkg p).msixLatch = r.msixLatch
          ∧ t.outbox = s.outbox ∧ t.hart = s.hart ∧ t.mem = s.mem))
  )
  ∧ (
  ∀ (s : State) (p off : Nat) (bs : List Byte),
    let n := bs.length
    let d := (s.pkg p).aperture (off / 2 ^ 36)
    let o := off % 2 ^ 36
    let loc (k : Kind) : Loc := s.hostLoc p (hostAccess p d (s.pkg p).doomed k) (wordOf (fieldB d 128 64) + wordOf o) n
    let aborts (t : State) : Prop := t.outbox = s.outbox ++ [.readData p .abort []] ∧ t.hart = s.hart ∧ t.mem = s.mem
    let off_ : Prop := 16 ≤ off / 2 ^ 36 ∨ d.getLsbD 0 = false
    (off_ → s.bar2Read p off n = { s with outbox := s.outbox ++ [.readData p .unsupported []] } ∧ s.bar2Write p off bs = s)
    ∧ (¬ off_ → 0 < n → o % 8 + n ≤ 8 →
        (∀ c, loc .read = .bad c → aborts (s.bar2Read p off n))
        ∧ (∀ c, loc .write = .bad c → (s.bar2Write p off bs).mem = s.mem ∧ (s.bar2Write p off bs).hart = s.hart)
        ∧ (∀ pl l, loc .read = .place pl l true → aborts (s.bar2Read p off n))
        ∧ (∀ pl l, loc .read = .place pl l false →
            let v := s.hostVisit p pl .read l
            s.bar2Read p off n = { v with outbox := v.outbox ++
              [.readData p (if s.mem.poisoned pl.key n then .poisoned else .success) (leBytes n (s.readAt l pl.key n))] })
        ∧ ∀ pl l, loc .write = .place pl l false →
            let v := s.hostVisit p pl .write l
            let t := s.bar2Write p off bs
            v.mem.wf = true → v.holds (hostWriter p) pl.key n = false → v.alien (v.leafKey l) pl.key n = false →
              t.hart = s.hart ∧ ∀ k, t.mem.byte k = if pl.key ≤ k ∧ k < pl.key + n then bs.getD (k - pl.key) 0 else v.mem.byte k)
  )
  ∧ (
  ∀ s : State, s.pkgHere →
    let p := s.arg.pkg
    let r := s.pkg p
    let v := s.arg.val.toNat
    let off := toSigned 64 v
    let ahead := (s.pkg s.grandmaster).slew
    let lag := s.behind p + max (-20) (min 20 off)
    s.Tables →
    (s.part ≠ .p7101 → p ≠ s.grandmaster → (s.route p s.grandmaster).isSome = true →
        (lag ≤ 10000 → ∃ t, exec .ptpSync s = .next t ∧ t.hart = s.hart ∧ t.mem = s.mem
            ∧ t.pkg p = { r with freeRun := false, slew := lag + ahead, slewFrom := s.ns, ports := (t.pkg p).ports })
        ∧ (10000 < lag → ∃ t, exec .ptpSync s = .next t ∧ t.hart = s.hart ∧ t.mem = s.mem
            ∧ t.pkg p = { r with freeRun := false, slew := ahead, slewFrom := s.ns, timeOff := r.timeOff + BitVec.ofInt 64 lag, ports := (t.pkg p).ports }))
    ∧ (p = s.grandmaster → exec .ptpSync s = .next s ∧ exec .noGm s = .next s)
    ∧ (s.part = .p7101 ∨ 20 ≤ s.arg.idx → exec .pdelay s = .next s)
    ∧ (s.part ≠ .p7101 → s.arg.idx < 20 → ∃ t, exec .pdelay s = .next t ∧ (t.port p s.arg.idx).delay = v ∧ t.hart = s.hart ∧ t.mem = s.mem
        ∧ t.pkg p = { r with ports := (t.pkg p).ports })
    ∧ (p ≠ s.grandmaster → s.part ≠ .p7101 → (s.route p s.grandmaster).isNone = true → r.freeRun = false →
        ∃ t, exec .noGm s = .next t ∧ t.pkg p = { r with freeRun := true, slew := 0 } ∧ t.hart = s.hart ∧ t.mem = s.mem)
    ∧ (s.part ≠ .p7101 → r.boot.portMode = 0 → s.dispatched = false →
        ∃ t, exec .timeSet s = .next t ∧ (∀ q ∈ s.packages, t.timeNs q = if (s.pkg q).freeRun then s.timeNs q else wordOf v) ∧ t.hart = s.hart ∧ t.mem = s.mem)
    ∧ (s.part ≠ .p7101 → r.boot.portMode = 0 → s.dispatched = true → s.packages.Nodup →
        ∃ t, exec .timeSet s = .next t ∧ t.hart = s.hart ∧ t.mem = s.mem ∧ ∀ q ∈ s.packages,
          let e := s.pkg q
          let d := toSigned 64 (wordOf v - s.timeNs p).toNat + s.behind q
          t.pkg q = if e.freeRun then e
            else if 10000 < d then { e with timeOff := e.timeOff + BitVec.ofInt 64 d, slew := 0, slewFrom := s.ns }
            else { e with slew := d, slewFrom := s.ns })
    ∧ (s.part ≠ .p7101 → r.boot.portMode ≠ 0 → exec .timeSet s = .next s)
    ∧ (s.part = .p7101 → s.dispatched = true ∨ r.timeSet = true → exec .timeSet s = .next s)
    ∧ (s.part = .p7101 → s.dispatched = false → r.timeSet = false → 0 ≤ toSigned 64 (wordOf v - s.timeNs p).toNat →
        ∃ t, exec .timeSet s = .next t ∧ t.timeNs p = wordOf v ∧ t.hart = s.hart ∧ t.mem = s.mem)
    ∧ (s.part = .p7101 → ∃ t, exec .timeSlew s = .next t ∧ PkgNow s t p { r with slew := off, slewFrom := s.ns })
    ∧ (s.part ≠ .p7101 → exec .timeSlew s = .next s)
  )

/-- CORRECTED, POISONED, PARITY_ERROR, ROW_REPAIR, FATAL_ERROR, FORM_QUIESCE, QUIESCE_LIMIT and FW_UPDATE (R352, R407, R411 to R415): a corrected and an uncorrectable error write their events, the latter with its word poisoned; corrected errors of DRAM are counted by row for an hour, and the sixteenth has the row repaired; a parity error kills the hart's task; a repaired row is recorded; a quiesced form is replaced once it is empty; a verified image is taken and no other. Which address lies in which row is open (log 17).
What an event, a fatal error, a kill and the end of a task leave (R340, R357, R414): the event's fields and the index one on, and none once the rollbook is frozen; a fatal error's event, the rollbook frozen behind it, MSI-X vector 0, and each task of the die killed; of a killed task the KILL event, its unfinished drafts ABANDONED and its harts ended; an ended hart idle, its streams, queue, lease and tiles gone, and the registers that no rule clears as they were.
COLD_RESET, WARM_RESET, BOOT_CONFIG_WRITE, MIN_VERSION_RAISE and POWER_LOSS (R399, R400, R407, R408): the first image that does not verify, or is too old, stops a cold reset; each die of a package that comes up runs its boot task on hart 0 of core 0 with its boot record in memory, its slates and scalar data memories read as zero, after a cold reset its DRAM too; the boot configuration and the minimum version are written within their limits. The record's place, x10, the boot task's pc, PTBASE and VSAVEPTR are the model's choice (log 2), and the failing step as an operand (log 44). -/
def Obligations.ServiceEvents : Prop :=
  (
  ∀ s : State,
    let a := s.arg
    let dk := a.dieKey
    let r := s.pkg a.pkg
    let v := a.val.toNat
    let told (t : State) (code : Nat) : State := t.roll dk 3 0 code a.idx (wordOf v) 0
    (s.dieHere →
      (a.idx ≠ 4 → exec .corrected s = .next (told s 5))
      ∧ (a.idx = 4 → s.Tables →
          let row := Config.dramRow v
          let rows := (s.die dk).rowErrors.filter (fun e => decide (s.ns ≤ e.2 + 3600000000000)) ++ [(row, s.ns)]
          let many : Prop := 16 ≤ (rows.filter fun e => e.1 = row).length
          ∃ t, exec .corrected s = .next t ∧ t.hart = s.hart ∧ t.mem = s.mem
            ∧ (¬ many → (t.die dk).rowErrors = rows ∧ t.events = s.events)
            ∧ (many → (t.die dk).rowErrors = rows.filter (fun e => e.1 ≠ row)
              ∧ { kind := .rowRepair, arg := { EvArg.none with pkg := a.pkg, die := a.die, idx := 4, val := a.val } } ∈ t.events))
      ∧ (3 ≤ a.idx → exec .poisoned s = .next (told { s with mem := s.mem.poison (Place.dram dk v).key } 6))
      ∧ (a.idx = 1 → exec .poisoned s = .next (told { s with mem := s.mem.poison (Place.slate (768 * a.pkg + a.aux) v).key } 6))
      ∧ (a.idx = 0 ∨ a.idx = 2 → exec .poisoned s = .next (told s.poisonWord 6))
      ∧ exec .rowRepair s = .next (told (s.setPkg a.pkg { r with nv := { r.nv with rows := r.nv.rows ++ [(a.die, v)] } }) 0x1A)
      ∧ exec .fatalError s = .next (s.fatal dk a.idx (wordOf v))
      ∧ exec .formQuiesce s = .next ((s.setForm (48 * dk + a.idx) { s.form (48 * dk + a.idx) with quiesced := true }).spareForm (48 * dk + a.idx))
      ∧ ((s.form (48 * dk + a.idx)).quiesced = false → exec .quiesceLimit s = .next s)
      ∧ (let ver := v % 2 ^ 32
         (a.flag = true → r.nv.minVersion ≤ ver →
          exec .fwUpdate s = .next (((s.setDie dk { s.die dk with firmware := ver }).roll dk 1 0 0x19 ver 0 0).pokePackage a.pkg))
         ∧ (a.flag = false ∨ ver < r.nv.minVersion → exec .fwUpdate s = .next s))
      ∧ ∃ t, exec .quiesceLimit s = .next t)
    ∧ ((s.getHart a.idx).run ≠ .idle → exec .parityError s = .next (s.kill a.idx 0 (s.getHart a.idx).pc))
    ∧ ((s.getHart a.idx).run = .idle → exec .parityError s = .next s)
  )
  ∧ (
  ∀ s : State, s.Tables →
    (∀ (dk kind index code a0 : Nat) (a1 a2 : Word),
      let d := s.die dk
      let t := s.roll dk kind index code a0 a1 a2
      (d.rollFrozen = true → t = s)
      ∧ (d.rollFrozen = false → SMap.wf 0 d.roll = true →
          t = { s with dies := t.dies } ∧ (∀ k, t.die k = if k = dk then { d with roll := (t.die dk).roll, rollIndex := (d.rollIndex + 1) % 65536 } else s.die k)
          ∧ ∀ k, let e := SMap.get 0 (t.die dk).roll k
            (k ≠ d.rollIndex → e = SMap.get 0 d.roll k)
            ∧ (k = d.rollIndex → fieldB e 0 64 = (s.timeNs (dk / 4)).toNat ∧ fieldB e 64 12 = index % 4096 ∧ fieldB e 76 4 = kind % 16
              ∧ fieldB e 80 16 = code % 65536 ∧ fieldB e 96 32 = a0 % 2 ^ 32 ∧ fieldB e 128 64 = a1.toNat ∧ fieldB e 192 64 = a2.toNat)))
    ∧ (∀ (dk unit : Nat) (v : Word), (∀ h ∈ s.parked, dieKey h.1 ≠ dk) →
        let u := s.roll dk 1 0 0x1F unit v 0
        let f := (u.setDie dk { u.die dk with rollFrozen := true }).raiseMsix (dk / 4) 0
        let gs := s.known.filter fun g => dieKey g = dk && (s.getHart g).run != .idle
        (gs = [] → s.fatal dk unit v = f)
        ∧ ∀ g, gs = [g] → (s.getHart g).mode ≠ .pipeline → (s.getHart g).task.boot = false → s.fatal dk unit v = f.kill g 0 (s.getHart g).pc)
    ∧ (∀ (g cause : Nat) (pc : Word),
        let h := s.getHart g
        h.mode ≠ .pipeline → h.task.boot = false →
        s.kill g cause pc = ((s.rollHart g 8 cause pc (wordOf (h.task.packet + h.task.queue * 2 ^ 32))).abandon h.task.home h.task.queue h.task.packet).endTask g)
    ∧ (∀ home queue packet d : Nat, (∀ k, SMap.wf DraftRec.reset (s.die k).drafts = true ∧ ∀ r ∈ (s.die k).drafts, r.1 < 16384) →
        d < 16384 * s.dieCount →
        let e := s.draft (home / 4) d
        (s.abandon home queue packet).draft (home / 4) d =
          if e.bound = true ∧ e.queue = queue ∧ e.packet = packet ∧ e.final = false then { e with abandoned := true } else e)
    ∧ ∀ g : Nat,
        let h := s.getHart g
        let k := (s.endTask g).getHart g
        h.run ≠ .idle → h.mode ≠ .pipeline →
        k.run = .idle ∧ k.x = h.x ∧ k.pc = h.pc ∧ k.ctl = h.ctl ∧ k.masks = h.masks ∧ k.queue = [] ∧ k.slots = Hart.reset.slots
        ∧ k.lease = Lease.none ∧ k.mat.tiles = 0 ∧ k.mat.pass = false ∧ k.hpass = 0
  )
  ∧ (
  ∀ s : State, s.pkgHere →
    let a := s.arg
    let p := a.pkg
    let r := s.pkg p
    let v := a.val.toNat
    let small : Bool := s.part == .p7101
    let b := BootCfg.ofNat (leNat a.data) small
    let first : Prop := small = true ∨ (a.flag = true ∧ r.nv.minVersion ≤ v % 2 ^ 32)
    let others : Prop := a.idx = 0 ∧ r.nv.minVersion ≤ v / 2 ^ 32 % 2 ^ 32
    (first → others → exec .coldReset s = .next (s.resetPackage p false a.aux))
    ∧ (¬ first → exec .coldReset s = .next (s.resetPackage p false 1))
    ∧ (first → ¬ others → exec .coldReset s = .next (s.resetPackage p false (if a.aux = 1 then 1 else 2)))
    ∧ exec .warmReset s = .next (s.resetPackage p true a.aux)
    ∧ (∀ warm step, step = 0 ∨ 3 < step → s.mem.wf = true → s.Tables → r.nv.boot.recordAt < 2 ^ 47 →
        let m := (s.resetPackage p warm step).mem
        let at_ (d : Nat) : Nat := if r.nv.boot.recordAt = 0 then 2 ^ 56 + (768 * p + 192 * d) * 2 ^ 20 + 786368 else (4 * p + d) * 2 ^ 48 + r.nv.boot.recordAt
        let inRecord (k : Nat) : Prop := step = 0 ∧ ∃ d, d < s.dieCount ∧ at_ d ≤ k ∧ k < at_ d + 60
        (step = 0 → ∀ d j, d < s.dieCount → j < 60 → m.byte (at_ d + j) = BitVec.ofNat 8 (r.nv.boot.record / 256 ^ j))
        ∧ (∀ k, ¬ inRecord k → coreMemOf p k = true → m.byte k = 0) ∧ (warm = false → ∀ k, ¬ inRecord k → dramOf p k = true → m.byte k = 0)
        ∧ ∀ k, ¬ inRecord k → coreMemOf p k = false → dramOf p k = false ∨ warm = true → m.byte k = s.mem.byte k)
    ∧ (∀ c : BootCfg, c.ok small = true → c.windows.length = 4 → (∀ w ∈ c.windows, w < 2 ^ 64) → c.ctxBase < 2 ^ 64 → c.ctxCount < 2 ^ 32 → BootCfg.ofNat c.record small = { c with recordAt := 0 } ∧ c.record < 256 ^ 60)
    ∧ (∀ warm step, s.Tables → s.cur / 3072 = p → s.cur % 768 = 0 → s.cur % 3072 / 768 < s.dieCount →
        let t := s.resetPackage p warm step
        let die := s.cur % 3072 / 768
        (step ≠ 0 → t.hart = Hart.reset)
        ∧ (step = 0 → t.hart = bootHart r.nv.boot t.mem p die ∧ t.hart.prv = true ∧ t.hart.run = .running ∧ t.hart.code = t.mem
          ∧ t.hart.lease.held = 1 ∧ t.hart.task.boot = true ∧ t.hart.queue = []
          ∧ ∀ n : Reg, n ≠ 10 → t.hart.readX n = if n = 12 then 1 else if n = 30 then stackTop 0 else 0))
    ∧ (exec .bootConfigWrite s =
        .next (if b.ok small = true then s.setPkg p { r with nv := { r.nv with boot := b } } else s))
    ∧ (exec .minVersionRaise s =
        .next (if a.flag = true ∧ r.nv.minVersion < v % 2 ^ 32 then s.setPkg p { r with nv := { r.nv with minVersion := v % 2 ^ 32 } } else s))
    ∧ (s.part = .p7101 → exec .powerLoss s = .next s)
    ∧ (s.part ≠ .p7101 → s.Tables →
        ∃ t, exec .powerLoss s = .next t ∧ PkgNow s t p { r with nv := { r.nv with xmss := min (r.nv.xmss + 1) (2 ^ 20) } })
  )

/-- Every event of an agent completes, whatever the state, where the package, the compute die, the core or the hart that it names is in the group (R1, R380). That one that names another faults, the rules giving such a unit no behaviour, and that the operands stand in State.arg, are the model's choice (log 45). What each leaves the statements on it say. -/
def Obligations.EventUnits : Prop :=
  ∀ s : State,
    (∀ i ∈ ([.linkFail, .flitReceive, .portRetrain, .retrainDone, .retrainTimeout, .replicaCreate, .replicaInvalidate, .replicaAck, .replicaAckTimeout,
        .ptpSync, .pdelay, .noGm, .timeSet, .timeSlew, .hostRead, .hostWrite, .apertureDescriptorWrite, .msixUnmask, .coldReset, .warmReset,
        .bootConfigWrite, .minVersionRaise, .load, .clear, .transportKeyWrite, .getVersion, .getCapabilities, .negotiateAlgorithms, .getDigests,
        .getCertificate, .challenge, .getMeasurements, .keyExchange, .finish, .powerLoss] : List Instr),
        (s.pkgHere → ∃ t, exec i s = .next t) ∧ (¬ s.pkgHere → exec i s = .fault .absentUnit))
    ∧ (let core : Prop := s.pkgHere ∧ s.arg.idx < 192 * s.dieCount
       ∀ i ∈ ([.haltreq, .haltComplete, .haltQuietTimeout, .resume] : List Instr),
        (core → ∃ t, exec i s = .next t) ∧ (¬ core → exec i s = .fault .absentUnit))
    ∧ (let hart : Prop := s.pkgHere ∧ s.arg.idx < 768 * s.dieCount
       (hart → ∃ t, exec .debugStateAccess s = .next t) ∧ (¬ hart → exec .debugStateAccess s = .fault .absentUnit))
    ∧ (∀ i ∈ ([.dispatchSlot, .copyHandoff, .levelAging, .relaunch, .tailWrite, .queueEnable, .queueDisable, .pipelineArm, .budgetWrite, .registerWrite,
        .hallPassGrant, .tileGrant, .corrected, .poisoned, .rowRepair, .fatalError, .formQuiesce, .quiesceLimit, .fwUpdate, .invalidate, .migrate,
        .translationOpDone] : List Instr), (s.dieHere → ∃ t, exec i s = .next t) ∧ (¬ s.dieHere → exec i s = .fault .absentUnit))
    ∧ ∀ i ∈ ([.queueHeadExecute, .leasewaitExpiry, .taskResume, .hpwaitExpiry, .streamElementLanding, .chunkDelivered, .recordMerge, .recordArrival,
        .closeMarkerArrival, .batchDeadline, .roundFailureNotice, .transferTimeout, .gatherPieceResponse, .parityError, .illegalInstruction,
        .fetchFault] : List Instr), ∃ t, exec i s = .next t

/-- LOAD, CLEAR, TRANSPORT_KEY_WRITE and the requests GET_VERSION to FINISH (R401, R408, R410): a key loads into an empty slot 1 to 4,095 when its wrapping is good and it can be unwrapped, and is refused otherwise; a slot but 0 is cleared, once no access checked under it is under way; a transport key is taken once; a request at its stage of the negotiation answers and an earlier one is an error, the stages being the SPDM standard's, which the model presumes (log 14); each signature takes one leaf, and none is made past the limit.
HALTREQ, HALT_COMPLETE, HALT_QUIET_TIMEOUT, RESUME and DEBUG_STATE_ACCESS (R355, R356): a core halts at once where the asking hart's QUIET is clear and nothing of it is in flight, and else freezes until an event finds it so, and where QUIET is set no stream still to land in its slate, or after 50 µs UNSTABLE; a halted core has each hart's pc in DPC, and resumes; the management path reads and writes the registers of a halted core and reports refusals.
INVALIDATE, MIGRATE and TRANSLATION_OP_DONE (R365, R369 to R371): they end with BUSY clear and DONE one more, or with ERR, 2 where no page of 64 KiB is mapped and 3 where it is read-duplicated; between, MIGRATE's leaf has MIG set, and then the page is copied, for fetches too, and it is the new entry with MIG clear and the accessed and dirty bits of both. That they wait for the accesses and writes under way, and that a start while one runs is dropped, are the model's choice (logs 10, 40). -/
def Obligations.SecurityEvents : Prop :=
  (
  ∀ s : State, s.pkgHere →
    let a := s.arg
    let p := a.pkg
    let n := a.idx
    let r := s.pkg p
    let said (t : State) (k c : Nat) : State := { t with outbox := t.outbox ++ [.reply p k (BitVec.ofNat 256 c)] }
    let fits : Prop := 1 ≤ n ∧ n ≤ 4095
    let key := SMap.get none r.keys n
    let good : Prop := fits ∧ key = none ∧ a.flag = true ∧ s.canUnwrap p = true
    let used : Prop := (key ≠ none ∧ ∃ w ∈ r.held, w.cipher = key)
      ∨ ∃ g ∈ s.known, ∃ e ∈ (s.getHart g).queue, ∃ l ∈ e.pages, l.pte.getLsbD 5 = true ∧ field l.pte 44 8 / 4 = p ∧ field l.pte 52 12 = n
    (good → exec .load s = .next (said (s.setPkg p { r with keys := SMap.set none r.keys n (some (a.val.toNat + 1)) }) 20 0))
    ∧ (¬ good → exec .load s = .next (said s 20 1))
    ∧ (fits → ¬ used → exec .clear s = .next (said (State.dropLates (s.setPkg p { r with keys := SMap.set none r.keys n none })) 21 0))
    ∧ (fits → used → exec .clear s = .next (s.pushOnce { kind := .clear, arg := a }))
    ∧ (¬ fits → exec .clear s = .next (said s 21 1))
    ∧ (s.part = .p7101 → r.transportKey = none →
        exec .transportKeyWrite s = .next (s.setPkg p { r with transportKey := some a.val }))
    ∧ (s.part ≠ .p7101 ∨ r.transportKey ≠ none → exec .transportKeyWrite s = .next s)
    ∧ (s.part ≠ .p7101 → s.Tables →
        let reply (i : Instr) (kind need stage : Nat) (signed : Bool) : Prop :=
          (r.spdm < need → exec i s = .next (s.spdmError p))
          ∧ (need ≤ r.spdm → signed = true → 2 ^ 20 ≤ r.nv.xmss → exec i s = .next (s.spdmError p))
          ∧ (need ≤ r.spdm → signed = false ∨ r.nv.xmss < 2 ^ 20 →
              ∃ t, exec i s = .next t ∧ t.hart = s.hart ∧ t.mem = s.mem ∧ (t.pkg p).spdm = max r.spdm stage
                ∧ (t.pkg p).nv.xmss = (if signed then r.nv.xmss + 1 else r.nv.xmss)
                ∧ ∃ w : BitVec 256, t.outbox.take (s.outbox.length + 1) = s.outbox ++ [.reply p kind w])
        reply .getVersion 1 0 1 false ∧ reply .getCapabilities 2 1 2 false ∧ reply .negotiateAlgorithms 3 2 3 false
          ∧ reply .getDigests 4 3 3 false ∧ reply .getCertificate 5 3 3 false ∧ reply .challenge 6 3 3 true
          ∧ reply .getMeasurements 7 3 3 a.flag ∧ reply .keyExchange 8 3 4 true ∧ reply .finish 9 4 5 false)
  )
  ∧ (
  ∀ s : State, s.pkgHere →
    let a := s.arg
    let c := 768 * a.pkg + a.idx
    let k := s.core c
    let g := 3072 * a.pkg + a.idx
    let h := s.getHart g
    let said (kind : Nat) (v : BitVec 256) : State := { s with outbox := s.outbox ++ [.reply (pkgOf g) kind v] }
    let done (now : Bool) : Event := { kind := .haltComplete, arg := { EvArg.none with pkg := c / 768, idx := c % 768, flag := now } }
    let quiet := k.quiet.getLsbD (a.aux % 4)
    let busy : Prop := ∃ j, j < 4 ∧ (s.getHart (4 * c + j)).midway = true
    let again (i : Instr) : Prop := ∀ j, s.unfrozen c = some j → exec i s = .next ((s.freezeOn j).pushOnce { kind := i, arg := a })
    (a.idx < 192 * s.dieCount →
      (k.halted = true → exec .haltreq s = .next s)
      ∧ (k.halted = false → quiet = false → ¬ busy → exec .haltreq s = .next (s.haltNow c 0 false false))
      ∧ (k.halted = false → quiet = true ∨ busy →
          exec .haltreq s = .next ((s.setCore c { k with halting := true, reason := 0 }).pushOnce (done !quiet)))
      ∧ (k.halting = false → exec .haltComplete s = .next s ∧ exec .haltQuietTimeout s = .next s)
      ∧ (k.halting = true → again .haltComplete ∧ again .haltQuietTimeout)
      ∧ (k.halting = true → s.unfrozen c = none →
          exec .haltQuietTimeout s = .next (s.haltNow c k.reason false true)
          ∧ (a.flag = true → exec .haltComplete s = .next (s.haltNow c k.reason false false))
          ∧ (a.flag = false → s.landsOn c = false → exec .haltComplete s = .next (s.haltNow c k.reason true false))
          ∧ (a.flag = false → s.landsOn c = true → exec .haltComplete s = .next (s.pushOnce (done false))))
      ∧ (k.halted = false → exec .resume s = .next s) ∧ (k.halted = true → exec .resume s = .next (s.resumeCore c)))
    ∧ (s.Tables → ∀ reason stable unstable,
        let t := s.haltNow c reason stable unstable
        t.core c = { k with halting := false, halted := true, stable := stable, unstable := unstable, reason := reason } ∧ t.mem = s.mem
        ∧ ∀ j, j < 4 → t.getHart (4 * c + j) = { s.getHart (4 * c + j) with dpc := (s.getHart (4 * c + j)).pc, late := none })
    ∧ (a.idx < 768 * s.dieCount → ∀ n : Reg, a.aux = n.toNat →
        ((s.core (coreKey g)).halted = true →
          (a.flag = false → exec .debugStateAccess s = .next (said 30 ((h.readX n).zeroExtend 256)))
          ∧ (a.flag = true → exec .debugStateAccess s = .next (s.setHart g (h.writeX n (wordOf a.val.toNat)))))
        ∧ ((s.core (coreKey g)).halted = false →
          (a.flag = false → exec .debugStateAccess s = .next (said 31 1)) ∧ (a.flag = true → exec .debugStateAccess s = .next s)))
  )
  ∧ (
  ∀ s : State, s.dieHere →
    let dk := s.arg.dieKey
    let d := s.die dk
    let walk := s.walk dk d.tcbRoot d.tcbVa
    let ready := s.dropLates.forget d
    (d.runsOp 1 = false → exec .invalidate s = .next s) ∧ (d.runsOp 2 = false → exec .migrate s = .next s)
    ∧ (d.runsOp 1 = true → exec .invalidate s = .next (s.pushOnce (opDone dk))
        ∧ (s.leafInUse d = false → s.writesDue none = false → exec .translationOpDone s = .next (ready.opEnd dk 0)))
    ∧ (d.runsOp 1 = true → s.leafInUse d = true ∨ s.writesDue none = true → d.runsOp 2 = false → exec .translationOpDone s = .next (s.pushOnce (opDone dk)))
    ∧ (d.runsOp 1 = false → d.runsOp 2 = false → exec .translationOpDone s = .next s)
    ∧ (d.runsOp 2 = true → d.runsOp 1 = false →
        (∀ l, walk = .leaf l 4 →
          (l.repl = true → exec .migrate s = .next (s.opEnd dk 3))
          ∧ (l.repl = false → exec .migrate s = .next ((s.putUnder l.cipher l.key 8 (l.pte ||| 0x200).toNat false).pushOnce (opDone dk)))
          ∧ (s.leafInUse d = true ∨ s.writesDue (some l.framePage) = true → exec .translationOpDone s = .next (s.pushOnce (opDone dk)))
          ∧ (s.leafInUse d = false → s.writesDue (some l.framePage) = false → exec .translationOpDone s = .next ((ready.migrate dk d).opEnd dk 0)))
        ∧ ((∀ l, walk ≠ .leaf l 4) → exec .migrate s = .next (s.opEnd dk 2)
            ∧ (s.leafInUse d = false → s.writesDue none = false → exec .translationOpDone s = .next (ready.opEnd dk 0))))
    ∧ (ready.mem = s.mem ∧ (∀ l ∈ ready.tlb, d.names l = false) ∧ ∀ l ∈ s.tlb, d.names l = false → l ∈ ready.tlb)
    ∧ (∀ l, walk = .leaf l 4 → s.mem.wf = true →
        let new := (d.tcbNew &&& ~~~0x200) ||| (l.pte &&& 0x60)
        let from_ := frameKey l.pte
        let to_ := frameKey d.tcbNew
        let apart (x n y m : Nat) : Prop := x + n ≤ y ∨ y + m ≤ x
        let plain (c : Option Nat) (k n : Nat) : Prop := s.alien c k n = false
        plain l.cipher l.key 8 → plain (s.keyName (pteHome l.pte / 4) (pteKey l.pte)) from_ 65536 →
        plain (s.keyName (pteHome d.tcbNew / 4) (pteKey d.tcbNew)) to_ 65536 →
        apart from_ 65536 to_ 65536 → apart l.key 8 from_ 65536 → apart l.key 8 to_ 65536 →
          let m := (s.migrate dk d).mem
          (∀ j, j < 65536 → m.byte (to_ + j) = s.mem.byte (from_ + j)) ∧ (∀ j, j < 8 → m.byte (l.key + j) = BitVec.ofNat 8 (new.toNat / 256 ^ j))
          ∧ (∀ k, ¬ (to_ ≤ k ∧ k < to_ + 65536) → ¬ (l.key ≤ k ∧ k < l.key + 8) → m.byte k = s.mem.byte k)
          ∧ (s.Tables → ∀ g, let code := (s.getHart g).code
              code.wf = true → ∀ j, j < 65536 → ((s.migrate dk d).getHart g).code.byte (to_ + j) = code.byte (from_ + j)))
    ∧ (s.Tables → ∀ err, 0 < err → err < 4 →
        fieldB ((s.opEnd dk err).die dk).tcb 5 1 = 0 ∧ fieldB ((s.opEnd dk err).die dk).tcb 6 2 = err
        ∧ fieldB ((s.opEnd dk 0).die dk).tcb 5 1 = 0
        ∧ fieldB ((s.opEnd dk 0).die dk).tcb 8 32 = (fieldB d.tcb 8 32 + 1) % 2 ^ 32)
  )
end

