-- ==== Sys2Proof/Laws/Dispatch.lean ====
section
/-! SUPPORT. Which meaning each instruction runs: one equation a constructor, so that no proof unfolds the dispatch. -/

namespace Sys2Proof.Machine

set_option Elab.async false

@[simp] theorem exec_hNop (s : State) : exec .hNop s = execHNop s := rfl
@[simp] theorem exec_add (o : ROp) (s : State) : exec (.add o) s = execAdd o s := rfl
@[simp] theorem exec_sub (o : ROp) (s : State) : exec (.sub o) s = execSub o s := rfl
@[simp] theorem exec_mul (o : ROp) (s : State) : exec (.mul o) s = execMul o s := rfl
@[simp] theorem exec_mulh (o : ROp) (s : State) : exec (.mulh o) s = execMulh o s := rfl
@[simp] theorem exec_mulhu (o : ROp) (s : State) : exec (.mulhu o) s = execMulhu o s := rfl
@[simp] theorem exec_div (o : ROp) (s : State) : exec (.div o) s = execDiv o s := rfl
@[simp] theorem exec_divu (o : ROp) (s : State) : exec (.divu o) s = execDivu o s := rfl
@[simp] theorem exec_rem (o : ROp) (s : State) : exec (.rem o) s = execRem o s := rfl
@[simp] theorem exec_remu (o : ROp) (s : State) : exec (.remu o) s = execRemu o s := rfl
@[simp] theorem exec_and (o : ROp) (s : State) : exec (.and o) s = execAnd o s := rfl
@[simp] theorem exec_or (o : ROp) (s : State) : exec (.or o) s = execOr o s := rfl
@[simp] theorem exec_xor (o : ROp) (s : State) : exec (.xor o) s = execXor o s := rfl
@[simp] theorem exec_sll (o : ROp) (s : State) : exec (.sll o) s = execSll o s := rfl
@[simp] theorem exec_srl (o : ROp) (s : State) : exec (.srl o) s = execSrl o s := rfl
@[simp] theorem exec_sra (o : ROp) (s : State) : exec (.sra o) s = execSra o s := rfl
@[simp] theorem exec_slt (o : ROp) (s : State) : exec (.slt o) s = execSlt o s := rfl
@[simp] theorem exec_sltu (o : ROp) (s : State) : exec (.sltu o) s = execSltu o s := rfl
@[simp] theorem exec_min (o : ROp) (s : State) : exec (.min o) s = execMin o s := rfl
@[simp] theorem exec_max (o : ROp) (s : State) : exec (.max o) s = execMax o s := rfl
@[simp] theorem exec_minu (o : ROp) (s : State) : exec (.minu o) s = execMinu o s := rfl
@[simp] theorem exec_maxu (o : ROp) (s : State) : exec (.maxu o) s = execMaxu o s := rfl
@[simp] theorem exec_clz (o : ROp) (s : State) : exec (.clz o) s = execClz o s := rfl
@[simp] theorem exec_ctz (o : ROp) (s : State) : exec (.ctz o) s = execCtz o s := rfl
@[simp] theorem exec_popc (o : ROp) (s : State) : exec (.popc o) s = execPopc o s := rfl
@[simp] theorem exec_addi (o : IOp) (s : State) : exec (.addi o) s = execAddi o s := rfl
@[simp] theorem exec_andi (o : IOp) (s : State) : exec (.andi o) s = execAndi o s := rfl
@[simp] theorem exec_ori (o : IOp) (s : State) : exec (.ori o) s = execOri o s := rfl
@[simp] theorem exec_xori (o : IOp) (s : State) : exec (.xori o) s = execXori o s := rfl
@[simp] theorem exec_slti (o : IOp) (s : State) : exec (.slti o) s = execSlti o s := rfl
@[simp] theorem exec_sltiu (o : IOp) (s : State) : exec (.sltiu o) s = execSltiu o s := rfl
@[simp] theorem exec_slli (o : IOp) (s : State) : exec (.slli o) s = execSlli o s := rfl
@[simp] theorem exec_srli (o : IOp) (s : State) : exec (.srli o) s = execSrli o s := rfl
@[simp] theorem exec_srai (o : IOp) (s : State) : exec (.srai o) s = execSrai o s := rfl
@[simp] theorem exec_ldb (o : IOp) (s : State) : exec (.ldb o) s = execLdb o s := rfl
@[simp] theorem exec_ldh (o : IOp) (s : State) : exec (.ldh o) s = execLdh o s := rfl
@[simp] theorem exec_ldw (o : IOp) (s : State) : exec (.ldw o) s = execLdw o s := rfl
@[simp] theorem exec_ldd (o : IOp) (s : State) : exec (.ldd o) s = execLdd o s := rfl
@[simp] theorem exec_ldbu (o : IOp) (s : State) : exec (.ldbu o) s = execLdbu o s := rfl
@[simp] theorem exec_ldhu (o : IOp) (s : State) : exec (.ldhu o) s = execLdhu o s := rfl
@[simp] theorem exec_ldwu (o : IOp) (s : State) : exec (.ldwu o) s = execLdwu o s := rfl
@[simp] theorem exec_stb (o : SOp) (s : State) : exec (.stb o) s = execStb o s := rfl
@[simp] theorem exec_sth (o : SOp) (s : State) : exec (.sth o) s = execSth o s := rfl
@[simp] theorem exec_stw (o : SOp) (s : State) : exec (.stw o) s = execStw o s := rfl
@[simp] theorem exec_std (o : SOp) (s : State) : exec (.std o) s = execStd o s := rfl
@[simp] theorem exec_beq (o : SOp) (s : State) : exec (.beq o) s = execBeq o s := rfl
@[simp] theorem exec_bne (o : SOp) (s : State) : exec (.bne o) s = execBne o s := rfl
@[simp] theorem exec_blt (o : SOp) (s : State) : exec (.blt o) s = execBlt o s := rfl
@[simp] theorem exec_bge (o : SOp) (s : State) : exec (.bge o) s = execBge o s := rfl
@[simp] theorem exec_bltu (o : SOp) (s : State) : exec (.bltu o) s = execBltu o s := rfl
@[simp] theorem exec_bgeu (o : SOp) (s : State) : exec (.bgeu o) s = execBgeu o s := rfl
@[simp] theorem exec_jal (o : UOp) (s : State) : exec (.jal o) s = execJal o s := rfl
@[simp] theorem exec_jalr (o : IOp) (s : State) : exec (.jalr o) s = execJalr o s := rfl
@[simp] theorem exec_lui (o : UOp) (s : State) : exec (.lui o) s = execLui o s := rfl
@[simp] theorem exec_addpc (o : UOp) (s : State) : exec (.addpc o) s = execAddpc o s := rfl
@[simp] theorem exec_fadd (o : FOp) (s : State) : exec (.fadd o) s = execFadd o s := rfl
@[simp] theorem exec_fsub (o : FOp) (s : State) : exec (.fsub o) s = execFsub o s := rfl
@[simp] theorem exec_fmul (o : FOp) (s : State) : exec (.fmul o) s = execFmul o s := rfl
@[simp] theorem exec_fdiv (o : FOp) (s : State) : exec (.fdiv o) s = execFdiv o s := rfl
@[simp] theorem exec_fsqrt (o : FOp) (s : State) : exec (.fsqrt o) s = execFsqrt o s := rfl
@[simp] theorem exec_fmin (o : FOp) (s : State) : exec (.fmin o) s = execFmin o s := rfl
@[simp] theorem exec_fmax (o : FOp) (s : State) : exec (.fmax o) s = execFmax o s := rfl
@[simp] theorem exec_feq (o : FOp) (s : State) : exec (.feq o) s = execFeq o s := rfl
@[simp] theorem exec_flt (o : FOp) (s : State) : exec (.flt o) s = execFlt o s := rfl
@[simp] theorem exec_fle (o : FOp) (s : State) : exec (.fle o) s = execFle o s := rfl
@[simp] theorem exec_fclass (o : FOp) (s : State) : exec (.fclass o) s = execFclass o s := rfl
@[simp] theorem exec_fcvt (o : FOp) (s : State) : exec (.fcvt o) s = execFcvt o s := rfl
@[simp] theorem exec_fcvti (o : FOp) (s : State) : exec (.fcvti o) s = execFcvti o s := rfl
@[simp] theorem exec_fcvtif (o : FOp) (s : State) : exec (.fcvtif o) s = execFcvtif o s := rfl
@[simp] theorem exec_fsgn (o : FOp) (s : State) : exec (.fsgn o) s = execFsgn o s := rfl
@[simp] theorem exec_fma (o : FOp) (s : State) : exec (.fma o) s = execFma o s := rfl
@[simp] theorem exec_fnma (o : FOp) (s : State) : exec (.fnma o) s = execFnma o s := rfl
@[simp] theorem exec_amoswap (o : AOp) (s : State) : exec (.amoswap o) s = execAmoswap o s := rfl
@[simp] theorem exec_amoadd (o : AOp) (s : State) : exec (.amoadd o) s = execAmoadd o s := rfl
@[simp] theorem exec_amoand (o : AOp) (s : State) : exec (.amoand o) s = execAmoand o s := rfl
@[simp] theorem exec_amoor (o : AOp) (s : State) : exec (.amoor o) s = execAmoor o s := rfl
@[simp] theorem exec_amoxor (o : AOp) (s : State) : exec (.amoxor o) s = execAmoxor o s := rfl
@[simp] theorem exec_amomin (o : AOp) (s : State) : exec (.amomin o) s = execAmomin o s := rfl
@[simp] theorem exec_amomax (o : AOp) (s : State) : exec (.amomax o) s = execAmomax o s := rfl
@[simp] theorem exec_amominu (o : AOp) (s : State) : exec (.amominu o) s = execAmominu o s := rfl
@[simp] theorem exec_amomaxu (o : AOp) (s : State) : exec (.amomaxu o) s = execAmomaxu o s := rfl
@[simp] theorem exec_amocas (o : AOp) (s : State) : exec (.amocas o) s = execAmocas o s := rfl
@[simp] theorem exec_amofadd (o : AOp) (s : State) : exec (.amofadd o) s = execAmofadd o s := rfl
@[simp] theorem exec_fenceSv (s : State) : exec .fenceSv s = execFenceSv s := rfl
@[simp] theorem exec_fenceVs (s : State) : exec .fenceVs s = execFenceVs s := rfl
@[simp] theorem exec_fenceVv (s : State) : exec .fenceVv s = execFenceVv s := rfl
@[simp] theorem exec_fenceAll (s : State) : exec .fenceAll s = execFenceAll s := rfl
@[simp] theorem exec_fenceI (s : State) : exec .fenceI s = execFenceI s := rfl
@[simp] theorem exec_trap (o : Reg) (s : State) : exec (.trap o) s = execTrap o s := rfl
@[simp] theorem exec_tret (s : State) : exec .tret s = execTret s := rfl
@[simp] theorem exec_wfe (s : State) : exec .wfe s = execWfe s := rfl
@[simp] theorem exec_brk (s : State) : exec .brk s = execBrk s := rfl
@[simp] theorem exec_ctlrd (o : IOp) (s : State) : exec (.ctlrd o) s = execCtlrd o s := rfl
@[simp] theorem exec_ctlwr (o : IOp) (s : State) : exec (.ctlwr o) s = execCtlwr o s := rfl
@[simp] theorem exec_ctlset (o : IOp) (s : State) : exec (.ctlset o) s = execCtlset o s := rfl
@[simp] theorem exec_ctlclr (o : IOp) (s : State) : exec (.ctlclr o) s = execCtlclr o s := rfl
@[simp] theorem exec_ctlwri (o : IOp) (s : State) : exec (.ctlwri o) s = execCtlwri o s := rfl
@[simp] theorem exec_setvl (o : IOp) (s : State) : exec (.setvl o) s = execSetvl o s := rfl
@[simp] theorem exec_setvli (o : IOp) (s : State) : exec (.setvli o) s = execSetvli o s := rfl
@[simp] theorem exec_setcfg (o : IOp) (s : State) : exec (.setcfg o) s = execSetcfg o s := rfl
@[simp] theorem exec_vclaim (s : State) : exec .vclaim s = execVclaim s := rfl
@[simp] theorem exec_vsave (o : Reg) (s : State) : exec (.vsave o) s = execVsave o s := rfl
@[simp] theorem exec_vrestore (o : Reg) (s : State) : exec (.vrestore o) s = execVrestore o s := rfl
@[simp] theorem exec_gsetvl (o : IOp) (s : State) : exec (.gsetvl o) s = execGsetvl o s := rfl
@[simp] theorem exec_vadd (o : VOp) (s : State) : exec (.vadd o) s = execVadd o s := rfl
@[simp] theorem exec_vsub (o : VOp) (s : State) : exec (.vsub o) s = execVsub o s := rfl
@[simp] theorem exec_vmul (o : VOp) (s : State) : exec (.vmul o) s = execVmul o s := rfl
@[simp] theorem exec_vmulh (o : VOp) (s : State) : exec (.vmulh o) s = execVmulh o s := rfl
@[simp] theorem exec_vmin (o : VOp) (s : State) : exec (.vmin o) s = execVmin o s := rfl
@[simp] theorem exec_vmax (o : VOp) (s : State) : exec (.vmax o) s = execVmax o s := rfl
@[simp] theorem exec_vdiv (o : VOp) (s : State) : exec (.vdiv o) s = execVdiv o s := rfl
@[simp] theorem exec_vrem (o : VOp) (s : State) : exec (.vrem o) s = execVrem o s := rfl
@[simp] theorem exec_vand (o : VOp) (s : State) : exec (.vand o) s = execVand o s := rfl
@[simp] theorem exec_vor (o : VOp) (s : State) : exec (.vor o) s = execVor o s := rfl
@[simp] theorem exec_vxor (o : VOp) (s : State) : exec (.vxor o) s = execVxor o s := rfl
@[simp] theorem exec_vsll (o : VOp) (s : State) : exec (.vsll o) s = execVsll o s := rfl
@[simp] theorem exec_vsr (o : VOp) (s : State) : exec (.vsr o) s = execVsr o s := rfl
@[simp] theorem exec_vsadd (o : VOp) (s : State) : exec (.vsadd o) s = execVsadd o s := rfl
@[simp] theorem exec_vssub (o : VOp) (s : State) : exec (.vssub o) s = execVssub o s := rfl
@[simp] theorem exec_vmac (o : VOp) (s : State) : exec (.vmac o) s = execVmac o s := rfl
@[simp] theorem exec_vcmpeq (o : VOp) (s : State) : exec (.vcmpeq o) s = execVcmpeq o s := rfl
@[simp] theorem exec_vcmpne (o : VOp) (s : State) : exec (.vcmpne o) s = execVcmpne o s := rfl
@[simp] theorem exec_vcmplt (o : VOp) (s : State) : exec (.vcmplt o) s = execVcmplt o s := rfl
@[simp] theorem exec_vcmple (o : VOp) (s : State) : exec (.vcmple o) s = execVcmple o s := rfl
@[simp] theorem exec_vmerge (o : VOp) (s : State) : exec (.vmerge o) s = execVmerge o s := rfl
@[simp] theorem exec_vmv (o : VOp) (s : State) : exec (.vmv o) s = execVmv o s := rfl
@[simp] theorem exec_vmvx (o : VOp) (s : State) : exec (.vmvx o) s = execVmvx o s := rfl
@[simp] theorem exec_vid (o : VOp) (s : State) : exec (.vid o) s = execVid o s := rfl
@[simp] theorem exec_vfadd (o : VOp) (s : State) : exec (.vfadd o) s = execVfadd o s := rfl
@[simp] theorem exec_vfsub (o : VOp) (s : State) : exec (.vfsub o) s = execVfsub o s := rfl
@[simp] theorem exec_vfmul (o : VOp) (s : State) : exec (.vfmul o) s = execVfmul o s := rfl
@[simp] theorem exec_vfdiv (o : VOp) (s : State) : exec (.vfdiv o) s = execVfdiv o s := rfl
@[simp] theorem exec_vfma (o : VOp) (s : State) : exec (.vfma o) s = execVfma o s := rfl
@[simp] theorem exec_vfnma (o : VOp) (s : State) : exec (.vfnma o) s = execVfnma o s := rfl
@[simp] theorem exec_vfmin (o : VOp) (s : State) : exec (.vfmin o) s = execVfmin o s := rfl
@[simp] theorem exec_vfmax (o : VOp) (s : State) : exec (.vfmax o) s = execVfmax o s := rfl
@[simp] theorem exec_vfsqrt (o : VOp) (s : State) : exec (.vfsqrt o) s = execVfsqrt o s := rfl
@[simp] theorem exec_vfrsqrt (o : VOp) (s : State) : exec (.vfrsqrt o) s = execVfrsqrt o s := rfl
@[simp] theorem exec_vfabs (o : VOp) (s : State) : exec (.vfabs o) s = execVfabs o s := rfl
@[simp] theorem exec_vfneg (o : VOp) (s : State) : exec (.vfneg o) s = execVfneg o s := rfl
@[simp] theorem exec_vfcmpeq (o : VOp) (s : State) : exec (.vfcmpeq o) s = execVfcmpeq o s := rfl
@[simp] theorem exec_vfcmplt (o : VOp) (s : State) : exec (.vfcmplt o) s = execVfcmplt o s := rfl
@[simp] theorem exec_vfcmple (o : VOp) (s : State) : exec (.vfcmple o) s = execVfcmple o s := rfl
@[simp] theorem exec_vfclass (o : VOp) (s : State) : exec (.vfclass o) s = execVfclass o s := rfl
@[simp] theorem exec_vfcvt (o : VOp) (s : State) : exec (.vfcvt o) s = execVfcvt o s := rfl
@[simp] theorem exec_vfcvtScaled (o : VOp) (s : State) : exec (.vfcvtScaled o) s = execVfcvtScaled o s := rfl
@[simp] theorem exec_vf2i (o : VOp) (s : State) : exec (.vf2i o) s = execVf2i o s := rfl
@[simp] theorem exec_vi2f (o : VOp) (s : State) : exec (.vi2f o) s = execVi2f o s := rfl
@[simp] theorem exec_viext (o : VOp) (s : State) : exec (.viext o) s = execViext o s := rfl
@[simp] theorem exec_vredsum (o : VOp) (s : State) : exec (.vredsum o) s = execVredsum o s := rfl
@[simp] theorem exec_vredmin (o : VOp) (s : State) : exec (.vredmin o) s = execVredmin o s := rfl
@[simp] theorem exec_vredmax (o : VOp) (s : State) : exec (.vredmax o) s = execVredmax o s := rfl
@[simp] theorem exec_vredor (o : VOp) (s : State) : exec (.vredor o) s = execVredor o s := rfl
@[simp] theorem exec_vfredsum (o : VOp) (s : State) : exec (.vfredsum o) s = execVfredsum o s := rfl
@[simp] theorem exec_vfredosum (o : VOp) (s : State) : exec (.vfredosum o) s = execVfredosum o s := rfl
@[simp] theorem exec_vfredmin (o : VOp) (s : State) : exec (.vfredmin o) s = execVfredmin o s := rfl
@[simp] theorem exec_vfredmax (o : VOp) (s : State) : exec (.vfredmax o) s = execVfredmax o s := rfl
@[simp] theorem exec_vscan (o : VOp) (s : State) : exec (.vscan o) s = execVscan o s := rfl
@[simp] theorem exec_vperm (o : VOp) (s : State) : exec (.vperm o) s = execVperm o s := rfl
@[simp] theorem exec_vslideup (o : VOp) (s : State) : exec (.vslideup o) s = execVslideup o s := rfl
@[simp] theorem exec_vslidedn (o : VOp) (s : State) : exec (.vslidedn o) s = execVslidedn o s := rfl
@[simp] theorem exec_vcompress (o : VOp) (s : State) : exec (.vcompress o) s = execVcompress o s := rfl
@[simp] theorem exec_vrank (o : VOp) (s : State) : exec (.vrank o) s = execVrank o s := rfl
@[simp] theorem exec_vbfly (o : VOp) (s : State) : exec (.vbfly o) s = execVbfly o s := rfl
@[simp] theorem exec_vsortk (o : VOp) (s : State) : exec (.vsortk o) s = execVsortk o s := rfl
@[simp] theorem exec_mand (o : VOp) (s : State) : exec (.mand o) s = execMand o s := rfl
@[simp] theorem exec_mor (o : VOp) (s : State) : exec (.mor o) s = execMor o s := rfl
@[simp] theorem exec_mxor (o : VOp) (s : State) : exec (.mxor o) s = execMxor o s := rfl
@[simp] theorem exec_mandn (o : VOp) (s : State) : exec (.mandn o) s = execMandn o s := rfl
@[simp] theorem exec_mpopc (o : VOp) (s : State) : exec (.mpopc o) s = execMpopc o s := rfl
@[simp] theorem exec_mfirst (o : VOp) (s : State) : exec (.mfirst o) s = execMfirst o s := rfl
@[simp] theorem exec_mset (o : VOp) (s : State) : exec (.mset o) s = execMset o s := rfl
@[simp] theorem exec_vmaxi (o : VOp) (s : State) : exec (.vmaxi o) s = execVmaxi o s := rfl
@[simp] theorem exec_vmini (o : VOp) (s : State) : exec (.vmini o) s = execVmini o s := rfl
@[simp] theorem exec_vbslice (o : VOp) (s : State) : exec (.vbslice o) s = execVbslice o s := rfl
@[simp] theorem exec_vbunslice (o : VOp) (s : State) : exec (.vbunslice o) s = execVbunslice o s := rfl
@[simp] theorem exec_vld (o : VOp) (s : State) : exec (.vld o) s = execVld o s := rfl
@[simp] theorem exec_vlds (o : VOp) (s : State) : exec (.vlds o) s = execVlds o s := rfl
@[simp] theorem exec_vldav (o : VOp) (s : State) : exec (.vldav o) s = execVldav o s := rfl
@[simp] theorem exec_vldg (o : VOp) (s : State) : exec (.vldg o) s = execVldg o s := rfl
@[simp] theorem exec_vldx (o : VOp) (s : State) : exec (.vldx o) s = execVldx o s := rfl
@[simp] theorem exec_vldxu (o : VOp) (s : State) : exec (.vldxu o) s = execVldxu o s := rfl
@[simp] theorem exec_vldxf (o : VOp) (s : State) : exec (.vldxf o) s = execVldxf o s := rfl
@[simp] theorem exec_qlds (o : VOp) (s : State) : exec (.qlds o) s = execQlds o s := rfl
@[simp] theorem exec_vst (o : VOp) (s : State) : exec (.vst o) s = execVst o s := rfl
@[simp] theorem exec_vsts (o : VOp) (s : State) : exec (.vsts o) s = execVsts o s := rfl
@[simp] theorem exec_vstx (o : VOp) (s : State) : exec (.vstx o) s = execVstx o s := rfl
@[simp] theorem exec_vstxu (o : VOp) (s : State) : exec (.vstxu o) s = execVstxu o s := rfl
@[simp] theorem exec_vstxadd (o : VOp) (s : State) : exec (.vstxadd o) s = execVstxadd o s := rfl
@[simp] theorem exec_vstxmax (o : VOp) (s : State) : exec (.vstxmax o) s = execVstxmax o s := rfl
@[simp] theorem exec_vstxmin (o : VOp) (s : State) : exec (.vstxmin o) s = execVstxmin o s := rfl
@[simp] theorem exec_mld (o : VOp) (s : State) : exec (.mld o) s = execMld o s := rfl
@[simp] theorem exec_mst (o : VOp) (s : State) : exec (.mst o) s = execMst o s := rfl
@[simp] theorem exec_vldxc (o : VOp) (s : State) : exec (.vldxc o) s = execVldxc o s := rfl
@[simp] theorem exec_xopen (o : VOp) (s : State) : exec (.xopen o) s = execXopen o s := rfl
@[simp] theorem exec_xsplit (o : VOp) (s : State) : exec (.xsplit o) s = execXsplit o s := rfl
@[simp] theorem exec_xcap (o : VOp) (s : State) : exec (.xcap o) s = execXcap o s := rfl
@[simp] theorem exec_xdeadl (o : VOp) (s : State) : exec (.xdeadl o) s = execXdeadl o s := rfl
@[simp] theorem exec_rsend (o : VOp) (s : State) : exec (.rsend o) s = execRsend o s := rfl
@[simp] theorem exec_rrun (o : VOp) (s : State) : exec (.rrun o) s = execRrun o s := rfl
@[simp] theorem exec_rend (s : State) : exec .rend s = execRend s := rfl
@[simp] theorem exec_xclose (o : VOp) (s : State) : exec (.xclose o) s = execXclose o s := rfl
@[simp] theorem exec_rrecv (o : VOp) (s : State) : exec (.rrecv o) s = execRrecv o s := rfl
@[simp] theorem exec_xwait (o : VOp) (s : State) : exec (.xwait o) s = execXwait o s := rfl
@[simp] theorem exec_xstat (o : VOp) (s : State) : exec (.xstat o) s = execXstat o s := rfl
@[simp] theorem exec_xrebal (o : VOp) (s : State) : exec (.xrebal o) s = execXrebal o s := rfl
@[simp] theorem exec_shape (o : VOp) (s : State) : exec (.shape o) s = execShape o s := rfl
@[simp] theorem exec_stmld (o : VOp) (s : State) : exec (.stmld o) s = execStmld o s := rfl
@[simp] theorem exec_stmldShaped (o : VOp) (s : State) : exec (.stmldShaped o) s = execStmldShaped o s := rfl
@[simp] theorem exec_stmst (o : VOp) (s : State) : exec (.stmst o) s = execStmst o s := rfl
@[simp] theorem exec_stmstShaped (o : VOp) (s : State) : exec (.stmstShaped o) s = execStmstShaped o s := rfl
@[simp] theorem exec_stmcp (o : VOp) (s : State) : exec (.stmcp o) s = execStmcp o s := rfl
@[simp] theorem exec_stmcpShaped (o : VOp) (s : State) : exec (.stmcpShaped o) s = execStmcpShaped o s := rfl
@[simp] theorem exec_stmwait (o : VOp) (s : State) : exec (.stmwait o) s = execStmwait o s := rfl
@[simp] theorem exec_stmstat (o : VOp) (s : State) : exec (.stmstat o) s = execStmstat o s := rfl
@[simp] theorem exec_stmtl (o : VOp) (s : State) : exec (.stmtl o) s = execStmtl o s := rfl
@[simp] theorem exec_stmcancel (o : VOp) (s : State) : exec (.stmcancel o) s = execStmcancel o s := rfl
@[simp] theorem exec_tlaunch (o : VOp) (s : State) : exec (.tlaunch o) s = execTlaunch o s := rfl
@[simp] theorem exec_texit (s : State) : exec .texit s = execTexit s := rfl
@[simp] theorem exec_tyield (s : State) : exec .tyield s = execTyield s := rfl
@[simp] theorem exec_twait (o : VOp) (s : State) : exec (.twait o) s = execTwait o s := rfl
@[simp] theorem exec_gbar (s : State) : exec .gbar s = execGbar s := rfl
@[simp] theorem exec_garrive (o : VOp) (s : State) : exec (.garrive o) s = execGarrive o s := rfl
@[simp] theorem exec_gwait (o : VOp) (s : State) : exec (.gwait o) s = execGwait o s := rfl
@[simp] theorem exec_lease (o : VOp) (s : State) : exec (.lease o) s = execLease o s := rfl
@[simp] theorem exec_dreg (o : VOp) (s : State) : exec (.dreg o) s = execDreg o s := rfl
@[simp] theorem exec_dpub (o : VOp) (s : State) : exec (.dpub o) s = execDpub o s := rfl
@[simp] theorem exec_dfinal (o : VOp) (s : State) : exec (.dfinal o) s = execDfinal o s := rfl
@[simp] theorem exec_dstop (o : VOp) (s : State) : exec (.dstop o) s = execDstop o s := rfl
@[simp] theorem exec_dchk (o : VOp) (s : State) : exec (.dchk o) s = execDchk o s := rfl
@[simp] theorem exec_dwait (o : VOp) (s : State) : exec (.dwait o) s = execDwait o s := rfl
@[simp] theorem exec_hpass (o : VOp) (s : State) : exec (.hpass o) s = execHpass o s := rfl
@[simp] theorem exec_hdone (o : VOp) (s : State) : exec (.hdone o) s = execHdone o s := rfl
@[simp] theorem exec_matt (o : DOp) (s : State) : exec (.matt o) s = execMatt o s := rfl
@[simp] theorem exec_mrel (s : State) : exec .mrel s = execMrel s := rfl
@[simp] theorem exec_mzero (o : DOp) (s : State) : exec (.mzero o) s = execMzero o s := rfl
@[simp] theorem exec_msetlen (o : DOp) (s : State) : exec (.msetlen o) s = execMsetlen o s := rfl
@[simp] theorem exec_msave (o : DOp) (s : State) : exec (.msave o) s = execMsave o s := rfl
@[simp] theorem exec_mload (o : DOp) (s : State) : exec (.mload o) s = execMload o s := rfl
@[simp] theorem exec_opadd (o : DOp) (s : State) : exec (.opadd o) s = execOpadd o s := rfl
@[simp] theorem exec_opsub (o : DOp) (s : State) : exec (.opsub o) s = execOpsub o s := rfl
@[simp] theorem exec_opaddSp (o : DOp) (s : State) : exec (.opaddSp o) s = execOpaddSp o s := rfl
@[simp] theorem exec_opaddBs (o : DOp) (s : State) : exec (.opaddBs o) s = execOpaddBs o s := rfl
@[simp] theorem exec_opaddQ (o : DOp) (s : State) : exec (.opaddQ o) s = execOpaddQ o s := rfl
@[simp] theorem exec_mgrp (o : DOp) (s : State) : exec (.mgrp o) s = execMgrp o s := rfl
@[simp] theorem exec_mgrpQ (o : DOp) (s : State) : exec (.mgrpQ o) s = execMgrpQ o s := rfl
@[simp] theorem exec_mldt (o : DOp) (s : State) : exec (.mldt o) s = execMldt o s := rfl
@[simp] theorem exec_mldtFf (o : DOp) (s : State) : exec (.mldtFf o) s = execMldtFf o s := rfl
@[simp] theorem exec_mstt (o : DOp) (s : State) : exec (.mstt o) s = execMstt o s := rfl
@[simp] theorem exec_mrdv (o : DOp) (s : State) : exec (.mrdv o) s = execMrdv o s := rfl
@[simp] theorem exec_mwrv (o : DOp) (s : State) : exec (.mwrv o) s = execMwrv o s := rfl
@[simp] theorem exec_bst (o : DOp) (s : State) : exec (.bst o) s = execBst o s := rfl
@[simp] theorem exec_bchain (o : DOp) (s : State) : exec (.bchain o) s = execBchain o s := rfl
@[simp] theorem exec_bsset (o : DOp) (s : State) : exec (.bsset o) s = execBsset o s := rfl
@[simp] theorem exec_bsget (o : DOp) (s : State) : exec (.bsget o) s = execBsget o s := rfl
@[simp] theorem exec_queueHeadExecute (s : State) : exec .queueHeadExecute s = execQueueHeadExecute s := rfl
@[simp] theorem exec_dispatchSlot (s : State) : exec .dispatchSlot s = execDispatchSlot s := rfl
@[simp] theorem exec_copyHandoff (s : State) : exec .copyHandoff s = execCopyHandoff s := rfl
@[simp] theorem exec_levelAging (s : State) : exec .levelAging s = execLevelAging s := rfl
@[simp] theorem exec_tailWrite (s : State) : exec .tailWrite s = execTailWrite s := rfl
@[simp] theorem exec_queueEnable (s : State) : exec .queueEnable s = execQueueEnable s := rfl
@[simp] theorem exec_queueDisable (s : State) : exec .queueDisable s = execQueueDisable s := rfl
@[simp] theorem exec_relaunch (s : State) : exec .relaunch s = execRelaunch s := rfl
@[simp] theorem exec_pipelineArm (s : State) : exec .pipelineArm s = execPipelineArm s := rfl
@[simp] theorem exec_leasewaitExpiry (s : State) : exec .leasewaitExpiry s = execLeasewaitExpiry s := rfl
@[simp] theorem exec_taskResume (s : State) : exec .taskResume s = execTaskResume s := rfl
@[simp] theorem exec_hallPassGrant (s : State) : exec .hallPassGrant s = execHallPassGrant s := rfl
@[simp] theorem exec_hpwaitExpiry (s : State) : exec .hpwaitExpiry s = execHpwaitExpiry s := rfl
@[simp] theorem exec_tileGrant (s : State) : exec .tileGrant s = execTileGrant s := rfl
@[simp] theorem exec_streamElementLanding (s : State) : exec .streamElementLanding s = execStreamElementLanding s := rfl
@[simp] theorem exec_chunkDelivered (s : State) : exec .chunkDelivered s = execChunkDelivered s := rfl
@[simp] theorem exec_recordMerge (s : State) : exec .recordMerge s = execRecordMerge s := rfl
@[simp] theorem exec_recordArrival (s : State) : exec .recordArrival s = execRecordArrival s := rfl
@[simp] theorem exec_closeMarkerArrival (s : State) : exec .closeMarkerArrival s = execCloseMarkerArrival s := rfl
@[simp] theorem exec_batchDeadline (s : State) : exec .batchDeadline s = execBatchDeadline s := rfl
@[simp] theorem exec_roundFailureNotice (s : State) : exec .roundFailureNotice s = execRoundFailureNotice s := rfl
@[simp] theorem exec_linkFail (s : State) : exec .linkFail s = execLinkFail s := rfl
@[simp] theorem exec_transferTimeout (s : State) : exec .transferTimeout s = execTransferTimeout s := rfl
@[simp] theorem exec_gatherPieceResponse (s : State) : exec .gatherPieceResponse s = execGatherPieceResponse s := rfl
@[simp] theorem exec_flitReceive (s : State) : exec .flitReceive s = execFlitReceive s := rfl
@[simp] theorem exec_portRetrain (s : State) : exec .portRetrain s = execPortRetrain s := rfl
@[simp] theorem exec_retrainTimeout (s : State) : exec .retrainTimeout s = execRetrainTimeout s := rfl
@[simp] theorem exec_replicaInvalidate (s : State) : exec .replicaInvalidate s = execReplicaInvalidate s := rfl
@[simp] theorem exec_replicaAck (s : State) : exec .replicaAck s = execReplicaAck s := rfl
@[simp] theorem exec_replicaAckTimeout (s : State) : exec .replicaAckTimeout s = execReplicaAckTimeout s := rfl
@[simp] theorem exec_replicaCreate (s : State) : exec .replicaCreate s = execReplicaCreate s := rfl
@[simp] theorem exec_ptpSync (s : State) : exec .ptpSync s = execPtpSync s := rfl
@[simp] theorem exec_pdelay (s : State) : exec .pdelay s = execPdelay s := rfl
@[simp] theorem exec_noGm (s : State) : exec .noGm s = execNoGm s := rfl
@[simp] theorem exec_timeSet (s : State) : exec .timeSet s = execTimeSet s := rfl
@[simp] theorem exec_hostRead (s : State) : exec .hostRead s = execHostRead s := rfl
@[simp] theorem exec_hostWrite (s : State) : exec .hostWrite s = execHostWrite s := rfl
@[simp] theorem exec_apertureDescriptorWrite (s : State) : exec .apertureDescriptorWrite s = execApertureDescriptorWrite s := rfl
@[simp] theorem exec_msixUnmask (s : State) : exec .msixUnmask s = execMsixUnmask s := rfl
@[simp] theorem exec_corrected (s : State) : exec .corrected s = execCorrected s := rfl
@[simp] theorem exec_poisoned (s : State) : exec .poisoned s = execPoisoned s := rfl
@[simp] theorem exec_parityError (s : State) : exec .parityError s = execParityError s := rfl
@[simp] theorem exec_rowRepair (s : State) : exec .rowRepair s = execRowRepair s := rfl
@[simp] theorem exec_fatalError (s : State) : exec .fatalError s = execFatalError s := rfl
@[simp] theorem exec_coldReset (s : State) : exec .coldReset s = execColdReset s := rfl
@[simp] theorem exec_warmReset (s : State) : exec .warmReset s = execWarmReset s := rfl
@[simp] theorem exec_bootConfigWrite (s : State) : exec .bootConfigWrite s = execBootConfigWrite s := rfl
@[simp] theorem exec_minVersionRaise (s : State) : exec .minVersionRaise s = execMinVersionRaise s := rfl
@[simp] theorem exec_load (s : State) : exec .load s = execLoad s := rfl
@[simp] theorem exec_clear (s : State) : exec .clear s = execClear s := rfl
@[simp] theorem exec_transportKeyWrite (s : State) : exec .transportKeyWrite s = execTransportKeyWrite s := rfl
@[simp] theorem exec_formQuiesce (s : State) : exec .formQuiesce s = execFormQuiesce s := rfl
@[simp] theorem exec_quiesceLimit (s : State) : exec .quiesceLimit s = execQuiesceLimit s := rfl
@[simp] theorem exec_fwUpdate (s : State) : exec .fwUpdate s = execFwUpdate s := rfl
@[simp] theorem exec_budgetWrite (s : State) : exec .budgetWrite s = execBudgetWrite s := rfl
@[simp] theorem exec_getVersion (s : State) : exec .getVersion s = execGetVersion s := rfl
@[simp] theorem exec_getCapabilities (s : State) : exec .getCapabilities s = execGetCapabilities s := rfl
@[simp] theorem exec_negotiateAlgorithms (s : State) : exec .negotiateAlgorithms s = execNegotiateAlgorithms s := rfl
@[simp] theorem exec_getDigests (s : State) : exec .getDigests s = execGetDigests s := rfl
@[simp] theorem exec_getCertificate (s : State) : exec .getCertificate s = execGetCertificate s := rfl
@[simp] theorem exec_challenge (s : State) : exec .challenge s = execChallenge s := rfl
@[simp] theorem exec_getMeasurements (s : State) : exec .getMeasurements s = execGetMeasurements s := rfl
@[simp] theorem exec_keyExchange (s : State) : exec .keyExchange s = execKeyExchange s := rfl
@[simp] theorem exec_finish (s : State) : exec .finish s = execFinish s := rfl
@[simp] theorem exec_haltreq (s : State) : exec .haltreq s = execHaltreq s := rfl
@[simp] theorem exec_haltComplete (s : State) : exec .haltComplete s = execHaltComplete s := rfl
@[simp] theorem exec_haltQuietTimeout (s : State) : exec .haltQuietTimeout s = execHaltQuietTimeout s := rfl
@[simp] theorem exec_resume (s : State) : exec .resume s = execResume s := rfl
@[simp] theorem exec_debugStateAccess (s : State) : exec .debugStateAccess s = execDebugStateAccess s := rfl
@[simp] theorem exec_invalidate (s : State) : exec .invalidate s = execInvalidate s := rfl
@[simp] theorem exec_migrate (s : State) : exec .migrate s = execMigrate s := rfl
@[simp] theorem exec_translationOpDone (s : State) : exec .translationOpDone s = execTranslationOpDone s := rfl
@[simp] theorem exec_registerWrite (s : State) : exec .registerWrite s = execRegisterWrite s := rfl
@[simp] theorem exec_illegalInstruction (s : State) : exec .illegalInstruction s = execIllegalInstruction s := rfl
@[simp] theorem exec_fetchFault (s : State) : exec .fetchFault s = execFetchFault s := rfl
@[simp] theorem exec_retrainDone (s : State) : exec .retrainDone s = execRetrainDone s := rfl
@[simp] theorem exec_timeSlew (s : State) : exec .timeSlew s = execTimeSlew s := rfl
@[simp] theorem exec_powerLoss (s : State) : exec .powerLoss s = execPowerLoss s := rfl
@[simp] theorem exec_hAddi (o : HOp) (s : State) : exec (.hAddi o) s = execHAddi o s := rfl
@[simp] theorem exec_hLi (o : HOp) (s : State) : exec (.hLi o) s = execHLi o s := rfl
@[simp] theorem exec_hMv (o : HOp) (s : State) : exec (.hMv o) s = execHMv o s := rfl
@[simp] theorem exec_hAdd (o : HOp) (s : State) : exec (.hAdd o) s = execHAdd o s := rfl
@[simp] theorem exec_hSub (o : HOp) (s : State) : exec (.hSub o) s = execHSub o s := rfl
@[simp] theorem exec_hAnd (o : HOp) (s : State) : exec (.hAnd o) s = execHAnd o s := rfl
@[simp] theorem exec_hOr (o : HOp) (s : State) : exec (.hOr o) s = execHOr o s := rfl
@[simp] theorem exec_hXor (o : HOp) (s : State) : exec (.hXor o) s = execHXor o s := rfl
@[simp] theorem exec_hSlli (o : HOp) (s : State) : exec (.hSlli o) s = execHSlli o s := rfl
@[simp] theorem exec_hSrli (o : HOp) (s : State) : exec (.hSrli o) s = execHSrli o s := rfl
@[simp] theorem exec_hLdd (o : HOp) (s : State) : exec (.hLdd o) s = execHLdd o s := rfl
@[simp] theorem exec_hStd (o : HOp) (s : State) : exec (.hStd o) s = execHStd o s := rfl
@[simp] theorem exec_hBeqz (o : HOp) (s : State) : exec (.hBeqz o) s = execHBeqz o s := rfl
@[simp] theorem exec_hBnez (o : HOp) (s : State) : exec (.hBnez o) s = execHBnez o s := rfl
@[simp] theorem exec_hJ (o : HOp) (s : State) : exec (.hJ o) s = execHJ o s := rfl
@[simp] theorem exec_hJr (o : HOp) (s : State) : exec (.hJr o) s = execHJr o s := rfl
@[simp] theorem exec_hSetvl (o : HOp) (s : State) : exec (.hSetvl o) s = execHSetvl o s := rfl

end Sys2Proof.Machine
end

