-- ==== Sys2Proof/Laws/State.lean ====
section
/-! SUPPORT. One lemma per field per update: what the updates of the state leave, and what they write (R6, R7, R18, R338). -/

namespace Sys2Proof.Machine

set_option Elab.async false

/-! ### State.modHart -/

@[simp] theorem State.modHart_cur (s : State) (f : Hart → Hart) : (s.modHart f).cur = s.cur := rfl
@[simp] theorem State.modHart_harts (s : State) (f : Hart → Hart) : (s.modHart f).harts = s.harts := rfl
@[simp] theorem State.modHart_mem (s : State) (f : Hart → Hart) : (s.modHart f).mem = s.mem := rfl
@[simp] theorem State.modHart_cores (s : State) (f : Hart → Hart) : (s.modHart f).cores = s.cores := rfl
@[simp] theorem State.modHart_forms (s : State) (f : Hart → Hart) : (s.modHart f).forms = s.forms := rfl
@[simp] theorem State.modHart_parked (s : State) (f : Hart → Hart) : (s.modHart f).parked = s.parked := rfl
@[simp] theorem State.modHart_dies (s : State) (f : Hart → Hart) : (s.modHart f).dies = s.dies := rfl
@[simp] theorem State.modHart_pkgs (s : State) (f : Hart → Hart) : (s.modHart f).pkgs = s.pkgs := rfl
@[simp] theorem State.modHart_xids (s : State) (f : Hart → Hart) : (s.modHart f).xids = s.xids := rfl
@[simp] theorem State.modHart_runs (s : State) (f : Hart → Hart) : (s.modHart f).runs = s.runs := rfl
@[simp] theorem State.modHart_dispatched (s : State) (f : Hart → Hart) : (s.modHart f).dispatched = s.dispatched := rfl
@[simp] theorem State.modHart_part (s : State) (f : Hart → Hart) : (s.modHart f).part = s.part := rfl
@[simp] theorem State.modHart_packages (s : State) (f : Hart → Hart) : (s.modHart f).packages = s.packages := rfl
@[simp] theorem State.modHart_events (s : State) (f : Hart → Hart) : (s.modHart f).events = s.events := rfl
@[simp] theorem State.modHart_arg (s : State) (f : Hart → Hart) : (s.modHart f).arg = s.arg := rfl
@[simp] theorem State.modHart_turns (s : State) (f : Hart → Hart) : (s.modHart f).turns = s.turns := rfl
@[simp] theorem State.modHart_eager (s : State) (f : Hart → Hart) : (s.modHart f).eager = s.eager := rfl
@[simp] theorem State.modHart_outbox (s : State) (f : Hart → Hart) : (s.modHart f).outbox = s.outbox := rfl
@[simp] theorem State.modHart_tlb (s : State) (f : Hart → Hart) : (s.modHart f).tlb = s.tlb := rfl
@[simp] theorem State.modHart_tick (s : State) (f : Hart → Hart) : (s.modHart f).tick = s.tick := rfl
@[simp] theorem State.modHart_free (s : State) (f : Hart → Hart) : (s.modHart f).free = s.free := rfl
@[simp] theorem State.modHart_clk (s : State) (f : Hart → Hart) : (s.modHart f).clk = s.clk := rfl
@[simp] theorem State.modHart_ns (s : State) (f : Hart → Hart) : (s.modHart f).ns = s.ns := rfl
@[simp] theorem State.modHart_hart (s : State) (f : Hart → Hart) : (s.modHart f).hart = f s.hart := rfl

/-! ### State.writeX -/

@[simp] theorem State.writeX_cur (s : State) (n : Reg) (v : Word) : (s.writeX n v).cur = s.cur := rfl
@[simp] theorem State.writeX_harts (s : State) (n : Reg) (v : Word) : (s.writeX n v).harts = s.harts := rfl
@[simp] theorem State.writeX_mem (s : State) (n : Reg) (v : Word) : (s.writeX n v).mem = s.mem := rfl
@[simp] theorem State.writeX_cores (s : State) (n : Reg) (v : Word) : (s.writeX n v).cores = s.cores := rfl
@[simp] theorem State.writeX_forms (s : State) (n : Reg) (v : Word) : (s.writeX n v).forms = s.forms := rfl
@[simp] theorem State.writeX_parked (s : State) (n : Reg) (v : Word) : (s.writeX n v).parked = s.parked := rfl
@[simp] theorem State.writeX_dies (s : State) (n : Reg) (v : Word) : (s.writeX n v).dies = s.dies := rfl
@[simp] theorem State.writeX_pkgs (s : State) (n : Reg) (v : Word) : (s.writeX n v).pkgs = s.pkgs := rfl
@[simp] theorem State.writeX_xids (s : State) (n : Reg) (v : Word) : (s.writeX n v).xids = s.xids := rfl
@[simp] theorem State.writeX_runs (s : State) (n : Reg) (v : Word) : (s.writeX n v).runs = s.runs := rfl
@[simp] theorem State.writeX_dispatched (s : State) (n : Reg) (v : Word) : (s.writeX n v).dispatched = s.dispatched := rfl
@[simp] theorem State.writeX_part (s : State) (n : Reg) (v : Word) : (s.writeX n v).part = s.part := rfl
@[simp] theorem State.writeX_packages (s : State) (n : Reg) (v : Word) : (s.writeX n v).packages = s.packages := rfl
@[simp] theorem State.writeX_events (s : State) (n : Reg) (v : Word) : (s.writeX n v).events = s.events := rfl
@[simp] theorem State.writeX_arg (s : State) (n : Reg) (v : Word) : (s.writeX n v).arg = s.arg := rfl
@[simp] theorem State.writeX_turns (s : State) (n : Reg) (v : Word) : (s.writeX n v).turns = s.turns := rfl
@[simp] theorem State.writeX_eager (s : State) (n : Reg) (v : Word) : (s.writeX n v).eager = s.eager := rfl
@[simp] theorem State.writeX_outbox (s : State) (n : Reg) (v : Word) : (s.writeX n v).outbox = s.outbox := rfl
@[simp] theorem State.writeX_tlb (s : State) (n : Reg) (v : Word) : (s.writeX n v).tlb = s.tlb := rfl
@[simp] theorem State.writeX_tick (s : State) (n : Reg) (v : Word) : (s.writeX n v).tick = s.tick := rfl
@[simp] theorem State.writeX_free (s : State) (n : Reg) (v : Word) : (s.writeX n v).free = s.free := rfl
@[simp] theorem State.writeX_clk (s : State) (n : Reg) (v : Word) : (s.writeX n v).clk = s.clk := rfl
@[simp] theorem State.writeX_ns (s : State) (n : Reg) (v : Word) : (s.writeX n v).ns = s.ns := rfl
@[simp] theorem State.writeX_hart (s : State) (n : Reg) (v : Word) : (s.writeX n v).hart = s.hart.writeX n v := rfl

/-! ### State.advance -/

@[simp] theorem State.advance_cur (s : State) (n : Nat) : (s.advance n).cur = s.cur := rfl
@[simp] theorem State.advance_harts (s : State) (n : Nat) : (s.advance n).harts = s.harts := rfl
@[simp] theorem State.advance_mem (s : State) (n : Nat) : (s.advance n).mem = s.mem := rfl
@[simp] theorem State.advance_cores (s : State) (n : Nat) : (s.advance n).cores = s.cores := rfl
@[simp] theorem State.advance_forms (s : State) (n : Nat) : (s.advance n).forms = s.forms := rfl
@[simp] theorem State.advance_parked (s : State) (n : Nat) : (s.advance n).parked = s.parked := rfl
@[simp] theorem State.advance_dies (s : State) (n : Nat) : (s.advance n).dies = s.dies := rfl
@[simp] theorem State.advance_pkgs (s : State) (n : Nat) : (s.advance n).pkgs = s.pkgs := rfl
@[simp] theorem State.advance_xids (s : State) (n : Nat) : (s.advance n).xids = s.xids := rfl
@[simp] theorem State.advance_runs (s : State) (n : Nat) : (s.advance n).runs = s.runs := rfl
@[simp] theorem State.advance_dispatched (s : State) (n : Nat) : (s.advance n).dispatched = s.dispatched := rfl
@[simp] theorem State.advance_part (s : State) (n : Nat) : (s.advance n).part = s.part := rfl
@[simp] theorem State.advance_packages (s : State) (n : Nat) : (s.advance n).packages = s.packages := rfl
@[simp] theorem State.advance_events (s : State) (n : Nat) : (s.advance n).events = s.events := rfl
@[simp] theorem State.advance_arg (s : State) (n : Nat) : (s.advance n).arg = s.arg := rfl
@[simp] theorem State.advance_turns (s : State) (n : Nat) : (s.advance n).turns = s.turns := rfl
@[simp] theorem State.advance_eager (s : State) (n : Nat) : (s.advance n).eager = s.eager := rfl
@[simp] theorem State.advance_outbox (s : State) (n : Nat) : (s.advance n).outbox = s.outbox := rfl
@[simp] theorem State.advance_tlb (s : State) (n : Nat) : (s.advance n).tlb = s.tlb := rfl
@[simp] theorem State.advance_tick (s : State) (n : Nat) : (s.advance n).tick = s.tick := rfl
@[simp] theorem State.advance_free (s : State) (n : Nat) : (s.advance n).free = s.free := rfl
@[simp] theorem State.advance_clk (s : State) (n : Nat) : (s.advance n).clk = s.clk := rfl
@[simp] theorem State.advance_ns (s : State) (n : Nat) : (s.advance n).ns = s.ns := rfl
@[simp] theorem State.advance_hart (s : State) (n : Nat) : (s.advance n).hart = s.hart.advance n := rfl

/-! ### State.jump -/

@[simp] theorem State.jump_cur (s : State) (v : Word) : (s.jump v).cur = s.cur := rfl
@[simp] theorem State.jump_harts (s : State) (v : Word) : (s.jump v).harts = s.harts := rfl
@[simp] theorem State.jump_mem (s : State) (v : Word) : (s.jump v).mem = s.mem := rfl
@[simp] theorem State.jump_cores (s : State) (v : Word) : (s.jump v).cores = s.cores := rfl
@[simp] theorem State.jump_forms (s : State) (v : Word) : (s.jump v).forms = s.forms := rfl
@[simp] theorem State.jump_parked (s : State) (v : Word) : (s.jump v).parked = s.parked := rfl
@[simp] theorem State.jump_dies (s : State) (v : Word) : (s.jump v).dies = s.dies := rfl
@[simp] theorem State.jump_pkgs (s : State) (v : Word) : (s.jump v).pkgs = s.pkgs := rfl
@[simp] theorem State.jump_xids (s : State) (v : Word) : (s.jump v).xids = s.xids := rfl
@[simp] theorem State.jump_runs (s : State) (v : Word) : (s.jump v).runs = s.runs := rfl
@[simp] theorem State.jump_dispatched (s : State) (v : Word) : (s.jump v).dispatched = s.dispatched := rfl
@[simp] theorem State.jump_part (s : State) (v : Word) : (s.jump v).part = s.part := rfl
@[simp] theorem State.jump_packages (s : State) (v : Word) : (s.jump v).packages = s.packages := rfl
@[simp] theorem State.jump_events (s : State) (v : Word) : (s.jump v).events = s.events := rfl
@[simp] theorem State.jump_arg (s : State) (v : Word) : (s.jump v).arg = s.arg := rfl
@[simp] theorem State.jump_turns (s : State) (v : Word) : (s.jump v).turns = s.turns := rfl
@[simp] theorem State.jump_eager (s : State) (v : Word) : (s.jump v).eager = s.eager := rfl
@[simp] theorem State.jump_outbox (s : State) (v : Word) : (s.jump v).outbox = s.outbox := rfl
@[simp] theorem State.jump_tlb (s : State) (v : Word) : (s.jump v).tlb = s.tlb := rfl
@[simp] theorem State.jump_tick (s : State) (v : Word) : (s.jump v).tick = s.tick := rfl
@[simp] theorem State.jump_free (s : State) (v : Word) : (s.jump v).free = s.free := rfl
@[simp] theorem State.jump_clk (s : State) (v : Word) : (s.jump v).clk = s.clk := rfl
@[simp] theorem State.jump_ns (s : State) (v : Word) : (s.jump v).ns = s.ns := rfl
@[simp] theorem State.jump_hart (s : State) (v : Word) : (s.jump v).hart = s.hart.jump v := rfl

/-! ### State.finishX -/

@[simp] theorem State.finishX_cur (s : State) (d : Reg) (v : Word) (n : Nat) : (s.finishX d v n).cur = s.cur := rfl
@[simp] theorem State.finishX_harts (s : State) (d : Reg) (v : Word) (n : Nat) : (s.finishX d v n).harts = s.harts := rfl
@[simp] theorem State.finishX_mem (s : State) (d : Reg) (v : Word) (n : Nat) : (s.finishX d v n).mem = s.mem := rfl
@[simp] theorem State.finishX_cores (s : State) (d : Reg) (v : Word) (n : Nat) : (s.finishX d v n).cores = s.cores := rfl
@[simp] theorem State.finishX_forms (s : State) (d : Reg) (v : Word) (n : Nat) : (s.finishX d v n).forms = s.forms := rfl
@[simp] theorem State.finishX_parked (s : State) (d : Reg) (v : Word) (n : Nat) : (s.finishX d v n).parked = s.parked := rfl
@[simp] theorem State.finishX_dies (s : State) (d : Reg) (v : Word) (n : Nat) : (s.finishX d v n).dies = s.dies := rfl
@[simp] theorem State.finishX_pkgs (s : State) (d : Reg) (v : Word) (n : Nat) : (s.finishX d v n).pkgs = s.pkgs := rfl
@[simp] theorem State.finishX_xids (s : State) (d : Reg) (v : Word) (n : Nat) : (s.finishX d v n).xids = s.xids := rfl
@[simp] theorem State.finishX_runs (s : State) (d : Reg) (v : Word) (n : Nat) : (s.finishX d v n).runs = s.runs := rfl
@[simp] theorem State.finishX_dispatched (s : State) (d : Reg) (v : Word) (n : Nat) : (s.finishX d v n).dispatched = s.dispatched := rfl
@[simp] theorem State.finishX_part (s : State) (d : Reg) (v : Word) (n : Nat) : (s.finishX d v n).part = s.part := rfl
@[simp] theorem State.finishX_packages (s : State) (d : Reg) (v : Word) (n : Nat) : (s.finishX d v n).packages = s.packages := rfl
@[simp] theorem State.finishX_events (s : State) (d : Reg) (v : Word) (n : Nat) : (s.finishX d v n).events = s.events := rfl
@[simp] theorem State.finishX_arg (s : State) (d : Reg) (v : Word) (n : Nat) : (s.finishX d v n).arg = s.arg := rfl
@[simp] theorem State.finishX_turns (s : State) (d : Reg) (v : Word) (n : Nat) : (s.finishX d v n).turns = s.turns := rfl
@[simp] theorem State.finishX_eager (s : State) (d : Reg) (v : Word) (n : Nat) : (s.finishX d v n).eager = s.eager := rfl
@[simp] theorem State.finishX_outbox (s : State) (d : Reg) (v : Word) (n : Nat) : (s.finishX d v n).outbox = s.outbox := rfl
@[simp] theorem State.finishX_tlb (s : State) (d : Reg) (v : Word) (n : Nat) : (s.finishX d v n).tlb = s.tlb := rfl
@[simp] theorem State.finishX_tick (s : State) (d : Reg) (v : Word) (n : Nat) : (s.finishX d v n).tick = s.tick := rfl
@[simp] theorem State.finishX_free (s : State) (d : Reg) (v : Word) (n : Nat) : (s.finishX d v n).free = s.free := rfl
@[simp] theorem State.finishX_clk (s : State) (d : Reg) (v : Word) (n : Nat) : (s.finishX d v n).clk = s.clk := rfl
@[simp] theorem State.finishX_ns (s : State) (d : Reg) (v : Word) (n : Nat) : (s.finishX d v n).ns = s.ns := rfl
@[simp] theorem State.finishX_hart (s : State) (d : Reg) (v : Word) (n : Nat) : (s.finishX d v n).hart = (s.hart.writeX d v).advance n := rfl

/-! ### State.setFront -/

@[simp] theorem State.setFront_cur (s : State) (e : QEntry) : (s.setFront e).cur = s.cur := rfl
@[simp] theorem State.setFront_harts (s : State) (e : QEntry) : (s.setFront e).harts = s.harts := rfl
@[simp] theorem State.setFront_mem (s : State) (e : QEntry) : (s.setFront e).mem = s.mem := rfl
@[simp] theorem State.setFront_cores (s : State) (e : QEntry) : (s.setFront e).cores = s.cores := rfl
@[simp] theorem State.setFront_forms (s : State) (e : QEntry) : (s.setFront e).forms = s.forms := rfl
@[simp] theorem State.setFront_parked (s : State) (e : QEntry) : (s.setFront e).parked = s.parked := rfl
@[simp] theorem State.setFront_dies (s : State) (e : QEntry) : (s.setFront e).dies = s.dies := rfl
@[simp] theorem State.setFront_pkgs (s : State) (e : QEntry) : (s.setFront e).pkgs = s.pkgs := rfl
@[simp] theorem State.setFront_xids (s : State) (e : QEntry) : (s.setFront e).xids = s.xids := rfl
@[simp] theorem State.setFront_runs (s : State) (e : QEntry) : (s.setFront e).runs = s.runs := rfl
@[simp] theorem State.setFront_dispatched (s : State) (e : QEntry) : (s.setFront e).dispatched = s.dispatched := rfl
@[simp] theorem State.setFront_part (s : State) (e : QEntry) : (s.setFront e).part = s.part := rfl
@[simp] theorem State.setFront_packages (s : State) (e : QEntry) : (s.setFront e).packages = s.packages := rfl
@[simp] theorem State.setFront_events (s : State) (e : QEntry) : (s.setFront e).events = s.events := rfl
@[simp] theorem State.setFront_arg (s : State) (e : QEntry) : (s.setFront e).arg = s.arg := rfl
@[simp] theorem State.setFront_turns (s : State) (e : QEntry) : (s.setFront e).turns = s.turns := rfl
@[simp] theorem State.setFront_eager (s : State) (e : QEntry) : (s.setFront e).eager = s.eager := rfl
@[simp] theorem State.setFront_outbox (s : State) (e : QEntry) : (s.setFront e).outbox = s.outbox := rfl
@[simp] theorem State.setFront_tlb (s : State) (e : QEntry) : (s.setFront e).tlb = s.tlb := rfl
@[simp] theorem State.setFront_tick (s : State) (e : QEntry) : (s.setFront e).tick = s.tick := rfl
@[simp] theorem State.setFront_free (s : State) (e : QEntry) : (s.setFront e).free = s.free := rfl
@[simp] theorem State.setFront_clk (s : State) (e : QEntry) : (s.setFront e).clk = s.clk := rfl
@[simp] theorem State.setFront_ns (s : State) (e : QEntry) : (s.setFront e).ns = s.ns := rfl
@[simp] theorem State.setFront_hart (s : State) (e : QEntry) : (s.setFront e).hart = { s.hart with queue := e :: s.hart.queue.tail } := rfl

/-! ### State.popFront -/

@[simp] theorem State.popFront_cur (s : State) : s.popFront.cur = s.cur := rfl
@[simp] theorem State.popFront_harts (s : State) : s.popFront.harts = s.harts := rfl
@[simp] theorem State.popFront_mem (s : State) : s.popFront.mem = s.mem := rfl
@[simp] theorem State.popFront_cores (s : State) : s.popFront.cores = s.cores := rfl
@[simp] theorem State.popFront_forms (s : State) : s.popFront.forms = s.forms := rfl
@[simp] theorem State.popFront_parked (s : State) : s.popFront.parked = s.parked := rfl
@[simp] theorem State.popFront_dies (s : State) : s.popFront.dies = s.dies := rfl
@[simp] theorem State.popFront_pkgs (s : State) : s.popFront.pkgs = s.pkgs := rfl
@[simp] theorem State.popFront_xids (s : State) : s.popFront.xids = s.xids := rfl
@[simp] theorem State.popFront_runs (s : State) : s.popFront.runs = s.runs := rfl
@[simp] theorem State.popFront_dispatched (s : State) : s.popFront.dispatched = s.dispatched := rfl
@[simp] theorem State.popFront_part (s : State) : s.popFront.part = s.part := rfl
@[simp] theorem State.popFront_packages (s : State) : s.popFront.packages = s.packages := rfl
@[simp] theorem State.popFront_events (s : State) : s.popFront.events = s.events := rfl
@[simp] theorem State.popFront_arg (s : State) : s.popFront.arg = s.arg := rfl
@[simp] theorem State.popFront_turns (s : State) : s.popFront.turns = s.turns := rfl
@[simp] theorem State.popFront_eager (s : State) : s.popFront.eager = s.eager := rfl
@[simp] theorem State.popFront_outbox (s : State) : s.popFront.outbox = s.outbox := rfl
@[simp] theorem State.popFront_tlb (s : State) : s.popFront.tlb = s.tlb := rfl
@[simp] theorem State.popFront_tick (s : State) : s.popFront.tick = s.tick := rfl
@[simp] theorem State.popFront_free (s : State) : s.popFront.free = s.free := rfl
@[simp] theorem State.popFront_clk (s : State) : s.popFront.clk = s.clk := rfl
@[simp] theorem State.popFront_ns (s : State) : s.popFront.ns = s.ns := rfl
@[simp] theorem State.popFront_hart (s : State) : s.popFront.hart = { s.hart with queue := s.hart.queue.tail } := rfl

/-! ### State.orVstat -/

@[simp] theorem State.orVstat_cur (s : State) (v : Word) : (s.orVstat v).cur = s.cur := rfl
@[simp] theorem State.orVstat_harts (s : State) (v : Word) : (s.orVstat v).harts = s.harts := rfl
@[simp] theorem State.orVstat_mem (s : State) (v : Word) : (s.orVstat v).mem = s.mem := rfl
@[simp] theorem State.orVstat_cores (s : State) (v : Word) : (s.orVstat v).cores = s.cores := rfl
@[simp] theorem State.orVstat_forms (s : State) (v : Word) : (s.orVstat v).forms = s.forms := rfl
@[simp] theorem State.orVstat_parked (s : State) (v : Word) : (s.orVstat v).parked = s.parked := rfl
@[simp] theorem State.orVstat_dies (s : State) (v : Word) : (s.orVstat v).dies = s.dies := rfl
@[simp] theorem State.orVstat_pkgs (s : State) (v : Word) : (s.orVstat v).pkgs = s.pkgs := rfl
@[simp] theorem State.orVstat_xids (s : State) (v : Word) : (s.orVstat v).xids = s.xids := rfl
@[simp] theorem State.orVstat_runs (s : State) (v : Word) : (s.orVstat v).runs = s.runs := rfl
@[simp] theorem State.orVstat_dispatched (s : State) (v : Word) : (s.orVstat v).dispatched = s.dispatched := rfl
@[simp] theorem State.orVstat_part (s : State) (v : Word) : (s.orVstat v).part = s.part := rfl
@[simp] theorem State.orVstat_packages (s : State) (v : Word) : (s.orVstat v).packages = s.packages := rfl
@[simp] theorem State.orVstat_events (s : State) (v : Word) : (s.orVstat v).events = s.events := rfl
@[simp] theorem State.orVstat_arg (s : State) (v : Word) : (s.orVstat v).arg = s.arg := rfl
@[simp] theorem State.orVstat_turns (s : State) (v : Word) : (s.orVstat v).turns = s.turns := rfl
@[simp] theorem State.orVstat_eager (s : State) (v : Word) : (s.orVstat v).eager = s.eager := rfl
@[simp] theorem State.orVstat_outbox (s : State) (v : Word) : (s.orVstat v).outbox = s.outbox := rfl
@[simp] theorem State.orVstat_tlb (s : State) (v : Word) : (s.orVstat v).tlb = s.tlb := rfl
@[simp] theorem State.orVstat_tick (s : State) (v : Word) : (s.orVstat v).tick = s.tick := rfl
@[simp] theorem State.orVstat_free (s : State) (v : Word) : (s.orVstat v).free = s.free := rfl
@[simp] theorem State.orVstat_clk (s : State) (v : Word) : (s.orVstat v).clk = s.clk := rfl
@[simp] theorem State.orVstat_ns (s : State) (v : Word) : (s.orVstat v).ns = s.ns := rfl
@[simp] theorem State.orVstat_hart (s : State) (v : Word) : (s.orVstat v).hart = s.hart.orVstat v := rfl

/-! ### State.setDie -/

@[simp] theorem State.setDie_hart (s : State) (k : Nat) (d : DieRec) : (s.setDie k d).hart = s.hart := rfl
@[simp] theorem State.setDie_cur (s : State) (k : Nat) (d : DieRec) : (s.setDie k d).cur = s.cur := rfl
@[simp] theorem State.setDie_harts (s : State) (k : Nat) (d : DieRec) : (s.setDie k d).harts = s.harts := rfl
@[simp] theorem State.setDie_mem (s : State) (k : Nat) (d : DieRec) : (s.setDie k d).mem = s.mem := rfl
@[simp] theorem State.setDie_cores (s : State) (k : Nat) (d : DieRec) : (s.setDie k d).cores = s.cores := rfl
@[simp] theorem State.setDie_forms (s : State) (k : Nat) (d : DieRec) : (s.setDie k d).forms = s.forms := rfl
@[simp] theorem State.setDie_parked (s : State) (k : Nat) (d : DieRec) : (s.setDie k d).parked = s.parked := rfl
@[simp] theorem State.setDie_pkgs (s : State) (k : Nat) (d : DieRec) : (s.setDie k d).pkgs = s.pkgs := rfl
@[simp] theorem State.setDie_xids (s : State) (k : Nat) (d : DieRec) : (s.setDie k d).xids = s.xids := rfl
@[simp] theorem State.setDie_runs (s : State) (k : Nat) (d : DieRec) : (s.setDie k d).runs = s.runs := rfl
@[simp] theorem State.setDie_dispatched (s : State) (k : Nat) (d : DieRec) : (s.setDie k d).dispatched = s.dispatched := rfl
@[simp] theorem State.setDie_part (s : State) (k : Nat) (d : DieRec) : (s.setDie k d).part = s.part := rfl
@[simp] theorem State.setDie_packages (s : State) (k : Nat) (d : DieRec) : (s.setDie k d).packages = s.packages := rfl
@[simp] theorem State.setDie_events (s : State) (k : Nat) (d : DieRec) : (s.setDie k d).events = s.events := rfl
@[simp] theorem State.setDie_arg (s : State) (k : Nat) (d : DieRec) : (s.setDie k d).arg = s.arg := rfl
@[simp] theorem State.setDie_turns (s : State) (k : Nat) (d : DieRec) : (s.setDie k d).turns = s.turns := rfl
@[simp] theorem State.setDie_eager (s : State) (k : Nat) (d : DieRec) : (s.setDie k d).eager = s.eager := rfl
@[simp] theorem State.setDie_outbox (s : State) (k : Nat) (d : DieRec) : (s.setDie k d).outbox = s.outbox := rfl
@[simp] theorem State.setDie_tlb (s : State) (k : Nat) (d : DieRec) : (s.setDie k d).tlb = s.tlb := rfl
@[simp] theorem State.setDie_tick (s : State) (k : Nat) (d : DieRec) : (s.setDie k d).tick = s.tick := rfl
@[simp] theorem State.setDie_free (s : State) (k : Nat) (d : DieRec) : (s.setDie k d).free = s.free := rfl
@[simp] theorem State.setDie_clk (s : State) (k : Nat) (d : DieRec) : (s.setDie k d).clk = s.clk := rfl
@[simp] theorem State.setDie_ns (s : State) (k : Nat) (d : DieRec) : (s.setDie k d).ns = s.ns := rfl
@[simp] theorem State.setDie_dies (s : State) (k : Nat) (d : DieRec) : (s.setDie k d).dies = SMap.set DieRec.reset s.dies k d := rfl

/-! ### State.setPkg -/

@[simp] theorem State.setPkg_hart (s : State) (p : Nat) (r : PkgRec) : (s.setPkg p r).hart = s.hart := rfl
@[simp] theorem State.setPkg_cur (s : State) (p : Nat) (r : PkgRec) : (s.setPkg p r).cur = s.cur := rfl
@[simp] theorem State.setPkg_harts (s : State) (p : Nat) (r : PkgRec) : (s.setPkg p r).harts = s.harts := rfl
@[simp] theorem State.setPkg_mem (s : State) (p : Nat) (r : PkgRec) : (s.setPkg p r).mem = s.mem := rfl
@[simp] theorem State.setPkg_cores (s : State) (p : Nat) (r : PkgRec) : (s.setPkg p r).cores = s.cores := rfl
@[simp] theorem State.setPkg_forms (s : State) (p : Nat) (r : PkgRec) : (s.setPkg p r).forms = s.forms := rfl
@[simp] theorem State.setPkg_parked (s : State) (p : Nat) (r : PkgRec) : (s.setPkg p r).parked = s.parked := rfl
@[simp] theorem State.setPkg_dies (s : State) (p : Nat) (r : PkgRec) : (s.setPkg p r).dies = s.dies := rfl
@[simp] theorem State.setPkg_xids (s : State) (p : Nat) (r : PkgRec) : (s.setPkg p r).xids = s.xids := rfl
@[simp] theorem State.setPkg_runs (s : State) (p : Nat) (r : PkgRec) : (s.setPkg p r).runs = s.runs := rfl
@[simp] theorem State.setPkg_dispatched (s : State) (p : Nat) (r : PkgRec) : (s.setPkg p r).dispatched = s.dispatched := rfl
@[simp] theorem State.setPkg_part (s : State) (p : Nat) (r : PkgRec) : (s.setPkg p r).part = s.part := rfl
@[simp] theorem State.setPkg_packages (s : State) (p : Nat) (r : PkgRec) : (s.setPkg p r).packages = s.packages := rfl
@[simp] theorem State.setPkg_events (s : State) (p : Nat) (r : PkgRec) : (s.setPkg p r).events = s.events := rfl
@[simp] theorem State.setPkg_arg (s : State) (p : Nat) (r : PkgRec) : (s.setPkg p r).arg = s.arg := rfl
@[simp] theorem State.setPkg_turns (s : State) (p : Nat) (r : PkgRec) : (s.setPkg p r).turns = s.turns := rfl
@[simp] theorem State.setPkg_eager (s : State) (p : Nat) (r : PkgRec) : (s.setPkg p r).eager = s.eager := rfl
@[simp] theorem State.setPkg_outbox (s : State) (p : Nat) (r : PkgRec) : (s.setPkg p r).outbox = s.outbox := rfl
@[simp] theorem State.setPkg_tlb (s : State) (p : Nat) (r : PkgRec) : (s.setPkg p r).tlb = s.tlb := rfl
@[simp] theorem State.setPkg_tick (s : State) (p : Nat) (r : PkgRec) : (s.setPkg p r).tick = s.tick := rfl
@[simp] theorem State.setPkg_free (s : State) (p : Nat) (r : PkgRec) : (s.setPkg p r).free = s.free := rfl
@[simp] theorem State.setPkg_clk (s : State) (p : Nat) (r : PkgRec) : (s.setPkg p r).clk = s.clk := rfl
@[simp] theorem State.setPkg_ns (s : State) (p : Nat) (r : PkgRec) : (s.setPkg p r).ns = s.ns := rfl
@[simp] theorem State.setPkg_pkgs (s : State) (p : Nat) (r : PkgRec) : (s.setPkg p r).pkgs = SMap.set PkgRec.reset s.pkgs p r := rfl

/-! ### State.setCore -/

@[simp] theorem State.setCore_hart (s : State) (k : Nat) (c : CoreRec) : (s.setCore k c).hart = s.hart := rfl
@[simp] theorem State.setCore_cur (s : State) (k : Nat) (c : CoreRec) : (s.setCore k c).cur = s.cur := rfl
@[simp] theorem State.setCore_harts (s : State) (k : Nat) (c : CoreRec) : (s.setCore k c).harts = s.harts := rfl
@[simp] theorem State.setCore_mem (s : State) (k : Nat) (c : CoreRec) : (s.setCore k c).mem = s.mem := rfl
@[simp] theorem State.setCore_forms (s : State) (k : Nat) (c : CoreRec) : (s.setCore k c).forms = s.forms := rfl
@[simp] theorem State.setCore_parked (s : State) (k : Nat) (c : CoreRec) : (s.setCore k c).parked = s.parked := rfl
@[simp] theorem State.setCore_dies (s : State) (k : Nat) (c : CoreRec) : (s.setCore k c).dies = s.dies := rfl
@[simp] theorem State.setCore_pkgs (s : State) (k : Nat) (c : CoreRec) : (s.setCore k c).pkgs = s.pkgs := rfl
@[simp] theorem State.setCore_xids (s : State) (k : Nat) (c : CoreRec) : (s.setCore k c).xids = s.xids := rfl
@[simp] theorem State.setCore_runs (s : State) (k : Nat) (c : CoreRec) : (s.setCore k c).runs = s.runs := rfl
@[simp] theorem State.setCore_dispatched (s : State) (k : Nat) (c : CoreRec) : (s.setCore k c).dispatched = s.dispatched := rfl
@[simp] theorem State.setCore_part (s : State) (k : Nat) (c : CoreRec) : (s.setCore k c).part = s.part := rfl
@[simp] theorem State.setCore_packages (s : State) (k : Nat) (c : CoreRec) : (s.setCore k c).packages = s.packages := rfl
@[simp] theorem State.setCore_events (s : State) (k : Nat) (c : CoreRec) : (s.setCore k c).events = s.events := rfl
@[simp] theorem State.setCore_arg (s : State) (k : Nat) (c : CoreRec) : (s.setCore k c).arg = s.arg := rfl
@[simp] theorem State.setCore_turns (s : State) (k : Nat) (c : CoreRec) : (s.setCore k c).turns = s.turns := rfl
@[simp] theorem State.setCore_eager (s : State) (k : Nat) (c : CoreRec) : (s.setCore k c).eager = s.eager := rfl
@[simp] theorem State.setCore_outbox (s : State) (k : Nat) (c : CoreRec) : (s.setCore k c).outbox = s.outbox := rfl
@[simp] theorem State.setCore_tlb (s : State) (k : Nat) (c : CoreRec) : (s.setCore k c).tlb = s.tlb := rfl
@[simp] theorem State.setCore_tick (s : State) (k : Nat) (c : CoreRec) : (s.setCore k c).tick = s.tick := rfl
@[simp] theorem State.setCore_free (s : State) (k : Nat) (c : CoreRec) : (s.setCore k c).free = s.free := rfl
@[simp] theorem State.setCore_clk (s : State) (k : Nat) (c : CoreRec) : (s.setCore k c).clk = s.clk := rfl
@[simp] theorem State.setCore_ns (s : State) (k : Nat) (c : CoreRec) : (s.setCore k c).ns = s.ns := rfl
@[simp] theorem State.setCore_cores (s : State) (k : Nat) (c : CoreRec) : (s.setCore k c).cores = SMap.set CoreRec.reset s.cores k c := rfl

/-! ### State.nextFree -/

@[simp] theorem State.nextFree_hart (s : State) : s.nextFree.hart = s.hart := rfl
@[simp] theorem State.nextFree_cur (s : State) : s.nextFree.cur = s.cur := rfl
@[simp] theorem State.nextFree_harts (s : State) : s.nextFree.harts = s.harts := rfl
@[simp] theorem State.nextFree_mem (s : State) : s.nextFree.mem = s.mem := rfl
@[simp] theorem State.nextFree_cores (s : State) : s.nextFree.cores = s.cores := rfl
@[simp] theorem State.nextFree_forms (s : State) : s.nextFree.forms = s.forms := rfl
@[simp] theorem State.nextFree_parked (s : State) : s.nextFree.parked = s.parked := rfl
@[simp] theorem State.nextFree_dies (s : State) : s.nextFree.dies = s.dies := rfl
@[simp] theorem State.nextFree_pkgs (s : State) : s.nextFree.pkgs = s.pkgs := rfl
@[simp] theorem State.nextFree_xids (s : State) : s.nextFree.xids = s.xids := rfl
@[simp] theorem State.nextFree_runs (s : State) : s.nextFree.runs = s.runs := rfl
@[simp] theorem State.nextFree_dispatched (s : State) : s.nextFree.dispatched = s.dispatched := rfl
@[simp] theorem State.nextFree_part (s : State) : s.nextFree.part = s.part := rfl
@[simp] theorem State.nextFree_packages (s : State) : s.nextFree.packages = s.packages := rfl
@[simp] theorem State.nextFree_events (s : State) : s.nextFree.events = s.events := rfl
@[simp] theorem State.nextFree_arg (s : State) : s.nextFree.arg = s.arg := rfl
@[simp] theorem State.nextFree_turns (s : State) : s.nextFree.turns = s.turns := rfl
@[simp] theorem State.nextFree_eager (s : State) : s.nextFree.eager = s.eager := rfl
@[simp] theorem State.nextFree_outbox (s : State) : s.nextFree.outbox = s.outbox := rfl
@[simp] theorem State.nextFree_tlb (s : State) : s.nextFree.tlb = s.tlb := rfl
@[simp] theorem State.nextFree_tick (s : State) : s.nextFree.tick = s.tick := rfl
@[simp] theorem State.nextFree_clk (s : State) : s.nextFree.clk = s.clk := rfl
@[simp] theorem State.nextFree_ns (s : State) : s.nextFree.ns = s.ns := rfl
@[simp] theorem State.nextFree_free (s : State) : s.nextFree.free = s.free + 1 := rfl

/-! ### Hart.writeX -/

@[simp] theorem Hart.writeX_pc (h : Hart) (n : Reg) (v : Word) : (h.writeX n v).pc = h.pc := by unfold Hart.writeX; split <;> rfl
@[simp] theorem Hart.writeX_ctl (h : Hart) (n : Reg) (v : Word) : (h.writeX n v).ctl = h.ctl := by unfold Hart.writeX; split <;> rfl
@[simp] theorem Hart.writeX_event (h : Hart) (n : Reg) (v : Word) : (h.writeX n v).event = h.event := by unfold Hart.writeX; split <;> rfl
@[simp] theorem Hart.writeX_run (h : Hart) (n : Reg) (v : Word) : (h.writeX n v).run = h.run := by unfold Hart.writeX; split <;> rfl
@[simp] theorem Hart.writeX_mode (h : Hart) (n : Reg) (v : Word) : (h.writeX n v).mode = h.mode := by unfold Hart.writeX; split <;> rfl
@[simp] theorem Hart.writeX_role (h : Hart) (n : Reg) (v : Word) : (h.writeX n v).role = h.role := by unfold Hart.writeX; split <;> rfl
@[simp] theorem Hart.writeX_owner (h : Hart) (n : Reg) (v : Word) : (h.writeX n v).owner = h.owner := by unfold Hart.writeX; split <;> rfl
@[simp] theorem Hart.writeX_task (h : Hart) (n : Reg) (v : Word) : (h.writeX n v).task = h.task := by unfold Hart.writeX; split <;> rfl
@[simp] theorem Hart.writeX_lease (h : Hart) (n : Reg) (v : Word) : (h.writeX n v).lease = h.lease := by unfold Hart.writeX; split <;> rfl
@[simp] theorem Hart.writeX_masks (h : Hart) (n : Reg) (v : Word) : (h.writeX n v).masks = h.masks := by unfold Hart.writeX; split <;> rfl
@[simp] theorem Hart.writeX_maskPois (h : Hart) (n : Reg) (v : Word) : (h.writeX n v).maskPois = h.maskPois := by unfold Hart.writeX; split <;> rfl
@[simp] theorem Hart.writeX_q (h : Hart) (n : Reg) (v : Word) : (h.writeX n v).q = h.q := by unfold Hart.writeX; split <;> rfl
@[simp] theorem Hart.writeX_queue (h : Hart) (n : Reg) (v : Word) : (h.writeX n v).queue = h.queue := by unfold Hart.writeX; split <;> rfl
@[simp] theorem Hart.writeX_mat (h : Hart) (n : Reg) (v : Word) : (h.writeX n v).mat = h.mat := by unfold Hart.writeX; split <;> rfl
@[simp] theorem Hart.writeX_slots (h : Hart) (n : Reg) (v : Word) : (h.writeX n v).slots = h.slots := by unfold Hart.writeX; split <;> rfl
@[simp] theorem Hart.writeX_gsets (h : Hart) (n : Reg) (v : Word) : (h.writeX n v).gsets = h.gsets := by unfold Hart.writeX; split <;> rfl
@[simp] theorem Hart.writeX_vldgs (h : Hart) (n : Reg) (v : Word) : (h.writeX n v).vldgs = h.vldgs := by unfold Hart.writeX; split <;> rfl
@[simp] theorem Hart.writeX_gsetVl (h : Hart) (n : Reg) (v : Word) : (h.writeX n v).gsetVl = h.gsetVl := by unfold Hart.writeX; split <;> rfl
@[simp] theorem Hart.writeX_gset (h : Hart) (n : Reg) (v : Word) : (h.writeX n v).gset = h.gset := by unfold Hart.writeX; split <;> rfl
@[simp] theorem Hart.writeX_claimGset (h : Hart) (n : Reg) (v : Word) : (h.writeX n v).claimGset = h.claimGset := by unfold Hart.writeX; split <;> rfl
@[simp] theorem Hart.writeX_claimFences (h : Hart) (n : Reg) (v : Word) : (h.writeX n v).claimFences = h.claimFences := by unfold Hart.writeX; split <;> rfl
@[simp] theorem Hart.writeX_hpass (h : Hart) (n : Reg) (v : Word) : (h.writeX n v).hpass = h.hpass := by unfold Hart.writeX; split <;> rfl
@[simp] theorem Hart.writeX_asked (h : Hart) (n : Reg) (v : Word) : (h.writeX n v).asked = h.asked := by unfold Hart.writeX; split <;> rfl
@[simp] theorem Hart.writeX_reply (h : Hart) (n : Reg) (v : Word) : (h.writeX n v).reply = h.reply := by unfold Hart.writeX; split <;> rfl
@[simp] theorem Hart.writeX_dpc (h : Hart) (n : Reg) (v : Word) : (h.writeX n v).dpc = h.dpc := by unfold Hart.writeX; split <;> rfl
@[simp] theorem Hart.writeX_phase (h : Hart) (n : Reg) (v : Word) : (h.writeX n v).phase = h.phase := by unfold Hart.writeX; split <;> rfl
@[simp] theorem Hart.writeX_arrived (h : Hart) (n : Reg) (v : Word) : (h.writeX n v).arrived = h.arrived := by unfold Hart.writeX; split <;> rfl
@[simp] theorem Hart.writeX_gbar (h : Hart) (n : Reg) (v : Word) : (h.writeX n v).gbar = h.gbar := by unfold Hart.writeX; split <;> rfl
@[simp] theorem Hart.writeX_xch (h : Hart) (n : Reg) (v : Word) : (h.writeX n v).xch = h.xch := by unfold Hart.writeX; split <;> rfl
@[simp] theorem Hart.writeX_preempt (h : Hart) (n : Reg) (v : Word) : (h.writeX n v).preempt = h.preempt := by unfold Hart.writeX; split <;> rfl
@[simp] theorem Hart.writeX_stop (h : Hart) (n : Reg) (v : Word) : (h.writeX n v).stop = h.stop := by unfold Hart.writeX; split <;> rfl
@[simp] theorem Hart.writeX_dwait (h : Hart) (n : Reg) (v : Word) : (h.writeX n v).dwait = h.dwait := by unfold Hart.writeX; split <;> rfl
@[simp] theorem Hart.writeX_doomed (h : Hart) (n : Reg) (v : Word) : (h.writeX n v).doomed = h.doomed := by unfold Hart.writeX; split <;> rfl
@[simp] theorem Hart.writeX_vvFence (h : Hart) (n : Reg) (v : Word) : (h.writeX n v).vvFence = h.vvFence := by unfold Hart.writeX; split <;> rfl
@[simp] theorem Hart.writeX_code (h : Hart) (n : Reg) (v : Word) : (h.writeX n v).code = h.code := by unfold Hart.writeX; split <;> rfl
@[simp] theorem Hart.writeX_late (h : Hart) (n : Reg) (v : Word) : (h.writeX n v).late = h.late := by unfold Hart.writeX; split <;> rfl

/-! ### Hart.countRetired -/

@[simp] theorem Hart.countRetired_pc (h : Hart) : h.countRetired.pc = h.pc := by unfold Hart.countRetired; split <;> rfl
@[simp] theorem Hart.countRetired_x (h : Hart) : h.countRetired.x = h.x := by unfold Hart.countRetired; split <;> rfl
@[simp] theorem Hart.countRetired_event (h : Hart) : h.countRetired.event = h.event := by unfold Hart.countRetired; split <;> rfl
@[simp] theorem Hart.countRetired_run (h : Hart) : h.countRetired.run = h.run := by unfold Hart.countRetired; split <;> rfl
@[simp] theorem Hart.countRetired_mode (h : Hart) : h.countRetired.mode = h.mode := by unfold Hart.countRetired; split <;> rfl
@[simp] theorem Hart.countRetired_role (h : Hart) : h.countRetired.role = h.role := by unfold Hart.countRetired; split <;> rfl
@[simp] theorem Hart.countRetired_owner (h : Hart) : h.countRetired.owner = h.owner := by unfold Hart.countRetired; split <;> rfl
@[simp] theorem Hart.countRetired_task (h : Hart) : h.countRetired.task = h.task := by unfold Hart.countRetired; split <;> rfl
@[simp] theorem Hart.countRetired_lease (h : Hart) : h.countRetired.lease = h.lease := by unfold Hart.countRetired; split <;> rfl
@[simp] theorem Hart.countRetired_masks (h : Hart) : h.countRetired.masks = h.masks := by unfold Hart.countRetired; split <;> rfl
@[simp] theorem Hart.countRetired_maskPois (h : Hart) : h.countRetired.maskPois = h.maskPois := by unfold Hart.countRetired; split <;> rfl
@[simp] theorem Hart.countRetired_q (h : Hart) : h.countRetired.q = h.q := by unfold Hart.countRetired; split <;> rfl
@[simp] theorem Hart.countRetired_queue (h : Hart) : h.countRetired.queue = h.queue := by unfold Hart.countRetired; split <;> rfl
@[simp] theorem Hart.countRetired_mat (h : Hart) : h.countRetired.mat = h.mat := by unfold Hart.countRetired; split <;> rfl
@[simp] theorem Hart.countRetired_slots (h : Hart) : h.countRetired.slots = h.slots := by unfold Hart.countRetired; split <;> rfl
@[simp] theorem Hart.countRetired_gsets (h : Hart) : h.countRetired.gsets = h.gsets := by unfold Hart.countRetired; split <;> rfl
@[simp] theorem Hart.countRetired_vldgs (h : Hart) : h.countRetired.vldgs = h.vldgs := by unfold Hart.countRetired; split <;> rfl
@[simp] theorem Hart.countRetired_gsetVl (h : Hart) : h.countRetired.gsetVl = h.gsetVl := by unfold Hart.countRetired; split <;> rfl
@[simp] theorem Hart.countRetired_gset (h : Hart) : h.countRetired.gset = h.gset := by unfold Hart.countRetired; split <;> rfl
@[simp] theorem Hart.countRetired_claimGset (h : Hart) : h.countRetired.claimGset = h.claimGset := by unfold Hart.countRetired; split <;> rfl
@[simp] theorem Hart.countRetired_claimFences (h : Hart) : h.countRetired.claimFences = h.claimFences := by unfold Hart.countRetired; split <;> rfl
@[simp] theorem Hart.countRetired_hpass (h : Hart) : h.countRetired.hpass = h.hpass := by unfold Hart.countRetired; split <;> rfl
@[simp] theorem Hart.countRetired_asked (h : Hart) : h.countRetired.asked = h.asked := by unfold Hart.countRetired; split <;> rfl
@[simp] theorem Hart.countRetired_reply (h : Hart) : h.countRetired.reply = h.reply := by unfold Hart.countRetired; split <;> rfl
@[simp] theorem Hart.countRetired_dpc (h : Hart) : h.countRetired.dpc = h.dpc := by unfold Hart.countRetired; split <;> rfl
@[simp] theorem Hart.countRetired_phase (h : Hart) : h.countRetired.phase = h.phase := by unfold Hart.countRetired; split <;> rfl
@[simp] theorem Hart.countRetired_arrived (h : Hart) : h.countRetired.arrived = h.arrived := by unfold Hart.countRetired; split <;> rfl
@[simp] theorem Hart.countRetired_gbar (h : Hart) : h.countRetired.gbar = h.gbar := by unfold Hart.countRetired; split <;> rfl
@[simp] theorem Hart.countRetired_xch (h : Hart) : h.countRetired.xch = h.xch := by unfold Hart.countRetired; split <;> rfl
@[simp] theorem Hart.countRetired_preempt (h : Hart) : h.countRetired.preempt = h.preempt := by unfold Hart.countRetired; split <;> rfl
@[simp] theorem Hart.countRetired_stop (h : Hart) : h.countRetired.stop = h.stop := by unfold Hart.countRetired; split <;> rfl
@[simp] theorem Hart.countRetired_dwait (h : Hart) : h.countRetired.dwait = h.dwait := by unfold Hart.countRetired; split <;> rfl
@[simp] theorem Hart.countRetired_doomed (h : Hart) : h.countRetired.doomed = h.doomed := by unfold Hart.countRetired; split <;> rfl
@[simp] theorem Hart.countRetired_vvFence (h : Hart) : h.countRetired.vvFence = h.vvFence := by unfold Hart.countRetired; split <;> rfl
@[simp] theorem Hart.countRetired_code (h : Hart) : h.countRetired.code = h.code := by unfold Hart.countRetired; split <;> rfl
@[simp] theorem Hart.countRetired_late (h : Hart) : h.countRetired.late = h.late := by unfold Hart.countRetired; split <;> rfl

/-! ### Hart.advance -/

@[simp] theorem Hart.advance_x (h : Hart) (n : Nat) : (h.advance n).x = h.x := by unfold Hart.advance; simp
@[simp] theorem Hart.advance_event (h : Hart) (n : Nat) : (h.advance n).event = h.event := by unfold Hart.advance; simp
@[simp] theorem Hart.advance_run (h : Hart) (n : Nat) : (h.advance n).run = h.run := by unfold Hart.advance; simp
@[simp] theorem Hart.advance_mode (h : Hart) (n : Nat) : (h.advance n).mode = h.mode := by unfold Hart.advance; simp
@[simp] theorem Hart.advance_role (h : Hart) (n : Nat) : (h.advance n).role = h.role := by unfold Hart.advance; simp
@[simp] theorem Hart.advance_owner (h : Hart) (n : Nat) : (h.advance n).owner = h.owner := by unfold Hart.advance; simp
@[simp] theorem Hart.advance_task (h : Hart) (n : Nat) : (h.advance n).task = h.task := by unfold Hart.advance; simp
@[simp] theorem Hart.advance_lease (h : Hart) (n : Nat) : (h.advance n).lease = h.lease := by unfold Hart.advance; simp
@[simp] theorem Hart.advance_masks (h : Hart) (n : Nat) : (h.advance n).masks = h.masks := by unfold Hart.advance; simp
@[simp] theorem Hart.advance_maskPois (h : Hart) (n : Nat) : (h.advance n).maskPois = h.maskPois := by unfold Hart.advance; simp
@[simp] theorem Hart.advance_q (h : Hart) (n : Nat) : (h.advance n).q = h.q := by unfold Hart.advance; simp
@[simp] theorem Hart.advance_queue (h : Hart) (n : Nat) : (h.advance n).queue = h.queue := by unfold Hart.advance; simp
@[simp] theorem Hart.advance_mat (h : Hart) (n : Nat) : (h.advance n).mat = h.mat := by unfold Hart.advance; simp
@[simp] theorem Hart.advance_slots (h : Hart) (n : Nat) : (h.advance n).slots = h.slots := by unfold Hart.advance; simp
@[simp] theorem Hart.advance_gsets (h : Hart) (n : Nat) : (h.advance n).gsets = h.gsets := by unfold Hart.advance; simp
@[simp] theorem Hart.advance_vldgs (h : Hart) (n : Nat) : (h.advance n).vldgs = h.vldgs := by unfold Hart.advance; simp
@[simp] theorem Hart.advance_gsetVl (h : Hart) (n : Nat) : (h.advance n).gsetVl = h.gsetVl := by unfold Hart.advance; simp
@[simp] theorem Hart.advance_gset (h : Hart) (n : Nat) : (h.advance n).gset = h.gset := by unfold Hart.advance; simp
@[simp] theorem Hart.advance_claimGset (h : Hart) (n : Nat) : (h.advance n).claimGset = h.claimGset := by unfold Hart.advance; simp
@[simp] theorem Hart.advance_claimFences (h : Hart) (n : Nat) : (h.advance n).claimFences = h.claimFences := by unfold Hart.advance; simp
@[simp] theorem Hart.advance_hpass (h : Hart) (n : Nat) : (h.advance n).hpass = h.hpass := by unfold Hart.advance; simp
@[simp] theorem Hart.advance_asked (h : Hart) (n : Nat) : (h.advance n).asked = h.asked := by unfold Hart.advance; simp
@[simp] theorem Hart.advance_reply (h : Hart) (n : Nat) : (h.advance n).reply = h.reply := by unfold Hart.advance; simp
@[simp] theorem Hart.advance_dpc (h : Hart) (n : Nat) : (h.advance n).dpc = h.dpc := by unfold Hart.advance; simp
@[simp] theorem Hart.advance_phase (h : Hart) (n : Nat) : (h.advance n).phase = h.phase := by unfold Hart.advance; simp
@[simp] theorem Hart.advance_arrived (h : Hart) (n : Nat) : (h.advance n).arrived = h.arrived := by unfold Hart.advance; simp
@[simp] theorem Hart.advance_gbar (h : Hart) (n : Nat) : (h.advance n).gbar = h.gbar := by unfold Hart.advance; simp
@[simp] theorem Hart.advance_xch (h : Hart) (n : Nat) : (h.advance n).xch = h.xch := by unfold Hart.advance; simp
@[simp] theorem Hart.advance_preempt (h : Hart) (n : Nat) : (h.advance n).preempt = h.preempt := by unfold Hart.advance; simp
@[simp] theorem Hart.advance_stop (h : Hart) (n : Nat) : (h.advance n).stop = h.stop := by unfold Hart.advance; simp
@[simp] theorem Hart.advance_dwait (h : Hart) (n : Nat) : (h.advance n).dwait = h.dwait := by unfold Hart.advance; simp
@[simp] theorem Hart.advance_doomed (h : Hart) (n : Nat) : (h.advance n).doomed = h.doomed := by unfold Hart.advance; simp
@[simp] theorem Hart.advance_vvFence (h : Hart) (n : Nat) : (h.advance n).vvFence = h.vvFence := by unfold Hart.advance; simp
@[simp] theorem Hart.advance_code (h : Hart) (n : Nat) : (h.advance n).code = h.code := by unfold Hart.advance; simp
@[simp] theorem Hart.advance_late (h : Hart) (n : Nat) : (h.advance n).late = h.late := by unfold Hart.advance; simp
@[simp] theorem Hart.advance_pc (h : Hart) (n : Nat) : (h.advance n).pc = h.pc + wordOf n := by unfold Hart.advance; simp

/-! ### Hart.jump -/

@[simp] theorem Hart.jump_x (h : Hart) (v : Word) : (h.jump v).x = h.x := by unfold Hart.jump; simp
@[simp] theorem Hart.jump_event (h : Hart) (v : Word) : (h.jump v).event = h.event := by unfold Hart.jump; simp
@[simp] theorem Hart.jump_run (h : Hart) (v : Word) : (h.jump v).run = h.run := by unfold Hart.jump; simp
@[simp] theorem Hart.jump_mode (h : Hart) (v : Word) : (h.jump v).mode = h.mode := by unfold Hart.jump; simp
@[simp] theorem Hart.jump_role (h : Hart) (v : Word) : (h.jump v).role = h.role := by unfold Hart.jump; simp
@[simp] theorem Hart.jump_owner (h : Hart) (v : Word) : (h.jump v).owner = h.owner := by unfold Hart.jump; simp
@[simp] theorem Hart.jump_task (h : Hart) (v : Word) : (h.jump v).task = h.task := by unfold Hart.jump; simp
@[simp] theorem Hart.jump_lease (h : Hart) (v : Word) : (h.jump v).lease = h.lease := by unfold Hart.jump; simp
@[simp] theorem Hart.jump_masks (h : Hart) (v : Word) : (h.jump v).masks = h.masks := by unfold Hart.jump; simp
@[simp] theorem Hart.jump_maskPois (h : Hart) (v : Word) : (h.jump v).maskPois = h.maskPois := by unfold Hart.jump; simp
@[simp] theorem Hart.jump_q (h : Hart) (v : Word) : (h.jump v).q = h.q := by unfold Hart.jump; simp
@[simp] theorem Hart.jump_queue (h : Hart) (v : Word) : (h.jump v).queue = h.queue := by unfold Hart.jump; simp
@[simp] theorem Hart.jump_mat (h : Hart) (v : Word) : (h.jump v).mat = h.mat := by unfold Hart.jump; simp
@[simp] theorem Hart.jump_slots (h : Hart) (v : Word) : (h.jump v).slots = h.slots := by unfold Hart.jump; simp
@[simp] theorem Hart.jump_gsets (h : Hart) (v : Word) : (h.jump v).gsets = h.gsets := by unfold Hart.jump; simp
@[simp] theorem Hart.jump_vldgs (h : Hart) (v : Word) : (h.jump v).vldgs = h.vldgs := by unfold Hart.jump; simp
@[simp] theorem Hart.jump_gsetVl (h : Hart) (v : Word) : (h.jump v).gsetVl = h.gsetVl := by unfold Hart.jump; simp
@[simp] theorem Hart.jump_gset (h : Hart) (v : Word) : (h.jump v).gset = h.gset := by unfold Hart.jump; simp
@[simp] theorem Hart.jump_claimGset (h : Hart) (v : Word) : (h.jump v).claimGset = h.claimGset := by unfold Hart.jump; simp
@[simp] theorem Hart.jump_claimFences (h : Hart) (v : Word) : (h.jump v).claimFences = h.claimFences := by unfold Hart.jump; simp
@[simp] theorem Hart.jump_hpass (h : Hart) (v : Word) : (h.jump v).hpass = h.hpass := by unfold Hart.jump; simp
@[simp] theorem Hart.jump_asked (h : Hart) (v : Word) : (h.jump v).asked = h.asked := by unfold Hart.jump; simp
@[simp] theorem Hart.jump_reply (h : Hart) (v : Word) : (h.jump v).reply = h.reply := by unfold Hart.jump; simp
@[simp] theorem Hart.jump_dpc (h : Hart) (v : Word) : (h.jump v).dpc = h.dpc := by unfold Hart.jump; simp
@[simp] theorem Hart.jump_phase (h : Hart) (v : Word) : (h.jump v).phase = h.phase := by unfold Hart.jump; simp
@[simp] theorem Hart.jump_arrived (h : Hart) (v : Word) : (h.jump v).arrived = h.arrived := by unfold Hart.jump; simp
@[simp] theorem Hart.jump_gbar (h : Hart) (v : Word) : (h.jump v).gbar = h.gbar := by unfold Hart.jump; simp
@[simp] theorem Hart.jump_xch (h : Hart) (v : Word) : (h.jump v).xch = h.xch := by unfold Hart.jump; simp
@[simp] theorem Hart.jump_preempt (h : Hart) (v : Word) : (h.jump v).preempt = h.preempt := by unfold Hart.jump; simp
@[simp] theorem Hart.jump_stop (h : Hart) (v : Word) : (h.jump v).stop = h.stop := by unfold Hart.jump; simp
@[simp] theorem Hart.jump_dwait (h : Hart) (v : Word) : (h.jump v).dwait = h.dwait := by unfold Hart.jump; simp
@[simp] theorem Hart.jump_doomed (h : Hart) (v : Word) : (h.jump v).doomed = h.doomed := by unfold Hart.jump; simp
@[simp] theorem Hart.jump_vvFence (h : Hart) (v : Word) : (h.jump v).vvFence = h.vvFence := by unfold Hart.jump; simp
@[simp] theorem Hart.jump_code (h : Hart) (v : Word) : (h.jump v).code = h.code := by unfold Hart.jump; simp
@[simp] theorem Hart.jump_late (h : Hart) (v : Word) : (h.jump v).late = h.late := by unfold Hart.jump; simp
@[simp] theorem Hart.jump_pc (h : Hart) (v : Word) : (h.jump v).pc = v &&& ~~~1 := by unfold Hart.jump; simp

/-! ### Hart.raise -/

@[simp] theorem Hart.raise_pc (h : Hart) (f : BitVec 5) : (h.raise f).pc = h.pc := rfl
@[simp] theorem Hart.raise_x (h : Hart) (f : BitVec 5) : (h.raise f).x = h.x := rfl
@[simp] theorem Hart.raise_event (h : Hart) (f : BitVec 5) : (h.raise f).event = h.event := rfl
@[simp] theorem Hart.raise_run (h : Hart) (f : BitVec 5) : (h.raise f).run = h.run := rfl
@[simp] theorem Hart.raise_mode (h : Hart) (f : BitVec 5) : (h.raise f).mode = h.mode := rfl
@[simp] theorem Hart.raise_role (h : Hart) (f : BitVec 5) : (h.raise f).role = h.role := rfl
@[simp] theorem Hart.raise_owner (h : Hart) (f : BitVec 5) : (h.raise f).owner = h.owner := rfl
@[simp] theorem Hart.raise_task (h : Hart) (f : BitVec 5) : (h.raise f).task = h.task := rfl
@[simp] theorem Hart.raise_lease (h : Hart) (f : BitVec 5) : (h.raise f).lease = h.lease := rfl
@[simp] theorem Hart.raise_masks (h : Hart) (f : BitVec 5) : (h.raise f).masks = h.masks := rfl
@[simp] theorem Hart.raise_maskPois (h : Hart) (f : BitVec 5) : (h.raise f).maskPois = h.maskPois := rfl
@[simp] theorem Hart.raise_q (h : Hart) (f : BitVec 5) : (h.raise f).q = h.q := rfl
@[simp] theorem Hart.raise_queue (h : Hart) (f : BitVec 5) : (h.raise f).queue = h.queue := rfl
@[simp] theorem Hart.raise_mat (h : Hart) (f : BitVec 5) : (h.raise f).mat = h.mat := rfl
@[simp] theorem Hart.raise_slots (h : Hart) (f : BitVec 5) : (h.raise f).slots = h.slots := rfl
@[simp] theorem Hart.raise_gsets (h : Hart) (f : BitVec 5) : (h.raise f).gsets = h.gsets := rfl
@[simp] theorem Hart.raise_vldgs (h : Hart) (f : BitVec 5) : (h.raise f).vldgs = h.vldgs := rfl
@[simp] theorem Hart.raise_gsetVl (h : Hart) (f : BitVec 5) : (h.raise f).gsetVl = h.gsetVl := rfl
@[simp] theorem Hart.raise_gset (h : Hart) (f : BitVec 5) : (h.raise f).gset = h.gset := rfl
@[simp] theorem Hart.raise_claimGset (h : Hart) (f : BitVec 5) : (h.raise f).claimGset = h.claimGset := rfl
@[simp] theorem Hart.raise_claimFences (h : Hart) (f : BitVec 5) : (h.raise f).claimFences = h.claimFences := rfl
@[simp] theorem Hart.raise_hpass (h : Hart) (f : BitVec 5) : (h.raise f).hpass = h.hpass := rfl
@[simp] theorem Hart.raise_asked (h : Hart) (f : BitVec 5) : (h.raise f).asked = h.asked := rfl
@[simp] theorem Hart.raise_reply (h : Hart) (f : BitVec 5) : (h.raise f).reply = h.reply := rfl
@[simp] theorem Hart.raise_dpc (h : Hart) (f : BitVec 5) : (h.raise f).dpc = h.dpc := rfl
@[simp] theorem Hart.raise_phase (h : Hart) (f : BitVec 5) : (h.raise f).phase = h.phase := rfl
@[simp] theorem Hart.raise_arrived (h : Hart) (f : BitVec 5) : (h.raise f).arrived = h.arrived := rfl
@[simp] theorem Hart.raise_gbar (h : Hart) (f : BitVec 5) : (h.raise f).gbar = h.gbar := rfl
@[simp] theorem Hart.raise_xch (h : Hart) (f : BitVec 5) : (h.raise f).xch = h.xch := rfl
@[simp] theorem Hart.raise_preempt (h : Hart) (f : BitVec 5) : (h.raise f).preempt = h.preempt := rfl
@[simp] theorem Hart.raise_stop (h : Hart) (f : BitVec 5) : (h.raise f).stop = h.stop := rfl
@[simp] theorem Hart.raise_dwait (h : Hart) (f : BitVec 5) : (h.raise f).dwait = h.dwait := rfl
@[simp] theorem Hart.raise_doomed (h : Hart) (f : BitVec 5) : (h.raise f).doomed = h.doomed := rfl
@[simp] theorem Hart.raise_vvFence (h : Hart) (f : BitVec 5) : (h.raise f).vvFence = h.vvFence := rfl
@[simp] theorem Hart.raise_code (h : Hart) (f : BitVec 5) : (h.raise f).code = h.code := rfl
@[simp] theorem Hart.raise_late (h : Hart) (f : BitVec 5) : (h.raise f).late = h.late := rfl
@[simp] theorem Hart.raise_ctl (h : Hart) (f : BitVec 5) : (h.raise f).ctl = { h.ctl with fstat := orFlags h.ctl.fstat f } := rfl

/-! ### Hart.orVstat -/

@[simp] theorem Hart.orVstat_pc (h : Hart) (v : Word) : (h.orVstat v).pc = h.pc := rfl
@[simp] theorem Hart.orVstat_x (h : Hart) (v : Word) : (h.orVstat v).x = h.x := rfl
@[simp] theorem Hart.orVstat_event (h : Hart) (v : Word) : (h.orVstat v).event = h.event := rfl
@[simp] theorem Hart.orVstat_run (h : Hart) (v : Word) : (h.orVstat v).run = h.run := rfl
@[simp] theorem Hart.orVstat_mode (h : Hart) (v : Word) : (h.orVstat v).mode = h.mode := rfl
@[simp] theorem Hart.orVstat_role (h : Hart) (v : Word) : (h.orVstat v).role = h.role := rfl
@[simp] theorem Hart.orVstat_owner (h : Hart) (v : Word) : (h.orVstat v).owner = h.owner := rfl
@[simp] theorem Hart.orVstat_task (h : Hart) (v : Word) : (h.orVstat v).task = h.task := rfl
@[simp] theorem Hart.orVstat_lease (h : Hart) (v : Word) : (h.orVstat v).lease = h.lease := rfl
@[simp] theorem Hart.orVstat_masks (h : Hart) (v : Word) : (h.orVstat v).masks = h.masks := rfl
@[simp] theorem Hart.orVstat_maskPois (h : Hart) (v : Word) : (h.orVstat v).maskPois = h.maskPois := rfl
@[simp] theorem Hart.orVstat_q (h : Hart) (v : Word) : (h.orVstat v).q = h.q := rfl
@[simp] theorem Hart.orVstat_queue (h : Hart) (v : Word) : (h.orVstat v).queue = h.queue := rfl
@[simp] theorem Hart.orVstat_mat (h : Hart) (v : Word) : (h.orVstat v).mat = h.mat := rfl
@[simp] theorem Hart.orVstat_slots (h : Hart) (v : Word) : (h.orVstat v).slots = h.slots := rfl
@[simp] theorem Hart.orVstat_gsets (h : Hart) (v : Word) : (h.orVstat v).gsets = h.gsets := rfl
@[simp] theorem Hart.orVstat_vldgs (h : Hart) (v : Word) : (h.orVstat v).vldgs = h.vldgs := rfl
@[simp] theorem Hart.orVstat_gsetVl (h : Hart) (v : Word) : (h.orVstat v).gsetVl = h.gsetVl := rfl
@[simp] theorem Hart.orVstat_gset (h : Hart) (v : Word) : (h.orVstat v).gset = h.gset := rfl
@[simp] theorem Hart.orVstat_claimGset (h : Hart) (v : Word) : (h.orVstat v).claimGset = h.claimGset := rfl
@[simp] theorem Hart.orVstat_claimFences (h : Hart) (v : Word) : (h.orVstat v).claimFences = h.claimFences := rfl
@[simp] theorem Hart.orVstat_hpass (h : Hart) (v : Word) : (h.orVstat v).hpass = h.hpass := rfl
@[simp] theorem Hart.orVstat_asked (h : Hart) (v : Word) : (h.orVstat v).asked = h.asked := rfl
@[simp] theorem Hart.orVstat_reply (h : Hart) (v : Word) : (h.orVstat v).reply = h.reply := rfl
@[simp] theorem Hart.orVstat_dpc (h : Hart) (v : Word) : (h.orVstat v).dpc = h.dpc := rfl
@[simp] theorem Hart.orVstat_phase (h : Hart) (v : Word) : (h.orVstat v).phase = h.phase := rfl
@[simp] theorem Hart.orVstat_arrived (h : Hart) (v : Word) : (h.orVstat v).arrived = h.arrived := rfl
@[simp] theorem Hart.orVstat_gbar (h : Hart) (v : Word) : (h.orVstat v).gbar = h.gbar := rfl
@[simp] theorem Hart.orVstat_xch (h : Hart) (v : Word) : (h.orVstat v).xch = h.xch := rfl
@[simp] theorem Hart.orVstat_preempt (h : Hart) (v : Word) : (h.orVstat v).preempt = h.preempt := rfl
@[simp] theorem Hart.orVstat_stop (h : Hart) (v : Word) : (h.orVstat v).stop = h.stop := rfl
@[simp] theorem Hart.orVstat_dwait (h : Hart) (v : Word) : (h.orVstat v).dwait = h.dwait := rfl
@[simp] theorem Hart.orVstat_doomed (h : Hart) (v : Word) : (h.orVstat v).doomed = h.doomed := rfl
@[simp] theorem Hart.orVstat_vvFence (h : Hart) (v : Word) : (h.orVstat v).vvFence = h.vvFence := rfl
@[simp] theorem Hart.orVstat_code (h : Hart) (v : Word) : (h.orVstat v).code = h.code := rfl
@[simp] theorem Hart.orVstat_late (h : Hart) (v : Word) : (h.orVstat v).late = h.late := rfl
@[simp] theorem Hart.orVstat_ctl (h : Hart) (v : Word) : (h.orVstat v).ctl = { h.ctl with vstat := h.ctl.vstat ||| v } := rfl

/-! ### Hart.enterTrap -/

@[simp] theorem Hart.enterTrap_x (h : Hart) (t : TrapInfo) (v : Word) : (h.enterTrap t v).x = h.x := rfl
@[simp] theorem Hart.enterTrap_event (h : Hart) (t : TrapInfo) (v : Word) : (h.enterTrap t v).event = h.event := rfl
@[simp] theorem Hart.enterTrap_run (h : Hart) (t : TrapInfo) (v : Word) : (h.enterTrap t v).run = h.run := rfl
@[simp] theorem Hart.enterTrap_mode (h : Hart) (t : TrapInfo) (v : Word) : (h.enterTrap t v).mode = h.mode := rfl
@[simp] theorem Hart.enterTrap_role (h : Hart) (t : TrapInfo) (v : Word) : (h.enterTrap t v).role = h.role := rfl
@[simp] theorem Hart.enterTrap_owner (h : Hart) (t : TrapInfo) (v : Word) : (h.enterTrap t v).owner = h.owner := rfl
@[simp] theorem Hart.enterTrap_task (h : Hart) (t : TrapInfo) (v : Word) : (h.enterTrap t v).task = h.task := rfl
@[simp] theorem Hart.enterTrap_lease (h : Hart) (t : TrapInfo) (v : Word) : (h.enterTrap t v).lease = h.lease := rfl
@[simp] theorem Hart.enterTrap_masks (h : Hart) (t : TrapInfo) (v : Word) : (h.enterTrap t v).masks = h.masks := rfl
@[simp] theorem Hart.enterTrap_maskPois (h : Hart) (t : TrapInfo) (v : Word) : (h.enterTrap t v).maskPois = h.maskPois := rfl
@[simp] theorem Hart.enterTrap_q (h : Hart) (t : TrapInfo) (v : Word) : (h.enterTrap t v).q = h.q := rfl
@[simp] theorem Hart.enterTrap_queue (h : Hart) (t : TrapInfo) (v : Word) : (h.enterTrap t v).queue = h.queue := rfl
@[simp] theorem Hart.enterTrap_mat (h : Hart) (t : TrapInfo) (v : Word) : (h.enterTrap t v).mat = h.mat := rfl
@[simp] theorem Hart.enterTrap_slots (h : Hart) (t : TrapInfo) (v : Word) : (h.enterTrap t v).slots = h.slots := rfl
@[simp] theorem Hart.enterTrap_gsets (h : Hart) (t : TrapInfo) (v : Word) : (h.enterTrap t v).gsets = h.gsets := rfl
@[simp] theorem Hart.enterTrap_vldgs (h : Hart) (t : TrapInfo) (v : Word) : (h.enterTrap t v).vldgs = h.vldgs := rfl
@[simp] theorem Hart.enterTrap_gsetVl (h : Hart) (t : TrapInfo) (v : Word) : (h.enterTrap t v).gsetVl = h.gsetVl := rfl
@[simp] theorem Hart.enterTrap_gset (h : Hart) (t : TrapInfo) (v : Word) : (h.enterTrap t v).gset = h.gset := rfl
@[simp] theorem Hart.enterTrap_claimGset (h : Hart) (t : TrapInfo) (v : Word) : (h.enterTrap t v).claimGset = h.claimGset := rfl
@[simp] theorem Hart.enterTrap_claimFences (h : Hart) (t : TrapInfo) (v : Word) : (h.enterTrap t v).claimFences = h.claimFences := rfl
@[simp] theorem Hart.enterTrap_hpass (h : Hart) (t : TrapInfo) (v : Word) : (h.enterTrap t v).hpass = h.hpass := rfl
@[simp] theorem Hart.enterTrap_asked (h : Hart) (t : TrapInfo) (v : Word) : (h.enterTrap t v).asked = h.asked := rfl
@[simp] theorem Hart.enterTrap_reply (h : Hart) (t : TrapInfo) (v : Word) : (h.enterTrap t v).reply = h.reply := rfl
@[simp] theorem Hart.enterTrap_dpc (h : Hart) (t : TrapInfo) (v : Word) : (h.enterTrap t v).dpc = h.dpc := rfl
@[simp] theorem Hart.enterTrap_phase (h : Hart) (t : TrapInfo) (v : Word) : (h.enterTrap t v).phase = h.phase := rfl
@[simp] theorem Hart.enterTrap_arrived (h : Hart) (t : TrapInfo) (v : Word) : (h.enterTrap t v).arrived = h.arrived := rfl
@[simp] theorem Hart.enterTrap_gbar (h : Hart) (t : TrapInfo) (v : Word) : (h.enterTrap t v).gbar = h.gbar := rfl
@[simp] theorem Hart.enterTrap_xch (h : Hart) (t : TrapInfo) (v : Word) : (h.enterTrap t v).xch = h.xch := rfl
@[simp] theorem Hart.enterTrap_preempt (h : Hart) (t : TrapInfo) (v : Word) : (h.enterTrap t v).preempt = h.preempt := rfl
@[simp] theorem Hart.enterTrap_stop (h : Hart) (t : TrapInfo) (v : Word) : (h.enterTrap t v).stop = h.stop := rfl
@[simp] theorem Hart.enterTrap_vvFence (h : Hart) (t : TrapInfo) (v : Word) : (h.enterTrap t v).vvFence = h.vvFence := rfl
@[simp] theorem Hart.enterTrap_code (h : Hart) (t : TrapInfo) (v : Word) : (h.enterTrap t v).code = h.code := rfl
@[simp] theorem Hart.enterTrap_pc (h : Hart) (t : TrapInfo) (v : Word) : (h.enterTrap t v).pc = h.ctl.trapvec &&& ~~~1 := rfl
@[simp] theorem Hart.enterTrap_late (h : Hart) (t : TrapInfo) (v : Word) : (h.enterTrap t v).late = none := rfl

/-! ### Hart.returnFromTrap -/

@[simp] theorem Hart.returnFromTrap_x (h : Hart) : h.returnFromTrap.x = h.x := rfl
@[simp] theorem Hart.returnFromTrap_event (h : Hart) : h.returnFromTrap.event = h.event := rfl
@[simp] theorem Hart.returnFromTrap_run (h : Hart) : h.returnFromTrap.run = h.run := rfl
@[simp] theorem Hart.returnFromTrap_mode (h : Hart) : h.returnFromTrap.mode = h.mode := rfl
@[simp] theorem Hart.returnFromTrap_role (h : Hart) : h.returnFromTrap.role = h.role := rfl
@[simp] theorem Hart.returnFromTrap_owner (h : Hart) : h.returnFromTrap.owner = h.owner := rfl
@[simp] theorem Hart.returnFromTrap_task (h : Hart) : h.returnFromTrap.task = h.task := rfl
@[simp] theorem Hart.returnFromTrap_lease (h : Hart) : h.returnFromTrap.lease = h.lease := rfl
@[simp] theorem Hart.returnFromTrap_masks (h : Hart) : h.returnFromTrap.masks = h.masks := rfl
@[simp] theorem Hart.returnFromTrap_maskPois (h : Hart) : h.returnFromTrap.maskPois = h.maskPois := rfl
@[simp] theorem Hart.returnFromTrap_q (h : Hart) : h.returnFromTrap.q = h.q := rfl
@[simp] theorem Hart.returnFromTrap_queue (h : Hart) : h.returnFromTrap.queue = h.queue := rfl
@[simp] theorem Hart.returnFromTrap_mat (h : Hart) : h.returnFromTrap.mat = h.mat := rfl
@[simp] theorem Hart.returnFromTrap_slots (h : Hart) : h.returnFromTrap.slots = h.slots := rfl
@[simp] theorem Hart.returnFromTrap_gsets (h : Hart) : h.returnFromTrap.gsets = h.gsets := rfl
@[simp] theorem Hart.returnFromTrap_vldgs (h : Hart) : h.returnFromTrap.vldgs = h.vldgs := rfl
@[simp] theorem Hart.returnFromTrap_gsetVl (h : Hart) : h.returnFromTrap.gsetVl = h.gsetVl := rfl
@[simp] theorem Hart.returnFromTrap_gset (h : Hart) : h.returnFromTrap.gset = h.gset := rfl
@[simp] theorem Hart.returnFromTrap_claimGset (h : Hart) : h.returnFromTrap.claimGset = h.claimGset := rfl
@[simp] theorem Hart.returnFromTrap_claimFences (h : Hart) : h.returnFromTrap.claimFences = h.claimFences := rfl
@[simp] theorem Hart.returnFromTrap_hpass (h : Hart) : h.returnFromTrap.hpass = h.hpass := rfl
@[simp] theorem Hart.returnFromTrap_asked (h : Hart) : h.returnFromTrap.asked = h.asked := rfl
@[simp] theorem Hart.returnFromTrap_reply (h : Hart) : h.returnFromTrap.reply = h.reply := rfl
@[simp] theorem Hart.returnFromTrap_dpc (h : Hart) : h.returnFromTrap.dpc = h.dpc := rfl
@[simp] theorem Hart.returnFromTrap_phase (h : Hart) : h.returnFromTrap.phase = h.phase := rfl
@[simp] theorem Hart.returnFromTrap_arrived (h : Hart) : h.returnFromTrap.arrived = h.arrived := rfl
@[simp] theorem Hart.returnFromTrap_gbar (h : Hart) : h.returnFromTrap.gbar = h.gbar := rfl
@[simp] theorem Hart.returnFromTrap_xch (h : Hart) : h.returnFromTrap.xch = h.xch := rfl
@[simp] theorem Hart.returnFromTrap_preempt (h : Hart) : h.returnFromTrap.preempt = h.preempt := rfl
@[simp] theorem Hart.returnFromTrap_stop (h : Hart) : h.returnFromTrap.stop = h.stop := rfl
@[simp] theorem Hart.returnFromTrap_dwait (h : Hart) : h.returnFromTrap.dwait = h.dwait := rfl
@[simp] theorem Hart.returnFromTrap_doomed (h : Hart) : h.returnFromTrap.doomed = h.doomed := rfl
@[simp] theorem Hart.returnFromTrap_vvFence (h : Hart) : h.returnFromTrap.vvFence = h.vvFence := rfl
@[simp] theorem Hart.returnFromTrap_code (h : Hart) : h.returnFromTrap.code = h.code := rfl
@[simp] theorem Hart.returnFromTrap_late (h : Hart) : h.returnFromTrap.late = h.late := rfl
@[simp] theorem Hart.returnFromTrap_pc (h : Hart) : h.returnFromTrap.pc = h.ctl.trappc &&& ~~~1 := rfl

/-! ### Control registers of the updates -/

@[simp] theorem Hart.countRetired_ctl_vl (h : Hart) : h.countRetired.ctl.vl = h.ctl.vl := by unfold Hart.countRetired; split <;> rfl
@[simp] theorem Hart.countRetired_ctl_vcfg (h : Hart) : h.countRetired.ctl.vcfg = h.ctl.vcfg := by unfold Hart.countRetired; split <;> rfl
@[simp] theorem Hart.countRetired_ctl_estart (h : Hart) : h.countRetired.ctl.estart = h.ctl.estart := by unfold Hart.countRetired; split <;> rfl
@[simp] theorem Hart.countRetired_ctl_vstat (h : Hart) : h.countRetired.ctl.vstat = h.ctl.vstat := by unfold Hart.countRetired; split <;> rfl
@[simp] theorem Hart.countRetired_ctl_fstat (h : Hart) : h.countRetired.ctl.fstat = h.ctl.fstat := by unfold Hart.countRetired; split <;> rfl
@[simp] theorem Hart.countRetired_ctl_slip (h : Hart) : h.countRetired.ctl.slip = h.ctl.slip := by unfold Hart.countRetired; split <;> rfl
@[simp] theorem Hart.countRetired_ctl_mlen (h : Hart) : h.countRetired.ctl.mlen = h.ctl.mlen := by unfold Hart.countRetired; split <;> rfl
@[simp] theorem Hart.countRetired_ctl_mstat (h : Hart) : h.countRetired.ctl.mstat = h.ctl.mstat := by unfold Hart.countRetired; split <;> rfl
@[simp] theorem Hart.countRetired_ctl_status (h : Hart) : h.countRetired.ctl.status = h.ctl.status := by unfold Hart.countRetired; split <;> rfl
@[simp] theorem Hart.countRetired_ctl_trapvec (h : Hart) : h.countRetired.ctl.trapvec = h.ctl.trapvec := by unfold Hart.countRetired; split <;> rfl
@[simp] theorem Hart.countRetired_ctl_trappc (h : Hart) : h.countRetired.ctl.trappc = h.ctl.trappc := by unfold Hart.countRetired; split <;> rfl
@[simp] theorem Hart.countRetired_ctl_trapcause (h : Hart) : h.countRetired.ctl.trapcause = h.ctl.trapcause := by unfold Hart.countRetired; split <;> rfl
@[simp] theorem Hart.countRetired_ctl_trapva (h : Hart) : h.countRetired.ctl.trapva = h.ctl.trapva := by unfold Hart.countRetired; split <;> rfl
@[simp] theorem Hart.countRetired_ctl_trapfb (h : Hart) : h.countRetired.ctl.trapfb = h.ctl.trapfb := by unfold Hart.countRetired; split <;> rfl
@[simp] theorem Hart.countRetired_ctl_trapinfo (h : Hart) : h.countRetired.ctl.trapinfo = h.ctl.trapinfo := by unfold Hart.countRetired; split <;> rfl
@[simp] theorem Hart.countRetired_ctl_vsaveptr (h : Hart) : h.countRetired.ctl.vsaveptr = h.ctl.vsaveptr := by unfold Hart.countRetired; split <;> rfl
@[simp] theorem Hart.countRetired_ctl_space (h : Hart) : h.countRetired.ctl.space = h.ctl.space := by unfold Hart.countRetired; split <;> rfl
@[simp] theorem Hart.countRetired_ctl_ptbase (h : Hart) : h.countRetired.ctl.ptbase = h.ctl.ptbase := by unfold Hart.countRetired; split <;> rfl
@[simp] theorem Hart.countRetired_ctl_scratch (h : Hart) : h.countRetired.ctl.scratch = h.ctl.scratch := by unfold Hart.countRetired; split <;> rfl
@[simp] theorem Hart.countRetired_ctl_leasewait (h : Hart) : h.countRetired.ctl.leasewait = h.ctl.leasewait := by unfold Hart.countRetired; split <;> rfl
@[simp] theorem Hart.countRetired_ctl_hpwait (h : Hart) : h.countRetired.ctl.hpwait = h.ctl.hpwait := by unfold Hart.countRetired; split <;> rfl
@[simp] theorem Hart.countRetired_ctl_spaceNow (h : Hart) : h.countRetired.ctl.spaceNow = h.ctl.spaceNow := by unfold Hart.countRetired; split <;> rfl
@[simp] theorem Hart.countRetired_ctl_ptbaseNow (h : Hart) : h.countRetired.ctl.ptbaseNow = h.ctl.ptbaseNow := by unfold Hart.countRetired; split <;> rfl
@[simp] theorem Hart.advance_ctl_vl (h : Hart) (n : Nat) : (h.advance n).ctl.vl = h.ctl.vl := by unfold Hart.advance; simp
@[simp] theorem Hart.advance_ctl_vcfg (h : Hart) (n : Nat) : (h.advance n).ctl.vcfg = h.ctl.vcfg := by unfold Hart.advance; simp
@[simp] theorem Hart.advance_ctl_estart (h : Hart) (n : Nat) : (h.advance n).ctl.estart = h.ctl.estart := by unfold Hart.advance; simp
@[simp] theorem Hart.advance_ctl_vstat (h : Hart) (n : Nat) : (h.advance n).ctl.vstat = h.ctl.vstat := by unfold Hart.advance; simp
@[simp] theorem Hart.advance_ctl_fstat (h : Hart) (n : Nat) : (h.advance n).ctl.fstat = h.ctl.fstat := by unfold Hart.advance; simp
@[simp] theorem Hart.advance_ctl_slip (h : Hart) (n : Nat) : (h.advance n).ctl.slip = h.ctl.slip := by unfold Hart.advance; simp
@[simp] theorem Hart.advance_ctl_mlen (h : Hart) (n : Nat) : (h.advance n).ctl.mlen = h.ctl.mlen := by unfold Hart.advance; simp
@[simp] theorem Hart.advance_ctl_mstat (h : Hart) (n : Nat) : (h.advance n).ctl.mstat = h.ctl.mstat := by unfold Hart.advance; simp
@[simp] theorem Hart.advance_ctl_status (h : Hart) (n : Nat) : (h.advance n).ctl.status = h.ctl.status := by unfold Hart.advance; simp
@[simp] theorem Hart.advance_ctl_trapvec (h : Hart) (n : Nat) : (h.advance n).ctl.trapvec = h.ctl.trapvec := by unfold Hart.advance; simp
@[simp] theorem Hart.advance_ctl_trappc (h : Hart) (n : Nat) : (h.advance n).ctl.trappc = h.ctl.trappc := by unfold Hart.advance; simp
@[simp] theorem Hart.advance_ctl_trapcause (h : Hart) (n : Nat) : (h.advance n).ctl.trapcause = h.ctl.trapcause := by unfold Hart.advance; simp
@[simp] theorem Hart.advance_ctl_trapva (h : Hart) (n : Nat) : (h.advance n).ctl.trapva = h.ctl.trapva := by unfold Hart.advance; simp
@[simp] theorem Hart.advance_ctl_trapfb (h : Hart) (n : Nat) : (h.advance n).ctl.trapfb = h.ctl.trapfb := by unfold Hart.advance; simp
@[simp] theorem Hart.advance_ctl_trapinfo (h : Hart) (n : Nat) : (h.advance n).ctl.trapinfo = h.ctl.trapinfo := by unfold Hart.advance; simp
@[simp] theorem Hart.advance_ctl_vsaveptr (h : Hart) (n : Nat) : (h.advance n).ctl.vsaveptr = h.ctl.vsaveptr := by unfold Hart.advance; simp
@[simp] theorem Hart.advance_ctl_space (h : Hart) (n : Nat) : (h.advance n).ctl.space = h.ctl.space := by unfold Hart.advance; simp
@[simp] theorem Hart.advance_ctl_ptbase (h : Hart) (n : Nat) : (h.advance n).ctl.ptbase = h.ctl.ptbase := by unfold Hart.advance; simp
@[simp] theorem Hart.advance_ctl_scratch (h : Hart) (n : Nat) : (h.advance n).ctl.scratch = h.ctl.scratch := by unfold Hart.advance; simp
@[simp] theorem Hart.advance_ctl_leasewait (h : Hart) (n : Nat) : (h.advance n).ctl.leasewait = h.ctl.leasewait := by unfold Hart.advance; simp
@[simp] theorem Hart.advance_ctl_hpwait (h : Hart) (n : Nat) : (h.advance n).ctl.hpwait = h.ctl.hpwait := by unfold Hart.advance; simp
@[simp] theorem Hart.advance_ctl_spaceNow (h : Hart) (n : Nat) : (h.advance n).ctl.spaceNow = h.ctl.spaceNow := by unfold Hart.advance; simp
@[simp] theorem Hart.advance_ctl_ptbaseNow (h : Hart) (n : Nat) : (h.advance n).ctl.ptbaseNow = h.ctl.ptbaseNow := by unfold Hart.advance; simp
@[simp] theorem Hart.jump_ctl_vl (h : Hart) (v : Word) : (h.jump v).ctl.vl = h.ctl.vl := by unfold Hart.jump; simp
@[simp] theorem Hart.jump_ctl_vcfg (h : Hart) (v : Word) : (h.jump v).ctl.vcfg = h.ctl.vcfg := by unfold Hart.jump; simp
@[simp] theorem Hart.jump_ctl_estart (h : Hart) (v : Word) : (h.jump v).ctl.estart = h.ctl.estart := by unfold Hart.jump; simp
@[simp] theorem Hart.jump_ctl_vstat (h : Hart) (v : Word) : (h.jump v).ctl.vstat = h.ctl.vstat := by unfold Hart.jump; simp
@[simp] theorem Hart.jump_ctl_fstat (h : Hart) (v : Word) : (h.jump v).ctl.fstat = h.ctl.fstat := by unfold Hart.jump; simp
@[simp] theorem Hart.jump_ctl_slip (h : Hart) (v : Word) : (h.jump v).ctl.slip = h.ctl.slip := by unfold Hart.jump; simp
@[simp] theorem Hart.jump_ctl_mlen (h : Hart) (v : Word) : (h.jump v).ctl.mlen = h.ctl.mlen := by unfold Hart.jump; simp
@[simp] theorem Hart.jump_ctl_mstat (h : Hart) (v : Word) : (h.jump v).ctl.mstat = h.ctl.mstat := by unfold Hart.jump; simp
@[simp] theorem Hart.jump_ctl_status (h : Hart) (v : Word) : (h.jump v).ctl.status = h.ctl.status := by unfold Hart.jump; simp
@[simp] theorem Hart.jump_ctl_trapvec (h : Hart) (v : Word) : (h.jump v).ctl.trapvec = h.ctl.trapvec := by unfold Hart.jump; simp
@[simp] theorem Hart.jump_ctl_trappc (h : Hart) (v : Word) : (h.jump v).ctl.trappc = h.ctl.trappc := by unfold Hart.jump; simp
@[simp] theorem Hart.jump_ctl_trapcause (h : Hart) (v : Word) : (h.jump v).ctl.trapcause = h.ctl.trapcause := by unfold Hart.jump; simp
@[simp] theorem Hart.jump_ctl_trapva (h : Hart) (v : Word) : (h.jump v).ctl.trapva = h.ctl.trapva := by unfold Hart.jump; simp
@[simp] theorem Hart.jump_ctl_trapfb (h : Hart) (v : Word) : (h.jump v).ctl.trapfb = h.ctl.trapfb := by unfold Hart.jump; simp
@[simp] theorem Hart.jump_ctl_trapinfo (h : Hart) (v : Word) : (h.jump v).ctl.trapinfo = h.ctl.trapinfo := by unfold Hart.jump; simp
@[simp] theorem Hart.jump_ctl_vsaveptr (h : Hart) (v : Word) : (h.jump v).ctl.vsaveptr = h.ctl.vsaveptr := by unfold Hart.jump; simp
@[simp] theorem Hart.jump_ctl_space (h : Hart) (v : Word) : (h.jump v).ctl.space = h.ctl.space := by unfold Hart.jump; simp
@[simp] theorem Hart.jump_ctl_ptbase (h : Hart) (v : Word) : (h.jump v).ctl.ptbase = h.ctl.ptbase := by unfold Hart.jump; simp
@[simp] theorem Hart.jump_ctl_scratch (h : Hart) (v : Word) : (h.jump v).ctl.scratch = h.ctl.scratch := by unfold Hart.jump; simp
@[simp] theorem Hart.jump_ctl_leasewait (h : Hart) (v : Word) : (h.jump v).ctl.leasewait = h.ctl.leasewait := by unfold Hart.jump; simp
@[simp] theorem Hart.jump_ctl_hpwait (h : Hart) (v : Word) : (h.jump v).ctl.hpwait = h.ctl.hpwait := by unfold Hart.jump; simp
@[simp] theorem Hart.jump_ctl_spaceNow (h : Hart) (v : Word) : (h.jump v).ctl.spaceNow = h.ctl.spaceNow := by unfold Hart.jump; simp
@[simp] theorem Hart.jump_ctl_ptbaseNow (h : Hart) (v : Word) : (h.jump v).ctl.ptbaseNow = h.ctl.ptbaseNow := by unfold Hart.jump; simp

/-- RETIRED counts an instruction that completes at user level (R18). -/
@[simp] theorem Hart.countRetired_ctl_retired (h : Hart) :
    h.countRetired.ctl.retired = if h.prv then h.ctl.retired else h.ctl.retired + 1 := by unfold Hart.countRetired; split <;> rfl

/-- RETIRED as the instruction completes (R18). -/
@[simp] theorem Hart.advance_ctl_retired (h : Hart) (n : Nat) :
    (h.advance n).ctl.retired = if h.prv then h.ctl.retired else h.ctl.retired + 1 := by
  unfold Hart.advance; rw [Hart.countRetired_ctl_retired]; rfl

/-- RETIRED as a control transfer completes (R18). -/
@[simp] theorem Hart.jump_ctl_retired (h : Hart) (v : Word) :
    (h.jump v).ctl.retired = if h.prv then h.ctl.retired else h.ctl.retired + 1 := by
  unfold Hart.jump; rw [Hart.countRetired_ctl_retired]; rfl

/-! ### Registers read after the updates -/

/-- x0 reads as zero (R7). -/
@[simp] theorem Hart.readX_zero (h : Hart) : h.readX 0 = 0 := rfl

/-- What a register reads as after one was written (R7). -/
theorem Hart.readX_writeX (h : Hart) (n k : Reg) (v : Word) :
    (h.writeX n v).readX k = if k = n ∧ k ≠ 0 then v else h.readX k := by
  unfold Hart.writeX Hart.readX
  by_cases hk : k = 0
  · simp [hk]
  · by_cases hn : n = 0
    · simp only [hk, hn, if_true, if_false, ne_eq, false_and]
    · simp only [hk, hn, if_false, ne_eq, not_false_eq_true, and_true]
      by_cases e : k = n
      · subst e; simp
      · have : n.toNat ≠ k.toNat := fun c => e (BitVec.eq_of_toNat_eq c.symm)
        simp [e, Vector.getElem_set_ne, this]

@[simp] theorem Hart.readX_advance (h : Hart) (n : Nat) (k : Reg) : (h.advance n).readX k = h.readX k := by
  unfold Hart.readX; simp

@[simp] theorem Hart.readX_jump (h : Hart) (v : Word) (k : Reg) : (h.jump v).readX k = h.readX k := by
  unfold Hart.readX; simp

@[simp] theorem State.readX_modHart (s : State) (f : Hart → Hart) (k : Reg) : (s.modHart f).readX k = (f s.hart).readX k := rfl

@[simp] theorem State.readX_advance (s : State) (n : Nat) (k : Reg) : (s.advance n).readX k = s.readX k := by
  simp [State.readX]

@[simp] theorem State.readX_jump (s : State) (v : Word) (k : Reg) : (s.jump v).readX k = s.readX k := by
  simp [State.readX]

/-- What a register reads as after one was written (R7). -/
theorem State.readX_writeX (s : State) (n k : Reg) (v : Word) :
    (s.writeX n v).readX k = if k = n ∧ k ≠ 0 then v else s.readX k := Hart.readX_writeX s.hart n k v

/-- What a register reads as after an instruction wrote one and completed (R6, R7). -/
theorem State.readX_finishX (s : State) (d k : Reg) (v : Word) (n : Nat) :
    (s.finishX d v n).readX k = if k = d ∧ k ≠ 0 then v else s.readX k := by
  unfold State.finishX; rw [State.readX_advance, State.readX_writeX]

/-! ### Harts -/

@[simp] theorem State.getHart_cur (s : State) : s.getHart s.cur = s.hart := by simp [State.getHart]

@[simp] theorem State.setHart_cur (s : State) (g : Nat) (h : Hart) : (s.setHart g h).cur = s.cur := by
  unfold State.setHart; split <;> rfl

@[simp] theorem State.setHart_mem (s : State) (g : Nat) (h : Hart) : (s.setHart g h).mem = s.mem := by
  unfold State.setHart; split <;> rfl

@[simp] theorem State.switch_mem (s : State) (g : Nat) : (s.switch g).mem = s.mem := by
  unfold State.switch; split <;> rfl

end Sys2Proof.Machine
end

