-- ==== Sys2Proof/Laws/Issue.lean ====
section
/-! SUPPORT. What completing a scalar instruction does, said once, and what issuing a queued instruction does in a state in which the vector side performs it
at once. -/

namespace Sys2Proof.Machine

/-! ### Completing an instruction -/

theorem State.advance_eq_went (s : State) (n : Nat) : s.advance n = s.went (s.hart.pc + wordOf n) := by
  unfold State.advance State.went Hart.advance Hart.countRetired Hart.retiredNext Hart.prv
  cases s.hart.ctl.status.getLsbD 0 <;> rfl

theorem State.jump_eq_went (s : State) (target : Word) : s.jump target = s.went (target &&& ~~~1) := by
  unfold State.jump State.went Hart.jump Hart.countRetired Hart.retiredNext Hart.prv
  cases s.hart.ctl.status.getLsbD 0 <;> rfl

theorem State.wrote_finishX (s : State) (d : Reg) (v : Word) (n : Nat) : Wrote s (s.finishX d v n) d v (s.hart.pc + wordOf n) where
  reg k := State.readX_finishX s d k v n
  rest := by
    rw [State.finishX, State.advance_eq_went, State.went, State.writeX, Hart.writeX]
    split <;> rfl

/-! ### Issue into an empty queue -/

section
variable {s : State} {i : Instr} {len mask : Nat} {xa xb : Word} {srcs : List (Nat × Nat)}

theorem State.ready_parts (h : s.ready = true) : s.eager = true ∧ s.hart.queue = [] ∧ s.hart.frozen = false
    ∧ s.hart.mode = .plain ∧ s.hart.owner = s.cur ∧ ∀ sl ∈ s.hart.slots.toList, sl.pendingMask = 0 := by
  simp only [State.ready, Bool.and_eq_true, Bool.not_eq_true', List.isEmpty_iff, beq_iff_eq, List.all_eq_true] at h
  obtain ⟨⟨⟨⟨⟨⟨⟨⟨a, b⟩, c⟩, d⟩, e⟩, f⟩, -⟩, -⟩, -⟩ := h
  exact ⟨a, b, c, d, e, f⟩

theorem State.ready_free (h : s.ready = true) : s.hart.vvFence = none ∧ s.hart.maskPois.isEmpty = true := by
  simp only [State.ready, Bool.and_eq_true, Option.isNone_iff_eq_none] at h
  exact ⟨h.1.1.2, h.1.2⟩

theorem State.ready_lanes (h : s.ready = true) : s.lease.lanes = s.lease.held := by
  have ho := (State.ready_parts h).2.2.2.2.1
  simp only [State.ready, Bool.and_eq_true, beq_iff_eq] at h
  unfold State.lease State.getHart
  rw [if_pos ho]
  exact h.2

theorem State.issue_ready (h : s.ready = true) (head : QEntry → State → HeadRes) :
    s.issue i len none xa xb head = .next ((s.placed i len xa xb).runFront head) := by
  obtain ⟨he, hq, hf, -, -, -⟩ := State.ready_parts h
  have hv := (State.ready_free h).1
  have hl : ¬ s.hart.queue.length ≥ Config.queueDepth := by simp [hq, Config.queueDepth]
  have hp : s.placed i len xa xb = (let t := s.went (s.hart.pc + wordOf len)
      { t with hart := { t.hart with queue := t.hart.queue ++ [s.entryOf i xa xb], vvFence := none } }) := by
    simp only [State.placed, State.went, hq, List.nil_append, ← hv]
  have hc : (true && s.eager && s.hart.queue.isEmpty && !s.hart.frozen) = true := by simp [he, hq, hf]
  unfold State.issue State.issueNow
  rw [hp, ← State.advance_eq_went]
  simp only [if_neg hl, if_pos hc]

theorem State.placed_maskOwed (h : s.ready = true) (e : QEntry) : (s.placed i len xa xb).hart.maskOwed e = false := by
  obtain ⟨-, -, -, -, -, hm⟩ := State.ready_parts h
  unfold Hart.maskOwed
  rw [Bool.and_eq_false_iff]
  right
  rw [List.any_eq_false]
  intro sl hsl
  simp [hm sl hsl]

/-- A queued instruction whose head completes at once completes: its entry leaves the queue. -/
theorem State.issue_done (h : s.ready = true) {head : QEntry → State → HeadRes} {t : State}
    (hd : head (s.entryOf i xa xb) (s.placed i len xa xb) = .done t) :
    s.issue i len none xa xb head = .next t.popFront := by
  rw [State.issue_ready h]
  obtain ⟨hv, hm⟩ := State.ready_free h
  unfold State.runFront State.runFrontWith
  have : (s.placed i len xa xb).hart.queue = [s.entryOf i xa xb] := rfl
  have hf : (s.entryOf i xa xb).fenced = none := hv
  have hb : (s.placed i len xa xb).headRes (s.entryOf i xa xb) head = .done t := by
    unfold State.headRes State.overMasks Hart.maskBad
    rw [if_pos (show (s.placed i len xa xb).hart.maskPois.isEmpty = true from hm)]
    split <;> exact hd
  have hw : (s.placed i len xa xb).behindFence (s.entryOf i xa xb) = some (s.placed i len xa xb) := by
    unfold State.behindFence
    rw [hf]
  simp only [this, State.placed_maskOwed h, hw, Bool.false_eq_true, ↓reduceIte]
  rw [show (s.placed i len xa xb).withMlen (s.entryOf i xa xb) = s.placed i len xa xb from rfl, hb]
  unfold State.healMask
  simp only [show (s.placed i len xa xb).hart.maskPois.isEmpty = true from hm, ↓reduceIte]
  rfl

/-- An instruction that names rings runs without them outside pipeline mode. -/
theorem State.withRings_plain {s : State} (h : s.hart.mode = .plain) (e : QEntry) (srcs : List Reg) (dst : Option Reg)
    (body : QEntry → State → HeadRes) : s.withRings e srcs dst body = body e s := by
  unfold State.withRings State.withRingsAll
  simp [h]

theorem firstIdx_none {t : Nat → Bool} (n i : Nat) (h : ∀ k, k < n → t (i + k) = false) : firstIdx t n i = none := by
  induction n generalizing i with
  | zero => rfl
  | succ n ih =>
    rw [firstIdx, show t i = false from h 0 (by omega), if_neg (by decide)]
    exact ih (i + 1) fun k hk => by rw [show i + 1 + k = i + (k + 1) by omega]; exact h (k + 1) (by omega)

theorem State.clean_at (h : s.clean mask srcs = true) {k : Nat} (hk : k < s.vctxNow.vl) :
    (s.hart.maskBit mask k && srcs.any fun r => vpoisoned s.vmem s.vctxNow.reg r.1 r.2 k) = false := by
  unfold State.clean at h
  rw [List.all_eq_true] at h
  have := h k (by simpa using hk)
  revert this
  cases s.hart.maskBit mask k <;> simp

theorem State.clean_none (h : s.clean mask srcs = true) :
    firstIdx (fun i => s.hart.maskBit mask i && srcs.any fun r => vpoisoned s.vmem s.vctxNow.reg r.1 r.2 i) s.vctxNow.vl 0
      = none :=
  firstIdx_none _ _ fun k hk => State.clean_at h (by omega)

@[simp] theorem State.placed_lease : (s.placed i len xa xb).lease = s.lease := by
  unfold State.lease State.getHart
  show (if s.hart.owner = s.cur then s.hart.lease
    else (if s.hart.owner = s.cur then (s.placed i len xa xb).hart else SMap.get Hart.reset s.harts s.hart.owner).lease) = _
  split <;> rfl
theorem State.placed_vctx (h : s.ready = true) : (s.placed i len xa xb).vctx (s.entryOf i xa xb) = s.vctxNow := by
  have hl : s.clusters = s.lease.lanes := by
    unfold State.clusters
    rw [State.ready_lanes h, ite_self]
  unfold State.vctx State.vctxNow State.vctxOf
  rw [State.placed_lease, hl]
  rfl
@[simp] theorem State.placed_vmem : (s.placed i len xa xb).vmem = s.vmem := by
  unfold State.vmem
  rw [State.placed_lease]
@[simp] theorem State.placed_maskBit : (s.placed i len xa xb).hart.maskBit = s.hart.maskBit := rfl

theorem State.dreg_plain (h : s.hart.mode = .plain) (n : Reg) : s.vctxNow.dreg n = n.toNat := by
  simp [VCtx.dreg, State.vctxNow, State.vctxOf, h]

theorem State.setVmem_own {t : State} (h : t.hart.owner = t.cur) (m : Memory) :
    t.setVmem m = { t with hart := { t.hart with lease := { t.hart.lease with vmem := m } } } := by
  simp [State.setVmem, State.setLease, State.lease, h]

/-- A queued instruction that completes and leaves ESTART 0. -/
theorem State.issue_doneV (h : s.ready = true) {head : QEntry → State → HeadRes} {t : State}
    (hd : head (s.entryOf i xa xb) (s.placed i len xa xb) = t.doneV) : s.issue i len none xa xb head = .next t.vends :=
  State.issue_done h hd

theorem State.elementwise_done {t : State} {e : QEntry} {vd : Reg} {wb mask : Nat} {f : Memory → Nat → EOut}
    (hn : firstIdx (fun i => t.hart.maskBit mask i && srcs.any fun r => vpoisoned t.vmem (t.vctx e).reg r.1 r.2 i)
      ((t.vctx e).vl - e.p) e.p = none) :
    t.elementwise e vd wb mask srcs f =
      (let r := writeElems (t.vctx e) ((t.vctx e).dreg vd) wb (t.hart.maskBit mask) (f t.vmem) ((t.vctx e).vl - e.p) e.p (t.vmem, 0)
      ((t.setVmem ((t.vctx e).tailZero r.1 ((t.vctx e).dreg vd) wb (t.vctx e).vl)).orVstat r.2).doneV) := by
  simp only [State.elementwise, hn]

theorem State.elementMask_done {t : State} {e : QEntry} {md wb mask : Nat} {f : Memory → Nat → Bool × Word}
    (hn : firstIdx (fun i => t.hart.maskBit mask i && srcs.any fun r => vpoisoned t.vmem (t.vctx e).reg r.1 r.2 i)
      ((t.vctx e).vl - e.p) e.p = none) :
    t.elementMask e md wb mask srcs f =
      (let r := writeBits (t.vctx e).maskz (t.hart.maskBit mask) (f t.vmem) ((t.vctx e).vl - e.p) e.p (t.hart.mask md, 0)
      let v := if (t.vctx e).tail && (t.vctx e).vl ≠ 0 then maskClear r.1 (t.vctx e).vl ((t.vctx e).capacity wb) else r.1
      ({ t with hart := t.hart.setMask md v }.orVstat r.2).doneV) := by
  simp only [State.elementMask, hn, Hart.mask]

/-- An element-wise instruction over elements free of poison writes its group and completes. -/
theorem State.issue_elements (h : s.ready = true) {head : QEntry → State → HeadRes} {vd : Reg} {wb mask : Nat}
    {srcs : List (Nat × Nat)} {f : Memory → Nat → EOut} (hc : s.clean mask srcs = true)
    (hd : head (s.entryOf i xa xb) (s.placed i 4 xa xb) =
      (s.placed i 4 xa xb).elementwise (s.entryOf i xa xb) vd wb mask srcs f) :
    s.issue i 4 none xa xb head = .next (s.wroteElems vd wb mask (f s.vmem)) := by
  obtain ⟨-, hq, -, hm, ho, -⟩ := State.ready_parts h
  rw [State.elementwise_done (by rw [State.placed_vctx h, State.placed_vmem, State.placed_maskBit]; exact State.clean_none hc)] at hd
  rw [State.issue_doneV h hd, State.placed_vctx h, State.placed_vmem, State.placed_maskBit, State.dreg_plain hm,
    State.setVmem_own (show (s.placed i 4 xa xb).hart.owner = (s.placed i 4 xa xb).cur from ho)]
  simp only [State.vends, State.popFront, State.orVstat, Hart.orVstat, State.wroteElems, State.elems, State.vdone, State.placed, List.tail_cons, hq]
  rfl

/-- An instruction with a mask destination over elements free of poison writes its mask and completes. -/
theorem State.issue_bits (h : s.ready = true) {head : QEntry → State → HeadRes} {md wb mask : Nat}
    {srcs : List (Nat × Nat)} {f : Memory → Nat → Bool × Word} (hc : s.clean mask srcs = true)
    (hd : head (s.entryOf i xa xb) (s.placed i 4 xa xb) =
      (s.placed i 4 xa xb).elementMask (s.entryOf i xa xb) md wb mask srcs f) :
    s.issue i 4 none xa xb head = .next (s.wroteBits md wb mask (f s.vmem)) := by
  obtain ⟨-, hq, -, -, -, -⟩ := State.ready_parts h
  rw [State.elementMask_done (by rw [State.placed_vctx h, State.placed_vmem, State.placed_maskBit]; exact State.clean_none hc)] at hd
  rw [State.issue_doneV h hd, State.placed_vctx h, State.placed_vmem, State.placed_maskBit]
  simp only [State.vends, State.popFront, State.orVstat, Hart.orVstat, State.wroteBits, State.bits, State.vdone, State.placed, hq,
    Hart.setMask, Hart.mask]
  congr 1
  split <;> rfl

theorem secondOp_eq {o : VOp} {wb k : Nat} {e : QEntry} (he : o.sc = 1 → e.xa = s.readX o.vs2) :
    secondOp s.vctxNow o e wb s.vmem k = s.second o wb k := by
  unfold secondOp State.second
  split
  · rw [he ‹_›]
  · rfl

/-- A binary operation writes, for each active element, its function of the old destination where it reads that, and of the two operands. -/
theorem State.issueBin_gives {o : VOp} {wb : Nat} {acc : Bool} {head : QEntry → State → HeadRes} {f : Nat → Nat → Nat → EOut}
    (h : s.ready = true) (hv : s.vecCheck ((o.vd :: binSrcs o).map fun r => (r, 8 * wb)) false = none)
    (hc : s.clean o.m.toNat (srcsAt (binSrcs o) wb) = true) (ha : acc = true → s.clean o.m.toNat [(o.vd.toNat, wb)] = true)
    (hh : let xa := if o.sc = 1 then s.readX o.vs2 else 0
      head (s.entryOf i xa 0) (s.placed i 4 xa 0) = (s.placed i 4 xa 0).headBin o (s.entryOf i xa 0) wb acc f) :
    s.issueBin i o wb head = .next (s.wroteElems o.vd wb o.m.toNat fun k =>
      f (if acc then s.elem o.vd wb k else 0) (s.elem o.vs1 wb k) (s.second o wb k)) := by
  have hm := (State.ready_parts h).2.2.2.1
  unfold State.issueBin
  rw [hv, State.issue_elements h (vd := o.vd) (wb := wb) (mask := o.m.toNat)
    (srcs := srcsAt (binSrcs o) wb ++ (if acc then [(o.vd.toNat, wb)] else []))
    (f := fun m k => f (if acc then velem m s.vctxNow.reg o.vd.toNat wb k else 0) (velem m s.vctxNow.reg o.vs1.toNat wb k)
      (secondOp s.vctxNow o (s.entryOf i (if o.sc = 1 then s.readX o.vs2 else 0) 0) wb m k))]
  · congr 3
    funext k
    congr 1
    exact secondOp_eq fun h1 => by simp [State.entryOf, h1]
  · cases acc
    · simpa using hc
    · have ha := ha rfl
      unfold State.clean at *
      simp only [List.all_eq_true, List.all_append, ↓reduceIte, Bool.or_eq_true, Bool.and_eq_true] at *
      intro k hk
      have := hc k hk
      have := ha k hk
      tauto
  · dsimp only at hh
    rw [hh, State.headBin, State.withRings_plain (by exact hm), State.placed_vctx h]
    dsimp only
    rw [State.dreg_plain hm]

end

end Sys2Proof.Machine
end

