-- ==== Sys2Proof/Laws/Memory.lean ====
section
/-! SUPPORT. What the sparse tables and the byte memories answer: a read after a write, the canonical form of every
operation (R12, R352, R353). -/

namespace Sys2Proof.Machine

/-! ### Sparse tables -/

/-- A canonical table from a bound is one from any lower bound. -/
theorem SMap.wfFrom_mono {α : Type} [DecidableEq α] {d : α} {a b : Nat} {m : SMap α} (h : a ≤ b)
    (hm : SMap.wfFrom d b m = true) : SMap.wfFrom d a m = true := by
  cases m with
  | nil => rfl
  | cons p m =>
    obtain ⟨k, v⟩ := p
    simp only [SMap.wfFrom, Bool.and_eq_true, decide_eq_true_eq] at hm ⊢
    exact ⟨⟨by omega, hm.1.2⟩, hm.2⟩

/-- Below its bound a canonical table lists nothing. -/
theorem SMap.get_below {α : Type} [DecidableEq α] {d : α} {lo n : Nat} {m : SMap α} (hn : n < lo)
    (hm : SMap.wfFrom d lo m = true) : SMap.get d m n = d := by
  induction m generalizing lo with
  | nil => rfl
  | cons p m ih =>
    obtain ⟨k, v⟩ := p
    simp only [SMap.wfFrom, Bool.and_eq_true, decide_eq_true_eq] at hm
    have : k ≠ n := by omega
    simp only [SMap.get, this, if_false]
    exact ih (lo := k + 1) (by omega) hm.2

/-- Setting an entry keeps the canonical form from a bound the key does not fall below. -/
theorem SMap.set_wfFrom {α : Type} [DecidableEq α] {d : α} {lo n : Nat} {v : α} {m : SMap α} (hn : lo ≤ n)
    (hm : SMap.wfFrom d lo m = true) : SMap.wfFrom d lo (SMap.set d m n v) = true := by
  induction m generalizing lo with
  | nil => by_cases hv : v = d <;> simp [SMap.set, SMap.wfFrom, hv, hn]
  | cons p m ih =>
    obtain ⟨k, w⟩ := p
    have hm' := hm
    simp only [SMap.wfFrom, Bool.and_eq_true, decide_eq_true_eq] at hm
    obtain ⟨⟨hk, hw⟩, hr⟩ := hm
    simp only [SMap.set]
    split_ifs with h1 h2 h3 h4
    · exact hm'
    · simp only [SMap.wfFrom, Bool.and_eq_true, decide_eq_true_eq]
      exact ⟨⟨hn, h2⟩, ⟨⟨by omega, hw⟩, hr⟩⟩
    · exact SMap.wfFrom_mono (by omega) hr
    · simp only [SMap.wfFrom, Bool.and_eq_true, decide_eq_true_eq]
      subst h3
      exact ⟨⟨hk, h4⟩, hr⟩
    · simp only [SMap.wfFrom, Bool.and_eq_true, decide_eq_true_eq]
      exact ⟨⟨hk, hw⟩, ih (by omega) hr⟩

/-- Setting an entry keeps the canonical form. -/
theorem SMap.set_wf {α : Type} [DecidableEq α] {d : α} {n : Nat} {v : α} {m : SMap α} (hm : SMap.wf d m = true) :
    SMap.wf d (SMap.set d m n v) = true := SMap.set_wfFrom (Nat.zero_le _) hm

/-- Reading an entry of a canonical table after one was set. -/
theorem SMap.get_set_from {α : Type} [DecidableEq α] {d : α} {lo n k : Nat} {v : α} {m : SMap α}
    (hm : SMap.wfFrom d lo m = true) : SMap.get d (SMap.set d m n v) k = if k = n then v else SMap.get d m k := by
  induction m generalizing lo with
  | nil =>
    by_cases hv : v = d
    · simp [SMap.set, SMap.get, hv]
    · by_cases hk : k = n
      · simp [SMap.set, SMap.get, hv, hk]
      · simp [SMap.set, SMap.get, hv, hk, Ne.symm hk]
  | cons p m ih =>
    obtain ⟨j, w⟩ := p
    simp only [SMap.wfFrom, Bool.and_eq_true, decide_eq_true_eq] at hm
    obtain ⟨⟨hj, hw⟩, hr⟩ := hm
    simp only [SMap.set]
    by_cases h1 : n < j
    · by_cases hv : v = d
      · by_cases hk : k = n
        · subst hk
          have : SMap.get d m k = d := SMap.get_below (lo := j + 1) (by omega) hr
          simp [SMap.get, h1, hv, this, show j ≠ k by omega]
        · simp [SMap.get, h1, hv, hk]
      · by_cases hk : k = n
        · simp [SMap.get, h1, hv, hk]
        · simp [SMap.get, h1, hv, hk, Ne.symm hk]
    · by_cases h2 : n = j
      · subst h2
        by_cases hk : k = n
        · subst hk
          have : SMap.get d m k = d := SMap.get_below (lo := k + 1) (by omega) hr
          by_cases hv : v = d
          · simp [hv, this]
          · simp [SMap.get, hv]
        · by_cases hv : v = d
          · simp [SMap.get, hv, hk, Ne.symm hk]
          · simp [SMap.get, hv, hk, Ne.symm hk]
      · by_cases hk : k = n
        · rw [if_neg h1, if_neg h2, if_pos hk, SMap.get, if_neg (by omega), ih hr, if_pos hk]
        · rw [if_neg h1, if_neg h2, if_neg hk, SMap.get, SMap.get]
          split_ifs
          · rfl
          · rw [ih hr, if_neg hk]

/-- Reading an entry after one was set. -/
theorem SMap.get_set {α : Type} [DecidableEq α] {d : α} {n k : Nat} {v : α} {m : SMap α} (hm : SMap.wf d m = true) :
    SMap.get d (SMap.set d m n v) k = if k = n then v else SMap.get d m k := SMap.get_set_from hm

/-- A table whose entries are kept by a test on the key stays canonical. -/
theorem SMap.filter_wfFrom {α : Type} [DecidableEq α] {d : α} {lo : Nat} {m : SMap α} (q : Nat × α → Bool)
    (hm : SMap.wfFrom d lo m = true) : SMap.wfFrom d lo (m.filter q) = true := by
  induction m generalizing lo with
  | nil => rfl
  | cons p m ih =>
    obtain ⟨k, v⟩ := p
    simp only [SMap.wfFrom, Bool.and_eq_true, decide_eq_true_eq] at hm
    simp only [List.filter_cons]
    split_ifs
    · simp only [SMap.wfFrom, Bool.and_eq_true, decide_eq_true_eq]
      exact ⟨hm.1, ih hm.2⟩
    · exact SMap.wfFrom_mono (by omega) (ih hm.2)

/-- A table whose entries are kept by a test stays canonical. -/
theorem SMap.filter_wf {α : Type} [DecidableEq α] {d : α} {m : SMap α} (q : Nat × α → Bool) (hm : SMap.wf d m = true) :
    SMap.wf d (m.filter q) = true := SMap.filter_wfFrom q hm

/-- A table from a bound, its keys lowered by no more than that bound, is canonical. -/
theorem SMap.lower_wfFrom {α : Type} [DecidableEq α] {d : α} {b lo : Nat} {m : SMap α} (hb : b ≤ lo)
    (hm : SMap.wfFrom d lo m = true) : SMap.wfFrom d (lo - b) (m.map fun c => (c.1 - b, c.2)) = true := by
  induction m generalizing lo with
  | nil => rfl
  | cons p m ih =>
    obtain ⟨k, v⟩ := p
    simp only [SMap.wfFrom, Bool.and_eq_true, decide_eq_true_eq, List.map_cons] at hm ⊢
    exact ⟨⟨by omega, hm.1.2⟩, SMap.wfFrom_mono (by omega) (ih (lo := k + 1) (by omega) hm.2)⟩

/-- The entries of a canonical table that pass a test which no key below a bound passes are canonical from that bound. -/
theorem SMap.filter_wf_above {α : Type} [DecidableEq α] {d : α} {b lo : Nat} {m : SMap α} (q : Nat × α → Bool)
    (hq : ∀ c, q c = true → b ≤ c.1) (hm : SMap.wfFrom d lo m = true) : SMap.wfFrom d b (m.filter q) = true := by
  induction m generalizing lo with
  | nil => rfl
  | cons p m ih =>
    obtain ⟨k, v⟩ := p
    simp only [SMap.wfFrom, Bool.and_eq_true, decide_eq_true_eq] at hm
    simp only [List.filter_cons]
    split_ifs with h
    · simp only [SMap.wfFrom, Bool.and_eq_true, decide_eq_true_eq]
      exact ⟨⟨hq _ h, hm.1.2⟩, SMap.filter_wfFrom q hm.2⟩
    · exact ih hm.2

/-! ### Byte tables -/

/-- Writing bytes keeps the canonical form. -/
theorem cellsWrite_wf {c : List Host.Cell} {k n v : Nat} (h : SMap.wf (0 : Byte) c = true) :
    SMap.wf (0 : Byte) (cellsWrite c k n v) = true := by
  induction n generalizing c k v with
  | zero => exact h
  | succ n ih => exact ih (SMap.set_wf h)

/-- One byte after a write (R12): byte j of the value inside the range, what was there before outside it. -/
theorem cellsWrite_get {c : List Host.Cell} {k n v a : Nat} (h : SMap.wf (0 : Byte) c = true) :
    SMap.get (0 : Byte) (cellsWrite c k n v) a =
      if k ≤ a ∧ a < k + n then BitVec.ofNat 8 (v / 256 ^ (a - k)) else SMap.get (0 : Byte) c a := by
  induction n generalizing c k v with
  | zero => simp [cellsWrite, show ¬(k ≤ a ∧ a < k) by omega]
  | succ n ih =>
    simp only [cellsWrite]
    rw [ih (SMap.set_wf h), SMap.get_set h]
    by_cases h1 : k + 1 ≤ a ∧ a < k + 1 + n
    · have h2 : k ≤ a ∧ a < k + (n + 1) := by omega
      rw [if_pos h1, if_pos h2, Nat.div_div_eq_div_mul, show a - k = (a - (k + 1)) + 1 by omega, Nat.pow_succ, Nat.mul_comm]
    · rw [if_neg h1]
      by_cases h2 : a = k
      · subst h2; simp
      · have : ¬(k ≤ a ∧ a < k + (n + 1)) := by omega
        simp [h2, this]

/-- Reading bytes depends on those bytes alone. -/
theorem cellsRead_congr {c e : List Host.Cell} {k n : Nat}
    (h : ∀ j, j < n → SMap.get (0 : Byte) c (k + j) = SMap.get (0 : Byte) e (k + j)) : cellsRead c k n = cellsRead e k n := by
  induction n generalizing k with
  | zero => rfl
  | succ n ih =>
    simp only [cellsRead]
    rw [show SMap.get (0 : Byte) c k = SMap.get (0 : Byte) e k from h 0 (by omega),
      ih fun j hj => by have := h (j + 1) (by omega); rwa [show k + (j + 1) = k + 1 + j by omega] at this]

/-- Reading back the bytes just written gives the value at that many bytes (R12). -/
theorem cellsRead_write {c : List Host.Cell} {k n v : Nat} (h : SMap.wf (0 : Byte) c = true) :
    cellsRead (cellsWrite c k n v) k n = v % 256 ^ n := by
  induction n generalizing c k v with
  | zero => simp [cellsRead, Nat.mod_one]
  | succ n ih =>
    simp only [cellsRead, cellsWrite]
    have h1 := cellsWrite_get (c := SMap.set (0 : Byte) c k (BitVec.ofNat 8 v)) (k := k + 1) (n := n) (v := v / 256) (a := k)
      (SMap.set_wf h)
    rw [ih (SMap.set_wf h), h1, if_neg (by omega), SMap.get_set h, if_pos rfl, BitVec.toNat_ofNat, Nat.pow_succ' (n := n), Nat.mod_mul (a := 256)]


/-- Reading elsewhere gives what was there (R12). -/
theorem cellsRead_write_other {c : List Host.Cell} {k n v a j : Nat} (h : SMap.wf (0 : Byte) c = true)
    (hd : a + j ≤ k ∨ k + n ≤ a) : cellsRead (cellsWrite c k n v) a j = cellsRead c a j := by
  apply cellsRead_congr
  intro i hi
  rw [cellsWrite_get h, if_neg (by omega)]

/-! ### Poison -/

/-- Clearing poison keeps the canonical form. -/
theorem poisClear_wf {p : SMap Bool} {k n w j : Nat} (h : SMap.wf false p = true) :
    SMap.wf false (poisClear p k n w j) = true := by
  induction j generalizing p w with
  | zero => exact h
  | succ j ih =>
    simp only [poisClear]
    split_ifs
    · exact ih (SMap.set_wf h)
    · exact ih h

/-! ### Memories -/

/-- A canonical memory: its two tables are canonical. -/
theorem Memory.wf_iff {m : Memory} : m.wf = true ↔ SMap.wf (0 : Byte) m.cells = true ∧ SMap.wf false m.pois = true := by
  simp [Memory.wf]

/-- The empty memory is canonical. -/
theorem Memory.empty_wf : Memory.empty.wf = true := rfl

/-- A write keeps the canonical form. -/
theorem Memory.write_wf {m : Memory} {k n v : Nat} (h : m.wf = true) : (m.write k n v).wf = true := by
  rw [Memory.wf_iff] at h ⊢
  exact ⟨cellsWrite_wf h.1, poisClear_wf h.2⟩

/-- Poisoning a word keeps the canonical form. -/
theorem Memory.poison_wf {m : Memory} {k : Nat} (h : m.wf = true) : (m.poison k).wf = true := by
  rw [Memory.wf_iff] at h ⊢
  exact ⟨h.1, SMap.set_wf h.2⟩

/-- Clearing a range keeps the canonical form. -/
theorem Memory.clear_wf {m : Memory} {k n : Nat} (h : m.wf = true) : (m.clear k n).wf = true := by
  rw [Memory.wf_iff] at h ⊢
  exact ⟨SMap.filter_wf _ h.1, SMap.filter_wf _ h.2⟩

/-- A copy into a memory keeps its canonical form. -/
theorem Memory.copyIn_wf {m e : Memory} {d k n : Nat} (h : m.wf = true) : (m.copyIn d e k n).wf = true := Memory.write_wf h

/-- Setting several entries keeps the canonical form. -/
theorem SMap.foldl_set_wf {α β : Type} [DecidableEq α] {d : α} (f : β → Nat) (g : β → α) {l : List β} {m : SMap α}
    (h : SMap.wf d m = true) : SMap.wf d (l.foldl (fun c b => SMap.set d c (f b) (g b)) m) = true := by
  induction l generalizing m with
  | nil => exact h
  | cons b l ih => exact ih (SMap.set_wf h)

/-- Pasting a store into a memory keeps its canonical form. -/
theorem Memory.paste_wf {m e : Memory} {b : Nat} (h : m.wf = true) : (m.paste b e).wf = true := by
  rw [Memory.wf_iff] at h ⊢
  exact ⟨SMap.foldl_set_wf _ _ h.1, SMap.foldl_set_wf _ _ h.2⟩

/-- The bytes cut out of a canonical store are canonical. -/
theorem Memory.cut_wf {m : Memory} {b n : Nat} (h : m.wf = true) : (m.cut b n).wf = true := by
  rw [Memory.wf_iff] at h ⊢
  constructor
  · have := SMap.lower_wfFrom (le_refl b) (SMap.filter_wf_above (b := b)
      (fun c => decide (b ≤ c.1) && decide (c.1 < b + n)) (by simp +contextual) h.1)
    simpa [SMap.wf, Memory.cut] using this
  · have := SMap.lower_wfFrom (le_refl (b / 8)) (SMap.filter_wf_above (b := b / 8)
      (fun c => decide (b ≤ 8 * c.1) && decide (8 * c.1 < b + n)) (fun c hc => by
        simp only [Bool.and_eq_true, decide_eq_true_eq] at hc; omega) h.2)
    simpa [SMap.wf, Memory.cut] using this

/-- A wipe keeps the canonical form (R399). -/
theorem Memory.wipe_wf {m : Memory} {q : Nat → Bool} (h : m.wf = true) : (m.wipe q).wf = true := by
  rw [Memory.wf_iff] at h ⊢
  exact ⟨SMap.filter_wf _ h.1, SMap.filter_wf _ h.2⟩

/-- A write that may poison keeps the canonical form (R353). -/
theorem Memory.writeBad_wf {m : Memory} {k n v : Nat} {b : Bool} (h : m.wf = true) : (m.writeBad k n v b).wf = true := by
  unfold Memory.writeBad
  split
  · exact Memory.poison_wf (Memory.write_wf h)
  · exact Memory.write_wf h

/-- Memory keeps its form where a line is encrypted anew (R409). -/
theorem State.recipherLine_wf {s : State} {c j : Nat} (h : s.mem.wf = true) : (s.recipherLine c j).mem.wf = true := by
  unfold State.recipherLine
  dsimp only
  split_ifs
  · exact h
  · exact Memory.write_wf h

/-- Memory keeps its form where lines are encrypted anew (R409). -/
theorem State.recipher_wf {s : State} {c : Option Nat} {k n : Nat} (h : s.mem.wf = true) : (s.recipher c k n).mem.wf = true := by
  unfold State.recipher
  split
  · exact h
  · generalize (List.range (n / 64 + 2)).map (k / 64 + ·) = l
    clear * - h
    induction l generalizing s with
    | nil => exact h
    | cons j l ih =>
      rw [List.foldl_cons]
      refine ih ?_
      split
      · exact State.recipherLine_wf h
      · exact h

/-- Bytes put under a key keep the canonical form of memory (R353, R409). -/
theorem State.putUnder_wf {s : State} {c : Option Nat} {k n v : Nat} {b : Bool} (h : s.mem.wf = true) :
    (s.putUnder c k n v b).mem.wf = true := Memory.writeBad_wf (State.recipher_wf h)

/-- A write put behind those on their way leaves memory. -/
theorem State.hold_mem (s : State) (w : HeldWrite) : (s.hold w).mem = s.mem := by
  simp only [State.hold, State.invalidateReplicas]
  split <;> rfl

/-- A write on its way or at its place keeps the canonical form of memory (R253, R389). -/
theorem State.placeBad_wf {s : State} {w : Nat} {l : Option LeafAt} {k n v : Nat} {b : Bool} (h : s.mem.wf = true) :
    (s.placeBad w l k n v b).mem.wf = true := by
  unfold State.placeBad
  split
  · rw [State.hold_mem]; exact h
  · exact State.putUnder_wf h

/-- The write of an atomic keeps it too (R81). -/
theorem State.update_wf {s : State} {w : Nat} {q : Bool} {l : Option LeafAt} {k n v : Nat} (h : s.mem.wf = true) :
    (s.update w q l k n v).mem.wf = true := by
  unfold State.update
  split
  · rw [State.hold_mem]; exact h
  · exact State.putUnder_wf h

/-- A byte after a write (R12). -/
theorem Memory.byte_write {m : Memory} {k n v a : Nat} (h : m.wf = true) :
    (m.write k n v).byte a = if k ≤ a ∧ a < k + n then BitVec.ofNat 8 (v / 256 ^ (a - k)) else m.byte a :=
  cellsWrite_get (Memory.wf_iff.1 h).1

/-- Reading back what was written (R12). -/
theorem Memory.read_write {m : Memory} {k n v : Nat} (h : m.wf = true) : (m.write k n v).read k n = v % 256 ^ n :=
  cellsRead_write (Memory.wf_iff.1 h).1

/-- Reading elsewhere. -/
theorem Memory.read_write_other {m : Memory} {k n v a j : Nat} (h : m.wf = true) (hd : a + j ≤ k ∨ k + n ≤ a) :
    (m.write k n v).read a j = m.read a j := cellsRead_write_other (Memory.wf_iff.1 h).1 hd

/-- Poisoning a word leaves every byte. -/
@[simp] theorem Memory.poison_byte (m : Memory) (k a : Nat) : (m.poison k).byte a = m.byte a := rfl

end Sys2Proof.Machine
end

