-- ==== Sys2Proof/Tests/Slice0.lean ====
section
/-! SUPPORT. Small tests on fixed values: the checks of WellFormed, words written out from the encodings of the spec,
single steps, and for every obligation with hypotheses the states and operands that meet them. -/

set_option Elab.async false

namespace Sys2Proof.Tests

open Sys2Proof.Machine

/-! ### Well-formedness: a term that each check refuses, beside one it takes -/

/-- V-form operands: legal for most instructions. -/
def vop : VOp := { vd := 1, vs1 := 2, vs2 := 0, sc := 0, t := 0, m := 0 }
/-- The same with S = 1. -/
def vopS : VOp := { vop with sc := 1 }
/-- D-form operands that are all zero. -/
def dop : DOp := { imm := 0, wb := 0, wa := 0, tt := 0, cm := 0, xs := 0, vb := 0, va := 0, acd := 0, aux := 0 }
/-- FOP operands of FP64. -/
def fop : FOp := { d := 1, a := 2, b := 3, t := 5 }

/-- Unused fields of the scalar forms (R24, R33, R88). -/
theorem test_wf_scalar_unused : (Instr.hJr { ra := 1, rb := 0 }).wf = true ∧ (Instr.hJr { ra := 1, rb := 2 }).illegal = some .unusedField
    ∧ (Instr.clz { d := 1, a := 2, b := 1 }).illegal = some .unusedField ∧ (Instr.fsqrt fop).illegal = some .unusedField
    ∧ (Instr.fclass { fop with b := 0 }).wf = true ∧ (Instr.ctlrd { d := 1, a := 1, imm := 0 }).illegal = some .unusedField
    ∧ (Instr.setvl { d := 1, a := 2, imm := 64 }).illegal = some .unusedField ∧ (Instr.setvl { d := 1, a := 2, imm := 63 }).wf = true
    ∧ (Instr.setcfg { d := 1, a := 2, imm := 1 }).illegal = some .unusedField := by decide +kernel

/-- Shifts (R26): selector and [8:6]. -/
theorem test_wf_shift : (Instr.slli { d := 1, a := 2, imm := 63 }).wf = true ∧ (Instr.slli { d := 1, a := 2, imm := 64 }).illegal = some .badShift
    ∧ (Instr.srli { d := 1, a := 2, imm := 1 }).illegal = some .badShift ∧ (Instr.srai { d := 1, a := 2, imm := 0b10000000001 }).wf = true
    ∧ (Instr.srai { d := 1, a := 2, imm := 0b11000000001 }).illegal = some .badShift := by decide +kernel

/-- Scalar types (R32): at the ends of each range. -/
theorem test_wf_fp_types : (Instr.fadd { fop with t := 2 }).wf = true ∧ (Instr.fadd { fop with t := 1 }).illegal = some .badType
    ∧ (Instr.fadd fop).wf = true ∧ (Instr.fma { fop with t := 6 }).illegal = some .badType
    ∧ (Instr.fcvt { fop with t := 0, b := 0b01101 }).wf = true ∧ (Instr.fcvt { fop with t := 6, b := 0 }).illegal = some .badType
    ∧ (Instr.fcvt { fop with b := 6 }).illegal = some .badType ∧ (Instr.fcvt { fop with b := 0b10000 }).illegal = some .unusedField
    ∧ (Instr.fcvt { fop with t := 2, b := 0b01101 }).illegal = some .badValue
    ∧ (Instr.fcvti { fop with b := 7 }).wf = true ∧ (Instr.fcvti { fop with b := 8 }).illegal = some .unusedField
    ∧ (Instr.fcvtif { fop with t := 1, b := 0 }).illegal = some .badType := by decide +kernel

/-- Masks (R121, R135). -/
theorem test_wf_masks : (Instr.vcmpeq { vop with vd := 7 }).wf = true ∧ (Instr.vcmpeq { vop with vd := 0 }).illegal = some .badRegister
    ∧ (Instr.vcmplt { vop with vd := 8 }).illegal = some .badRegister ∧ (Instr.mand { vop with vs1 := 8 }).illegal = some .badRegister
    ∧ (Instr.mand { vop with vs1 := 7 }).wf = true ∧ (Instr.mand vopS).illegal = some .badScalarBit
    ∧ (Instr.mor { vop with t := 1 }).illegal = some .unusedField ∧ (Instr.mset vopS).illegal = some .unusedField
    ∧ (Instr.mset { vopS with vs1 := 0 }).wf = true ∧ (Instr.mset { vop with vs1 := 0 }).illegal = some .badScalarBit
    ∧ (Instr.mpopc { vop with vs2 := 1 }).illegal = some .unusedField ∧ (Instr.mfirst vop).wf = true
    ∧ (Instr.vrank { vop with vs1 := 8 }).illegal = some .badRegister := by decide +kernel

/-- Vector types, S and unused fields (R121, R127, R130, R133, R135). -/
theorem test_wf_vector : (Instr.vfadd { vop with t := 2 }).wf = true ∧ (Instr.vfadd { vop with t := 1 }).illegal = some .badType
    ∧ (Instr.vfsqrt { vopS with t := 4 }).illegal = some .badScalarBit ∧ (Instr.vfabs { vop with t := 0 }).wf = true
    ∧ (Instr.vfabs { vop with t := 6 }).illegal = some .badType ∧ (Instr.vfneg { vop with vs2 := 1 }).illegal = some .unusedField
    ∧ (Instr.vfcmpeq { vop with t := 4, vd := 0 }).illegal = some .badRegister
    ∧ (Instr.vfcvt { vop with t := 1, vs2 := 0b01000 }).wf = true ∧ (Instr.vfcvt { vop with t := 2, vs2 := 0b01000 }).illegal = some .badValue
    ∧ (Instr.vfcvt { vop with vs2 := 0b10000 }).illegal = some .unusedField ∧ (Instr.vfcvt { vop with vs2 := 6 }).illegal = some .badType
    ∧ (Instr.vfcvtScaled { vopS with t := 5 }).illegal = some .badType ∧ (Instr.vfcvtScaled vop).illegal = some .badScalarBit
    ∧ (Instr.vfcvtScaled { vopS with t := 4, vs2 := 0b10000 }).illegal = some .unusedField
    ∧ (Instr.vf2i { vop with vs2 := 0b01000 }).illegal = some .unusedField ∧ (Instr.vi2f { vop with t := 6 }).illegal = some .badType
    ∧ (Instr.viext { vop with vs2 := 0b10000 }).illegal = some .unusedField
    ∧ (Instr.vredsum { vop with vs2 := 1 }).illegal = some .unusedField ∧ (Instr.vredsum { vopS with vs2 := 1 }).wf = true
    ∧ (Instr.vfredsum { vop with t := 6 }).illegal = some .badType ∧ (Instr.vscan { vopS with t := 6 }).illegal = some .badType
    ∧ (Instr.vscan { vop with t := 6 }).wf = true ∧ (Instr.vmv { vopS with vs2 := 3 }).illegal = some .unusedField
    ∧ (Instr.vmv { vop with vs2 := 3 }).illegal = some .unusedField ∧ (Instr.vmvx vop).illegal = some .badScalarBit
    ∧ (Instr.vid vop).illegal = some .unusedField ∧ (Instr.vslideup vop).illegal = some .badScalarBit
    ∧ (Instr.vcompress { vop with vs2 := 1 }).illegal = some .unusedField ∧ (Instr.vbfly { vopS with t := 1 }).illegal = some .badType
    ∧ (Instr.vsortk { vop with vs2 := 1 }).illegal = some .unusedField
    ∧ (Instr.vmaxi { vop with vd := 31 }).illegal = some .badRegister ∧ (Instr.vmaxi { vop with vd := 30 }).wf = true := by decide +kernel

/-- Vector memory (R152, R163, R281). -/
theorem test_wf_vector_memory : (Instr.vld { vop with vs2 := 1 }).illegal = some .unusedField ∧ (Instr.vld vopS).illegal = some .badScalarBit
    ∧ (Instr.vlds vop).illegal = some .badScalarBit ∧ (Instr.vldx vopS).illegal = some .badScalarBit
    ∧ (Instr.vldxc vop).illegal = some .badRegister ∧ (Instr.vldxc { vop with m := 1 }).wf = true
    ∧ (Instr.qlds { vopS with t := 3, vd := 7 }).wf = true ∧ (Instr.qlds { vopS with t := 3, vd := 8 }).illegal = some .badRegister
    ∧ (Instr.qlds { vopS with t := 2 }).illegal = some .badType ∧ (Instr.qlds { vopS with t := 4, m := 1 }).illegal = some .unusedField
    ∧ (Instr.vstxadd { vopS with t := 1 }).illegal = some .badType ∧ (Instr.vstxadd { vop with t := 1 }).wf = true
    ∧ (Instr.mld { vop with vd := 0 }).illegal = some .badRegister ∧ (Instr.mst { vop with vd := 0 }).wf = true
    ∧ (Instr.mst { vop with vd := 8 }).illegal = some .badRegister := by decide +kernel

/-- Exchange, streams, tasks and drafts (R266, R271, R297, R311). -/
theorem test_wf_agents : (Instr.xopen vop).illegal = some .badScalarBit ∧ (Instr.xopen { vopS with t := 1 }).illegal = some .unusedField
    ∧ (Instr.xopen vopS).wf = true ∧ (Instr.xsplit { vop with vs2 := 1 }).illegal = some .unusedField
    ∧ (Instr.xclose vop).illegal = some .unusedField ∧ (Instr.xclose { vop with vs1 := 0 }).wf = true
    ∧ (Instr.gwait { vop with vd := 1 }).illegal = some .unusedField ∧ (Instr.rrecv { vopS with m := 1 }).illegal = some .unusedField
    ∧ (Instr.rsend vop).illegal = some .badScalarBit
    ∧ (Instr.stmld { vop with vs2 := 1 }).illegal = some .unusedField ∧ (Instr.stmldShaped { vopS with t := 1 }).illegal = some .unusedField
    ∧ (Instr.stmtl { vopS with vs2 := 30 }).illegal = some .badRegister ∧ (Instr.stmtl { vopS with vs2 := 29 }).wf = true
    ∧ (Instr.stmwait { vop with vs1 := 1 }).illegal = some .unusedField
    ∧ (Instr.hdone { vop with m := 1 }).illegal = some .unusedField ∧ (Instr.dreg vop).illegal = some .badScalarBit := by decide +kernel

/-- Tiles (R168, R181, R182): types, counts and the fields each form shows as 0. -/
theorem test_wf_tiles : (Instr.matt { dop with imm := 16, aux := 15 }).wf = true ∧ (Instr.matt { dop with imm := 17 }).illegal = some .badValue
    ∧ (Instr.matt { dop with imm := 1, aux := 1 }).illegal = some .badValue ∧ (Instr.matt { dop with imm := 33 }).illegal = some .unusedField
    ∧ (Instr.mzero { dop with tt := 4, acd := 15 }).wf = true ∧ (Instr.mzero { dop with tt := 4, acd := 15, aux := 1 }).illegal = some .badValue
    ∧ (Instr.mzero { dop with tt := 6 }).illegal = some .badType ∧ (Instr.mzero { dop with tt := 5, acd := 1 }).illegal = some .badRegister
    ∧ (Instr.msetlen { dop with xs := 1, imm := 1 }).illegal = some .unusedField ∧ (Instr.msetlen { dop with imm := 64 }).wf = true
    ∧ (Instr.msave { dop with tt := 1 }).illegal = some .unusedField
    ∧ (Instr.opadd { dop with tt := 7 }).wf = true ∧ (Instr.opadd { dop with tt := 8 }).illegal = some .badType
    ∧ (Instr.opadd { dop with tt := 5, acd := 3 }).illegal = some .badRegister ∧ (Instr.opsub { dop with aux := 1 }).illegal = some .unusedField
    ∧ (Instr.opaddSp { dop with wa := 2 }).wf = true ∧ (Instr.opaddSp dop).illegal = some .badValue
    ∧ (Instr.opaddSp { dop with wa := 1, tt := 4 }).illegal = some .badType
    ∧ (Instr.opaddBs { dop with tt := 8 }).wf = true ∧ (Instr.opaddBs { dop with tt := 10 }).illegal = some .badType
    ∧ (Instr.opaddQ { dop with imm := 64 }).illegal = some .unusedField ∧ (Instr.opaddQ { dop with imm := 63 }).wf = true
    ∧ (Instr.mgrp { dop with aux := 1 }).illegal = some .unusedField ∧ (Instr.mgrpQ { dop with aux := 7 }).wf = true
    ∧ (Instr.mgrpQ { dop with aux := 8 }).illegal = some .unusedField
    ∧ (Instr.mldt { dop with tt := 2, xs := 30 }).wf = true ∧ (Instr.mldt { dop with tt := 2, xs := 31 }).illegal = some .badRegister
    ∧ (Instr.mldt { dop with tt := 6 }).illegal = some .badType
    ∧ (Instr.mrdv { dop with tt := 1, imm := 1 }).wf = true ∧ (Instr.mrdv { dop with tt := 2, imm := 1 }).illegal = some .badValue
    ∧ (Instr.mwrv { dop with imm := 1 }).illegal = some .unusedField ∧ (Instr.mwrv { dop with tt := 6 }).illegal = some .badType
    ∧ (Instr.bst { dop with tt := 4, aux := 4 }).wf = true ∧ (Instr.bst { dop with tt := 4, aux := 5 }).illegal = some .badValue
    ∧ (Instr.bst { dop with tt := 4, acd := 1, aux := 4 }).illegal = some .badValue ∧ (Instr.bst dop).illegal = some .badType
    ∧ (Instr.bchain { dop with tt := 4, imm := 0xF1 }).illegal = some .badValue
    ∧ (Instr.bchain { dop with tt := 4, imm := 0xF0 }).wf = true ∧ (Instr.bsset { dop with imm := 16 }).illegal = some .unusedField := by decide +kernel


/-- Words of the rows of spec/opcode_table.json, each field at a value of its own, and the operands as R23 cuts them. -/
theorem test_words_half_forms : ∀ p ∈ ([
    (0x05BD, .hAddi { ra := 13, rb := 29 }),
    (0x09BD, .hLi { ra := 13, rb := 29 }),
    (0x0DBD, .hMv { ra := 13, rb := 29 }),
    (0x11BD, .hAdd { ra := 13, rb := 29 }),
    (0x15BD, .hSub { ra := 13, rb := 29 }),
    (0x19BD, .hAnd { ra := 13, rb := 29 }),
    (0x1DBD, .hOr { ra := 13, rb := 29 }),
    (0x21BD, .hXor { ra := 13, rb := 29 }),
    (0x25BD, .hSlli { ra := 13, rb := 29 }),
    (0x29BD, .hSrli { ra := 13, rb := 29 }),
    (0x2DBD, .hLdd { ra := 13, rb := 29 }),
    (0x31BD, .hStd { ra := 13, rb := 29 }),
    (0x35BD, .hBeqz { ra := 13, rb := 29 }),
    (0x39BD, .hBnez { ra := 13, rb := 29 }),
    (0x3CED, .hJ { ra := 7, rb := 13 }),
    (0x41A0, .hJr { ra := 13, rb := 0 }),
    (0x4400, .hNop),
    (0x49BD, .hSetvl { ra := 13, rb := 29 })] : List (Nat × Instr)), decodeTableWord 16 p.1 = some p.2 := by decide +kernel

/-- Words of the rows of spec/opcode_table.json, each field at a value of its own, and the operands as R25 cuts them. -/
theorem test_words_opr : ∀ p ∈ ([
    (0x6F408198, .add { d := 19, a := 13, b := 29 }),
    (0x6F418198, .sub { d := 19, a := 13, b := 29 }),
    (0x6F428198, .mul { d := 19, a := 13, b := 29 }),
    (0x6F438198, .mulh { d := 19, a := 13, b := 29 }),
    (0x6F448198, .mulhu { d := 19, a := 13, b := 29 }),
    (0x6F458198, .div { d := 19, a := 13, b := 29 }),
    (0x6F468198, .divu { d := 19, a := 13, b := 29 }),
    (0x6F478198, .rem { d := 19, a := 13, b := 29 }),
    (0x6F488198, .remu { d := 19, a := 13, b := 29 }),
    (0x6F498198, .and { d := 19, a := 13, b := 29 }),
    (0x6F4A8198, .or { d := 19, a := 13, b := 29 }),
    (0x6F4B8198, .xor { d := 19, a := 13, b := 29 }),
    (0x6F4C8198, .sll { d := 19, a := 13, b := 29 }),
    (0x6F4D8198, .srl { d := 19, a := 13, b := 29 }),
    (0x6F4E8198, .sra { d := 19, a := 13, b := 29 }),
    (0x6F4F8198, .slt { d := 19, a := 13, b := 29 }),
    (0x6F508198, .sltu { d := 19, a := 13, b := 29 }),
    (0x6F518198, .min { d := 19, a := 13, b := 29 }),
    (0x6F528198, .max { d := 19, a := 13, b := 29 }),
    (0x6F538198, .minu { d := 19, a := 13, b := 29 }),
    (0x6F548198, .maxu { d := 19, a := 13, b := 29 }),
    (0x681581E8, .clz { d := 29, a := 13, b := 0 }),
    (0x681681E8, .ctz { d := 29, a := 13, b := 0 }),
    (0x681781E8, .popc { d := 29, a := 13, b := 0 })] : List (Nat × Instr)), decodeTableWord 32 p.1 = some p.2 := by decide +kernel

/-- Words of the rows of spec/opcode_table.json, each field at a value of its own, and the operands as R25 cuts them. -/
theorem test_words_opi : ∀ p ∈ ([
    (0x6E9D8298, .addi { d := 19, a := 13, imm := 1693 }),
    (0x6E9D8299, .andi { d := 19, a := 13, imm := 1693 }),
    (0x6E9D829A, .ori { d := 19, a := 13, imm := 1693 }),
    (0x6E9D829B, .xori { d := 19, a := 13, imm := 1693 }),
    (0x6E9D829C, .slti { d := 19, a := 13, imm := 1693 }),
    (0x6E9D829D, .sltiu { d := 19, a := 13, imm := 1693 }),
    (0x681D829E, .slli { d := 19, a := 13, imm := 29 }),
    (0x6A1D829E, .srli { d := 19, a := 13, imm := 541 }),
    (0x6C1D829E, .srai { d := 19, a := 13, imm := 1053 })] : List (Nat × Instr)), decodeTableWord 32 p.1 = some p.2 := by decide +kernel

/-- Words of the rows of spec/opcode_table.json, each field at a value of its own, and the operands as R25 cuts them. -/
theorem test_words_loads_stores : ∀ p ∈ ([
    (0x6E9D8398, .ldb { d := 19, a := 13, imm := 1693 }),
    (0x6E9D8399, .ldh { d := 19, a := 13, imm := 1693 }),
    (0x6E9D839A, .ldw { d := 19, a := 13, imm := 1693 }),
    (0x6E9D839B, .ldd { d := 19, a := 13, imm := 1693 }),
    (0x6E9D839C, .ldbu { d := 19, a := 13, imm := 1693 }),
    (0x6E9D839D, .ldhu { d := 19, a := 13, imm := 1693 }),
    (0x6E9D839E, .ldwu { d := 19, a := 13, imm := 1693 }),
    (0x6F5384D0, .stb { a := 13, b := 29, imm := 634 }),
    (0x6F5384D1, .sth { a := 13, b := 29, imm := 634 }),
    (0x6F5384D2, .stw { a := 13, b := 29, imm := 634 }),
    (0x6F5384D3, .std { a := 13, b := 29, imm := 634 })] : List (Nat × Instr)), decodeTableWord 32 p.1 = some p.2 := by decide +kernel

/-- Words of the rows of spec/opcode_table.json, each field at a value of its own, and the operands as R25 cuts them. -/
theorem test_words_branches_jumps : ∀ p ∈ ([
    (0x6F5385D0, .beq { a := 13, b := 29, imm := 634 }),
    (0x6F5385D1, .bne { a := 13, b := 29, imm := 634 }),
    (0x6F5385D2, .blt { a := 13, b := 29, imm := 634 }),
    (0x6F5385D3, .bge { a := 13, b := 29, imm := 634 }),
    (0x6F5385D4, .bltu { a := 13, b := 29, imm := 634 }),
    (0x6F5385D5, .bgeu { a := 13, b := 29, imm := 634 }),
    (0xB4ED86EB, .jal { d := 29, imm := 370539 }),
    (0x6E9D8798, .jalr { d := 19, a := 13, imm := 1693 }),
    (0xB4ED88EB, .lui { d := 29, imm := 370539 }),
    (0xB4ED89EB, .addpc { d := 29, imm := 370539 })] : List (Nat × Instr)), decodeTableWord 32 p.1 = some p.2 := by decide +kernel

/-- Words of the rows of spec/opcode_table.json, each field at a value of its own, and the operands as R25 cuts them. -/
theorem test_words_fop : ∀ p ∈ ([
    (0x6F408A9A, .fadd { d := 19, a := 13, b := 29, t := 2 }),
    (0x6F418A9A, .fsub { d := 19, a := 13, b := 29, t := 2 }),
    (0x6F428A9A, .fmul { d := 19, a := 13, b := 29, t := 2 }),
    (0x6F438A9A, .fdiv { d := 19, a := 13, b := 29, t := 2 }),
    (0x68048AEB, .fsqrt { d := 29, a := 13, b := 0, t := 3 }),
    (0x6F458A9A, .fmin { d := 19, a := 13, b := 29, t := 2 }),
    (0x6F468A9A, .fmax { d := 19, a := 13, b := 29, t := 2 }),
    (0x6F478A9A, .feq { d := 19, a := 13, b := 29, t := 2 }),
    (0x6F488A9A, .flt { d := 19, a := 13, b := 29, t := 2 }),
    (0x6F498A9A, .fle { d := 19, a := 13, b := 29, t := 2 }),
    (0x680A8AEB, .fclass { d := 29, a := 13, b := 0, t := 3 }),
    (0x6ACB8AD6, .fcvt { d := 26, a := 13, b := 11, t := 6 }),
    (0x694C8A9A, .fcvti { d := 19, a := 13, b := 5, t := 2 }),
    (0x694D8A9A, .fcvtif { d := 19, a := 13, b := 5, t := 2 }),
    (0x6F4E8A9A, .fsgn { d := 19, a := 13, b := 29, t := 2 }),
    (0x6F4F8A9A, .fma { d := 19, a := 13, b := 29, t := 2 }),
    (0x6F508A9A, .fnma { d := 19, a := 13, b := 29, t := 2 })] : List (Nat × Instr)), decodeTableWord 32 p.1 = some p.2 := by decide +kernel

/-- Words of the rows of spec/opcode_table.json, each field at a value of its own, and the operands as R25 cuts them. -/
theorem test_words_amo : ∀ p ∈ ([
    (0x6F708CD3, .amoswap { d := 26, a := 13, b := 29, o := 3, w := 1 }),
    (0x6F718CD3, .amoadd { d := 26, a := 13, b := 29, o := 3, w := 1 }),
    (0x6F728CD3, .amoand { d := 26, a := 13, b := 29, o := 3, w := 1 }),
    (0x6F738CD3, .amoor { d := 26, a := 13, b := 29, o := 3, w := 1 }),
    (0x6F748CD3, .amoxor { d := 26, a := 13, b := 29, o := 3, w := 1 }),
    (0x6F758CD3, .amomin { d := 26, a := 13, b := 29, o := 3, w := 1 }),
    (0x6F768CD3, .amomax { d := 26, a := 13, b := 29, o := 3, w := 1 }),
    (0x6F778CD3, .amominu { d := 26, a := 13, b := 29, o := 3, w := 1 }),
    (0x6F788CD3, .amomaxu { d := 26, a := 13, b := 29, o := 3, w := 1 }),
    (0x6F798CD3, .amocas { d := 26, a := 13, b := 29, o := 3, w := 1 }),
    (0x6F7A8CD3, .amofadd { d := 26, a := 13, b := 29, o := 3, w := 1 })] : List (Nat × Instr)), decodeTableWord 32 p.1 = some p.2 := by decide +kernel

/-- Words of the rows of spec/opcode_table.json, each field at a value of its own, and the operands as R25 cuts them. -/
theorem test_words_sys_ctl : ∀ p ∈ ([
    (0x00008D00, .fenceSv),
    (0x00018D00, .fenceVs),
    (0x00028D00, .fenceVv),
    (0x00038D00, .fenceAll),
    (0x00048D00, .fenceI),
    (0x68058D00, .trap 13),
    (0x00068D00, .tret),
    (0x00078D00, .wfe),
    (0x00088D00, .brk),
    (0x04ED8EE8, .ctlrd { d := 29, a := 0, imm := 1261 }),
    (0x6E9D8E99, .ctlwr { d := 19, a := 13, imm := 1693 }),
    (0x6E9D8E9A, .ctlset { d := 19, a := 13, imm := 1693 }),
    (0x6E9D8E9B, .ctlclr { d := 19, a := 13, imm := 1693 }),
    (0x6E9D8E9C, .ctlwri { d := 19, a := 13, imm := 1693 })] : List (Nat × Instr)), decodeTableWord 32 p.1 = some p.2 := by decide +kernel

/-- Words of the rows of spec/opcode_table.json, each field at a value of its own, and the operands as R25 cuts them. -/
theorem test_words_vcfg : ∀ p ∈ ([
    (0x683A9070, .setvl { d := 14, a := 13, imm := 58 }),
    (0x683A9071, .setvli { d := 14, a := 13, imm := 58 }),
    (0x680090EA, .setcfg { d := 29, a := 13, imm := 0 }),
    (0x00009003, .vclaim),
    (0x68009004, .vsave 13),
    (0x68009005, .vrestore 13),
    (0x683A9076, .gsetvl { d := 14, a := 13, imm := 58 })] : List (Nat × Instr)), decodeTableWord 32 p.1 = some p.2 := by decide +kernel

/-- Words of the rows of spec/opcode_table.json, each field at a value of its own, and the operands as R25 cuts them. -/
theorem test_words_vector_integer : ∀ p ∈ ([
    (0x6F6891B6, .vadd { vd := 22, vs1 := 13, vs2 := 29, sc := 1, t := 2, m := 6 }),
    (0x6F6991B6, .vsub { vd := 22, vs1 := 13, vs2 := 29, sc := 1, t := 2, m := 6 }),
    (0x6F6A91B6, .vmul { vd := 22, vs1 := 13, vs2 := 29, sc := 1, t := 2, m := 6 }),
    (0x6F6B91B6, .vmulh { vd := 22, vs1 := 13, vs2 := 29, sc := 1, t := 2, m := 6 }),
    (0x6F6892B6, .vmin { vd := 22, vs1 := 13, vs2 := 29, sc := 1, t := 2, m := 6 }),
    (0x6F6992B6, .vmax { vd := 22, vs1 := 13, vs2 := 29, sc := 1, t := 2, m := 6 }),
    (0x6F6A92B6, .vdiv { vd := 22, vs1 := 13, vs2 := 29, sc := 1, t := 2, m := 6 }),
    (0x6F6B92B6, .vrem { vd := 22, vs1 := 13, vs2 := 29, sc := 1, t := 2, m := 6 }),
    (0x6F6893B6, .vand { vd := 22, vs1 := 13, vs2 := 29, sc := 1, t := 2, m := 6 }),
    (0x6F6993B6, .vor { vd := 22, vs1 := 13, vs2 := 29, sc := 1, t := 2, m := 6 }),
    (0x6F6A93B6, .vxor { vd := 22, vs1 := 13, vs2 := 29, sc := 1, t := 2, m := 6 }),
    (0x6F6B93B6, .vsll { vd := 22, vs1 := 13, vs2 := 29, sc := 1, t := 2, m := 6 }),
    (0x6F6894B6, .vsr { vd := 22, vs1 := 13, vs2 := 29, sc := 1, t := 2, m := 6 }),
    (0x6F6994B6, .vsadd { vd := 22, vs1 := 13, vs2 := 29, sc := 1, t := 2, m := 6 }),
    (0x6F6A94B6, .vssub { vd := 22, vs1 := 13, vs2 := 29, sc := 1, t := 2, m := 6 }),
    (0x6F6B94B6, .vmac { vd := 22, vs1 := 13, vs2 := 29, sc := 1, t := 2, m := 6 }),
    (0x6F6895B6, .vcmpeq { vd := 22, vs1 := 13, vs2 := 29, sc := 1, t := 2, m := 6 }),
    (0x6F6995B6, .vcmpne { vd := 22, vs1 := 13, vs2 := 29, sc := 1, t := 2, m := 6 }),
    (0x6F6A95B6, .vcmplt { vd := 22, vs1 := 13, vs2 := 29, sc := 1, t := 2, m := 6 }),
    (0x6F6B95B6, .vcmple { vd := 22, vs1 := 13, vs2 := 29, sc := 1, t := 2, m := 6 }),
    (0x6F6896B6, .vmerge { vd := 22, vs1 := 13, vs2 := 29, sc := 1, t := 2, m := 6 }),
    (0x6F6996B6, .vmv { vd := 22, vs1 := 13, vs2 := 29, sc := 1, t := 2, m := 6 }),
    (0x6F6E96D0, .vmvx { vd := 26, vs1 := 13, vs2 := 29, sc := 1, t := 3, m := 0 }),
    (0x001796EB, .vid { vd := 29, vs1 := 0, vs2 := 0, sc := 0, t := 5, m := 3 })] : List (Nat × Instr)), decodeTableWord 32 p.1 = some p.2 := by decide +kernel

/-- Words of the rows of spec/opcode_table.json, each field at a value of its own, and the operands as R25 cuts them. -/
theorem test_words_vector_float : ∀ p ∈ ([
    (0x6F6897B6, .vfadd { vd := 22, vs1 := 13, vs2 := 29, sc := 1, t := 2, m := 6 }),
    (0x6F6997B6, .vfsub { vd := 22, vs1 := 13, vs2 := 29, sc := 1, t := 2, m := 6 }),
    (0x6F6A97B6, .vfmul { vd := 22, vs1 := 13, vs2 := 29, sc := 1, t := 2, m := 6 }),
    (0x6F6B97B6, .vfdiv { vd := 22, vs1 := 13, vs2 := 29, sc := 1, t := 2, m := 6 }),
    (0x6F6898B6, .vfma { vd := 22, vs1 := 13, vs2 := 29, sc := 1, t := 2, m := 6 }),
    (0x6F6998B6, .vfnma { vd := 22, vs1 := 13, vs2 := 29, sc := 1, t := 2, m := 6 }),
    (0x6F6A98B6, .vfmin { vd := 22, vs1 := 13, vs2 := 29, sc := 1, t := 2, m := 6 }),
    (0x6F6B98B6, .vfmax { vd := 22, vs1 := 13, vs2 := 29, sc := 1, t := 2, m := 6 }),
    (0x6814999A, .vfsqrt { vd := 19, vs1 := 13, vs2 := 0, sc := 0, t := 5, m := 2 }),
    (0x6815999A, .vfrsqrt { vd := 19, vs1 := 13, vs2 := 0, sc := 0, t := 5, m := 2 }),
    (0x6816999A, .vfabs { vd := 19, vs1 := 13, vs2 := 0, sc := 0, t := 5, m := 2 }),
    (0x6817999A, .vfneg { vd := 19, vs1 := 13, vs2 := 0, sc := 0, t := 5, m := 2 }),
    (0x6F689AB6, .vfcmpeq { vd := 22, vs1 := 13, vs2 := 29, sc := 1, t := 2, m := 6 }),
    (0x6F699AB6, .vfcmplt { vd := 22, vs1 := 13, vs2 := 29, sc := 1, t := 2, m := 6 }),
    (0x6F6A9AB6, .vfcmple { vd := 22, vs1 := 13, vs2 := 29, sc := 1, t := 2, m := 6 }),
    (0x68179A9A, .vfclass { vd := 19, vs1 := 13, vs2 := 0, sc := 0, t := 5, m := 2 }),
    (0x6AC89BB6, .vfcvt { vd := 22, vs1 := 13, vs2 := 11, sc := 0, t := 2, m := 6 }),
    (0x6AE89BB6, .vfcvtScaled { vd := 22, vs1 := 13, vs2 := 11, sc := 1, t := 2, m := 6 }),
    (0x694D9BD6, .vf2i { vd := 26, vs1 := 13, vs2 := 5, sc := 0, t := 3, m := 6 }),
    (0x6ACA9BB6, .vi2f { vd := 22, vs1 := 13, vs2 := 11, sc := 0, t := 2, m := 6 }),
    (0x6ACB9BB6, .viext { vd := 22, vs1 := 13, vs2 := 11, sc := 0, t := 2, m := 6 })] : List (Nat × Instr)), decodeTableWord 32 p.1 = some p.2 := by decide +kernel

/-- Words of the rows of spec/opcode_table.json, each field at a value of its own, and the operands as R25 cuts them. -/
theorem test_words_vector_reduce_permute : ∀ p ∈ ([
    (0x6F689CB6, .vredsum { vd := 22, vs1 := 13, vs2 := 29, sc := 1, t := 2, m := 6 }),
    (0x6F699CB6, .vredmin { vd := 22, vs1 := 13, vs2 := 29, sc := 1, t := 2, m := 6 }),
    (0x6F6A9CB6, .vredmax { vd := 22, vs1 := 13, vs2 := 29, sc := 1, t := 2, m := 6 }),
    (0x6F6B9CB6, .vredor { vd := 22, vs1 := 13, vs2 := 29, sc := 1, t := 2, m := 6 }),
    (0x6F689DB6, .vfredsum { vd := 22, vs1 := 13, vs2 := 29, sc := 1, t := 2, m := 6 }),
    (0x6F699DB6, .vfredosum { vd := 22, vs1 := 13, vs2 := 29, sc := 1, t := 2, m := 6 }),
    (0x6F6A9DB6, .vfredmin { vd := 22, vs1 := 13, vs2 := 29, sc := 1, t := 2, m := 6 }),
    (0x6F6B9DB6, .vfredmax { vd := 22, vs1 := 13, vs2 := 29, sc := 1, t := 2, m := 6 }),
    (0x6F689EB6, .vscan { vd := 22, vs1 := 13, vs2 := 29, sc := 1, t := 2, m := 6 }),
    (0x6F699EB6, .vperm { vd := 22, vs1 := 13, vs2 := 29, sc := 1, t := 2, m := 6 }),
    (0x6F6E9ED6, .vslideup { vd := 26, vs1 := 13, vs2 := 29, sc := 1, t := 3, m := 6 }),
    (0x6F6F9ED6, .vslidedn { vd := 26, vs1 := 13, vs2 := 29, sc := 1, t := 3, m := 6 }),
    (0x68149F9A, .vcompress { vd := 19, vs1 := 13, vs2 := 0, sc := 0, t := 5, m := 2 }),
    (0x68159F9A, .vrank { vd := 19, vs1 := 13, vs2 := 0, sc := 0, t := 5, m := 2 }),
    (0x6F6E9FD6, .vbfly { vd := 26, vs1 := 13, vs2 := 29, sc := 1, t := 3, m := 6 }),
    (0x682F9FD6, .vsortk { vd := 26, vs1 := 13, vs2 := 0, sc := 1, t := 3, m := 6 })] : List (Nat × Instr)), decodeTableWord 32 p.1 = some p.2 := by decide +kernel

/-- Words of the rows of spec/opcode_table.json, each field at a value of its own, and the operands as R25 cuts them. -/
theorem test_words_masks_select : ∀ p ∈ ([
    (0x6F40A098, .mand { vd := 19, vs1 := 13, vs2 := 29, sc := 0, t := 0, m := 0 }),
    (0x6F41A098, .mor { vd := 19, vs1 := 13, vs2 := 29, sc := 0, t := 0, m := 0 }),
    (0x6F42A098, .mxor { vd := 19, vs1 := 13, vs2 := 29, sc := 0, t := 0, m := 0 }),
    (0x6F43A098, .mandn { vd := 19, vs1 := 13, vs2 := 29, sc := 0, t := 0, m := 0 }),
    (0x6800A1EB, .mpopc { vd := 29, vs1 := 13, vs2 := 0, sc := 0, t := 0, m := 3 }),
    (0x6801A1EB, .mfirst { vd := 29, vs1 := 13, vs2 := 0, sc := 0, t := 0, m := 3 }),
    (0x0362A1E8, .mset { vd := 29, vs1 := 0, vs2 := 13, sc := 1, t := 0, m := 0 }),
    (0x682CA2D6, .vmaxi { vd := 26, vs1 := 13, vs2 := 0, sc := 1, t := 3, m := 6 }),
    (0x682DA2D6, .vmini { vd := 26, vs1 := 13, vs2 := 0, sc := 1, t := 3, m := 6 }),
    (0x6B4EA2D6, .vbslice { vd := 26, vs1 := 13, vs2 := 13, sc := 0, t := 3, m := 6 }),
    (0x6B4FA2D6, .vbunslice { vd := 26, vs1 := 13, vs2 := 13, sc := 0, t := 3, m := 6 })] : List (Nat × Instr)), decodeTableWord 32 p.1 = some p.2 := by decide +kernel

/-- Words of the rows of spec/opcode_table.json, each field at a value of its own, and the operands as R25 cuts them. -/
theorem test_words_vector_memory : ∀ p ∈ ([
    (0x6814A39A, .vld { vd := 19, vs1 := 13, vs2 := 0, sc := 0, t := 5, m := 2 }),
    (0x6F6DA3D6, .vlds { vd := 26, vs1 := 13, vs2 := 29, sc := 1, t := 3, m := 6 }),
    (0x6816A39A, .vldav { vd := 19, vs1 := 13, vs2 := 0, sc := 0, t := 5, m := 2 }),
    (0x6817A39A, .vldg { vd := 19, vs1 := 13, vs2 := 0, sc := 0, t := 5, m := 2 }),
    (0x6F4CA4D6, .vldx { vd := 26, vs1 := 13, vs2 := 29, sc := 0, t := 3, m := 6 }),
    (0x6F4DA4D6, .vldxu { vd := 26, vs1 := 13, vs2 := 29, sc := 0, t := 3, m := 6 }),
    (0x6F4EA4D6, .vldxf { vd := 26, vs1 := 13, vs2 := 29, sc := 0, t := 3, m := 6 }),
    (0x6F6FA4D0, .qlds { vd := 26, vs1 := 13, vs2 := 29, sc := 1, t := 3, m := 0 }),
    (0x6814A59A, .vst { vd := 19, vs1 := 13, vs2 := 0, sc := 0, t := 5, m := 2 }),
    (0x6F6DA5D6, .vsts { vd := 26, vs1 := 13, vs2 := 29, sc := 1, t := 3, m := 6 }),
    (0x6F4EA5D6, .vstx { vd := 26, vs1 := 13, vs2 := 29, sc := 0, t := 3, m := 6 }),
    (0x6F4FA5D6, .vstxu { vd := 26, vs1 := 13, vs2 := 29, sc := 0, t := 3, m := 6 }),
    (0x6F68A6B6, .vstxadd { vd := 22, vs1 := 13, vs2 := 29, sc := 1, t := 2, m := 6 }),
    (0x6F69A6B6, .vstxmax { vd := 22, vs1 := 13, vs2 := 29, sc := 1, t := 2, m := 6 }),
    (0x6F6AA6B6, .vstxmin { vd := 22, vs1 := 13, vs2 := 29, sc := 1, t := 2, m := 6 }),
    (0x6800A7E8, .mld { vd := 29, vs1 := 13, vs2 := 0, sc := 0, t := 0, m := 0 }),
    (0x6801A7E8, .mst { vd := 29, vs1 := 13, vs2 := 0, sc := 0, t := 0, m := 0 }),
    (0x6F4EA7D6, .vldxc { vd := 26, vs1 := 13, vs2 := 29, sc := 0, t := 3, m := 6 })] : List (Nat × Instr)), decodeTableWord 32 p.1 = some p.2 := by decide +kernel

/-- Words of the rows of spec/opcode_table.json, each field at a value of its own, and the operands as R25 cuts them. -/
theorem test_words_exchange : ∀ p ∈ ([
    (0x6F60A898, .xopen { vd := 19, vs1 := 13, vs2 := 29, sc := 1, t := 0, m := 0 }),
    (0x6801A8E8, .xsplit { vd := 29, vs1 := 13, vs2 := 0, sc := 0, t := 0, m := 0 }),
    (0x6802A8E8, .xcap { vd := 29, vs1 := 13, vs2 := 0, sc := 0, t := 0, m := 0 }),
    (0x6F63A898, .xdeadl { vd := 19, vs1 := 13, vs2 := 29, sc := 1, t := 0, m := 0 }),
    (0x6F6CA9D6, .rsend { vd := 26, vs1 := 13, vs2 := 29, sc := 1, t := 3, m := 6 }),
    (0x6F6DA9D6, .rrun { vd := 26, vs1 := 13, vs2 := 29, sc := 1, t := 3, m := 6 }),
    (0x0002A900, .rend),
    (0x0003A968, .xclose { vd := 13, vs1 := 0, vs2 := 0, sc := 0, t := 0, m := 0 }),
    (0x6F6CAAD0, .rrecv { vd := 26, vs1 := 13, vs2 := 29, sc := 1, t := 3, m := 0 }),
    (0x6801AAE8, .xwait { vd := 29, vs1 := 13, vs2 := 0, sc := 0, t := 0, m := 0 }),
    (0x6802AAE8, .xstat { vd := 29, vs1 := 13, vs2 := 0, sc := 0, t := 0, m := 0 }),
    (0x6803AAE8, .xrebal { vd := 29, vs1 := 13, vs2 := 0, sc := 0, t := 0, m := 0 })] : List (Nat × Instr)), decodeTableWord 32 p.1 = some p.2 := by decide +kernel

/-- Words of the rows of spec/opcode_table.json, each field at a value of its own, and the operands as R25 cuts them. -/
theorem test_words_streams : ∀ p ∈ ([
    (0x6800ABE8, .shape { vd := 29, vs1 := 13, vs2 := 0, sc := 0, t := 0, m := 0 }),
    (0x6815AB9A, .stmld { vd := 19, vs1 := 13, vs2 := 0, sc := 0, t := 5, m := 2 }),
    (0x6F61AB9A, .stmldShaped { vd := 19, vs1 := 13, vs2 := 29, sc := 1, t := 0, m := 2 }),
    (0x6816AB9A, .stmst { vd := 19, vs1 := 13, vs2 := 0, sc := 0, t := 5, m := 2 }),
    (0x6F62AB9A, .stmstShaped { vd := 19, vs1 := 13, vs2 := 29, sc := 1, t := 0, m := 2 }),
    (0x6817AB9A, .stmcp { vd := 19, vs1 := 13, vs2 := 0, sc := 0, t := 5, m := 2 }),
    (0x6F63AB9A, .stmcpShaped { vd := 19, vs1 := 13, vs2 := 29, sc := 1, t := 0, m := 2 }),
    (0x0000AC6D, .stmwait { vd := 13, vs1 := 0, vs2 := 0, sc := 0, t := 0, m := 5 }),
    (0x0001AC6D, .stmstat { vd := 13, vs1 := 0, vs2 := 0, sc := 0, t := 0, m := 5 }),
    (0x6F6EACD6, .stmtl { vd := 26, vs1 := 13, vs2 := 29, sc := 1, t := 3, m := 6 }),
    (0x0003AC6D, .stmcancel { vd := 13, vs1 := 0, vs2 := 0, sc := 0, t := 0, m := 5 })] : List (Nat × Instr)), decodeTableWord 32 p.1 = some p.2 := by decide +kernel

/-- Words of the rows of spec/opcode_table.json, each field at a value of its own, and the operands as R25 cuts them. -/
theorem test_words_tasks_drafts : ∀ p ∈ ([
    (0x6F60AD98, .tlaunch { vd := 19, vs1 := 13, vs2 := 29, sc := 1, t := 0, m := 0 }),
    (0x0001AD00, .texit),
    (0x0002AD00, .tyield),
    (0x6F63AD98, .twait { vd := 19, vs1 := 13, vs2 := 29, sc := 1, t := 0, m := 0 }),
    (0x0000AE00, .gbar),
    (0x0001AE68, .garrive { vd := 13, vs1 := 0, vs2 := 0, sc := 0, t := 0, m := 0 }),
    (0x6802AE00, .gwait { vd := 0, vs1 := 13, vs2 := 0, sc := 0, t := 0, m := 0 }),
    (0x6F63AE98, .lease { vd := 19, vs1 := 13, vs2 := 29, sc := 1, t := 0, m := 0 }),
    (0x6F60AF98, .dreg { vd := 19, vs1 := 13, vs2 := 29, sc := 1, t := 0, m := 0 }),
    (0x6801AFE8, .dpub { vd := 29, vs1 := 13, vs2 := 0, sc := 0, t := 0, m := 0 }),
    (0x6802AFE8, .dfinal { vd := 29, vs1 := 13, vs2 := 0, sc := 0, t := 0, m := 0 }),
    (0x6803AFE8, .dstop { vd := 29, vs1 := 13, vs2 := 0, sc := 0, t := 0, m := 0 }),
    (0x6F60B098, .dchk { vd := 19, vs1 := 13, vs2 := 29, sc := 1, t := 0, m := 0 }),
    (0x6F61B098, .dwait { vd := 19, vs1 := 13, vs2 := 29, sc := 1, t := 0, m := 0 }),
    (0x6802B0E8, .hpass { vd := 29, vs1 := 13, vs2 := 0, sc := 0, t := 0, m := 0 }),
    (0x0003B068, .hdone { vd := 13, vs1 := 0, vs2 := 0, sc := 0, t := 0, m := 0 })] : List (Nat × Instr)), decodeTableWord 32 p.1 = some p.2 := by decide +kernel

/-- Doublewords laid out by R28, their functions numbered by R30. -/
theorem test_words_tiles : ∀ p ∈ ([
    (0xA5C96501D57AC0C3, .matt { imm := 2652, wb := 9, wa := 6, tt := 5, cm := 3, xs := 21, vb := 11, va := 26, acd := 12, aux := 3 }),
    (0x000000040000C000, .mrel),
    (0xA5C96509D57AC0C3, .mzero { imm := 2652, wb := 9, wa := 6, tt := 5, cm := 3, xs := 21, vb := 11, va := 26, acd := 12, aux := 3 }),
    (0xA5C9650DD57AC0C3, .msetlen { imm := 2652, wb := 9, wa := 6, tt := 5, cm := 3, xs := 21, vb := 11, va := 26, acd := 12, aux := 3 }),
    (0xA5C96511D57AC0C3, .msave { imm := 2652, wb := 9, wa := 6, tt := 5, cm := 3, xs := 21, vb := 11, va := 26, acd := 12, aux := 3 }),
    (0xA5C96515D57AC0C3, .mload { imm := 2652, wb := 9, wa := 6, tt := 5, cm := 3, xs := 21, vb := 11, va := 26, acd := 12, aux := 3 }),
    (0xA5C96501D57AC1C3, .opadd { imm := 2652, wb := 9, wa := 6, tt := 5, cm := 3, xs := 21, vb := 11, va := 26, acd := 12, aux := 3 }),
    (0xA5C96505D57AC1C3, .opsub { imm := 2652, wb := 9, wa := 6, tt := 5, cm := 3, xs := 21, vb := 11, va := 26, acd := 12, aux := 3 }),
    (0xA5C96509D57AC1C3, .opaddSp { imm := 2652, wb := 9, wa := 6, tt := 5, cm := 3, xs := 21, vb := 11, va := 26, acd := 12, aux := 3 }),
    (0xA5C9650DD57AC1C3, .opaddBs { imm := 2652, wb := 9, wa := 6, tt := 5, cm := 3, xs := 21, vb := 11, va := 26, acd := 12, aux := 3 }),
    (0xA5C96511D57AC1C3, .opaddQ { imm := 2652, wb := 9, wa := 6, tt := 5, cm := 3, xs := 21, vb := 11, va := 26, acd := 12, aux := 3 }),
    (0xA5C96501D57AC2C3, .mgrp { imm := 2652, wb := 9, wa := 6, tt := 5, cm := 3, xs := 21, vb := 11, va := 26, acd := 12, aux := 3 }),
    (0xA5C96505D57AC2C3, .mgrpQ { imm := 2652, wb := 9, wa := 6, tt := 5, cm := 3, xs := 21, vb := 11, va := 26, acd := 12, aux := 3 }),
    (0xA5C96501D57AC3C3, .mldt { imm := 2652, wb := 9, wa := 6, tt := 5, cm := 3, xs := 21, vb := 11, va := 26, acd := 12, aux := 3 }),
    (0xA5C96505D57AC3C3, .mldtFf { imm := 2652, wb := 9, wa := 6, tt := 5, cm := 3, xs := 21, vb := 11, va := 26, acd := 12, aux := 3 }),
    (0xA5C96509D57AC3C3, .mstt { imm := 2652, wb := 9, wa := 6, tt := 5, cm := 3, xs := 21, vb := 11, va := 26, acd := 12, aux := 3 }),
    (0xA5C9650DD57AC3C3, .mrdv { imm := 2652, wb := 9, wa := 6, tt := 5, cm := 3, xs := 21, vb := 11, va := 26, acd := 12, aux := 3 }),
    (0xA5C96511D57AC3C3, .mwrv { imm := 2652, wb := 9, wa := 6, tt := 5, cm := 3, xs := 21, vb := 11, va := 26, acd := 12, aux := 3 }),
    (0xA5C96501D57AC4C3, .bst { imm := 2652, wb := 9, wa := 6, tt := 5, cm := 3, xs := 21, vb := 11, va := 26, acd := 12, aux := 3 }),
    (0xA5C96505D57AC4C3, .bchain { imm := 2652, wb := 9, wa := 6, tt := 5, cm := 3, xs := 21, vb := 11, va := 26, acd := 12, aux := 3 }),
    (0xA5C96509D57AC4C3, .bsset { imm := 2652, wb := 9, wa := 6, tt := 5, cm := 3, xs := 21, vb := 11, va := 26, acd := 12, aux := 3 }),
    (0xA5C9650DD57AC4C3, .bsget { imm := 2652, wb := 9, wa := 6, tt := 5, cm := 3, xs := 21, vb := 11, va := 26, acd := 12, aux := 3 })] : List (Nat × Instr)), decodeTableWord 64 p.1 = some p.2 := by decide +kernel

/-! ### Witnesses: states and operands that meet the hypotheses of the statements -/

/-- A state at user level. -/
def usr : State := { State.reset with hart := { State.reset.hart with ctl := { State.reset.hart.ctl with status := 0 } } }
/-- The state after reset with x1 in the own slate, 8 bytes into it, and x30 at its start. -/
def slated : State := (State.reset.writeX 1 0x7F0000000008).writeX 30 0x7F0000000000
/-- R-form operands. -/
def rop : ROp := { d := 3, a := 1, b := 2 }
/-- I-form operands with immediate 0. -/
def iop : IOp := { d := 3, a := 1, imm := 0 }
/-- S-form operands with offset 0. -/
def sop : SOp := { a := 1, b := 2, imm := 0 }
/-- Atomic operands of 64 bits. -/
def aop : AOp := { d := 3, a := 1, b := 2, o := 0, w := 1 }
/-- The vector operands of most witnesses: I32 or FP32, groups v8, v16 and v24, no mask. -/
def vo : VOp := { vd := 8, vs1 := 16, vs2 := 24, sc := 0, t := 4, m := 0 }
/-- The state after reset with a VL and a VCFG. -/
def vec (vl vcfg : Nat) : State :=
  { State.reset with hart := { State.reset.hart with ctl := { State.reset.hart.ctl with vl := wordOf vl, vcfg := wordOf vcfg } } }

/-- A well-formed instruction; bytes that decode with two left over. -/
theorem witness_RoundTrip : (Instr.add rop).wf = true := by decide +kernel
theorem witness_DecodingIsEncoding : decode [0, 0x44, 9, 9] = .ok (.hNop, [9, 9]) := by rfl

/-- The state whose next step fetches a word. -/
def fetched (w : Nat) : State := (State.reset.withFetchWord 32 w).pass
/-- An entry of the queue that delivers x3. -/
def owing (s : State) : State := { s with hart := { s.hart with queue := [s.entryOf (.vredsum { vo with vd := 3 }) 0 0] } }
/-- The only hart with a task is the current one. -/
def alone (s : State) : State := { s with harts := [] }
/-- A result is a next state that a test holds of. -/
def ends (r : Host.Outcome State Fault Refusal) (p : State → Bool) : Bool :=
  match r with
  | .next t => p t
  | _ => false
/-- What a fetch gives is bytes and a state that a test holds of. -/
def fetches (s : State) (p : List Byte → State → Bool) : Bool :=
  match s.fetch with
  | .bytes bs u => p bs u
  | _ => false

/-- The cause a fetch faults with, 0 where it waits. -/
def fetchEnd (s : State) : Option Nat :=
  match s.fetch with
  | .bytes _ _ => none
  | .bad c _ => some c
  | .wait => some 0

/-- The scalar move and each of its ends: H.NOP; ADD x3, x1, x2 while x3 is owed; a word with an unused field; bits that are no
instruction; a pc that is not mapped, and one whose page is being moved. -/
theorem witness_StepRuns_scalar :
    (fetched 0x4400).nextMove = .scalar ∧ (fetched 0x4400).canMove = true ∧ (fetched 0x4400).stopsNow = false
    ∧ fetches (fetched 0x4400) (fun bs u => decide (bs = [0, 0x44]) && Instr.hNop.wf && !u.owes (xNames .hNop)) = true
    ∧ fetches (owing (fetched (1#5 ++ 2#5 ++ 0#6 ++ 0b10#2 ++ 0x01#6 ++ 3#5 ++ 0#3).toNat)) (fun bs u => match decode bs with
        | .ok (i, _) => i.wf && u.owes (xNames i)
        | .error _ => false) = true
    ∧ fetches (fetched 0) (fun bs _ => match decode bs with
        | .ok _ => false
        | .error _ => true) = true
    ∧ fetches (fetched (1#5 ++ 2#5 ++ 21#6 ++ 0b10#2 ++ 0x01#6 ++ 3#5 ++ 0#3).toNat) (fun bs _ => match decode bs with
        | .ok (i, _) => !i.wf
        | .error _ => false) = true
    ∧ State.reset.pass.nextMove = .scalar ∧ fetchEnd State.reset.pass = some 6
    ∧ (let s := fetched 0x4400
       fetchEnd { s with mem := s.mem.write (3 * 65536) 8 0x427F } = some 0) := by and_intros <;> decide +kernel

/-- The current core halted. -/
def halted (s : State) : State := s.setCore (coreKey s.cur) { CoreRec.reset with halted := true }
/-- An entry that delivers nothing to a register another instruction names. -/
def busy (s : State) : State := { s with hart := { s.hart with queue := [s.entryOf (.vadd vo) 0 0] } }

/-- The other moves: a halted core's, a pre-emption, the queue's, a turn and an event's. -/
theorem witness_StepRuns_moves :
    (halted (alone State.reset)).nextMove = .scalar ∧ (halted (alone State.reset)).canMove = false
    ∧ (let s : State := { usr with hart := { usr.hart with preempt := some 1 }, tick := 1 }
       s.nextMove = .scalar ∧ s.canMove = true ∧ s.stopsNow = true)
    ∧ State.nextMove { busy State.reset with tick := 3 } = .queue
    ∧ State.reset.nextMove = .turn 768
    ∧ (let s : State := { alone State.reset with events := [{ kind := .linkFail, arg := EvArg.none }] }
       s.nextMove = .event 0 ∧ (s.events[0]?).isSome = true ∧ agentKind .linkFail = true) := by and_intros <;> decide +kernel

/-- Fetching from a mapped page (the second conjunct of StepRuns), and a step that makes a next state. -/
theorem witness_StepRuns_fetch : fetches (State.reset.withFetchWord 32 0x4400) (fun bs _ => decide (bs = [0, 0x44])) = true
    ∧ (State.reset.withFetchWord 32 0x4400).eager = true
    ∧ (let s : State := { fetched 0x4400 with eager := false }
       fetches s (fun bs _ => bs.length == 2) = true
       ∧ match s.fetchLoc s.hart.pc with
         | .place p l _ => s.alien (s.leafKey l) p.key 2 = false ∧ s.hart.code.byte p.key = 0
         | _ => False) := by and_intros <;> decide +kernel

/-- A write of a hart's scalar agent on its way to the first byte of memory. -/
def onWay (key : Nat) : HeldWrite := { writer := 0, key := key, len := 8, value := 1, bad := false, cipher := none, seen := 0, rmw := false }
/-- The state with writes on their way in package 0. -/
def withHeld (s : State) (l : List HeldWrite) : State := s.setPkg 0 { s.pkg 0 with held := l }
/-- A load of x3 that may be performed later. -/
def lateLoad : LateLoad := { d := 3, key := 0, len := 8, signed := false, cipher := none }

/-- A write on its way that is placed next. -/
theorem witness_StepRuns_place : (withHeld { alone State.reset with tick := 5 } [onWay 0]).nextMove = .place 0 0 := by decide +kernel

/-- A scalar load performed later is a move there is under a schedule that is not eager; behind it comes an instruction that names its register, and one
that does not. -/
theorem witness_StepRuns_late : (let s : State := { State.reset with eager := false, hart := { State.reset.hart with late := some lateLoad } }
    s.moves.contains .late = true ∧ s.hart.late = some lateLoad ∧ lateLoad.d = 3 ∧ State.reset.hart.late = none
    ∧ State.reset.hart.queue.all (·.chunks.isNone) = true) := by and_intros <;> decide +kernel

/-- The invariants of memory and of the tables hold at reset, where a step completes. -/
theorem witness_Invariants : State.reset.mem.wf = true ∧ ends (step (State.reset.withFetchWord 32 0x4400)) (fun t => t.mem.wf) = true := by decide +kernel

/-- A place reached by an access, at each of its lengths. -/
def reaches (s : State) (k : Kind) (va : Word) (n : Nat) : Bool :=
  decide (s.windowAt va n = none) && match s.scalarLoc k va n with
  | .place p l lost => !lost && !s.mem.poisoned p.key n && !s.alien (s.leafKey l) p.key n && (s.accessed k p l n).freeToStore l p.key n && !s.pageHolds p.key
  | _ => false

/-- Scalar accesses that reach a place, free of poison and of replicas, at every length. -/
theorem witness_Accesses : ∀ n ∈ [1, 2, 4, 8], reaches slated .read (slated.readX 1) n = true ∧ reaches slated .write (slated.readX 1) n = true
    ∧ reaches slated .read (slated.readX 30 + (1 : Word) * 8) n = true := by decide +kernel

/-- A root table of the page 0 to 64 KiB at frame 0, and the leaf of its last level. -/
def mapped : State := State.reset.mapPage 0
def smallLeaf : LeafAt := { key := 0x30000, cipher := some 0, pte := 0x407F, die := 0, space := 0, page := 0, level := 4 }

/-- An access through a leaf that its entry holds still, aligned, and one without a leaf. -/
theorem witness_AccessUses : mapped.atomicOnWay smallLeaf.key 8 = false ∧ mapped.alien smallLeaf.cipher smallLeaf.key 8 = false
    ∧ smallLeaf.key % 8 = 0 ∧ mapped.mem.wf = true ∧ wordOf (mapped.mem.read smallLeaf.key 8) = smallLeaf.pte
    ∧ mapped.alien (mapped.leafKey (some smallLeaf)) 0x40000 8 = false ∧ mapped.alien (mapped.leafKey none) 0x40000 8 = false := by
  and_intros <;> decide +kernel

/-- An atomic whose comparand is the old value, and one whose comparand is not. -/
theorem witness_Atomics : reaches slated .write (slated.readX 1) 8 = true ∧ slated.mem.wf = true
    ∧ (slated.readX 3).toNat = slated.mem.read (Place.slate 0 8).key 8
    ∧ ((slated.writeX 3 1).readX 3).toNat ≠ (slated.writeX 3 1).mem.read (Place.slate 0 8).key 8 := by and_intros <;> decide +kernel

/-- FSGN's types at both ends; FCLASS at each type. -/
theorem witness_SignInjection : 2 ≤ (2#3).toNat ∧ (5#3).toNat ≤ 5 := by decide
theorem witness_Classes : ∀ p ∈ [(2, 16, 10), (3, 16, 7), (4, 32, 23), (5, 64, 52)],
    (p.1 = 2 ∧ p.2.1 = 16 ∧ p.2.2 = 10) ∨ (p.1 = 3 ∧ p.2.1 = 16 ∧ p.2.2 = 7) ∨ (p.1 = 4 ∧ p.2.1 = 32 ∧ p.2.2 = 23)
      ∨ (p.1 = 5 ∧ p.2.1 = 64 ∧ p.2.2 = 52) := by decide

/-- Patterns below 2 to the width of each kind: NaN, infinity and finite, of E4M3, E5M2 and FP32. -/
theorem witness_FloatRounding : (fp32.isNaN 0x7FC00000 = true ∧ fp32.isInf 0xFF800000 = true ∧ fp32.isFinite 0x80000001 = true ∧ 0xFFFFFFFF < 2 ^ fp32.width)
    ∧ (Fmt.isNaN (Fmt.ofCode 0) 0x7F = true ∧ Fmt.isFinite (Fmt.ofCode 0) 0x7E = true ∧ 0xFF < 2 ^ (Fmt.ofCode 0).width)
    ∧ (Fmt.isInf (Fmt.ofCode 1) 0x7C = true ∧ 0x7C < 2 ^ (Fmt.ofCode 1).width) := by and_intros <;> decide +kernel

/-- Finite operands of each type whose numbers are positive, zero and negative. -/
theorem witness_FloatArithmetic : ∀ p ∈ [(2, 0x3C00), (3, 0x3F80), (4, 0x3F800000), (5, 0x3FF0000000000000)],
    let f := Fmt.ofCode p.1
    f.isFinite p.2 = true ∧ 0 < f.number p.2 ∧ f.isFinite 0 = true ∧ f.number 0 = 0
    ∧ f.isFinite (p.2 + 2 ^ (f.width - 1)) = true ∧ f.number (p.2 + 2 ^ (f.width - 1)) < 0 ∧ p.2 + 2 ^ (f.width - 1) < 2 ^ f.width := by decide +kernel

/-- An infinity, a quiet and a signalling NaN, and numbers that are neither, of each type. -/
theorem witness_FloatSpecials : ∀ p ∈ [(2, 0x7C00), (3, 0x7F80), (4, 0x7F800000), (5, 0x7FF0000000000000)],
    let f := Fmt.ofCode p.1
    f.isInf p.2 = true ∧ f.isNaN p.2 = false ∧ f.isSignalling (p.2 + 1) = true ∧ f.isNaN (p.2 + 1) = true ∧ f.isNaN f.canonical = true
    ∧ f.isInf 0 = false ∧ f.units 0 = 0 ∧ f.isNaN 0 = false ∧ f.units 1 ≠ 0 ∧ f.isFinite 1 = true := by decide +kernel

/-- The integer widths of a conversion. -/
theorem witness_FloatChoices : ∀ w ∈ [8, 16, 32, 64], w ∈ [8, 16, 32, 64] ∧ 5 ≤ 5 ∧ 0 ≤ 5 := by decide

/-- The state with a scope in VCFG. -/
def inScope (s : State) (n : Nat) : State := { s with hart := { s.hart with ctl := { s.hart.ctl with vcfg := wordOf (128 * n) } } }

/-- A fence finds its queue busy; a write on its way that it waits for at the scope of the die, and orders at once at that of the hart. -/
theorem witness_Fences : (busy State.reset).hart.queue.isEmpty = false ∧ (busy State.reset).hart.vfrozen = false
    ∧ State.reset.hart.queue.isEmpty = true ∧ State.reset.hart.streaming = false
    ∧ ((inScope (withHeld State.reset [onWay 0]) 3).order [agentNo 0 .scalar] 4).isNone = true
    ∧ ((withHeld State.reset [onWay 0]).order [agentNo 0 .scalar] 1).isSome = true := by and_intros <;> decide +kernel

/-- The same for the order itself, in tables that are canonical. -/
theorem witness_Ordering : SMap.wf PkgRec.reset (withHeld State.reset [onWay 0]).pkgs = true ∧ 0 ∈ (withHeld State.reset [onWay 0]).packages
    ∧ ((withHeld State.reset [onWay 0]).pkg 0).held[0]? = some (onWay 0) ∧ (onWay 0).writer = 0
    ∧ (match (withHeld State.reset [onWay 0]).order [0] 1 with
      | some t => decide ((t.pkg 0).held[0]? = some { onWay 0 with seen := 1 })
      | none => false) = true := by and_intros <;> decide +kernel

/-- WFE with and without the event flag. -/
theorem witness_FencesAndEvents : (let s : State := { State.reset with hart := { State.reset.hart with event := true } }
    s.hart.event = true) ∧ State.reset.hart.event = false ∧ State.reset.hart.stop = false := by decide

/-- User level, with a debugger's breakpoint armed and not; addresses that are not canonical, and canonical ones misaligned by 1. -/
theorem witness_UserTraps : usr.plainUser = true ∧ (usr.core 0).armbrk.getLsbD 0 = false
    ∧ ((usr.setCore 0 { CoreRec.reset with armbrk := 1 }).core 0).armbrk.getLsbD 0 = true
    ∧ (let s := usr.writeX 1 0x0100000000000000
       s.plainUser = true ∧ canonical (s.readX iop.a + iop.imm.signExtend 64) = false ∧ canonical (s.readX sop.a + sop.imm.signExtend 64) = false)
    ∧ (let s := usr.writeX 1 0x00FFFFFFFFFFFFF9
       canonical (s.readX iop.a + iop.imm.signExtend 64) = true ∧ (s.readX iop.a + iop.imm.signExtend 64).toNat % 8 = 1
       ∧ canonical (s.readX sop.a + sop.imm.signExtend 64) = true)
    ∧ (∀ v : Word × Bool, v = (0x0100000000000000, false) ∨ v = (1, true) →
       let s := usr.writeX 30 v.1
       s.plainUser = true ∧ canonical (s.readX 30 + (0 : BitVec 5).zeroExtend 64 * 8) = v.2) := by
  refine ⟨by decide +kernel, by decide +kernel, by decide +kernel, by decide +kernel, by decide +kernel, ?_⟩
  rintro v (rfl | rfl) <;> decide +kernel

/-- Atomics, one of which releases, at addresses that are not canonical and that are misaligned for each width. -/
theorem witness_AccessTraps : (let s := usr.writeX 1 0x0100000000000000
       s.plainUser = true ∧ canonical (s.readX aop.a) = false)
    ∧ (let s := usr.writeX 1 6
       canonical (s.readX aop.a) = true ∧ (s.readX aop.a).toNat % 8 ≠ 0 ∧ (s.readX aop.a).toNat % 4 ≠ 0
       ∧ (2#2).getLsbD 1 = true ∧ s.agentHeld (agentNo s.cur .scalar) = false) := by and_intros <;> decide +kernel

/-- Trap fields at the ends of their ranges. -/
theorem witness_TrapEntry : (255 < 256 ∧ 7 < 8 ∧ 3 < 4) ∧ (0 < 256 ∧ 0 < 8 ∧ 0 < 4) := by decide

/-- TRET at each level. -/
theorem witness_TrapReturn : State.reset.hart.prv = true ∧ State.reset.hart.vclaimed = false
    ∧ (∀ j, j < 8 → (State.reset.hart.slot j).state ≠ .retry) ∧ usr.plainUser = true := by and_intros <;> decide +kernel

/-- Control registers at the ends of both ranges: VL, a supervisor register, a read-only one, an unassigned one. -/
theorem witness_ControlRegisters : ctlAssigned 0x000 = true ∧ ctlReadOnly 0x001 = false ∧ ctlAssigned 0x001 = true
    ∧ (ctlAssigned 0x100 = true ∧ State.reset.hart.prv = true ∧ ctlReadOnly 0x100 = false) ∧ (0x000 < 0x200 ∧ 0x10A < 0x200 ∧ ctlAssigned 0x10A = true)
    ∧ State.reset.hart.queue = [] ∧ usr.plainUser = true ∧ ctlAssigned 0x7FF = false
    ∧ (ctlAssigned 0x000 = true ∧ ctlReadOnly 0x000 = true) := by and_intros <;> decide +kernel

/-- Lengths at a boundary with nothing pending; a legal SETCFG value with BLK 10 and FRM 5's neighbour; a pending raise. -/
theorem witness_SetLength : State.reset.hart.stop = false ∧ State.reset.hart.lease.target = none ∧ State.reset.hart.queue = []
    ∧ State.reset.hart.mode ≠ .cohort ∧ field State.reset.hart.ctl.vcfg 0 3 < 4
    ∧ (let v : Word := 0x280283
       field v 0 3 = 3 ∧ field v 18 4 = 10 ∧ field v 7 3 = 5)
    ∧ (let s : State := { State.reset with hart := { State.reset.hart with lease := { State.reset.hart.lease with target := some 2 } } }
       s.hart.owner = s.cur ∧ s.hart.samples = true ∧ s.hart.lease.target = some 2 ∧ s.hart.lease.held < 2 ∧ s.hart.lease.lanes = s.hart.lease.held
       ∧ s.hart.slots.toList.all (fun sl => sl.pendingMask == 0) = true ∧ s.hart.vvFence = none ∧ s.lease.lanes = s.lease.held) := by
  and_intros <;> decide +kernel

/-- A pending raise, CARRY naming v24, with the configuration that SETVL installs again and elements below VL. -/
theorem witness_BoundaryTarget : (let s : State := { vec 9 0x402 with hart := { (vec 9 0x402).hart with lease := { State.reset.hart.lease with target := some 2 } } }
    let old := s.hart.ctl.vcfg
    s.hart.lease.held < 2 ∧ field old 0 5 = field (installImm old 2) 0 5 ∧ field old 0 3 < 4 ∧ 0 % 2 ^ field old 3 2 = 0
    ∧ (field old 10 8).testBit 0 = true ∧ 8 < min s.hart.ctl.vl.toNat (2 ^ field old 3 2 * (6144 * 2) / 2 ^ field old 0 3)) := by and_intros <;> decide +kernel

/-- Nothing is poisoned in a memory that lists no poison. -/
theorem poisAny_nil (k n : Nat) : poisAny [] k n = false := by
  induction n generalizing k with
  | zero => rfl
  | succ n ih => simp only [poisAny, SMap.get, ih]; rfl
theorem poisoned_nil (m : Memory) (h : m.pois = []) (k n : Nat) : m.poisoned k n = false := by
  simp [Memory.poisoned, h, poisAny_nil]

/-- A supervisor that holds no cluster, with its save area at 4 MiB of a page of 32 MiB that a table at frames 0 to 2 maps at 0. -/
def bareHart : Hart :=
  let ctl := { State.reset.hart.ctl with vsaveptr := 0x400000, ptbase := 1, ptbaseNow := 1 }
  { State.reset.hart with lease := Lease.none, ctl := ctl }
/-- The state with that hart running, its area holding `c` as its count; with it pre-empted, for 2. -/
def bare (c : Nat) : State :=
  { State.reset with
    hart := if c = 2 then Hart.reset else bareHart
    parked := if c = 2 then [(0, bareHart)] else []
    mem := (((State.reset.mem.write 0 8 0x1001).write 0x10000 8 0x2001).write 0x20000 8 0x20007F).write (0x2000000 + 0x400150) 8 (c % 2) }
/-- The leaf of that page. -/
def wideLeaf : LeafAt := { key := 0x20000, cipher := some 0, pte := 0x20007F, die := 0, space := 0, page := 0, level := 3 }

/-- Below 8 MiB the walk ends in that leaf. -/
theorem bare_walk (c : Nat) (hc : c < 3) (va : Word) (h : va.toNat < 0x800000) : (bare c).walk 0 1 va = .leaf wideLeaf 3 := by
  have f (lo n : Nat) (hl : 0x800000 ≤ 2 ^ lo) : field va lo n = 0 := by
    unfold field bitsOf
    rw [Nat.div_eq_of_lt (by omega), Nat.zero_mod]
  have e : (bare c).walk 0 1 va = (bare c).walk 0 1 0 := by
    have g (lo n : Nat) : field 0 lo n = 0 := by simp [field, bitsOf]
    simp only [State.walk, State.walkFrom, levels, f 47 10 (by decide), f 36 11 (by decide), f 25 11 (by decide), g]
    have p1 : wordOf ((bare c).peek ((bare c).keyName (pteHome 1 / 4) (pteKey 1)) (Place.dram (pteHome 1) (pteFrame 1 * 65536 + 8 * 0)).key 8) = 0x1001 := by
      rcases c with _ | _ | _ | _ <;> first | decide +kernel | omega
    have p2 : wordOf ((bare c).peek ((bare c).keyName (pteHome 0x1001 / 4) (pteKey 0x1001)) (Place.dram (pteHome 0x1001) (pteFrame 0x1001 * 65536 + 8 * 0)).key 8) = 0x2001 := by
      rcases c with _ | _ | _ | _ <;> first | decide +kernel | omega
    have p3 : ptePointer (wordOf ((bare c).peek ((bare c).keyName (pteHome 0x2001 / 4) (pteKey 0x2001)) (Place.dram (pteHome 0x2001) (pteFrame 0x2001 * 65536 + 8 * 0)).key 8)) = false := by
      rcases c with _ | _ | _ | _ <;> first | decide +kernel | omega
    simp only [p1, p2, p3, Bool.false_eq_true, if_false]
  rw [e]
  rcases c with _ | _ | _ | _ <;> first | decide +kernel | omega

/-- Every word of the area can be read and written. -/
theorem bare_loc (c : Nat) (hc : c < 3) (k : Kind) (hk : k = .read ∨ k = .write) (off : Nat) (ho : off < 0x400000) :
    ∃ p l, (bare c).areaLoc 0 (bareHart.areaAccess 0 k) (0x400000 + wordOf off) = .place p l false ∧ (k = .read → (bare c).mem.poisoned p.key 8 = false) := by
  have hv : ((0x400000 : Word) + wordOf off).toNat = 0x400000 + off := by
    have e : (0x400000 : Word).toNat = 0x400000 := rfl
    simp only [wordOf, BitVec.toNat_add, BitVec.toNat_ofNat] at e ⊢
    omega
  have hl : ((0x400000 : Word) + wordOf off).toNat < 0x800000 := by omega
  generalize (0x400000 : Word) + wordOf off = va at hv hl
  have hcan : canonical va = true := by
    have : field va 56 8 = 0 := by
      unfold field bitsOf
      rw [Nat.div_eq_of_lt (by omega), Nat.zero_mod]
    simp [canonical, this]
  let a := bareHart.areaAccess 0 k
  have hw : (bare c).findLeaf a va = .leaf wideLeaf 3 := by
    have hp : a.pages = [] := rfl
    have ht : (bare c).tlb = [] := rfl
    have hd : a.die = 0 := show dieKey 0 = 0 by decide
    have hb : a.ptbase = 1 := rfl
    simp only [State.findLeaf, State.cached, hp, ht, hd, hb, List.find?_nil]
    exact bare_walk c hc va hl
  have hloc : ∃ p l, (bare c).locate a va = .place p l false := by
    unfold State.locate
    have n1 : ¬ (0x7E0000000000 ≤ va.toNat ∧ va.toNat ≤ 0x7FFFFFFFFFFF) := by omega
    simp only [hcan, Bool.not_true, Bool.false_eq_true, if_false, n1, hw]
    have hk' : (bare c).keyHeld (pteHome wideLeaf.pte / 4) (pteKey wideLeaf.pte) = true := by
      rcases c with _ | _ | _ | _ <;> first | decide +kernel | omega
    have hr : (bare c).reaches a.die (pteHome wideLeaf.pte) = true := by
      show (bare c).reaches (dieKey (bare c).cur) (pteHome wideLeaf.pte) = true
      rcases c with _ | _ | _ | _ <;> first | decide +kernel | omega
    have hd : a.doomed = false := rfl
    have hm : wideLeaf.pte.getLsbD 9 = false ∧ wideLeaf.pte.getLsbD 4 = true ∧ wideLeaf.pte.getLsbD 1 = true ∧ wideLeaf.pte.getLsbD 2 = true := by
      decide
    have hp (p : Nat) (l : LeafAt) (h : l.level = 3) : (bare c).replicated p l = false := by simp [State.replicated, LeafAt.repl, h]
    unfold State.checkLeaf State.lostTo
    simp only [hm]
    rcases hk with rfl | rfl
    · have ha : a.kind = .read := rfl
      simp [hk', hr, hp, State.timesOut, hd, ha, show wideLeaf.pte ||| Kind.touches .read = wideLeaf.pte by decide]
    · have ha : a.kind = .write := rfl
      simp [hk', hr, State.timesOut, hd, ha, show wideLeaf.pte ||| Kind.touches .write = wideLeaf.pte by decide]
  obtain ⟨p, l, h⟩ := hloc
  refine ⟨p, l, ?_, fun _ => poisoned_nil _ ?_ _ _⟩
  · unfold State.areaLoc
    have hh : ∀ w q n, (bare c).heldBy w q n = false := fun w q n => rfl
    show (match (bare c).locate a va with
      | .place p l lost => if (bare c).heldBy _ p.key 8 then Loc.wait else if lost then .bad cREMOTE_LOST else .place p l false
      | r => r) = _
    rw [h]
    simp [hh]
  · rfl

theorem bare_open (c : Nat) (hc : c < 2) (k : Kind) (hk : k = .read ∨ k = .write) : (bare c).areaOpen k 0x400000 := by
  intro off _ ho
  have := bare_loc c (by omega) k hk off ho
  rcases c with _ | _ | _
  · exact this
  · exact this
  · omega

/-- The area of `bare` is open to VSAVE, VCLAIM and VRESTORE, a count of 0 in it matching the clusters held and one of 1 not. -/
theorem witness_ContextInstructions : ∀ c, c < 2 →
    (bare c).hart.prv = true ∧ (bare c).hart.streaming = false ∧ (bare c).hart.vclaimed = false ∧ (bare c).hart.queue = [] ∧ (bare c).lease.lanes ≤ 16
    ∧ (bare c).hart.mat.asked = false ∧ (bare c).areaOf 0 = 0x400000 ∧ (bare c).hart.ctl.vsaveptr = 0x400000 ∧ (0x400000 : Word).toNat % 4096 = 0
    ∧ (bare c).areaOpen .write 0x400000 ∧ (bare c).areaOpen .read 0x400000
    ∧ (let rd (off : Nat) : Nat := ((bare c).areaWord (bare c).cur ((bare c).hart.areaAccess (bare c).cur .read) 0x400000 off).1
       (bitsOf (rd 0x150) 0 5 = (bare c).lease.lanes ↔ c = 0) ∧ bitsOf (rd 0x158) 1 3 = bitsOf (bare c).hart.ctxWord 1 3) := by
  intro c hc
  refine ⟨?_, ?_, ?_, ?_, ?_, ?_, ?_, ?_, ?_, bare_open c hc _ (.inr rfl), bare_open c hc _ (.inl rfl), ?_⟩ <;>
    (rcases c with _ | _ | _ | _ <;> first | decide +kernel | omega)

/-- The same with the context claimed: VCLAIM does nothing. -/
theorem witness_ContextInstructions_claimed :
    let s : State := { bare 0 with hart := { (bare 0).hart with ctl := { (bare 0).hart.ctl with status := 9 } } }
    s.hart.prv = true ∧ s.hart.vclaimed = true ∧ s.hart.queue = [] := by and_intros <;> decide +kernel

/-- VRESTORE completes in every state, with a trap or a wait where it loads nothing. -/
theorem restores (s : State) : ∃ v, exec (.vrestore 0) s = .next v := by
  show ∃ v, execVrestore 0 s = .next v
  unfold execVrestore State.context State.restoreVector
  dsimp only
  repeat' first | exact ⟨_, rfl⟩ | split

/-- The state after reset has canonical tables, with any VL and VCFG. -/
theorem vec_tables (vl vcfg : Nat) : (vec vl vcfg).Tables where
  harts := (by decide +kernel : SMap.wf Hart.reset State.reset.harts = true)
  dies := rfl
  pkgs := rfl
  cores := rfl
  forms := (by decide +kernel : SMap.wf FormRec.reset State.reset.forms = true)
  xids := rfl
  queues _ := rfl
  ports _ := rfl
  apertures _ := rfl
  holders _ := rfl
  current := ⟨rfl, rfl⟩
  others p hp := by
    let boot := bootHart BootCfg.reset Memory.reset 0
    have h : p ∈ [(768, boot 1), (1536, boot 2), (2304, boot 3)] := by simpa [vec, State.reset, boot] using hp
    simp only [List.mem_cons, List.not_mem_nil, or_false] at h
    rcases h with rfl | rfl | rfl <;> exact ⟨rfl, rfl⟩

/-- The area of `bare` loaded, its queue empty; words of an image that are queued instructions; and a computer's four rings without a claim. -/
theorem witness_ContextContents : (∃ v, exec (.vrestore 0) (bare 0) = .next v) ∧ (bare 0).hart.lease.lanes = (bare 0).hart.lease.held ∧ (bare 0).Tables
    ∧ (bare 0).areaOpen .read 0x400000 ∧ ((bare 0).areaWord 0 ((bare 0).hart.areaAccess 0 .read) 0x400000 0x168).1 = 0
    ∧ ((headOf (.vadd vo)).isSome = true ∧ decodeWord ((instrBits (.vadd vo)).setWidth 32) = .ok (.vadd vo) ∧ parcelLength ((instrBits (.vadd vo)).setWidth 16) = 4)
    ∧ ((headOf .mrel).isSome = true ∧ decodeTile (instrBits .mrel) = .ok .mrel ∧ parcelLength ((instrBits .mrel).setWidth 16) = 8)
    ∧ (∀ j, j < 4 → (Lease.none.ring j).all (fun e => e.reader.isNone && e.writer.isNone) = true)
    ∧ (busy State.reset).hart.queue[0]?.isSome = true := by
  refine ⟨restores _, rfl, ?_, bare_open 0 (by decide) _ (.inl rfl), ?_, ?_, ?_, ?_, ?_⟩
  · have t := vec_tables 0 0
    exact ⟨t.harts, rfl, rfl, rfl, t.forms, rfl, fun _ => rfl, fun _ => rfl, fun _ => rfl, fun _ => rfl, ⟨rfl, rfl⟩, t.others⟩
  all_goals decide +kernel

/-- Four elements under SEW 8, every group of 32-bit elements of four registers. -/
def v4 : State := vec 4 0
/-- `v4` with the operand registers of a memory instruction: the base in the own slate, a stride of 8. -/
def m4 : State := ((v4.writeX 16 0x7F0000000000).writeX 24 8)
/-- The same operands with S = 1. -/
def voS : VOp := { vo with sc := 1 }
/-- The same under mask m1, which is clear. -/
def voM : VOp := { vo with m := 1 }

/-- No vector register is poisoned in a store that lists no poison. -/
theorem vpoisoned_nil (m : Memory) (h : m.pois = []) (r n w i : Nat) : vpoisoned m r n w i = false := poisoned_nil m h _ _

/-- At user level: SEW 4, VL one above VLMAX, an unaligned group, and no lease. -/
theorem witness_VectorChecks : usr.plainUser = true ∧ usr.hart.mode = .plain ∧ (vec 4 4).vctxNow.sew = 4
    ∧ ((vec 6145 0).vctxNow.c = 1 ∧ 6145 = (vec 6145 0).vctxNow.grp * (vec 6145 0).vctxNow.reg / 2 ^ 0 + 1)
    ∧ (let x := (vec 6144 0).vctxNow
       x.sew < 4 ∧ x.vl ≤ x.grp * x.reg / 2 ^ x.sew ∧ 4 * 2 ^ (3 + x.sew) = x.grp * 32 ∧ (8#5).toNat % 4 = 0 ∧ (9#5).toNat % 4 ≠ 0)
    ∧ (bare 0).vctxNow.c = 0 := by and_intros <;> decide +kernel

/-- Element-wise integer, floating-point, compare and multiply-accumulate instructions issue, free of poison. -/
theorem witness_Elementwise : ∀ o ∈ [vo, voS, voM], v4.ready = true
    ∧ v4.vecCheck ((o.vd :: binSrcs o).map fun r => (r, 32)) false = none ∧ v4.vecCheck ((binSrcs o).map fun r => (r, 32)) false = none
    ∧ v4.clean o.m.toNat (srcsAt (binSrcs o) 4) = true ∧ v4.clean o.m.toNat [(o.vd.toNat, 4)] = true := by decide +kernel

/-- One-operand instructions: every pair of widths that VectorConvert names. -/
theorem witness_VectorConvert : ∀ p ∈ [(4, 4), (2, 4), (4, 1), (4, 2), (1, 4)], v4.vecCheck [(8, 8 * p.1), (16, 8 * p.2)] false = none
    ∧ v4.clean 0 [(16, p.2)] = true ∧ (decide (v4.vctxNow.blk > 10) || (decide (v4.vctxNow.vl > 0) && decide ((v4.vctxNow.vl - 1) / 2 ^ v4.vctxNow.blk > 511))) = false := by
  decide +kernel

/-- Moves; VMVX of the last element below VL, and of VL itself. -/
theorem witness_VectorMoves : v4.ready = true ∧ v4.vecCheck [(8, 32)] false = none ∧ v4.vecCheck [(8, 32), (16, 32)] false = none
    ∧ v4.vecCheck [(16, 32)] false = none ∧ voS.sc = 1 ∧ vo.sc = 0 ∧ v4.clean 0 [(16, 4)] = true
    ∧ ((v4.writeX 24 3).readX 24).toNat < v4.vctxNow.vl ∧ vpoisoned v4.vmem v4.vctxNow.reg 16 4 3 = false
    ∧ v4.vctxNow.vl = ((v4.writeX 24 4).readX 24).toNat := by and_intros <;> decide +kernel

/-- A group of four registers in `v4`, elements 3 and 4 at VL and the last of the group; keys just below and at the end of the group. -/
theorem witness_ElementLaws : v4.Tables ∧ v4.hart.mode = .plain ∧ v4.hart.owner = v4.cur
    ∧ (let x := v4.vctxNow
       x.group (8 * 2 ^ 2) = some 4 ∧ 0 < x.c ∧ x.c ≤ 16 ∧ (28#5).toNat + 4 ≤ 32 ∧ x.vl ≤ x.capacity (2 ^ 2)
       ∧ x.vl = 4 ∧ 4 < x.capacity (2 ^ 2) ∧ x.capacity (2 ^ 2) - 1 < x.capacity (2 ^ 2))
    ∧ (∀ k : Nat, ((fun k => { val := k % 256, stat := 0 } : Nat → EOut) k).val < 2 ^ (8 * 2 ^ 2))
    ∧ (8 * Config.regStride - 1) / Config.regStride < (8#5).toNat ∧ (8#5).toNat + 4 ≤ 12 * Config.regStride / Config.regStride
    ∧ (0 < 7 ∧ 7 < 8 ∧ 0 < 1 ∧ 1 < 8) := by
  refine ⟨vec_tables _ _, by decide +kernel, by decide +kernel, by decide +kernel, fun k => ?_, by decide +kernel, by decide +kernel, by decide⟩
  show k % 256 < _
  omega

/-- Reductions, masks, permutes and selections of `v4`, with an element active and with none. -/
theorem witness_Reductions : ∀ p ∈ [(8, 1), (16, 2), (32, 4)], v4.ready = true ∧ v4.vecCheck [(16, p.1)] false = none
    ∧ v4.clean 0 [(16, p.2)] = true ∧ v4.clean 1 [(16, p.2)] = true := by decide +kernel

/-- Mask instructions; scale loads, mask loads and mask stores at slate addresses. -/
theorem witness_Masks : v4.vecCheck [] false = none ∧ m4.ready = true
    ∧ m4.memCheck [] (decide (m4.vctxNow.blk > 10) || decide (4 > 512)) 4 (m4.readX 16) (m4.readX 24) = none
    ∧ (let t := m4.placed (.qlds vo) 4 (m4.readX 16) (m4.readX 24)
       let a := t.accLoad Fates.own 4 .strided fun k => m4.readX 16 + wordOf k * m4.readX 24
       ∀ k ∈ List.range 4, (a.check k).good = true)
    ∧ (let t := m4.placed (.mld vo) 4 (m4.readX 16) 0
       (t.elemCheck .read false 1 (m4.readX 16)).good = true)
    ∧ (let t := m4.placed (.mst vo) 4 (m4.readX 16) 0
       (t.elemCheck .write false 1 (m4.readX 16)).good = true) := by and_intros <;> decide +kernel

theorem witness_Permutes : v4.ready = true ∧ v4.clean 0 [(16, 4)] = true ∧ v4.vecCheck [(8, 32), (16, 32), (24, 32)] false = none
    ∧ v4.vecCheck [(8, 32), (16, 32)] false = none ∧ v4.clean 0 [(24, 4)] = true ∧ v4.vecCheck [(8, 32)] false = none := by
  and_intros <;> decide +kernel

/-- A selection among four zeros, and one among none. -/
theorem witness_Selections : v4.ready = true ∧ v4.vecCheck [(16, 32)] false = none ∧ v4.clean 0 [(16, 4)] = true
    ∧ selBest vo true ((v4.indices 0).map fun i => (i, v4.elem 16 4 i)) = some (0, 0)
    ∧ selBest vo true ((v4.indices 1).map fun i => (i, v4.elem 16 4 i)) = none
    ∧ selBest vo false [(3, 7), (5, 2), (6, 2)] = some (5, 2) := by and_intros <;> decide +kernel

/-- VBFLY with a stride of 3, no power of two, and of 1 and 2; VBSLICE and VBUNSLICE of planes of 9 bits. -/
theorem witness_ButterflyAndSlices : v4.ready = true ∧ v4.vecCheck [(8, 32), (16, 64)] false = none
    ∧ (∀ n, 3 ≠ 2 ^ n) ∧ ((v4.writeX 24 3).readX 24).toNat = 3 ∧ ((v4.writeX 24 1).readX 24).toNat = 2 ^ 0
    ∧ (∀ r n w j, vpoisoned v4.vmem r n w j = false)
    ∧ decide (9 * 64 > 8 * v4.vctxNow.capacity 1) = false ∧ v4.vecCheck [(8, 8), (16, 32)] false = none
    ∧ v4.vecCheck [(8, 32), (16, 8)] false = none ∧ v4.clean 0 [(16, 4)] = true := by
  refine ⟨by decide +kernel, by decide +kernel, fun n => ?_, by decide +kernel, by decide +kernel, fun r n w j => vpoisoned_nil _ rfl r n w j, by decide +kernel,
    by decide +kernel, by decide +kernel, by decide +kernel⟩
  rcases n with _ | _ | n
  · decide
  · decide
  · rw [Nat.pow_succ, Nat.pow_succ]; have := Nat.one_le_two_pow (n := n); omega

/-- The computer of a pipeline under SEW 32, with entries in ring 0. -/
def piped (es : List RingEntry) : State :=
  let l := State.reset.hart.lease
  { vec 4 2 with hart := { (vec 4 2).hart with mode := .pipeline, role := 1, lease := l.setRing 0 es } }
/-- An entry of a ring whose first element is 5. -/
def entry5 : RingEntry := { data := { cells := [(0, 5)], pois := [] }, reader := none, writer := none }
/-- The operands of a push of x24, of a pop into v8, and of an instruction that does both. -/
def pushOp : VOp := { vo with vd := 28, sc := 1 }
def popOp : VOp := { vo with vs1 := 28 }
def bothOp : VOp := { vo with vd := 28, vs1 := 28, vs2 := 28 }

/-- A ring empty, with one entry, and full; each of the three operand shapes passes its checks. -/
theorem witness_PipelineRings : ∀ es ∈ [[], [entry5], [entry5, entry5, entry5, entry5]],
    let s := piped es
    s.eager = true ∧ s.hart.queue = [] ∧ s.hart.frozen = false ∧ s.hart.mode = .pipeline ∧ (∀ sl ∈ s.hart.slots.toList, sl.pendingMask = 0)
    ∧ s.hart.vvFence = none ∧ s.hart.maskPois = [] ∧ s.lease.lanes = s.lease.held ∧ s.lease.held ≤ 16 ∧ s.lease.vmem.wf = true
    ∧ (∀ k ∈ List.range 4, ∀ e ∈ s.lease.ring k, e.reader ≠ some s.ringTag ∧ e.writer ≠ some s.ringTag)
    ∧ s.vecCheck [(pushOp.vd, 32)] false = none ∧ s.vecCheck [(popOp.vd, 32), (popOp.vs1, 32)] false = none
    ∧ s.vecCheck [(bothOp.vd, 32), (bothOp.vs1, 32), (bothOp.vs2, 32)] false = none
    ∧ (s.lease.ring 0 = es ∧ entry5.data.wf = true ∧ entry5.data.pois = [] ∧ ∀ c ∈ entry5.data.cells, c.1 < s.vctxNow.reg) := by decide +kernel
theorem witness_PipelineRings_tables : (piped [entry5]).Tables :=
  let h := vec_tables 4 2
  ⟨h.harts, h.dies, h.pkgs, h.cores, h.forms, h.xids, h.queues, h.ports, h.apertures, h.holders, ⟨rfl, rfl⟩, h.others⟩

/-- The checks that find nothing in pipeline mode, a register of another role, and a plain group that is legal. -/
theorem witness_IssueChecks : (piped []).vecCheck [(8, 32)] false = none ∧ ((piped []).hart.mode = .pipeline ∧ (piped []).vctxNow.c ≠ 0)
    ∧ (let x := v4.vctxNow
       x.sew < 4 ∧ x.vl ≤ x.grp * x.reg / 2 ^ x.sew) := by and_intros <;> decide +kernel

/-- Operand registers of a memory instruction at user level under a VL that is not 0. -/
def misplaced (base stride : Word) : State :=
  let s := (v4.writeX 16 base).writeX 24 stride
  { s with hart := { s.hart with ctl := { s.hart.ctl with status := 0 } } }
/-- A base and a stride that are no multiple of the width, and a base that is one. -/
theorem witness_VectorChecks_memory :
    (let s := misplaced 1 1
     s.plainUser = true ∧ s.vecCheck [(vo.vd, 32)] false = none ∧ s.hart.ctl.vl ≠ 0 ∧ s.hart.mode ≠ .cohort
     ∧ (s.readX vo.vs1).toNat % 4 ≠ 0 ∧ (s.readX vo.vs2).toNat % 4 ≠ 0)
    ∧ ((misplaced 0 1).readX vo.vs1).toNat % 4 = 0 := by decide +kernel

/-- Loads: every check passed and no element homed elsewhere, for the plain and the indexed accesses. -/
theorem witness_VectorLoads : m4.ready = true ∧ m4.memCheck [(8, 32)] false 4 (m4.readX 16) 0 = none
    ∧ m4.memCheck [(8, 32)] false 4 (m4.readX 16) (m4.readX 24) = none ∧ m4.vecCheck [(8, 32), (24, 32)] (m4.overlaps vo) = none
    ∧ (let t := m4.placed (.vld vo) 4 (m4.readX 16) 0
       let addr (k : Nat) : Word := m4.readX 16 + wordOf (k * 4)
       t.homes addr (List.range 4) = [] ∧ ∀ k ∈ List.range 4, ((t.accLoad Fates.own 4 .unit addr).check k).good = true)
    ∧ (let t := m4.placed (.vlds vo) 4 (m4.readX 16) (m4.readX 24)
       let addr (k : Nat) : Word := m4.readX 16 + wordOf k * m4.readX 24
       t.homes addr (List.range 4) = [] ∧ ∀ k ∈ List.range 4, ((t.accLoad Fates.own 4 .strided addr).check k).good = true)
    ∧ (let t := m4.placed (.vldx vo) 4 (m4.readX 16) 0
       let a := t.accLoadX Fates.own vo (m4.entryOf (.vldx vo) (m4.readX 16) 0)
       activeFrom (m4.hart.maskBit 0) m4.hart.ctl.estart.toNat 4 = [0, 1, 2, 3]
       ∧ t.homes a.addr (List.range 4) = [] ∧ ∀ k ∈ List.range 4, (a.check k).good = true) := by and_intros <;> decide +kernel

/-- A VLDXC of no element and of four; and one under way at the head, its chunk 0 open. -/
theorem witness_ChunkGather : (vec 0 0).ready = true ∧ (vec 0 0).vecCheck [(8, 32), (24, 32)] ((vec 0 0).overlaps vo) = none ∧ (vec 0 0).vctxNow.vl = 0
    ∧ (let u := (m4.placed (.vldxc vo) 4 (m4.readX 16) 0).startMask vo m4.vctxNow 4
       let e := m4.entryOf (.vldxc vo) (m4.readX 16) 0
       0 < m4.vctxNow.vl ∧ u.homes (u.indexAddr vo e) (List.range 4) = [] ∧ ((u.accLoadX Fates.own vo e).check 0).good = true)
    ∧ (let e : QEntry := { m4.entryOf (.vldxc vo) (m4.readX 16) 0 with begun := true, chunks := some 0 }
       let s : State := { m4 with hart := { m4.hart with queue := [e] } }
       s.arg.idx = s.cur ∧ s.eager = true ∧ s.hart.frozen = false ∧ e.pieces = []
       ∧ ((List.range (((s.vctx e).vl + 63) / 64)).filter fun k => !(0 : Nat).testBit k) = [0]
       ∧ (∀ k ∈ List.range 4, ((s.nextFree.accLoadX Fates.own vo e).check k).good = true)
       ∧ 1 + 1 = 2 ^ chunkCount e.vl ∧ s.hart.run = .running ∧ s.stopped s.cur = false ∧ s.hart.maskOwed e = false ∧ e.fenced = none ∧ e.mlen = none) := by
  and_intros <;> decide +kernel

/-- Stores and scatters at slate addresses; in an ascending scatter all four elements meet one address. -/
theorem witness_VectorStores : m4.ready = true ∧ m4.vecCheck [(8, 32), (24, 32)] false = none
    ∧ (let t := m4.placed (.vst vo) 4 (m4.readX 16) 0
       let a := t.accStore vo (m4.entryOf (.vst vo) (m4.readX 16) 0) .unit fun k => m4.readX 16 + wordOf (k * 4)
       ∀ k ∈ List.range 4, (a.check k).good = true)
    ∧ (let t := m4.placed (.vsts vo) 4 (m4.readX 16) (m4.readX 24)
       let a := t.accStore vo (m4.entryOf (.vsts vo) (m4.readX 16) (m4.readX 24)) .strided fun k => m4.readX 16 + wordOf k * m4.readX 24
       ∀ k ∈ List.range 4, (a.check k).good = true)
    ∧ (let t := m4.placed (.vstxadd vo) 4 (m4.readX 16) 0
       let a := t.accStoreX vo (m4.entryOf (.vstxadd vo) (m4.readX 16) 0) 4
       (∀ k ∈ List.range 4, (a.check k).good = true)
       ∧ ∀ g ∈ byAddr a (List.range 4) [], m4.pageHolds g.key = false ∧ m4.mem.poisoned g.key 4 = false) := by and_intros <;> decide +kernel

/-- A hart whose operand register x16 holds an address of a page homed at package 1 of two, an instruction alone in its queue and its event. -/
def remoteLoad (i : Instr) (ps : List Piece) : State :=
  let s : State := { m4 with packages := [0, 1] }
  let s := s.mapPage 0x20000000
  let s := (({ s with mem := s.mem.write (3 * 65536) 8 (0x407F + 4 * 2 ^ 44) } : State)).writeX 16 0x20000000
  let e := { s.entryOf i (s.readX 16) (s.readX 24) with pieces := ps }
  { s with arg := { EvArg.none with idx := s.cur }, hart := { s.hart with queue := [e] } }
/-- Its entry, about to send its pieces and with its one piece answered; every home reached, every element checked. -/
theorem witness_RemoteLoads : ∀ i ∈ [Instr.vld vo, .vldav vo, .vldg vo, .vlds vo, .vldxf vo, .vldx vo, .vldxu vo],
    ∀ ps ∈ [[], [({ home := 1, dies := [4], path := [1], settled := true, whole := true, delivered := 1 } : Piece)]],
    let s := remoteLoad i ps
    ∃ e, s.hart.queue = [e] ∧ e.instr = i ∧ e.pieces = ps ∧ e.pieces.all Piece.settled = true
      ∧ (s.arg.idx = s.cur ∧ s.eager = true ∧ s.hart.run = .running ∧ (s.hart.frozen = false ∧ s.stopped s.cur = false)
        ∧ (s.hart.mode = .plain ∧ s.hart.owner = s.cur) ∧ (s.hart.maskOwed e = false ∧ s.hart.maskPois = []) ∧ e.fenced = none ∧ e.mlen = none)
      ∧ s.dieLinkUp 0 0 4 = true
      ∧ (let hs := s.homes (addrUnit e 4) (List.range 4)
         hs ≠ [] ∧ (∀ h ∈ hs, (s.route 0 (h.2.1 / 4)).isSome = true)
         ∧ ∀ k ∈ List.range 4, ((s.accLoad (pieceFate ps hs) 4 .unit (addrUnit e 4)).check k).good = true)
      ∧ (let hs := s.homes (s.indexAddr vo e) (List.range 4)
         hs ≠ [] ∧ (∀ h ∈ hs, (s.route 0 (h.2.1 / 4)).isSome = true)
         ∧ ∀ k ∈ List.range 4, ((s.accLoadX (pieceFate ps hs) vo e).check k).good = true) := by
  intro i hi ps hp
  refine ⟨((remoteLoad i ps).hart.queue.head?).getD (m4.entryOf i 0 0), ?_⟩
  revert i ps
  decide +kernel

/-- Accesses that lead to the words of the own slate. -/
def slateAcc : VAcc := { wb := 4, hot := .unit, addr := fun _ => 0, check := fun k => .ok (.slate 0 (4 * k)) none }

theorem witness_LoadContents : v4.Tables ∧ v4.hart.owner = v4.cur ∧ slateAcc.wb = 2 ^ 2 ∧ 0 < 6144 ∧ 6144 % 8 = 0 ∧ 6144 ≤ Config.regStride
    ∧ ([0, 1] : List Nat).Nodup ∧ (∀ k, slateAcc.check k = .ok (.slate 0 (4 * k)) none)
    ∧ v4.hart.mode = .plain ∧ v4.hart.maskPois = [] ∧ (v4.entryOf (.vld vo) 0 0).p = 0
    ∧ (let x := v4.vctx (v4.entryOf (.vld vo) 0 0)
       x.group (8 * 4) = some 4 ∧ 0 < x.c ∧ x.c ≤ 16 ∧ vo.vd.toNat + 4 ≤ 32 ∧ x.vl ≤ x.capacity 4 ∧ x.capacity 4 - 1 < x.capacity 4 ∧ 0 < x.vl ∧ x.vl < x.capacity 4) :=
  ⟨vec_tables _ _, by decide +kernel, rfl, by decide, by decide, by decide +kernel, by decide, fun _ => rfl, rfl, rfl, rfl, by decide +kernel⟩

/-- The same places stored to. -/
theorem witness_StoreContents : v4.mem.wf = true ∧ v4.eager = true ∧ 0 < slateAcc.wb ∧ ([0, 1] : List Nat).Nodup
    ∧ (∀ k ∈ [0, 1], slateAcc.check k = .ok (.slate 0 (4 * k)) none ∧ v4.holds (agentNo v4.cur .vector) (Place.slate 0 (4 * k)).key slateAcc.wb = false)
    ∧ ∀ k ∈ [0, 1], ∀ j ∈ [0, 1], k ≠ j →
        (Place.slate 0 (4 * k)).key + 4 ≤ (Place.slate 0 (4 * j)).key ∨ (Place.slate 0 (4 * j)).key + 4 ≤ (Place.slate 0 (4 * k)).key :=
  ⟨by decide +kernel, rfl, by decide, by decide, fun k hk => ⟨rfl, (by decide +kernel : ∀ k ∈ [0, 1], v4.holds (agentNo v4.cur .vector) (Place.slate 0 (4 * k)).key 4 = false) k hk⟩,
    by decide +kernel⟩

/-! The matrix unit -/

/-- `v4` with `n` tiles attached and MLEN 1. -/
def tiled (n : Nat) : State :=
  { v4 with hart := { v4.hart with mat := { Mat.none with tiles := n }, ctl := { v4.hart.ctl with mlen := 1 } } }
/-- Operands of the matrix unit: FP32, tile 0, panels v8 and v16, x[xs] = x16. -/
def mo : DOp := { imm := 1, wb := 0, wa := 0, tt := 4, cm := 0, xs := 16, vb := 16, va := 8, acd := 0, aux := 0 }

/-- MATT with tiles attached, and with none; the minimum equals what is free; a budget that just suffices. -/
theorem witness_TileAttachment : (tiled 1).matReady = true ∧ (tiled 1).hart.mat.tiles ≠ 0
    ∧ (let s := v4.setDie 0 { DieRec.reset with budget := 4700 }
       s.matReady = true ∧ s.hart.mat.tiles = 0 ∧ s.hart.mat.asked = false ∧ s.hart.mat.reply = none ∧ (s.form 0).tileWait = []
       ∧ (15 : BitVec 4).toNat + 1 ≤ (s.form 0).tiles ∧ (s.die 0).waiting = [] ∧ 4700 + (s.die 0).granted ≤ (s.die 0).budget) := by
  and_intros <;> decide +kernel

/-- MSETLEN of 0 and of a value; MZERO over one tile, with entries on each side of MLEN. -/
theorem witness_MatrixRegisters : ((tiled 1).matReady = true ∧ ({ mo with xs := 0, imm := 0 } : DOp).imm.toNat = 0 ∧ mo.imm.toNat ≠ 0)
    ∧ (tiled 1).matIssue true [] 0 = none ∧ mo.acd.toNat + (mo.aux.toNat + 1) * 1 ≤ (tiled 1).hart.mat.tiles
    ∧ (0 < (tiled 1).hart.mlen ∧ ¬ 1 < (tiled 1).hart.mlen) := by and_intros <;> decide +kernel
theorem witness_MatrixRegisters_tables : (tiled 1).Tables :=
  let h := vec_tables 4 0
  ⟨h.harts, h.dies, h.pkgs, h.cores, h.forms, h.xids, h.queues, h.ports, h.apertures, h.holders, ⟨rfl, rfl⟩, h.others⟩

/-- Outer products over one tile: registers free of poison at every element, entries free of poison. -/
theorem witness_OuterProducts : (tiled 1).matReady = true ∧ (tiled 1).matIssue true [8, 16] 0 = none ∧ (tiled 1).matIssue true [8, 16, 1] 0 = none
    ∧ (∀ r w e : Nat, vpoisoned (tiled 1).vmem (tiled 1).vctxNow.reg r w e = false)
    ∧ mo.acd.toNat + tileCount 4 ≤ (tiled 1).hart.mat.tiles ∧ mo.acd.toNat + tileCount 6 ≤ (tiled 1).hart.mat.tiles
    ∧ ∀ p ∈ (tiled 1).hart.activeEntries 0, (tiled 1).hart.mat.bad 4 0 p.1 p.2 = false :=
  ⟨by decide +kernel, by decide +kernel, by decide +kernel, fun r w e => vpoisoned_nil _ rfl _ r w e, by decide +kernel, by decide +kernel, by decide +kernel⟩

/-- A group record in the own slate: one group of one row, and 64, the most there are; its panels stand in the slate too. -/
def grouped (n : Nat) : State :=
  let s := (tiled 1).writeX 16 0x7F0000000000
  let m := s.mem.write (Place.slate 0 0).key 2 n
  let m := m.write (Place.slate 0 10).key 2 1
  { s with mem := (List.range n).foldl (fun m j => m.write (Place.slate 0 (144 + 8 * j)).key 8 0x7F0000001000) m }
theorem witness_GroupedProducts : ∀ n ∈ [1, 64],
    let s := grouped n
    let r := (Place.slate 0 0).key
    s.matReady = true ∧ s.matIssue true [8] 0 = none ∧ (s.readX 16).toNat % 16 = 0 ∧ s.mem.read r 2 = n
    ∧ s.mem.pois = [] ∧ s.vmem.pois = []
    ∧ (let t := s.placed (.mgrp mo) 8 (s.readX 16) 0
       let os := (List.range (n + 1)).map fun j => s.mem.read (r + 8 + 2 * j) 2
       let ps := (groupSpans (groupEnds s.hart.mlen 0 os)).map fun p => (p.1, wordOf (s.mem.read (r + 144 + 8 * p.1) 8) + wordOf (1 * 256))
       t.ownSlate (s.readX 16) 656 = some r ∧ t.heldBy (agentNo t.cur .matrix) r 656 = false ∧ t.panelCheck 256 ps = none)
    ∧ (let t := s.placed (.mgrpQ mo) 8 (s.readX 16) 0
       let os := (List.range (n + 1)).map fun j => s.mem.read (r + 8 + 2 * j) 2
       let ps := (groupSpans (groupEnds s.hart.mlen 0 os)).map fun p => (p.1, wordOf (s.mem.read (r + 144 + 8 * p.1) 8) + wordOf (1 * 768))
       t.ownSlate (s.readX 16) 656 = some r ∧ t.heldBy (agentNo t.cur .matrix) r 656 = false ∧ t.panelCheck 768 ps = none) := by decide +kernel

/-- Tile loads and stores in the slate, 64 bytes a row; saves and loads of no tile at a slate address; lines 63 and 64. -/
theorem witness_TileMemory :
    let s := ((tiled 1).writeX 16 0x7F0000000000).writeX 17 256
    s.matReady = true ∧ s.tileIssue mo = none ∧ mo.acd.toNat + tileCount 4 ≤ s.hart.mat.tiles
    ∧ (let t := s.placed (.mldt mo) 8 (s.readX 16) (s.readX 17)
       ∀ p ∈ s.hart.activeEntries 0, (t.matCheck .read true 4 (s.readX 16 + wordOf p.1 * s.readX 17 + wordOf (p.2 * 4))).good = true)
    ∧ (let t := s.placed (.mstt mo) 8 (s.readX 16) (s.readX 17)
       ∀ p ∈ s.hart.activeEntries 0, (t.matCheck .write false 4 (s.readX 16 + wordOf p.1 * s.readX 17 + wordOf (p.2 * 4))).good = true
         ∧ s.hart.mat.bad 4 0 p.1 p.2 = false)
    ∧ (s.readX 16).toNat % 64 = 0
    ∧ s.matIssue false [8] 0 = none ∧ s.matIssue true [8] 0 = none ∧ ((s.writeX 16 63).readX 16).toNat ≤ 63 ∧ 63 < ((s.writeX 16 64).readX 16).toNat
    ∧ (∀ t, t < 64 → s.hart.mat.bad 4 0 63 t = false) ∧ s.vmem.pois = [] := by and_intros <;> decide +kernel

/-- The words of one tile saved and loaded at a slate address. -/
theorem witness_TileMemory_saves :
    let s := (tiled 1).writeX 16 0x7F0000000000
    ∀ n ∈ List.range (2048 * s.hart.mat.tiles),
      (State.matCheck (s.placed (.msave mo) 8 (s.readX 16) 0) .write false 8 (s.readX 16 + wordOf (8 * n))).good = true
      ∧ (State.matCheck (s.placed (.mload mo) 8 (s.readX 16) 0) .read false 8 (s.readX 16 + wordOf (8 * n))).good = true := by decide +kernel

/-- A tile's operands at user level: tiles attached, MLEN, x16 as the base and x17 as the stride. -/
def tiledUser (tiles mlen : Nat) (base stride : Word) : State :=
  let s := ((tiled tiles).writeX 16 base).writeX 17 stride
  { s with hart := { s.hart with ctl := { s.hart.ctl with status := 0, mlen := wordOf mlen } } }
/-- The same of another hart's kind: without a cluster, and as the loader of a pipeline. -/
def leaseless (s : State) : State := { s with hart := { s.hart with lease := Lease.none } }
def loading (s : State) : State := { s with hart := { s.hart with mode := .pipeline, role := 0 } }

/-- MLEN 0 and 65; no lease; a role's register outside its partition; a base, a stride and an area off their alignment; no tile attached. -/
theorem witness_MatrixChecks : (∀ m ∈ [0, 65], let s := tiledUser 1 m 0 0
      s.plainUser = true ∧ s.setlenQueued = false ∧ s.hart.mlen = m)
    ∧ (leaseless (tiledUser 1 1 0 0)).clusters = 0
    ∧ (let s := loading (tiledUser 1 1 0 0)
       s.plainUser = true ∧ s.clusters = 1 ∧ s.hart.mode = .pipeline ∧ s.hart.role = 0 ∧ ¬ mo.va.toNat < 8 ∧ ¬ 28 ≤ mo.va.toNat)
    ∧ (let s := tiledUser 1 1 1 2
       s.plainUser = true ∧ s.clusters = 1 ∧ (s.readX mo.xs).toNat % 4 = 1 ∧ (s.readX (mo.xs + 1)).toNat % 4 = 2)
    ∧ (let s := tiledUser 0 1 0x7F0000000040 256
       s.plainUser = true ∧ s.matReady = true ∧ s.setlenQueued = false ∧ s.hart.mat.tiles < mo.acd.toNat + 1 ∧ (s.readX mo.xs).toNat % 64 = 0
       ∧ (s.readX (mo.xs + 1)).toNat % 4 = 0 ∧ s.vctxNow.blk ≤ 10) := by decide +kernel

/-- Places of the own slate for entries and for words, free of holds. -/
theorem witness_TileContents :
    let s := tiled 1
    let pl (p : Nat × Nat) : Place := .slate 0 (256 * p.1 + 4 * p.2)
    let ql (n : Nat) : Place := .slate 0 (8 * n)
    s.eager = true ∧ s.mem.wf = true ∧ SMap.wf false s.hart.mat.accPois = true ∧ ([(0, 0), (0, 63), (63, 5)] : List (Nat × Nat)).Nodup ∧ ([0, 2047] : List Nat).Nodup
    ∧ (∀ p ∈ [(0, 0), (0, 63), (63, 5)], p.1 < 64 ∧ p.2 < 64 ∧ s.holds (agentNo s.cur .matrix) (pl p).key 4 = false)
    ∧ (∀ p ∈ [(0, 0), (0, 63), (63, 5)], ∀ q ∈ [(0, 0), (0, 63), (63, 5)], p ≠ q → (pl p).key + 4 ≤ (pl q).key ∨ (pl q).key + 4 ≤ (pl p).key)
    ∧ (∀ n ∈ [0, 2047], s.holds (agentNo s.cur .matrix) (ql n).key 8 = false ∧ (ql n).key % 8 = 0)
    ∧ (∀ m ∈ [0, 2047], ∀ n ∈ [0, 2047], m ≠ n → (ql m).key ≠ (ql n).key) := by and_intros <;> decide +kernel
theorem witness_TileContents_tables : (tiled 1).hart.Tables := ⟨rfl, rfl⟩

/-- BST with the stride register 1 and BCHAIN of two stages from it, on MLEN 1: the first ends where it stands, the second goes on. -/
theorem witness_ButterflyStages :
    let s := tiled 1
    let a := s.hart.mat
    let two : DOp := { mo with imm := 0x11 }
    s.matReady = true ∧ s.matIssue true [] 0 = none ∧ s.vctxNow.blk ≤ 10
    ∧ (∀ c ∈ [bstChain mo, bchainChain two], c.acd + c.g ≤ a.tiles ∧ ((c.stages a).all fun q => q.ok c.n s.vctxNow.blk) = true
        ∧ c.start s.hart.mlen a.block0 a.stage0 = some (0, 0)
        ∧ State.badWeight ((s.placed (.bst mo) 8 0 0).setProgress 0 0) (Stage.ofWord (a.stride c.f)) c.n = none
        ∧ State.badWeight ((s.placed (.bchain two) 8 0 0).setProgress 0 0) (Stage.ofWord (a.stride c.f)) c.n = none
        ∧ c.badEntry a [0] = none
        ∧ State.heldBy ((s.placed (.bst mo) 8 0 0).setProgress 0 0) (agentNo s.cur .matrix) (Place.slate (coreKey s.cur) (Stage.ofWord (a.stride c.f)).woff).key
            (c.n * (Stage.ofWord (a.stride c.f)).pair) = false)
    ∧ (((List.range 16).map (16 * 0 + ·)).filter (· < s.hart.mlen)) = [0]
    ∧ (bstChain mo).next s.hart.mlen 0 0 = none ∧ (bchainChain two).next s.hart.mlen 0 0 = some (0, 1) := by and_intros <;> decide +kernel

theorem witness_MatrixLaws : SMap.wf 0 (tiled 1).hart.mat.acc = true ∧ ([(0, 0), (63, 63)] : List (Nat × Nat)).Nodup
    ∧ (∀ p ∈ ([(0, 0), (63, 63)] : List (Nat × Nat)), p.1 < 64 ∧ p.2 < 64) ∧ (0, 63) ∉ ([(0, 0), (63, 63)] : List (Nat × Nat))
    ∧ (6 ≤ 6 ∧ 6 ≤ 9) ∧ 63 < 64 ∧ 0 < (bstChain mo).g ∧ 63 < (bstChain mo).n := by decide +kernel

/-! Streams -/

/-- A shape record of rank 1: 8 elements of 4 bytes, a tile of 8, a stride of 4. -/
def record : Nat := 2 + 2 ^ 8 + 8 * 2 ^ 64 + 4 * 2 ^ 192 + 8 * 2 ^ 448
/-- `v4` with a destination, a source and the record in the own slate. -/
def streamed : State :=
  let s := ((v4.writeX 8 0x7F0000001000).writeX 16 0x7F0000002000).writeX 24 0x7F0000003000
  { s with mem := s.mem.write (Place.slate 0 0x3000).key 64 record }
/-- What reading a record gives is a value and a state that a test holds of. -/
def records (r : RecRead) (p : Nat → State → Bool) : Bool :=
  match r with
  | .ok v u => p v u
  | _ => false

/-- Shaped streams under a VL of 0: the record is read and checked all the same. -/
theorem witness_StreamIssue_none : let s : State := { streamed with hart := { streamed.hart with ctl := { streamed.hart.ctl with vl := 0 } } }
    s.hart.queue = [] ∧ (s.readX 24).toNat % 64 = 0
    ∧ records (s.readRecord (s.readX 24) 64) (fun v u => decide (shapeCode (s.readX 24) (BitVec.ofNat 512 v) = 0) && decide (u.hart.ctl.vl = 0)) = true := by
  and_intros <;> decide +kernel

/-- `streamed` at user level, its record's address and number given. -/
def streamUser (va : Word) (rec_ : Nat) : State :=
  let s := streamed.writeX 24 va
  { s with mem := s.mem.write (Place.slate 0 0x3000).key 64 rec_, hart := { s.hart with ctl := { s.hart.ctl with status := 0 } } }
/-- A load's slot with a destination and a source. -/
def loadSlot (dst src : Word) : Slot := { streamed.slotOf (.stmld vo) vo 0 with dst := dst, src := src }
/-- What reading a record fails with. -/
def recordFault (r : RecRead) : Option Nat :=
  match r with
  | .bad c => some c
  | _ => none

/-- Records off their alignment, not canonical, with a failing check, and legal with a base outside the slate; the same base for an unshaped stream. -/
theorem witness_StreamTraps : (let s := streamUser 0x7F0000003001 record
      s.plainUser = true ∧ s.hart.queue = [] ∧ (s.hart.slot 0).state ≠ .active ∧ (s.readX 24).toNat % 64 ≠ 0)
    ∧ (let s := streamUser 0x0100000000000000 record
       (s.readX 24).toNat % 64 = 0 ∧ canonical (s.readX 24) = false ∧ recordFault (s.readRecord (s.readX 24) 64) = some 3)
    ∧ (let s := streamUser 0x7F0000003000 0
       records (s.readRecord (s.readX 24) 64) (fun v _ => decide (shapeCode (s.readX 24) (BitVec.ofNat 512 v) ≠ 0)) = true)
    ∧ (let s := (streamUser 0x7F0000003000 record).writeX 8 0x1000
       s.plainUser = true ∧ s.hart.ctl.vl ≠ 0
       ∧ records (s.readRecord (s.readX 24) 64) (fun v u =>
          let sl := s.slotOf (.stmldShaped voS) voS (BitVec.ofNat 512 v)
          decide (shapeCode (s.readX 24) (BitVec.ofNat 512 v) = 0) && decide (u.hart.ctl.vl ≠ 0)
          && (u.streamCheck sl (min u.hart.ctl.vl.toNat (shapeTiles (BitVec.ofNat 512 v) 0))).isSome) = true
       ∧ (s.streamCheck (s.slotOf (.stmld vo) vo 0) s.hart.ctl.vl.toNat).isSome = true) := by and_intros <;> decide +kernel

/-- The slot of an unshaped copy of 64-bit elements onto its own source, with a count. -/
def ownCopy (n : Nat) : Slot :=
  { Slot.idle with bits := instrBits (.stmcp { vo with t := 6 }), dst := 0x7F0000001000, src := 0x7F0000001000, status := slotWord .active 0 0 n 0 }

/-- The cases of a stream's check: a destination and a source off their width, a copy, a base outside the slate, one at its end from which a byte is outside, one from which none is, at the local address and at the
alias, and a tile whose origin is past its size. -/
theorem witness_StreamTraps_checks : (loadSlot 0x7F0000001001 0).dst.toNat % (loadSlot 0 0).width = 1
    ∧ (let sl := loadSlot 0x7F0000001000 2
       sl.dst.toNat % sl.width = 0 ∧ sl.src.toNat % sl.width = 2)
    ∧ ((ownCopy 1).op = .copy ∧ (ownCopy 1).dst.toNat % (ownCopy 1).width = 0 ∧ (ownCopy 1).src.toNat % (ownCopy 1).width = 0)
    ∧ (let sl := loadSlot 0x7F00000C0000 0
       sl.op ≠ .copy ∧ sl.dst.toNat % sl.width = 0 ∧ sl.src.toNat % sl.width = 0 ∧ sl.dst.toNat = 0x7F0000000000 + 786432)
    ∧ (let sl := loadSlot 0x7F00000BFFFC 0
       0x7F0000000000 ≤ sl.dst.toNat ∧ 0x7F0000000000 + 786432 < sl.dst.toNat + 2 * sl.width ∧ sl.dst.toNat + 1 * sl.width ≤ 0x7F0000000000 + 786432)
    ∧ (let sl := loadSlot 0x7E0000000000 0
       streamed.cur = 0 ∧ sl.dst.toNat + 1 * sl.width ≤ 0x7E0000000000 + 786432)
    ∧ (let sl := streamed.slotOf (.stmtl voS) voS 0
       sl.op = .tile ∧ shapeSize sl.shape 0 ≤ sl.org 0) := by and_intros <;> decide +kernel

theorem witness_StreamIssue : streamed.hart.queue = [] ∧ (streamed.hart.slot 0).state ≠ .active ∧ streamed.hart.ctl.vl.toNat ≠ 0 ∧ (vec 0 0).hart.ctl.vl.toNat = 0 ∧ (vec 0 0).hart.queue = [] ∧ voS.sc = 1
    ∧ streamed.vecCheck [] false = none ∧ streamed.hart.owesMask voS.t.toNat = false
    ∧ streamed.streamCheck (streamed.slotOf (.stmld vo) vo 0) 4 = none ∧ streamed.streamCheck (streamed.slotOf (.stmst vo) vo 0) 4 = none
    ∧ streamed.streamCheck (streamed.slotOf (.stmcp vo) vo 0) 4 = none ∧ (streamed.readX 24).toNat % 64 = 0 ∧ (vo.t = 0 ∨ streamed.lease.held ≠ 0)
    ∧ records (streamed.readRecord (streamed.readX 24) 64) (fun v u =>
        let r := BitVec.ofNat 512 v
        decide (shapeCode (streamed.readX 24) r = 0) && decide (u.hart.ctl.vl ≠ 0)
        && (([.stmldShaped voS, .stmstShaped voS, .stmcpShaped voS] : List Instr).all fun i =>
            decide (u.streamCheck (streamed.slotOf i voS r) (min u.hart.ctl.vl.toNat (shapeTiles r 0)) = none))
        && (let sl := streamed.slotOf (.stmtl voS) voS r
            decide (u.streamCheck sl (sl.rows * sl.rowCount u.hart.ctl.vl.toNat) = none))) = true
    ∧ records (streamed.readRecord (streamed.readX 16) 64) (fun _ _ => true) = true := by and_intros <;> decide +kernel

/-- A copy onto its own source overlaps it, whatever its length. -/
theorem copy_overlaps (sl : Slot) (h : sl.op = .copy) (hs : sl.srcAddr 0 = some sl.dst) (hc : 0 < sl.count) (hw : 0 < sl.width) :
    sl.overlaps = true := by
  have hm : sl.dst.toNat ∈ (List.range sl.count).filterMap fun e => (sl.srcAddr e).map BitVec.toNat :=
    List.mem_filterMap.2 ⟨0, List.mem_range.2 hc, by simp [hs]⟩
  unfold Slot.overlaps
  simp only [h, decide_true, Bool.true_and, Bool.and_eq_true, decide_eq_true_eq]
  generalize ((List.range sl.count).filterMap fun e => (sl.srcAddr e).map BitVec.toNat) = l at hm
  have h1 : ∃ m, l.max? = some m ∧ sl.dst.toNat ≤ m := by
    cases hx : l.max? with
    | none => simp_all
    | some m => exact ⟨m, rfl, (List.max?_le_iff hx).1 (Nat.le_refl m) _ hm⟩
  have h2 : ∃ m, l.min? = some m ∧ m ≤ sl.dst.toNat := by
    cases hx : l.min? with
    | none => simp_all
    | some m => exact ⟨m, rfl, (List.le_min?_iff hx).1 (Nat.le_refl m) _ hm⟩
  obtain ⟨m, e1, l1⟩ := h1
  obtain ⟨k, e2, l2⟩ := h2
  have := Nat.mul_pos hc hw
  rw [e1, e2]
  simp only [Option.getD_some]
  omega

/-- Streams of none, of 4 apart from their source, and of one more than a megabyte onto their source. -/
theorem witness_StreamRun_start : (0 < 2 ^ 24 ∧ 0 < 8 ∧ 7 < 8)
    ∧ (let sl : Slot := { streamed.slotOf (.stmcp vo) vo 0 with status := slotWord .active 0 0 4 0 }
       sl.overlaps = false ∧ 4 * sl.width ≤ 2 ^ 20 ∧ 0 < 4)
    ∧ (131073 < 2 ^ 24 ∧ (ownCopy 131073).overlaps = true ∧ 2 ^ 20 < 131073 * (ownCopy 131073).width) :=
  ⟨by decide, by decide +kernel, by decide,
    copy_overlaps _ (by decide +kernel) (by decide +kernel) (by decide +kernel) (by decide +kernel), by decide +kernel⟩

/-- An access leads to a place of no page. -/
def lands (r : ECheck) (p : Place) : Bool :=
  match r with
  | .ok q none => decide (q = p)
  | _ => false

/-- The first element of a stream of one, which is its last, and of a stream of four. -/
theorem witness_StreamRun_landing : ∀ n ∈ [1, 4],
    let sl : Slot := { streamed.slotOf (.stmld vo) vo 0 with status := slotWord .active 0 0 n 0 }
    let s : State := { streamed with hart := streamed.hart.setSlot 7 sl, arg := { EvArg.none with idx := 0, aux := 7 } }
    let u := s.nextFree
    7 < 8 ∧ s.arg.idx = s.cur ∧ s.arg.aux = 7 ∧ s.eager = true ∧ s.mem.wf = true ∧ s.hart.doomed = false ∧ s.hart.slot 7 = sl ∧ sl.state = .active ∧ sl.asked = false
    ∧ sl.pass = false ∧ sl.overlaps = false ∧ sl.op ≠ .tile ∧ sl.avail < sl.count ∧ sl.landed = 2 ^ sl.avail - 1
    ∧ sl.srcAddr sl.avail = some 0x7F0000002000 ∧ lands (u.streamLoc s.cur sl .read 0x7F0000002000) (.slate 0 0x2000) = true
    ∧ u.guardBut (some (s.cur, 7)) (.slate 0 0x2000) sl.width = .free ∧ s.mem.poisoned (Place.slate 0 0x2000).key sl.width = false
    ∧ lands (u.streamLoc s.cur sl .write (sl.dstAddr sl.avail)) (.slate 0 0x1000) = true ∧ s.pageHolds (Place.slate 0 0x1000).key = false
    ∧ s.atomicOnWay (Place.slate 0 0x1000).key sl.width = false := by decide +kernel

/-- A slot that is idle, and one in which a load has faulted, at user level. -/
theorem witness_StreamRun_status : (let sl := State.reset.hart.slot 0
      sl.state ≠ .active ∧ sl.state ≠ .faulted ∧ sl.pass = false ∧ sl.asked = false)
    ∧ (let s : State := { usr with hart := usr.hart.setSlot 0 (Slot.idle.enter .faulted 0 6) }
       (s.hart.slot 0).state = .faulted ∧ s.hart.loadAhead = false ∧ s.plainUser = true) := by and_intros <;> decide +kernel

/-! Tasks and grants -/

/-- A state with a queue 3 on die 0, enabled, and the numbers of a TLAUNCH and a TWAIT in x16 and x24. -/
def queued (desc : Nat) (sup device : Bool) : State :=
  let s := v4.writeX 24 3
  s.setDie 0 { DieRec.reset with queues := [(3, { QueueRec.reset with desc := BitVec.ofNat 256 desc, cap := { ptbase := 1, ring := 0, space := 0, win := 0, lsz := 0, sup := sup, device := device } })] }

/-- TLAUNCH of a packet in the slate; TWAIT of a queue with one packet done, of numbers at the ends of the queues; TYIELD; TEXIT. -/
theorem witness_TaskInstructions : reaches (streamed.writeX 16 0x7F0000001000) .read 0x7F0000001000 64 = true ∧ v4.agentHeld (agentNo v4.cur .scalar) = false
    ∧ (let s := (queued (1 + 2 ^ 224) false true).writeX 16 3
       (s.readX 16).toNat < s.idCount ∧ (s.queue (pkgOf s.cur) 3).enabled = true
       ∧ ((s.queue (pkgOf s.cur) 3).done + 2 ^ 33 - 0 - 1) % 2 ^ 32 < 2 ^ 31)
    ∧ v4.idCount = 65536 ∧ v4.copyWaits (coreKey v4.cur) v4.hart.task.prio = false
    ∧ v4.hart.queue = [] ∧ v4.hart.streaming = false ∧ v4.ownHeld [.scalar, .vector, .matrix, .stream] = false ∧ ({ v4 with hart := { v4.hart with stop := true } } : State).hart.stop = true := by and_intros <;> decide +kernel

/-- An access leads to a place that can be reached. -/
def leads (r : Loc) : Bool :=
  match r with
  | .place _ _ lost => !lost
  | _ => false

/-- A TLAUNCH that completes: its packet in the slate, room in the ring of its queue, whose page is mapped. -/
theorem witness_TaskInstructions_launch : (let s := ((queued 1 false true).mapPage 0).writeX 16 0x7F0000001000
    let q := s.queue 0 3
    reaches s .read 0x7F0000001000 64 = true ∧ (s.readX 24).toNat = 3 ∧ 3 < s.idCount ∧ q.enabled = true ∧ q.cap.sup = false ∧ q.cap.device = true
    ∧ q.count ≠ 2 ^ q.cap.lsz ∧ ∀ i, i < 8 → leads (s.locate (regAccess 0 q.cap.space q.cap.ptbase .write) (q.slot q.tail + wordOf (8 * i))) = true) := by
  decide +kernel

/-- The codes of TLAUNCH: the first number beyond the queues and the last within; a queue disabled; one of the supervisor's; one not
for devices; a full one. -/
theorem witness_TaskInstructions_codes : v4.idCount ≤ 65536 ∧ 65535 < v4.idCount ∧ 3 < v4.idCount ∧ (v4.queue 0 3).enabled = false
    ∧ (let s : State := { queued 1 true true with hart := usr.hart }
       (s.queue 0 3).enabled = true ∧ (s.queue 0 3).cap.sup = true ∧ s.hart.prv = false)
    ∧ ((queued 1 false false).queue 0 3).cap.device = false ∧ ((queued 1 false false).queue 0 3).cap.sup = false
    ∧ (let s := queued (1 + 2 ^ 160) false true
       (s.queue 0 3).enabled = true ∧ (s.queue 0 3).cap.device = true ∧ (s.queue 0 3).count = 2 ^ (s.queue 0 3).cap.lsz) := by
  and_intros <;> decide +kernel

/-- A cohort of two, its other member arrived. -/
def cohort : State :=
  let h : Hart := { v4.hart with mode := .cohort, task := { Task.none with copies := 2 } }
  { v4 with hart := h, harts := SMap.set Hart.reset v4.harts 1 { Hart.reset with run := .running, mode := .cohort, task := { Task.none with rank := 1, copies := 2 }, arrived := true } }
theorem witness_Barrier : cohort.agentHeld (agentNo cohort.cur .scalar) = false ∧ cohort.hart.mode = .cohort
    ∧ cohort.hart.sameLaunch cohort.hart = true ∧ cohort.copiesOf cohort.hart = [0, 1]
    ∧ (∀ g ∈ cohort.copiesOf cohort.hart, g ≠ cohort.cur → (cohort.getHart g).arrived = true)
    ∧ ∀ r ∈ cohort.parked, r.2.sameLaunch cohort.hart = true → r.2.arrived = true := by and_intros <;> decide +kernel
theorem witness_Barrier_tables : cohort.Tables :=
  let t := vec_tables 4 0
  ⟨by decide +kernel, t.dies, t.pkgs, t.cores, t.forms, t.xids, t.queues, t.ports, t.apertures, t.holders, ⟨rfl, rfl⟩, fun p hp => by
    have h : p ∈ cohort.harts := by simpa [cohort, v4, vec, State.reset] using hp
    have e : ∀ p ∈ cohort.harts, SMap.wf 0 p.2.mat.acc = true ∧ p.2.lease.vmem.wf = true := by decide +kernel
    exact ⟨(e p h).1, (e p h).2⟩⟩

/-- A hart of no cohort; a GWAIT for the other phase; LEASE of an acceptable pair, and of preferences 0 and 17. -/
theorem witness_SharedGrants : v4.hart.mode ≠ .cohort ∧ v4.hart.gbar = none ∧ v4.hart.arrived = false
    ∧ v4.hart.phase ≠ ((v4.writeX 16 1).readX 16).getLsbD 0 ∧ v4.hart.queue = []
    ∧ (let s := (v4.writeX 16 1).writeX 24 16
       ¬ (s.hart.mode = .pipeline ∨ s.lease.prefc = 0 ∨ (s.readX 24).toNat = 0 ∨ 16 < (s.readX 24).toNat
          ∨ (s.readX 24).toNat < (s.readX 16).toNat ∨ s.lease.held < (s.readX 16).toNat))
    ∧ (v4.readX 24).toNat = 0 ∧ 16 < ((v4.writeX 24 17).readX 24).toNat := by and_intros <;> decide +kernel

/-- Hall passes: the least and the greatest charge, the amounts refused beside them, and a pass held. -/
theorem witness_SharedGrants_passes : v4.Tables ∧ v4.hart.asked = false ∧ v4.hart.hpass = 0 ∧ (v4.die 0).waiting = []
    ∧ (0 < ((v4.writeX 16 1).readX 16).toNat ∧ ((v4.writeX 16 65535).readX 16).toNat ≤ 65535 ∧ 65535 + (v4.die 0).granted ≤ (v4.die 0).budget)
    ∧ (v4.readX 16).toNat = 0 ∧ 65535 < ((v4.writeX 16 65536).readX 16).toNat
    ∧ (let s : State := { v4 with hart := { v4.hart with hpass := 65535 } }
       s.hart.hpass ≠ 0 ∧ s.hart.asked = false ∧ (s.die (dieKey s.cur)).waiting = []) := by
  refine ⟨vec_tables _ _, ?_⟩
  and_intros <;> decide +kernel

/-- A state with draft 3 bound by the current task, at a version. -/
def drafted (version : Nat) : State :=
  v4.setDie 0 { DieRec.reset with drafts := [(3, { DraftRec.reset with bound := true, queue := 65536, version := version })] }

/-- DREG without and with a header; DPUB, DFINAL, DSTOP, DCHK and DWAIT of a draft that is bound, and of one that is not. -/
theorem witness_Drafts : v4.readX 16 = 0 ∧ reaches (v4.writeX 16 0x7F0000001000) .write 0x7F0000001000 16 = true
    ∧ (let s := (drafted 0).writeX 16 3
       s.agentHeld (agentNo s.cur .scalar) = false ∧ s.publishCode 3 = 0 ∧ s.runOf s.hart = none ∧ s.draftIn 3 = true ∧ (s.draft 0 3).bound = true ∧ (s.draft 0 3).final = false
       ∧ (s.draft 0 3).abandoned = false)
    ∧ (v4.draft 0 3).bound = false ∧ v4.draftIn 65536 = false ∧ v4.draftIn 65535 = true
    ∧ v4.readX 24 = 0 ∧ (v4.writeX 24 1).readX 24 = 1 ∧ 1 < ((v4.writeX 24 2).readX 24).toNat
    ∧ (let s := (drafted 1).writeX 24 0
       field (s.readX 24) 0 32 < (s.draft 0 3).version) := by and_intros <;> decide +kernel

/-- The codes of a publication: unknown, another's, final, the last version and the one before it. -/
theorem witness_Drafts_codes : ¬ (v4.draftIn 3 = true ∧ (v4.draft 0 3).bound = true)
    ∧ (let s := drafted (2 ^ 32 - 1)
       s.draftIn 3 = true ∧ (s.draft 0 3).bound = true ∧ (s.draft 0 3).queue = s.hart.task.queue ∧ (s.draft 0 3).packet = s.hart.task.packet
       ∧ (s.draft 0 3).final = false ∧ (s.draft 0 3).abandoned = false ∧ (s.draft 0 3).version = 2 ^ 32 - 1)
    ∧ ((drafted (2 ^ 32 - 2)).draft 0 3).version ≠ 2 ^ 32 - 1
    ∧ (let s := (drafted 0).setDraft 0 3 { (drafted 0).draft 0 3 with final := true }
       (s.draft 0 3).bound = true ∧ (s.draft 0 3).final = true)
    ∧ (let s := (drafted 0).setDraft 0 3 { (drafted 0).draft 0 3 with queue := 3 }
       (s.draft 0 3).bound = true ∧ (s.draft 0 3).queue ≠ s.hart.task.queue) := by and_intros <;> decide +kernel

/-- A hart with a copy of packet 0 of queue 3, whose run has a snapshot of one draft, FINAL or not. -/
def fired (final : Bool) : State :=
  let task := { v4.hart.task with queue := 3, boot := false, home := 0, packet := 0 }
  let snap : SnapRec := { rule := 3, did := 5, status := if final then 0x100000000 else 0 }
  { v4 with
    hart := { v4.hart with task := task, run := .running, ctl := { v4.hart.ctl with status := 0 } }
    runs := [{ home := 0, queue := 3, packet := 0, bytes := 0, space := 0, ptbase := 0, snap := [snap], waiting := [], handed := [], live := 1, atHead := true,
               stopping := false, due := false, ready := 0, age := 0 }] }
/-- DFINAL of a run whose snapshot is FINAL, and of one whose is not; a DWAIT for a version to come, with and without yielding. -/
theorem witness_Drafts_order : (fired true).plainUser = true ∧ (fired true).runOf (fired true).hart = (fired true).runs[0]?
    ∧ ((fired true).runs.all fun r => r.snap.all SnapRec.final) = true ∧ (fired false).runOf (fired false).hart = (fired false).runs[0]?
    ∧ ((fired false).runs.all fun r => r.snap.all SnapRec.final) = false
    ∧ (let s := (drafted 0).writeX 16 3
       s.draftIn 3 = true ∧ (s.draft 0 3).bound = true ∧ (s.draft 0 3).final = false ∧ (s.draft 0 3).abandoned = false ∧ (s.draft 0 3).version ≤ field (s.readX 24) 0 32
       ∧ s.hart.stop = false) := by and_intros <;> decide +kernel

/-! The exchange -/

/-- A hart bound to a round in an RSTATE, a sender and receiver 0. -/
def party (rstate : Nat) : State :=
  { v4 with hart := { v4.hart with xch := { Party.none with status := wordOf (rstate * 2 ^ 17 + 3 * 2 ^ 15), receivers := 2 } } }
/-- A hart at the record of a round of one sender, XID 0, with the role of its sender. -/
def joining : State :=
  let s := (v4.writeX 16 0x7F0000001000).writeX 24 0x10000000
  { s with mem := s.mem.write (Place.slate 0 0x1000).key 64 (2 ^ 32) }

/-- XOPEN at an address that is not aligned, and of a legal record; a hart that is not the coordinator, and the coordinator. -/
theorem witness_ExchangeSettings_open : joining.hart.queue = [] ∧ joining.hart.asked = false ∧ joining.hart.reply = none ∧ joining.hart.xch.pass = false
    ∧ ((joining.writeX 16 0x7F0000001001).readX 16).toNat % 64 ≠ 0 ∧ (joining.readX 16).toNat % 64 = 0
    ∧ records (joining.readRecord (joining.readX 16) 64) (fun v u => decide (u.xopenCode v (joining.readX 24) = 0) && decide (hdrComb v = 0)
        && u.reachesHub u.cur (u.xidHub (hdrXid v))) = true := by and_intros <;> decide +kernel
/-- A round that combines, by the sums of 32-bit integers, with room in the budget for its hall pass; a hart that holds a pass of its round. -/
theorem witness_ExchangeSettings_combining :
    (let s : State := { joining with mem := joining.mem.write (Place.slate 0 0x1000).key 64 (2 ^ 32 + 2 ^ 48) }
     s.hart.queue = [] ∧ (s.readX 16).toNat % 64 = 0
     ∧ records (s.readRecord (s.readX 16) 64) (fun v u => decide (u.xopenCode v (s.readX 24) = 0) && decide (hdrComb v ≠ 0)
        && u.reachesHub u.cur (u.xidHub (hdrXid v)) && !u.hart.asked && (u.die 0).waiting.isEmpty
        && decide (exchangeCharge + (u.die 0).granted ≤ (u.die 0).budget)) = true)
    ∧ (let p := { (party 2).hart.xch with pass := true }
       p.pass = true ∧ p.bound = true) := by and_intros <;> decide +kernel
theorem witness_ExchangeSettings : joining.hart.xch.coordinator = false
    ∧ (let s := party 2
       s.hart.queue = [] ∧ s.hart.xch.coordinator = true ∧ s.reachesHub s.cur (s.xidHub s.hart.xch.xid) = true
       ∧ ((s.writeX 16 1).readX 16).toNat % 4 ≠ 0 ∧ (s.readX 16).toNat % 4 = 0 ∧ s.hart.xch.receivers - 1 ≠ 0
       ∧ ((s.writeX 16 65535).readX 16).toNat ≤ 65535 ∧ 65535 < ((s.writeX 16 65536).readX 16).toNat ∧ s.readX 16 = 0
       ∧ (s.xid s.hart.xch.xid).proposal = none ∧ ((s.setXid 0 { XidRec.reset with proposal := some [1] }).xid 0).proposal = some [1])
    ∧ (let s := (party 2).writeX 16 0x7F0000001000
       records (s.readRecord (s.readX 16) 4) (fun _ u => decide (u.hart = s.hart)) = true)
    ∧ (let s : State := { v4 with hart := { v4.hart with xch := { Party.none with status := wordOf (2 * 2 ^ 17 + 3 * 2 ^ 15), receivers := 1 } } }
       s.hart.xch.coordinator = true ∧ s.hart.xch.receivers - 1 = 0 ∧ (s.readX 16).toNat % 4 = 0)
    ∧ (v4.hart.xch.bound = false ∧ (v4.readX 16).toNat ≤ 1 ∧ ((v4.writeX 16 1).readX 16).toNat ≤ 1 ∧ 1 < ((v4.writeX 16 2).readX 16).toNat)
    ∧ ((party 3).hart.xch.rstate = 3 ∧ (party 3).readX 16 = 0 ∧ ((party 3).writeX 16 1).readX 16 = 1 ∧ ((party 3).writeX 16 2).readX 16 = 2)
    ∧ v4.xstatValue 3 = none := by and_intros <;> decide +kernel

/-- A sender of one element of payload, and of as many as 512 bytes hold; one that is no sender; receivers with and without a batch. -/
theorem witness_ExchangeTransfer : (party 2).ready = true ∧ (party 2).vecCheck [(8, 32), (16, 32)] false = none ∧ (party 2).hart.xch.sending = true
    ∧ (1 * 4 ≤ 512 ∧ 4 * 1 ≤ (party 2).vctxNow.capacity 4) ∧ (128 * 4 ≤ 512 ∧ 4 * 128 ≤ (party 2).vctxNow.capacity 4)
    ∧ (∀ r w i, vpoisoned (party 2).vmem (party 2).vctxNow.reg r w i = false)
    ∧ v4.hart.xch.sending = false ∧ v4.hart.xch.failed = false
    ∧ (party 3).vecCheck [(8, 32), (16, 64)] false = none ∧ v4.hart.xch.recv = false
    ∧ (let q : Rec := { key := 0, rank := 0, seq := 0, len := 4, data := 0, cont := false, late := false, badord := false, ovf := false, time := 0 }
       let j : Receiver := { ridx := 0, g := 0, quota := 8, staged := [], batches := [[q]], markers := 0, final := false, lastClose := none, counted := 0, samples := [], gone := false, failed := false, armedAt := 0 }
       let s := (party 3).setXid 0 { XidRec.reset with round := some { Round.new (2 ^ 32) with receivers := [j] } }
       s.hart.xch.recv = true ∧ s.hart.xch.bound = true ∧ s.hart.xch.failed = false ∧ s.hart.xch.rstate = 3 ∧ 0 < s.vctxNow.vl
       ∧ ((s.xid 0).round.bind fun r => r.receiver 0) = some j) := by
  refine ⟨by decide +kernel, by decide +kernel, by decide +kernel, by decide +kernel, by decide +kernel, fun r w i => vpoisoned_nil _ rfl _ r w i, ?_⟩
  and_intros <;> decide +kernel

/-- A record of a payload of 4 bytes, a receiver 0 with batches, and its hart in an RSTATE. -/
def rec4 : Rec := { key := 0, rank := 0, seq := 0, len := 4, data := 0, cont := false, late := false, badord := false, ovf := false, time := 0 }
def taker (bs : List (List Rec)) (final : Bool) : Receiver :=
  { ridx := 0, g := 0, quota := 8, staged := [], batches := bs, markers := 0, final := final, lastClose := none, counted := 0, samples := [], gone := false, failed := false, armedAt := 0 }
def taking (bs : List (List Rec)) (final : Bool) : State :=
  (party 3).setXid 0 { XidRec.reset with round := some { Round.new (2 ^ 32) with receivers := [taker bs final], table := some [] } }

/-- Receivers unbound, under VL 0, in a round not yet ready and in one that failed, with a batch emptied, and with one of records. -/
theorem witness_ExchangeReceive : v4.ready = true ∧ v4.vecCheck [(8, 32), (16, 64)] false = none ∧ v4.hart.xch.recv = false
    ∧ (let s : State := { party 3 with hart := { (party 3).hart with ctl := { (party 3).hart.ctl with vl := 0 } } }
       s.ready = true ∧ s.vecCheck [(8, 32), (16, 64)] false = none ∧ s.hart.xch.recv = true ∧ s.hart.xch.bound = true ∧ s.vctxNow.vl = 0)
    ∧ ((party 2).hart.xch.recv = true ∧ (party 2).hart.xch.bound = true ∧ (party 2).hart.xch.rstate ≠ 3)
    ∧ (let s : State := { v4 with hart := { v4.hart with xch := { Party.none with status := wordOf (4 * 2 ^ 17 + 2 ^ 15 + 2 ^ 12) } } }
       s.hart.xch.failed = true ∧ s.hart.xch.recv = true ∧ s.ready = true)
    ∧ (∀ bs ∈ [[[]], [[rec4]]], let s := taking bs true
       s.ready = true ∧ s.vecCheck [(8, 32), (16, 64)] false = none ∧ s.hart.xch.recv = true ∧ s.hart.xch.bound = true ∧ s.hart.xch.failed = false ∧ s.hart.xch.rstate = 3
       ∧ ((s.xid 0).round.bind fun r => r.receiver 0) = some (taker bs true)) := by and_intros <;> decide +kernel

/-- A round armed and one that is not; the headers and payloads of two records apart; a receiver's last batch and one before it. -/
theorem witness_ExchangeTransport :
    ((taking [] false).xid (taking [] false).hart.xch.xid).round.isSome = true
    ∧ (∀ a ∈ [0, 1], ∀ b ∈ [0, 1], a ≠ b → vkey 6144 16 (a * 8) + 8 ≤ vkey 6144 16 (b * 8) ∨ vkey 6144 16 (b * 8) + 8 ≤ vkey 6144 16 (a * 8))
    ∧ (∀ a ∈ [0, 1], ∀ b ∈ [0, 1], a ≠ b → vkey 6144 8 (a * 4) + 4 ≤ vkey 6144 8 (b * 4) ∨ vkey 6144 8 (b * 4) + 4 ≤ vkey 6144 8 (a * 4))
    ∧ (∀ a ∈ [0, 1], ∀ b ∈ [0, 1], vkey 6144 16 (a * 8) + 8 ≤ vkey 6144 8 (b * 4) ∨ vkey 6144 8 (b * 4) + 4 ≤ vkey 6144 16 (a * 8))
    ∧ (busy (party 3)).hart.queue.length = 1 ∧ (party 3).hart.owner = (party 3).cur ∧ v4.vctxNow.tail = false
    ∧ (∀ f ∈ [false, true], let s := taking [[]] f
       s.hart.xch.isReceiver s.hart.xch.xid s.hart.xch.ridx = true ∧ (taker [[]] f).ridx = s.hart.xch.ridx
       ∧ ((s.xid 0).round.bind fun r => r.receiver 0) = some (taker [[]] f)) := by and_intros <;> decide +kernel

/-- Each selector of XSTAT: of a receiver with samples, of an XID with a proposal, and each kind of an invalid one. -/
theorem witness_ExchangeStatus :
    (let s : State := { party 3 with hart := { (party 3).hart with xch := { (party 3).hart.xch with samples := [7, 9] } } }
     let s := s.setXid 0 { XidRec.reset with proposal := some [1] }
     s.hart.xch.rstate ≠ 0 ∧ s.hart.xch.recv = true ∧ s.hart.xch.samples.length ≤ 64 ∧ s.hart.xch.samples[1]? = some 9
     ∧ ((s.writeX 16 0x101).readX 16).toNat = 0x100 + 1 ∧ (s.xid s.hart.xch.xid).proposal = some [1] ∧ ((s.writeX 16 0x1000).readX 16).toNat = 0x1000 + 0
     ∧ 0x100 + s.hart.xch.samples.length ≤ ((s.writeX 16 0x102).readX 16).toNat ∧ 0x1000 + ([1] : List Nat).length ≤ ((s.writeX 16 0x1001).readX 16).toNat
     ∧ (5 < ((s.writeX 16 6).readX 16).toNat ∧ ((s.writeX 16 0xFF).readX 16).toNat < 0x100))
    ∧ v4.hart.xch.rstate = 0 ∧ ((party 3).xid 0).proposal = none
    ∧ (let s : State := { party 3 with hart := { (party 3).hart with xch := { Party.none with status := wordOf (3 * 2 ^ 17 + 2 ^ 15), receivers := 2 } } }
       s.hart.xch.recv = false ∨ s.hart.xch.sending = false) := by and_intros <;> decide +kernel

/-! Events -/

/-- A state in which an event names package 0, die 0 and other operands. -/
def event (s : State) (idx aux val : Nat) : State := { s with arg := { EvArg.none with idx := idx, aux := aux, val := BitVec.ofNat 256 val } }
theorem witness_here : State.reset.present State.reset.arg.pkg = true ∧ State.reset.arg.die < State.reset.dieCount
    ∧ State.reset.Tables := ⟨by decide +kernel, by decide +kernel, vec_tables 0 0⟩

/-- How the front entry ends: 0 completed, 1 waiting, 2 trapped. -/
def headEnds (s : State) : Option Nat :=
  match s.hart.queue with
  | [] => none
  | e :: _ => (headOf e.instr).map fun f => match f e s with
    | .done _ => 0
    | .wait _ => 1
    | .trap _ _ => 2
/-- An instruction alone in the queue. -/
def front (s : State) (i : Instr) (xa xb : Word) : State := { s with hart := { s.hart with queue := [s.entryOf i xa xb] } }

/-- The queue's head: an addition that completes, a MATT that waits for tiles, a store to an address that is not mapped; and each
reason to stay. -/
theorem witness_QueueHead : v4.arg.idx = v4.cur ∧ v4.hart.run = .running ∧ v4.hart.frozen = false ∧ v4.stopped v4.cur = false
    ∧ headEnds (front v4 (.vadd vo) 0 0) = some 0
    ∧ headEnds (front (v4.setForm 0 { FormRec.reset with tiles := 0 }) (.matt { mo with imm := 1 }) 0 0) = some 1
    ∧ headEnds (front v4 (.vst vo) 0 0) = some 2
    ∧ (let s := front v4 (.vadd vo) 0 0
       let e := s.entryOf (.vadd vo) 0 0
       s.eager = true ∧ s.hart.maskOwed e = false ∧ e.mlen = none ∧ e.fenced = none ∧ e.isMatrix = false ∧ s.hart.maskBad e = none)
    ∧ (let s := front v4 (.vadd vo) 0 0
       s.besideChunks (s.entryOf (.vadd vo) 0 0) (s.entryOf (.vsub vo) 0 0) = false)
    ∧ (let s := front v4 (.matt mo) 0 0
       s.rivals = [] ∧ (s.entryOf (.matt mo) 0 0).isMatrix = true)
    ∧ (let s := { front v4 (.vadd voM) 0 0 with hart := { (front v4 (.vadd voM) 0 0).hart with maskPois := [(maskWord 1 0, true)] } }
       s.hart.maskBad (v4.entryOf (.vadd voM) 0 0) = some 0)
    ∧ Hart.reset.run ≠ .running ∧ (halted v4).stopped v4.cur = true ∧ v4.hart.queue = []
    ∧ (let s : State := { v4 with hart := { v4.hart with ctl := { v4.hart.ctl with status := 5 } } }
       s.hart.frozen = true) := by and_intros <;> decide +kernel

/-- A fence before the front entry that waits for a write on its way, and one that orders it at once; a form that finds a poisoned mask word itself, and one that does not and is precise. -/
theorem witness_QueueHead_fence : (let w := withHeld (front v4 (.vadd vo) 0 0) [{ onWay 0 with writer := agentNo 0 .vector }]
      (w.order [agentNo 0 .vector] 4).isNone = true ∧ (w.order [agentNo 0 .vector] 1).isSome = true)
    ∧ ({ v4.entryOf (.vadd vo) 0 0 with fenced := some 4 } : QEntry).fenced = some 4
    ∧ (v4.entryOf (.vldx vo) 0 0).ownMask = true ∧ (v4.entryOf (.opadd mo) 0 0).ownMask = true ∧ (v4.entryOf (.vadd voM) 0 0).ownMask = false
    ∧ (v4.entryOf (.vstxadd voM) 0 0).ownMask = false ∧ (v4.entryOf (.vstxadd voM) 0 0).precise = true ∧ (v4.entryOf (.vstxadd voM) 0 0).begun = false := by
  and_intros <;> decide +kernel

/-- A run of queue 3 on die 0 that is due, and a hart pre-empted on core 1 whose area is not mapped: its resumption kills it. -/
def dueRun : RunRec :=
  { home := 0, queue := 3, packet := 0, bytes := 0, space := 0, ptbase := 0, snap := [], waiting := [], handed := [], live := 0, atHead := false,
    stopping := false, due := true, ready := 0, age := 0 }
def parkedOne : State := { v4 with parked := [(4, { Hart.reset with owner := 4, ctl := { Ctl.reset with vsaveptr := 0x10000 } })] }
theorem witness_Dispatch : (let s : State := { v4 with runs := [dueRun], arg := { EvArg.none with idx := 3 } }
      (s.runs.find? fun r => r.isOf 0 s.arg.idx s.arg.aux && r.due) = some dueRun)
    ∧ (v4.runs.find? fun r => r.isOf 0 3 0 && r.due) = none
    ∧ (parkedOne.resumeFirst (parkedOne.parked.filter fun p => dieKey p.1 = 0)).isSome = true
    ∧ (v4.resumeFirst (v4.parked.filter fun p => dieKey p.1 = 0)).isNone = true := by and_intros <;> decide +kernel

/-- A Registrar's write on its way; a pre-empted task whose area stands on a page that is being moved. -/
theorem witness_Dispatch_waits : (let s := withHeld v4 [{ onWay 0 with writer := regWriter 0 }]
      s.regHeld s.arg.pkg = true ∧ (s.die s.arg.dieKey).headers = [] ∧ (s.die s.arg.dieKey).settling = [] ∧ s.runs = [])
    ∧ (let m := v4.mapPage 0
       let s : State := { m with mem := m.mem.write (3 * 65536) 8 0x427F, parked := [(4, { Hart.reset with owner := 4, ctl := { Ctl.reset with ptbase := 1, ptbaseNow := 1 } })] }
       (s.parked.filter fun p => dieKey p.1 = 0).any (fun p => s.areaWaits (s.parkedTask p.1 p.2)) = true ∧ (s.resumeFirst (s.parked.filter fun p => dieKey p.1 = 0)).isNone = true) := by
  and_intros <;> decide +kernel

/-- A copy starts on core 1 and cannot on a halted core; the group served of two; nothing resumes where nothing is pre-empted. -/
theorem witness_DispatchLaws : (v4.startCopy dueRun 0 1).isSome = true ∧ (v4.startCopy dueRun 0 0).isSome = true ∧ (halted v4).stopped 0 = true
    ∧ (pickGroup { virt := ⟨0, 1⟩, groups := [] } [3, 5]).isSome = true
    ∧ (0 < GroupRec.reset.start.den ∧ 0 < GroupRec.reset.finish.den) ∧ v4.resumeTask [] = none := by and_intros <;> decide +kernel

/-- No word of a list of offsets in the area of `bare` faults or is poisoned. -/
theorem bare_reads (s : State) (h : Hart) (offs : List Nat)
    (ho : ∀ off ∈ offs, ∃ p l, s.areaLoc 0 (h.areaAccess 0 .read) (0x400000 + wordOf off) = .place p l false ∧ s.mem.poisoned p.key 8 = false) :
    ∃ t, s.getWords 0 h 0x400000 0x10000 offs = .ok t := by
  have hf : s.areaFault 0 (h.areaAccess 0 .read) 0x400000 offs = none := by
    induction offs with
    | nil => rfl
    | cons o t ih =>
      obtain ⟨p, l, h1, _⟩ := ho o (List.mem_cons_self ..)
      simp only [State.areaFault, h1]
      exact ih fun q hq => ho q (List.mem_cons_of_mem _ hq)
  have hn : (offs.find? fun o => decide (o < 0x10000) && (s.areaWord 0 (h.areaAccess 0 .read) 0x400000 o).2) = none := by
    refine List.find?_eq_none.2 fun o hm => ?_
    obtain ⟨p, l, h1, h2⟩ := ho o hm
    simp only [State.areaWord, h1, h2, Bool.and_false, Bool.false_eq_true, not_false_eq_true]
  simp only [State.getWords, hf, hn]
  exact ⟨_, rfl⟩


/-- What reading the hart back needs. -/
theorem bare_offs : ∀ o ∈ scalarOffs ++ fixedOffs bareHart 0 ++ countedOffs bareHart 0 0 0, o < 0x400000 := by decide +kernel
theorem bare_counted (s : State) : countedOffs bareHart 0 0 (s.areaWord 0 (bareHart.areaAccess 0 .read) 0x400000 0x170).1 = countedOffs bareHart 0 0 0 := by
  generalize (s.areaWord 0 (bareHart.areaAccess 0 .read) 0x400000 0x170).1 = z
  have h : bareHart.mode = .plain := rfl
  simp [countedOffs, h]
/-- A state whose area is that of `bare 2` has the hart read back. -/
theorem bare_readHart (s : State) (hs : ∀ va, s.areaLoc 0 (bareHart.areaAccess 0 .read) va = (bare 2).areaLoc 0 (bareHart.areaAccess 0 .read) va)
    (hm : s.mem = (bare 2).mem) (hz : (s.areaWord 0 (bareHart.areaAccess 0 .read) 0x400000 0x168).1 = 0) :
    ∃ v, s.readHart 0 bareHart bareHart.lease = .ok v := by
  obtain ⟨t, ht⟩ := bare_reads s bareHart (scalarOffs ++ fixedOffs bareHart 0 ++ countedOffs bareHart 0 0 0) fun o ho => by
    obtain ⟨p, l, h1, h2⟩ := bare_loc 2 (by decide) .read (.inl rfl) o (bare_offs o ho)
    exact ⟨p, l, (hs _).trans h1, hm ▸ h2 rfl⟩
  have hb : bareHart.ctl.vsaveptr = 0x400000 := by rfl
  have hl : bareHart.lease.lanes = 0 := by rfl
  rw [← bare_counted s] at ht
  unfold State.readHart
  dsimp only
  rw [hl, hb, hz, ht]
  exact ⟨_, rfl⟩
theorem bare_read : ∃ v, (bare 2).readHart 0 bareHart bareHart.lease = .ok v :=
  bare_readHart (bare 2) (fun _ => rfl) rfl (by decide +kernel)
/-- A task of that hart alone that is read back, its clusters to be had, resumes. -/
theorem bare_resume (s : State) (hr : s.regrant 0 { bareHart.lease with passes := 0 } ≠ none)
    (hi : (decide (((s.idleHarts (coreKey 0)).take 1).length < 1) || (s.core (coreKey 0)).halted || (s.core (coreKey 0)).halting
      || s.copyAbove (coreKey 0) bareHart.task.prio) = false) (hv : ∃ v, s.readHart 0 bareHart bareHart.lease = .ok v) :
    ∃ t, s.resumeTask [(0, bareHart)] = some t := by
  obtain ⟨v, hv⟩ := hv
  have ha : s.readAll [(0, bareHart)] bareHart.lease = .ok (v.1, [v.2.1], v.2.2) := by simp only [State.readAll, hv]
  obtain ⟨g, hg⟩ := Option.ne_none_iff_exists'.1 hr
  have hl : ((([(0, bareHart)] : List (Nat × Hart)).find? fun p => p.1 = p.2.owner).getD (0, bareHart)) = (0, bareHart) := by
    have : bareHart.owner = 0 := by rfl
    simp [this]
  unfold State.resumeTask
  dsimp only
  rw [hl]
  dsimp only [List.length_cons, List.length_nil]
  rw [hg, ha]
  simp only [Nat.zero_add, hi, Bool.false_eq_true, if_false]
  exact ⟨_, rfl⟩

/-- The task of `bare 2` is read back from its area and resumes on hart 0. -/
theorem witness_DispatchLaws_resume : bareHart.owner = 0 ∧ ((bare 2).idleHarts (coreKey 0)).head? = some 0
    ∧ (∃ u h l, (bare 2).readHart 0 bareHart bareHart.lease = .ok (u, h, l)) ∧ ∃ t, (bare 2).resumeTask [(0, bareHart)] = some t :=
  ⟨by decide +kernel, by decide +kernel, bare_read.elim fun v hv => ⟨v.1, v.2.1, v.2.2, hv⟩, bare_resume _ (by decide +kernel) (by decide +kernel) bare_read⟩

/-- LEASEWAIT: a hart at user level with a stop asked of it, with a target below and none, in pipeline mode with and without reserved
clusters; and one at supervisor level. -/
theorem witness_LeaseWait : ¬ ((State.reset.getHart 0).run = .running ∧ (State.reset.getHart 0).prv = false ∧ State.reset.stopped 0 = false)
    ∧ (let s : State := { usr with hart := { usr.hart with stop := true } }
       (s.getHart 0).run = .running ∧ (s.getHart 0).prv = false ∧ s.stopped 0 = false ∧ (s.getHart 0).stop = true)
    ∧ (let s : State := { usr with hart := { usr.hart with lease := { usr.hart.lease with target := some 0 } } }
       (s.getHart 0).stop = false ∧ (s.getHart 0).mode ≠ .pipeline ∧ (s.getHart 0).lease.target = some 0 ∧ 0 < (s.getHart 0).lease.held)
    ∧ (usr.getHart 0).lease.target = none ∧ (usr.getHart 0).gsetLimit = none
    ∧ ({ usr.hart with gset := .stalled 5 0 } : Hart).gsetLimit.isSome = true
    ∧ (let s : State := { usr with hart := { usr.hart with mode := .pipeline } }
       (s.getHart 0).mode = .pipeline ∧ s.stopped 0 = false ∧ (s.getHart 0).stop = false ∧ (s.getHart 0).lease.reserved = [])
    ∧ ({ usr.hart.lease with reserved := [(4, 1)] } : Lease).reserved ≠ [] := by and_intros <;> decide +kernel

/-- Register writes that are naturally aligned and not; a TAIL that the ring has just room for, of the last queue of the die. -/
theorem witness_Registrar : (∀ p ∈ v4.packages, v4.agentHeld (hostWriter p) = false) ∧ (withHeld v4 [{ onWay 0 with writer := hostWriter 0 }]).agentHeld (hostWriter 0) = true
    ∧ naturally 8 8 = true ∧ naturally 7 1 = true ∧ naturally 4 8 = false ∧ naturally 0 3 = false
    ∧ (16383 < 16384 ∧ (v4.queue 0 16383).enabled = false ∧ (1 + 2 ^ 32 - (v4.queue 0 16383).head) % 2 ^ 32 ≤ 2 ^ fieldB (v4.queue 0 16383).desc 10 5)
    ∧ (∀ z ∈ [4, 16], let s := v4.setDie 0 { DieRec.reset with queues := [(3, { QueueRec.reset with desc := BitVec.ofNat 256 (z * 2 ^ 10) })] }
       (s.queue 0 3).enabled = false ∧ fieldB (s.queue 0 3).desc 10 5 = z ∧ s.settled 0 3 = false) := by
  and_intros <;> decide +kernel

/-- A request that waits for a hall pass, on a budget. -/
def requesting (budget : Nat) : State := v4.setDie 0 { DieRec.reset with budget := budget, waiting := [{ kind := .explicit, g := 0, slot := 0, charge := 100 }] }
/-- The Proctor: no request, one that just fits and one that just does not, one that has expired; tiles that suffice and do not. -/
theorem witness_Proctor : (v4.die 0).waiting = [] ∧ ((requesting 100).die 0).waiting.length = 1 ∧ 100 + ((requesting 100).die 0).granted ≤ ((requesting 100).die 0).budget
    ∧ ((requesting 99).die 0).budget < 100 + ((requesting 99).die 0).granted
    ∧ (((requesting 99).die 0).waiting.find? fun r => r.g = 0).isSome = true ∧ ((v4.die (dieKey 0)).waiting.find? fun r => r.g = 0) = none
    ∧ ((v4.form (formKey 0)).tileWait.any fun r => r.1 = 0) = false ∧ (v4.form 0).tileWait = []
    ∧ (let s := v4.setForm 0 { FormRec.reset with tileWait := [(0, 16, 16)] }
       (s.form 0).tileWait = [(0, 16, 16)] ∧ 16 ≤ (s.form 0).tiles ∧ ((s.form (formKey 0)).tileWait.any fun r => r.1 = 0) = true)
    ∧ (let s := v4.setForm 0 { FormRec.reset with tileWait := [(0, 16, 16)], tiles := 15 }
       (s.form 0).tileWait = [(0, 16, 16)] ∧ (s.form 0).tiles < 16) := by and_intros <;> decide +kernel

/-- A round of XID 0, armed, with one flight. -/
def flying (hops : Nat) (marker : Bool) : State :=
  let q : Rec := { key := 0, rank := 0, seq := 0, len := 4, data := 0, cont := false, late := false, badord := false, ovf := false, time := 0 }
  v4.setXid 0 { XidRec.reset with round := some { Round.new (2 ^ 32) with table := some [], flights := [{ ridx := some 0, hops := hops, marker := marker, record := q }] } }
/-- A flight one merge point from its receiver, a record and a marker that have arrived; no round, and one not armed. -/
theorem witness_Rounds : (v4.xid 0).round = none ∧ ((v4.setXid 0 { XidRec.reset with round := some (Round.new 0) }).xid 0).round = some (Round.new 0)
    ∧ (Round.new 0).table = none ∧ ((flying 1 false).xid 0).round.isSome = true
    ∧ (((flying 1 false).xid 0).round.bind fun r => if r.table.isNone then none else (flying 1 false).pickFlight r fun f => decide (0 < f.hops)).isSome = true
    ∧ (((flying 0 false).xid 0).round.bind fun r => (flying 0 false).pickFlight r fun f => f.hops == 0 && !f.marker).isSome = true
    ∧ (((flying 0 true).xid 0).round.bind fun r => (flying 0 true).pickFlight r fun f => f.hops == 0 && f.marker).isSome = true
    ∧ ((v4.settleDeadline 0 0).xid 0).round = none
    ∧ (event v4 0 1 0).arg.aux = 1 ∧ v4.arg.aux ≠ 1 := by and_intros <;> decide +kernel

/-- A flit of any 120 bytes with their check value is right, whatever the check starts from. -/
theorem flit_good (bs : List Byte) (h : bs.length = 120) : flitGood (bs ++ leBytes 8 (crcBytes Config.crcStart bs).toNat) = true := by
  unfold flitGood
  rw [List.take_left' h, List.drop_left' h, List.length_append, length_leBytes, leNat_leBytes, h]
  generalize crcBytes Config.crcStart bs = c
  have := c.isLt
  simp only [Nat.reduceAdd, decide_true, Bool.true_and, beq_iff_eq]
  exact (Nat.mod_eq_of_lt (by omega)).symm
/-- The first bytes of a flit of type `t` with SEQ 0, and zeros. -/
def flitOf (t : Nat) : List Byte := leBytes 4 t ++ List.replicate 116 0
theorem witness_Links_flits : flitGood [] = false
    ∧ (∀ t ∈ [0, 1], flitGood (flitOf t ++ leBytes 8 (crcBytes Config.crcStart (flitOf t)).toNat) = true
      ∧ (FlitHead.ofNat (leNat ((flitOf t ++ leBytes 8 (crcBytes Config.crcStart (flitOf t)).toNat).take 4))).seq = PortRec.reset.expected
      ∧ (FlitHead.ofNat (leNat ((flitOf t ++ leBytes 8 (crcBytes Config.crcStart (flitOf t)).toNat).take 4))).type = t) := by
  refine ⟨by decide +kernel, fun t ht => ⟨flit_good _ (by simp [flitOf]), ?_⟩⟩
  have e : (flitOf t ++ leBytes 8 (crcBytes Config.crcStart (flitOf t)).toNat).take 4 = leBytes 4 t := by
    rw [flitOf, List.append_assoc, List.take_left' (length_leBytes 4 t)]
  rw [e]
  revert t
  intro t ht _
  fin_cases ht <;> decide +kernel
theorem witness_Links : v4.part ≠ .p7101 ∧ (0 < 20 ∧ 31 < 32 ∧ 41 < 42) ∧ ¬ (20 < 20 ∨ 22 ≤ 20 ∧ 20 < 32) ∧ ¬ (42 < 20 ∨ 22 ≤ 42 ∧ 42 < 42) ∧ linkNo 0 1 = 22 - 22
    ∧ SMap.wf false (v4.pkg 0).portFailed = true ∧ SMap.wf false (v4.pkg 0).linkFailed = true ∧ PortRec.reset.retraining = false
    ∧ (let s := State.setPort v4 0 0 { PortRec.reset with retraining := true }
       (s.port 0 0).retraining = true ∧ (s.port 0 0).spared = false ∧ s.present s.arg.pkg = true)
    ∧ (let s := State.setPort v4 0 0 { PortRec.reset with retraining := true, spared := true }
       (s.port 0 0).retraining = true ∧ (s.port 0 0).spared = true)
    ∧ (event v4 0 0 1).arg.val ≠ 0 ∧ v4.arg.val = 0 ∧ v4.arg.flag = false
    ∧ (let x : Piece := { home := 1, dies := [4, 5], path := [1], settled := false, whole := false, delivered := 0 }
       let s := remoteLoad (.vld vo) [x]
       s.pathUp 0 x = true ∧ (∀ d ∈ x.dies, s.dieLinkUp x.home (d % 4) 4 = true) ∧ s.pathUp 0 { x with path := [9] } = false
       ∧ (s.getHart 0).queue.length = 1) := by and_intros <;> decide +kernel

/-- Two packages, the running event at the first. -/
def pair : State :=
  let s : State := { v4 with packages := [0, 1] }
  s.setPkg 0 { PkgRec.reset with boot := { BootCfg.reset with replPool := 1 } }
/-- `pair` with an event about the first page homed at package 1. -/
def remotePage : State := { pair with arg := { EvArg.none with idx := 2 ^ 34, flag := true } }

/-- Canonical tables when only packages or dies of canonical records are set. -/
theorem tables_of (s : State) (h1 : SMap.wf DieRec.reset s.dies = true) (h2 : SMap.wf PkgRec.reset s.pkgs = true) (h3 : s.hart = v4.hart) (h4 : s.harts = v4.harts)
    (h5 : s.forms = v4.forms) (h6 : s.cores = []) (h7 : s.xids = []) (h8 : s.parked = [])
    (hd : ∀ p ∈ s.dies, SMap.wf QueueRec.reset p.2.queues = true)
    (hp : ∀ p ∈ s.pkgs, SMap.wf PortRec.reset p.2.ports = true ∧ SMap.wf 0 p.2.apertures = true ∧ SMap.wf 0 p.2.holders = true) : s.Tables := by
  have t := vec_tables 4 0
  have get {α : Type} (m : SMap α) (d : α) (P : α → Prop) (h0 : P d) (h : ∀ p ∈ m, P p.2) (k : Nat) : P (SMap.get d m k) := by
    induction m with
    | nil => exact h0
    | cons p m ih =>
      unfold SMap.get
      split
      · exact h p (List.mem_cons_self ..)
      · exact ih fun q hq => h q (List.mem_cons_of_mem _ hq)
  have hpk (k : Nat) := get s.pkgs PkgRec.reset
    (fun r => SMap.wf PortRec.reset r.ports = true ∧ SMap.wf 0 r.apertures = true ∧ SMap.wf 0 r.holders = true) ⟨rfl, rfl, rfl⟩ hp k
  exact ⟨h4 ▸ t.harts, h1, h2, by rw [h6]; rfl, h5 ▸ t.forms, by rw [h7]; rfl,
    fun k => get s.dies DieRec.reset (fun r => SMap.wf QueueRec.reset r.queues = true) rfl hd k, fun p => (hpk p).1,
    fun p => (hpk p).2.1, fun p => (hpk p).2.2, h3 ▸ t.current, by rw [h4, h8]; exact t.others⟩

/-- A replica is taken; a page of the own package; the way to its home, and none; the last acknowledgement awaited, and none. -/
theorem witness_Replicas : remotePage.arg.flag = true ∧ (event pair 0 0 0).arg.flag = false ∧ remotePage.present 0 = true ∧ homeOf (65536 * 2 ^ 34) = 1 ∧ remotePage.present 1 = true ∧ (remotePage.route 0 1).isSome = true
    ∧ (2 ^ 34) ∉ (remotePage.pkg 0).replicas ∧ (remotePage.pkg 0).replicas.length < min (remotePage.pkg 0).boot.replPool 16384
    ∧ (remotePage.pkg 1).held = [] ∧ SMap.get 0 (remotePage.pkg 1).awaited (2 ^ 34) = 0
    ∧ homeOf (65536 * 0) = 0 ∧ (remotePage.route 1 0).isSome = true ∧ ((event v4 (2 ^ 34) 0 0).route 1 0).isNone = true
    ∧ SMap.get 0 (pair.pkg 0).awaited 0 = 0
    ∧ (let s := event (pair.setPkg 0 { PkgRec.reset with awaited := [(0, 2)] }) 0 1 0
       SMap.get 0 (s.pkg 0).awaited 0 = 2 ^ s.arg.aux)
    ∧ ((event v4 0 1 0).route 0 1).isNone = true ∧ (pair.route 0 1).isSome = true := by and_intros <;> decide +kernel
/-- A page of which a write is held, and one that can be placed when the last holder has answered. -/
theorem witness_Replicas_held : (let s := withHeld pair [onWay 0]
      (∃ w ∈ (s.pkg 0).held, keyPage w.key = 0) ∧ (∀ w ∈ (s.pkg 0).held, s.alien w.cipher w.key w.len = false)
      ∧ (∀ w ∈ (s.pkg 0).held, keyPage w.key ≠ 1)) := by decide +kernel
theorem witness_Replicas_tables : remotePage.Tables :=
  tables_of _ (by decide +kernel) (by decide +kernel) rfl rfl rfl rfl rfl rfl (fun _ h => nomatch h) (by decide +kernel)

/-- A package with no bridge, and with one; the first and the last byte of die 0's window, of which one reads, and an address of no die;
the last descriptor; a bring-up that failed; descriptors written. -/
theorem witness_HostEvents : (let s := v4.setPkg 0 { PkgRec.reset with boot := { BootCfg.reset with portMode := 1 } }
      s.bridges 0 = false)
    ∧ v4.agentHeld (hostWriter 0) = false
    ∧ (withHeld v4 [{ onWay 0 with writer := hostWriter 0 }]).agentHeld (hostWriter 0) = true
    ∧ v4.bridges 0 = true ∧ (v4.pkg 0).failedStep = 0 ∧ v4.bar0 0 = some (0, 0) ∧ v4.bar0 (windowBytes - 1) = some (0, windowBytes - 1)
    ∧ (v4.winRead 0 0xA00000 8).isSome = true ∧ v4.bar0 (4 * windowBytes) = none ∧ 0xA00000 % 8 = 0 ∧ 511 % 1 = 0 ∧ 511 < 512
    ∧ (v4.setPkg 0 { PkgRec.reset with failedStep := 1 }).bridges 0 = true ∧ ((v4.setPkg 0 { PkgRec.reset with failedStep := 1 }).pkg 0).failedStep ≠ 0
    ∧ 15 < 16 ∧ 16 ≤ 16 ∧ 3 < 4
    ∧ (let s := event (v4.setPkg 0 { PkgRec.reset with apertures := [(15, 1)] }) 15 0 1
       ((s.pkg 0).aperture 15).getLsbD 0 = true ∧ ends (exec .apertureDescriptorWrite s) (fun _ => true) = true) := by
  and_intros <;> decide +kernel

/-- A transfer that is lost, for want of a link and by a time-out; a descriptor of 32 bytes; after a failed bring-up. -/
theorem witness_HostEvents_lost : (let s := v4.setPkg 0 { PkgRec.reset with linkFailed := (List.range 10).map fun k => (k, true) }
      s.hubReaches 0 0 = false ∧ s.bar0 0 = some (0, 0))
    ∧ (let s := pair.setPkg 0 { PkgRec.reset with doomed := true }
       (s.pkg 0).doomed = true ∧ s.bar0 (4 * windowBytes) = some (4, 0) ∧ 4 / 4 ≠ 0)
    ∧ (List.replicate 32 (0 : Byte)).length = 32 ∧ 480 % 32 = 0
    ∧ (let s := v4.setPkg 0 { PkgRec.reset with failedStep := 2 }
       s.bridges 0 = true ∧ s.agentHeld (hostWriter 0) = false ∧ (s.pkg 0).failedStep = 2) := by and_intros <;> decide +kernel

/-- A package whose descriptor 0 maps a window at 0 through the table of `mapPage`. -/
def windowed : State := (v4.mapPage 0).setPkg 0 { PkgRec.reset with apertures := [(0, BitVec.ofNat 256 (1 + 2 ^ 192))] }
/-- A location is a place, lost or not, whose bytes a write may store. -/
def placed (s : State) (r : Loc) (gone : Bool) : Bool :=
  match r with
  | .place p l b => b == gone && !s.holds (hostWriter 0) p.key 8 && !s.alien (s.leafKey l) p.key 8
  | _ => false
/-- A descriptor that is off; one through which word 1 of a page is reached, that fault on the next page, and a transfer that is lost. -/
theorem witness_HostWindow : ((v4.pkg 0).aperture 0).getLsbD 0 = false ∧ 16 ≤ 2 ^ 40 / 2 ^ 36
    ∧ (let d := (windowed.pkg 0).aperture 0
       d.getLsbD 0 = true ∧ 8 % 8 + 8 ≤ 8
       ∧ (∀ k ∈ [Kind.read, .write], placed windowed (windowed.hostLoc 0 (hostAccess 0 d false k) (wordOf (fieldB d 128 64) + wordOf 8) 8) false = true
          ∧ (match windowed.hostLoc 0 (hostAccess 0 d false k) (wordOf (fieldB d 128 64) + wordOf 65536) 8 with
            | .bad _ => true
            | _ => false) = true)
       ∧ windowed.mem.wf = true)
    ∧ (let s := windowed.setPkg 0 { (windowed.pkg 0) with linkFailed := (List.range 10).map fun k => (k, true) }
       placed s (s.hostLoc 0 (hostAccess 0 ((s.pkg 0).aperture 0) false .read) 8 8) true = true) := by and_intros <;> decide +kernel

/-- Time: package 1 behind grandmaster 0, by 10 µs and by one ns more; the grandmaster itself; no route left; a 7101. -/
theorem witness_Time : (let s : State := { event pair 0 0 10000 with arg := { EvArg.none with pkg := 1, val := 10000 } }
      s.part ≠ .p7101 ∧ (1 : Nat) ≠ s.grandmaster ∧ (s.route 1 s.grandmaster).isSome = true ∧ s.present 1 = true
       ∧ s.behind 1 + max (-20) (min 20 (toSigned 64 10000)) ≤ 10000
       ∧ 10000 < (s.setPkg 1 { PkgRec.reset with timeOff := -9981 }).behind 1 + max (-20) (min 20 (toSigned 64 10000)))
    ∧ v4.grandmaster = 0
    ∧ (let s := (State.setPkg { v4 with packages := [0, 1] } 0 { PkgRec.reset with portFailed := (List.range 20).map fun k => (k, true) })
       s.grandmaster = 0 ∧ (s.route 1 0).isNone = true ∧ (s.pkg 1).freeRun = false)
    ∧ (v4.pkg 0).boot.portMode = 0 ∧ v4.dispatched = false
    ∧ ((v4.setPkg 0 { PkgRec.reset with boot := { BootCfg.reset with portMode := 9 } }).pkg 0).boot.portMode ≠ 0
    ∧ (let s : State := { v4 with part := .p7101, dispatched := true }
       s.part = .p7101 ∧ s.dispatched = true)
    ∧ (let s : State := { event v4 0 0 10 with part := .p7101 }
       s.part = .p7101 ∧ s.dispatched = false ∧ (s.pkg 0).timeSet = false ∧ 0 ≤ toSigned 64 (wordOf 10 - s.timeNs 0).toNat
       ∧ ((s.setPkg 0 { PkgRec.reset with timeSet := true }).pkg 0).timeSet = true) := by and_intros <;> decide +kernel

/-- Errors at each kind of place; a form not quiesced; images at and below the minimum version; a hart with a task and one without. -/
theorem witness_Service : (v4.form 0).quiesced = false ∧ (v4.pkg 0).nv.minVersion ≤ 0
    ∧ (let s := v4.setPkg 0 { PkgRec.reset with nv := { NvStore.reset with minVersion := 1 } }
       0 < (s.pkg 0).nv.minVersion)
    ∧ (v4.getHart 0).run ≠ .idle ∧ (v4.getHart 1).run = .idle := by and_intros <;> decide +kernel
/-- The row of address 0 with no corrected error before, and with fifteen. -/
theorem witness_Service_rows (z : Nat) (h : Config.dramRow 0 = z) :
    let rows (n : Nat) := List.replicate n (z, 0) ++ [(Config.dramRow 0, 0)]
    ¬ 16 ≤ ((rows 0).filter fun e => e.1 = Config.dramRow 0).length ∧ 16 ≤ ((rows 15).filter fun e => e.1 = Config.dramRow 0).length := by
  subst h
  simp
/-- A die with no task but the current one, which is no boot task, and with none; a rollbook not frozen and one that is; a draft of the task's and one of another's. -/
theorem witness_TaskEnds : (∀ p ∈ v4.parked, dieKey p.1 ≠ 0) ∧ (v4.known.filter fun g => dieKey g = 0 && (v4.getHart g).run != .idle) = [0]
    ∧ ((fired true).getHart 0).task.boot = false ∧ ((fired true).getHart 0).mode ≠ .pipeline ∧ ((fired true).getHart 0).run ≠ .idle
    ∧ (let s : State := { alone v4 with hart := Hart.reset }
       (s.known.filter fun g => dieKey g = 0 && (s.getHart g).run != .idle) = [])
    ∧ (v4.die 0).rollFrozen = false ∧ SMap.wf 0 (v4.die 0).roll = true ∧ ((v4.setDie 0 { DieRec.reset with rollFrozen := true }).die 0).rollFrozen = true
    ∧ (SMap.wf DraftRec.reset ((drafted 0).die 0).drafts = true ∧ (∀ r ∈ ((drafted 0).die 0).drafts, r.1 < 16384) ∧ 3 < 16384 * v4.dieCount
      ∧ ((drafted 0).draft 0 3).bound = true ∧ ((drafted 0).draft 0 3).queue = 65536 ∧ ((drafted 0).draft 0 3).final = false)
    ∧ (v4.draft 0 3).bound = false := by and_intros <;> decide +kernel

/-- Images that verify, and are too old; a boot configuration within its limits. -/
theorem witness_Resets_images : (v4.part ≠ .p7101 ∧ (v4.pkg 0).nv.minVersion ≤ 0)
    ∧ (let s := event (v4.setPkg 0 { PkgRec.reset with nv := { NvStore.reset with minVersion := 1 } }) 0 0 1
       ¬ (0 = 1 ∨ (s.arg.flag = true ∧ (s.pkg 0).nv.minVersion ≤ 1 % 2 ^ 32)) ∧ ¬ (s.arg.idx = 0 ∧ (s.pkg 0).nv.minVersion ≤ 1 / 2 ^ 32 % 2 ^ 32))
    ∧ (v4.pkg 0).nv.boot.recordAt < 2 ^ 47
    ∧ (let c : BootCfg := { BootCfg.reset with windows := [0, 0, 0, 0] }
       c.ok false = true ∧ c.ok true = true ∧ c.windows.length = 4 ∧ (∀ w ∈ c.windows, w < 2 ^ 64)) := by and_intros <;> decide +kernel
/-- Resets: the boot hart of the package that comes up; a key of its slates, of its DRAM and of another package's. -/
theorem witness_Resets : v4.cur / 3072 = 0 ∧ v4.cur % 768 = 0 ∧ v4.cur % 3072 / 768 < v4.dieCount ∧ coreMemOf 0 (2 ^ 56) = true
    ∧ dramOf 0 0 = true ∧ coreMemOf 0 0 = false ∧ dramOf 0 (2 ^ 50) = false ∧ coreMemOf 0 (2 ^ 50) = false := by and_intros <;> decide +kernel

/-- Keys at the ends of the slots, with and without a secured session; a transport key; each stage of the negotiation and the last
signature. -/
theorem witness_Keys : (let s := v4.setPkg 0 { PkgRec.reset with spdm := 5 }
      (1 ≤ 4095 ∧ 4095 ≤ 4095) ∧ SMap.get none (s.pkg 0).keys 4095 = none ∧ s.canUnwrap 0 = true)
    ∧ v4.canUnwrap 0 = false ∧ ¬ (1 ≤ 0 ∧ 0 ≤ 4095) ∧ ¬ (1 ≤ 4096 ∧ 4096 ≤ 4095) ∧ (v4.pkg 0).transportKey = none ∧ v4.part ≠ .p7101
    ∧ ((v4.setPkg 0 { PkgRec.reset with transportKey := some 1 }).pkg 0).transportKey ≠ none
    ∧ (v4.pkg 0).spdm < 1 ∧ 4 ≤ ((v4.setPkg 0 { PkgRec.reset with spdm := 4 }).pkg 0).spdm
    ∧ 2 ^ 20 ≤ ((v4.setPkg 0 { PkgRec.reset with nv := { NvStore.reset with xmss := 2 ^ 20 } }).pkg 0).nv.xmss
    ∧ ((v4.setPkg 0 { PkgRec.reset with nv := { NvStore.reset with xmss := 2 ^ 20 - 1 } }).pkg 0).nv.xmss < 2 ^ 20 := by
  and_intros <;> decide +kernel

/-- A slot whose key a write on its way was checked under, one whose key a queued load keeps a leaf under, and one that nothing uses. -/
theorem witness_Keys_used : (let s := withHeld (v4.setPkg 0 { PkgRec.reset with keys := [(5, some 8)] }) [{ onWay 0 with cipher := some 8 }]
      SMap.get none ((withHeld v4 []).pkg 0).keys 5 = none ∧ SMap.get none (({ s.pkg 0 with keys := [(5, some 8)] } : PkgRec)).keys 5 = some 8
      ∧ (∃ w ∈ (s.pkg 0).held, w.cipher = some 8))
    ∧ (let e := { v4.entryOf (.vldxc vo) 0 0 with pages := [{ smallLeaf with pte := BitVec.ofNat 64 (0x407F + 5 * 2 ^ 52) }] }
       ∃ l ∈ e.pages, l.pte.getLsbD 5 = true ∧ field l.pte 44 8 / 4 = 0 ∧ field l.pte 52 12 = 5) := by and_intros <;> decide +kernel

/-- Debug: a core that runs, one with QUIET set, one halting with and without a stream to its slate, one halted. -/
theorem witness_Debug : (v4.core 0).halted = false ∧ (v4.core 0).quiet.getLsbD 0 = false ∧ (v4.core 0).halting = false
    ∧ ((v4.setCore 0 { CoreRec.reset with quiet := 8 }).core 0).quiet.getLsbD 3 = true
    ∧ (let s := v4.setCore 0 { CoreRec.reset with halting := true }
       (s.core 0).halting = true ∧ s.landsOn 0 = false)
    ∧ (let sl : Slot := { streamed.slotOf (.stmld vo) vo 0 with status := slotWord .active 0 0 4 0 }
       let s : State := { streamed with hart := streamed.hart.setSlot 7 sl }
       (s.setCore 0 { CoreRec.reset with halting := true }).landsOn 0 = true)
    ∧ (List.range 4).all (fun j => !(v4.getHart (4 * 0 + j)).midway) = true ∧ v4.unfrozen 0 = none
    ∧ (let s : State := { v4 with hart := { v4.hart with mat := { Mat.none with asked := true } } }
       (s.getHart 0).midway = true ∧ s.unfrozen 0 = some 0)
    ∧ ((halted v4).core 0).halted = true ∧ (31 : Nat) = (31#5).toNat := by and_intros <;> decide +kernel

/-- A translation control block that is busy with an operation on a page of `mapPage`. -/
def operating (op : Nat) : State :=
  let s := v4.mapPage 0
  s.setDie 0 { DieRec.reset with tcb := BitVec.ofNat 256 (32 + 4 * op + 1 * 2 ^ 64) }
/-- A walk ends in a leaf of level 4 whose read-duplicated bit is `repl`. -/
def leafAt4 (w : Walk) (repl : Bool) : Bool :=
  match w with
  | .leaf l 4 => l.repl == repl
  | _ => false
/-- A block that runs no operation, one of each kind; a page that is read-duplicated; writes that are due, and none. -/
theorem witness_Translation : (v4.die 0).runsOp 1 = false ∧ (v4.die 0).runsOp 2 = false ∧ ((operating 1).die 0).runsOp 1 = true
    ∧ ((operating 2).die 0).runsOp 2 = true ∧ leafAt4 ((operating 2).walk 0 ((operating 2).die 0).tcbRoot ((operating 2).die 0).tcbVa) false = true
    ∧ (let s := operating 2
       leafAt4 (State.walk { s with mem := s.mem.write (3 * 65536) 8 0x417F } 0 (s.die 0).tcbRoot (s.die 0).tcbVa) true = true)
    ∧ (operating 1).leafInUse ((operating 1).die 0) = false ∧ (operating 1).writesDue none = false ∧ (operating 2).writesDue (some 4) = false
    ∧ (withHeld (operating 1) [onWay 0]).writesDue none = true ∧ (operating 1).mem.wf = true := by and_intros <;> decide +kernel
/-- A page whose leaf a queued instruction keeps; what the contents of a migration need of its leaf and its new entry. -/
theorem witness_Translation_migrate :
    (let s := operating 2
     let e := { s.entryOf (.vldxc vo) 0 0 with pages := [{ smallLeaf with pte := 0x407F }] }
     State.leafInUse { s with hart := { s.hart with queue := [e] } } (s.die 0) = true)
    ∧ (let s := operating 2
       let d := s.die 0
       let old := match s.walk 0 d.tcbRoot d.tcbVa with
         | .leaf l 4 => some l.pte
         | _ => none
       old = some 0x407F ∧ frameKey 0x407F + 65536 ≤ frameKey 0x507F ∧ 3 * 65536 + 8 ≤ frameKey 0x407F
       ∧ s.alien (s.keyName 0 0) 0x30000 8 = false ∧ s.alien (s.keyName (pteHome 0x407F / 4) (pteKey 0x407F)) (frameKey 0x407F) 65536 = false) := by
  and_intros <;> decide +kernel
/-- What holds of the default and of every entry of a table holds of what it reads. -/
theorem get_all {α : Type} {d : α} {P : α → Prop} (h0 : P d) : ∀ {m : SMap α}, (∀ p ∈ m, P p.2) → ∀ k, P (SMap.get d m k)
  | [], _, _ => h0
  | p :: t, h, k => by
    unfold SMap.get
    split
    · exact h p (by simp)
    · exact get_all h0 (fun q hq => h q (by simp [hq])) k
/-- The tables of such a state are canonical. -/
theorem witness_Translation_tables : (operating 2).Tables ∧ ∀ g, ((operating 2).getHart g).code.wf = true := by
  let h := vec_tables 4 0
  refine ⟨⟨h.harts, by decide +kernel, h.pkgs, h.cores, h.forms, h.xids, fun k => ?_, h.ports, h.apertures, h.holders, ⟨rfl, rfl⟩, h.others⟩,
    fun g => ?_⟩
  · exact get_all (P := fun d : DieRec => SMap.wf QueueRec.reset d.queues = true) rfl (by decide +kernel) k
  · have hs : ∀ p ∈ (operating 2).harts, p.2.code.wf = true := by decide +kernel
    unfold State.getHart
    split
    · decide +kernel
    · exact get_all (P := fun h : Hart => h.code.wf = true) (by decide +kernel) hs g
theorem witness_Translation_none : ∀ l, (v4.walk 0 ((operating 2).die 0).tcbRoot 0) ≠ .leaf l 4 := by
  intro l h
  have : leafAt4 (v4.walk 0 ((operating 2).die 0).tcbRoot 0) l.repl = true := by rw [h]; simp [leafAt4]
  have h2 : ∀ b, leafAt4 (v4.walk 0 ((operating 2).die 0).tcbRoot 0) b = false := by decide +kernel
  rw [h2] at this
  cases this

/-- Units the group has, and units it does not have. -/
theorem witness_EventUnits : (v4.present v4.arg.pkg = true ∧ v4.arg.die < v4.dieCount)
    ∧ (let s : State := { v4 with arg := { EvArg.none with pkg := 1 } }
       s.present s.arg.pkg = false)
    ∧ (let s : State := { v4 with arg := { EvArg.none with die := 4 } }
       ¬ s.arg.die < s.dieCount)
    ∧ (767 < 192 * v4.dieCount ∧ ¬ 768 < 192 * v4.dieCount ∧ 3071 < 768 * v4.dieCount ∧ ¬ 3072 < 768 * v4.dieCount) := by and_intros <;> decide +kernel

/-! ### Single steps, their results worked out by hand from the rules -/

/-- A completed instruction leaves a value in an x register. -/
def gives (i : Instr) (s : State) (d : Reg) (v : Word) : Bool := ends (exec i s) fun t => decide (t.readX d = v)
/-- `slated` with bytes at its address. -/
def bytesAt (n v : Nat) : State := { slated with mem := slated.mem.write (Place.slate 0 8).key n v }
/-- A supervisor with a VL and SEW 8 whose register v16 holds `a` and v24 `b`, least significant byte first. -/
def lanes (vl a b : Nat) : State :=
  let s := vec vl 0
  { s with hart := { s.hart with lease := { s.hart.lease with vmem := (s.hart.lease.vmem.write (16 * 98304) 16 a).write (24 * 98304) 16 b } } }
/-- A completed vector instruction leaves bytes in v8. -/
def leaves (i : Instr) (s : State) (n v : Nat) : Bool := ends (exec i s) fun t => decide (t.hart.lease.vmem.read (8 * 98304) n = v)

/-- ADDI wraps (R68); a write of x0 is lost (R7); a source that is the destination (R66). -/
theorem test_addi_wraps : gives (.addi { d := 3, a := 1, imm := 1 }) (State.reset.writeX 1 (-1)) 3 0 = true
    ∧ gives (.addi { d := 0, a := 1, imm := 1 }) State.reset 0 0 = true
    ∧ gives (.sub { d := 1, a := 2, b := 1 }) ((State.reset.writeX 1 5).writeX 2 3) 1 (-2) = true := by decide +kernel
/-- DIV and REM at both boundary cases of R67's table. -/
theorem test_div : gives (.div rop) ((State.reset.writeX 1 0x8000000000000000).writeX 2 (-1)) 3 0x8000000000000000 = true
    ∧ gives (.rem rop) ((State.reset.writeX 1 7).writeX 2 0) 3 7 = true ∧ gives (.div rop) ((State.reset.writeX 1 (-7)).writeX 2 2) 3 (-3) = true := by
  decide +kernel
/-- MULH of −1 and −1 is 0 (R66); SRA keeps the sign and takes the amount modulo 64. -/
theorem test_mulh_sra : gives (.mulh rop) ((State.reset.writeX 1 (-1)).writeX 2 (-1)) 3 0 = true
    ∧ gives (.sra rop) ((State.reset.writeX 1 (-8)).writeX 2 65) 3 (-4) = true := by decide +kernel
/-- BLT compares as signed numbers, BLTU does not (R72); JALR takes its target before it links (R73). -/
theorem test_control : ends (exec (.blt { a := 1, b := 2, imm := 8 }) (State.reset.writeX 1 (-1))) (fun t => decide (t.hart.pc = 0x4000000010)) = true
    ∧ ends (exec (.bltu { a := 1, b := 2, imm := 8 }) (State.reset.writeX 1 (-1))) (fun t => decide (t.hart.pc = 0x4000000004)) = true
    ∧ ends (exec (.jalr { d := 1, a := 1, imm := 1 }) (State.reset.writeX 1 0x100)) (fun t => decide (t.hart.pc = 0x100 ∧ t.readX 1 = 0x4000000004)) = true := by
  decide +kernel
/-- LDB extends the sign, LDBU does not (R70); the least significant byte lies lowest (R12). -/
theorem test_loads : gives (.ldb iop) (bytesAt 1 0x80) 3 (-128) = true ∧ gives (.ldbu iop) (bytesAt 1 0x80) 3 128 = true
    ∧ gives (.ldh iop) (bytesAt 2 0x1234) 3 0x1234 = true
    ∧ ends (exec (.sth sop) (slated.writeX 2 0x1234)) (fun t => decide (t.mem.byte (Place.slate 0 8).key = 0x34 ∧ t.mem.byte (Place.slate 0 9).key = 0x12)) = true := by
  decide +kernel
/-- AMOADD of 32 bits wraps and gives the old value sign-extended; AMOCAS stores where the comparand matches (R80). -/
theorem test_atomics : ends (exec (.amoadd { aop with w := 0 }) ((bytesAt 4 0xFFFFFFFF).writeX 2 1)) (fun t =>
      decide (t.readX 3 = -1 ∧ t.mem.read (Place.slate 0 8).key 4 = 0)) = true
    ∧ ends (exec (.amocas aop) (((bytesAt 8 5).writeX 2 9).writeX 3 5)) (fun t => decide (t.readX 3 = 5 ∧ t.mem.read (Place.slate 0 8).key 8 = 9)) = true := by
  decide +kernel
/-- FP32: 1 + 1 is 2, 1 divided by 0 is infinity with DZ, and the square root of −1 the canonical NaN with NV (R74 to R76). -/
theorem test_float : gives (.fadd { d := 3, a := 1, b := 2, t := 4 }) ((State.reset.writeX 1 0x3F800000).writeX 2 0x3F800000) 3 0x40000000 = true
    ∧ gives (.fdiv { d := 3, a := 1, b := 2, t := 4 }) (State.reset.writeX 1 0x3F800000) 3 0x7F800000 = true
    ∧ gives (.fsqrt { d := 3, a := 1, b := 0, t := 4 }) (State.reset.writeX 1 0xBF800000) 3 0x7FC00000 = true
    ∧ gives (.fclass { d := 3, a := 1, b := 0, t := 4 }) (State.reset.writeX 1 0x80000000) 3 8 = true := by decide +kernel
/-- TRAP at user level (R85, R338): cause 17 from the scalar side, its register's value, the pc at TRAPVEC, PRV and VFROZEN set. -/
theorem test_trap : ends (exec (.trap 1) (usr.writeX 1 77)) (fun t => decide (t.hart.ctl.trapcause = 17 ∧ t.hart.ctl.trapinfo = 77
    ∧ t.hart.ctl.trappc = 0x4000000000 ∧ t.hart.pc = 0 ∧ t.hart.ctl.status = 5)) = true := by decide +kernel
/-- SETVL cuts to VLMAX, 6,144 elements of 8 bits on one cluster with GRP 1 (R100, R116); GRP 2 doubles it. -/
theorem test_setvl : gives (.setvl { d := 3, a := 1, imm := 0 }) (State.reset.writeX 1 10000) 3 6144 = true
    ∧ gives (.setvl { d := 3, a := 1, imm := 4 }) (State.reset.writeX 1 100000) 3 12288 = true := by decide +kernel
/-- VADD.I8 wraps, VSADD.I8 saturates and sets SAT, VDIV by 0 gives −1 (R124, R125). -/
theorem test_vector_int : leaves (.vadd { vo with t := 0 }) (lanes 2 0x017F 0x0101) 2 0x0280 = true
    ∧ ends (exec (.vsadd { vo with t := 0 }) (lanes 2 0x017F 0x0101)) (fun t => decide (t.hart.lease.vmem.read (8 * 98304) 2 = 0x027F ∧ t.hart.ctl.vstat = 1)) = true
    ∧ leaves (.vdiv { vo with t := 0 }) (lanes 1 5 0) 1 0xFF = true := by decide +kernel
/-- VCMPLT.I8 and its unsigned form (R126); VREDSUM.U8 does not wrap at 8 bits (R133); VREDMAX.I8. -/
theorem test_vector_bits : ends (exec (.vcmplt { vo with vd := 1, t := 0 }) (lanes 2 0x01FF 0x0000)) (fun t => decide (t.hart.mask 1 = 1)) = true
    ∧ ends (exec (.vcmplt { vo with vd := 1, t := 1 }) (lanes 2 0x01FF 0x0000)) (fun t => decide (t.hart.mask 1 = 0)) = true
    ∧ gives (.vredsum { vo with vd := 3, vs2 := 0, t := 1 }) (lanes 2 0xFFFF 0) 3 510 = true
    ∧ gives (.vredmax { vo with vd := 3, vs2 := 0, t := 0 }) (lanes 2 0xFF01 0) 3 1 = true := by decide +kernel
/-- A slide up by 1 leaves element 0; a permutation by indices; a sort of 3, 1, 2 (R143, R144, R149). -/
theorem test_permutes : leaves (.vslideup { vo with t := 0 }) ((lanes 3 0x030201 0).writeX 24 1) 3 0x020100 = true
    ∧ leaves (.vperm { vo with t := 0 }) (lanes 2 0x0201 0x0000000000000001) 2 0x0102 = true
    ∧ leaves (.vsortk { vo with t := 0, vs2 := 0 }) (lanes 3 0x020103 0) 12 0x000000000000000200000001 = true := by decide +kernel
/-- VMAXI gives the first of the greatest elements and clears its mask bit (R147). -/
theorem test_select : ends (exec (.vmaxi { vo with vd := 3, vs2 := 0, t := 0, m := 1 }) (let s := lanes 3 0x050502 0
    { s with hart := s.hart.setMask 1 7 })) (fun t => decide (t.readX 3 = 1 ∧ t.readX 4 = 5 ∧ t.hart.mask 1 = 5)) = true := by decide +kernel
/-- VLD and VST move the bytes of memory in order (R154). -/
theorem test_vector_memory : leaves (.vld { vo with t := 0, vs1 := 1, vs2 := 0 })
      { (vec 3 0).writeX 1 0x7F0000000008 with mem := (bytesAt 4 0xAABBCCDD).mem } 4 0xBBCCDD = true
    ∧ ends (exec (.vst { vo with t := 0, vd := 16, vs1 := 1, vs2 := 0 }) ((lanes 2 0xBBAA 0).writeX 1 0x7F0000000008)) (fun t =>
        decide (t.mem.read (Place.slate 0 8).key 3 = 0xBBAA)) = true := by decide +kernel
/-- An FP32 outer product on MLEN 1: entry (0, 0) gains 2 · 3, entry (0, 1) gains 2 · 1 (R179). -/
theorem test_outer : ends (exec (.opadd { mo with va := 16, vb := 24, imm := 0, xs := 0 }) { lanes 0 0x40000000 (0x3F800000 * 2 ^ 32 + 0x40400000) with
    hart := { (lanes 0 0x40000000 (0x3F800000 * 2 ^ 32 + 0x40400000)).hart with mat := { Mat.none with tiles := 1 }, ctl := { v4.hart.ctl with mlen := 1 } } }) (fun t =>
      decide (t.hart.mat.entry 0 0 0 = 0x40C00000 ∧ t.hart.mat.entry 0 0 1 = 0x40000000)) = true := by decide +kernel
/-- SHAPE of a good record is 0, and of one at an address that is not aligned 1 (R265); TWAIT of an unknown queue −1 (R225). -/
theorem test_tasks : gives (.shape { vo with vd := 3, vs1 := 24 }) streamed 3 0 = true
    ∧ gives (.shape { vo with vd := 3, vs1 := 24 }) (streamed.writeX 24 0x7F0000003004) 3 1 = true
    ∧ gives (.twait { vo with vd := 3 }) (v4.writeX 16 65536) 3 (-1) = true := by decide +kernel
/-- A step of the word of ADD x3, x1, x2 adds. -/
theorem test_step_add : ends (step (((State.reset.writeX 1 2).writeX 2 3).withFetchWord 32 (1#5 ++ 2#5 ++ 0#6 ++ 0b10#2 ++ 0x01#6 ++ 3#5 ++ 0#3).toNat))
    (fun t => decide (t.readX 3 = 5 ∧ t.hart.pc = 0x4000000004)) = true := by decide +kernel
/-- Memory after a cold reset is zero but for the boot record of each die, its 60 bytes in the last 64 of the slate of its core 0 (R400). -/
theorem test_boot_record : Memory.reset = [0, 192, 384, 576].foldl (fun m c => m.write (Place.slate c bootRecordOffset).key 60 BootCfg.reset.record) Memory.empty
    ∧ Memory.reset.read (Place.slate 576 (786432 - 64 + 48)).key 4 = 3072 ∧ Memory.reset.read (Place.slate 0 (786432 - 64 + 56)).key 4 = 1048575 := by decide +kernel
/-- FENCE.I makes an instruction just stored be fetched, and without it the old one is (R35). -/
theorem test_fetch_after_store : (let s := fetched 0x4400
    let t : State := { s with mem := s.mem.write (Place.dram 0 (4 * 65536)).key 2 0x4800 }
    fetches t (fun bs _ => decide (bs = [0, 0x44])) = true ∧ ends (exec .fenceI t) (fun u => fetches { u with hart := { u.hart with pc := t.hart.pc } } fun bs _ => decide (bs = [0, 0x48])) = true) := by
  decide +kernel

end Sys2Proof.Tests
end

/-! What an event does at a unit that the group has and at one that it does not have (R1, R380), and the obligation EventUnits. -/

namespace Sys2Proof.Machine

/-- Event `i` at `s` completes where the unit it names is in the group, and is the fault of an absent unit elsewhere (R1, R380; log 45). -/
def CompletesWhere (here : Prop) (s : State) (i : Instr) : Prop :=
  (here → ∃ t, exec i s = .next t) ∧ (¬ here → exec i s = .fault .absentUnit)

section
variable {s go : State} {i : Instr} {n : Nat} {here : Prop} {guard : Bool}

/-! ### The guards of a package, a die and a core or hart -/

theorem completesWhere_of_guard (hguard : guard = true ↔ here)
    (h : exec i s = if guard then .next go else .fault .absentUnit) : CompletesWhere here s i :=
  ⟨fun present => ⟨go, h.trans (if_pos (hguard.mpr present))⟩, fun absent => h.trans (if_neg (mt hguard.mp absent))⟩

theorem completesWhere_of_atPackage (h : exec i s = s.atPackage go) : CompletesWhere s.pkgHere s i :=
  completesWhere_of_guard Iff.rfl h

theorem completesWhere_of_atDie (h : exec i s = s.atDie go) : CompletesWhere s.dieHere s i :=
  completesWhere_of_guard (by simp [State.dieHere]) h

theorem completesWhere_of_atUnit (h : exec i s = s.atUnit n go) :
    CompletesWhere (s.pkgHere ∧ s.arg.idx < n * s.dieCount) s i :=
  completesWhere_of_guard (by simp [State.pkgHere]) h

end

/-! ### Which guard each event runs under -/

/-- The events that name a package. -/
def packageEvents : List Instr :=
  [.linkFail, .flitReceive, .portRetrain, .retrainDone, .retrainTimeout, .replicaCreate, .replicaInvalidate, .replicaAck,
    .replicaAckTimeout, .ptpSync, .pdelay, .noGm, .timeSet, .timeSlew, .hostRead, .hostWrite, .apertureDescriptorWrite, .msixUnmask,
    .coldReset, .warmReset, .bootConfigWrite, .minVersionRaise, .load, .clear, .transportKeyWrite, .getVersion, .getCapabilities,
    .negotiateAlgorithms, .getDigests, .getCertificate, .challenge, .getMeasurements, .keyExchange, .finish, .powerLoss]

/-- The events that name a core. -/
def coreEvents : List Instr := [.haltreq, .haltComplete, .haltQuietTimeout, .resume]

/-- The events that name a compute die. -/
def dieEvents : List Instr :=
  [.dispatchSlot, .copyHandoff, .levelAging, .relaunch, .tailWrite, .queueEnable, .queueDisable, .pipelineArm, .budgetWrite,
    .registerWrite, .hallPassGrant, .tileGrant, .corrected, .poisoned, .rowRepair, .fatalError, .formQuiesce, .quiesceLimit, .fwUpdate,
    .invalidate, .migrate, .translationOpDone]

/-- The events of a hart, of a round and of a die's parked tasks, which run under no guard. -/
def unguardedEvents : List Instr :=
  [.queueHeadExecute, .leasewaitExpiry, .taskResume, .hpwaitExpiry, .streamElementLanding, .chunkDelivered, .recordMerge,
    .recordArrival, .closeMarkerArrival, .batchDeadline, .roundFailureNotice, .transferTimeout, .gatherPieceResponse, .parityError,
    .illegalInstruction, .fetchFault]

section
variable (s : State)

theorem packageEvents_atPackage : ∀ i ∈ packageEvents, ∃ go, exec i s = s.atPackage go := by
  simp only [packageEvents, List.forall_mem_cons, List.not_mem_nil, false_implies, implies_true, and_true]
  and_intros <;> exact ⟨_, rfl⟩

theorem coreEvents_atUnit : ∀ i ∈ coreEvents, ∃ go, exec i s = s.atUnit 192 go := by
  simp only [coreEvents, List.forall_mem_cons, List.not_mem_nil, false_implies, implies_true, and_true]
  and_intros <;> exact ⟨_, rfl⟩

theorem dieEvents_atDie : ∀ i ∈ dieEvents, ∃ go, exec i s = s.atDie go := by
  simp only [dieEvents, List.forall_mem_cons, List.not_mem_nil, false_implies, implies_true, and_true]
  and_intros <;> exact ⟨_, rfl⟩

/-! ### Events whose own branches all complete -/

theorem exec_streamElementLanding_next : ∃ t, exec .streamElementLanding s = .next t := by
  rw [exec_streamElementLanding, execStreamElementLanding]
  dsimp only
  split
  · exact ⟨_, rfl⟩
  split
  · exact ⟨_, rfl⟩
  split <;> exact ⟨_, rfl⟩

theorem exec_recordArrival_next : ∃ t, exec .recordArrival s = .next t := by
  rw [exec_recordArrival, execRecordArrival]
  split <;> exact ⟨_, rfl⟩

theorem exec_transferTimeout_next : ∃ t, exec .transferTimeout s = .next t := by
  rw [exec_transferTimeout, execTransferTimeout]
  split
  · exact ⟨_, rfl⟩
  split <;> exact ⟨_, rfl⟩

theorem unguardedEvents_next : ∀ i ∈ unguardedEvents, ∃ t, exec i s = .next t := by
  simp only [unguardedEvents, List.forall_mem_cons, List.not_mem_nil, false_implies, implies_true, and_true]
  exact ⟨⟨_, exec_queueHeadExecute s⟩, ⟨_, exec_leasewaitExpiry s⟩, ⟨_, exec_taskResume s⟩, ⟨_, exec_hpwaitExpiry s⟩,
    exec_streamElementLanding_next s, ⟨_, exec_chunkDelivered s⟩, ⟨_, exec_recordMerge s⟩, exec_recordArrival_next s,
    ⟨_, exec_closeMarkerArrival s⟩, ⟨_, exec_batchDeadline s⟩, ⟨_, exec_roundFailureNotice s⟩, exec_transferTimeout_next s,
    ⟨_, exec_gatherPieceResponse s⟩, ⟨_, exec_parityError s⟩, ⟨_, exec_illegalInstruction s⟩, ⟨_, exec_fetchFault s⟩⟩

end

/-! ### The obligation -/

/-- Settles O59: each event runs under the guard of the unit it names, which alone decides between completing and the fault, or under none. -/
theorem eventUnits : Obligations.EventUnits := by
  intro s
  refine ⟨fun i hi => ?package, fun i hi => ?core, ?hart, fun i hi => ?die, unguardedEvents_next s⟩
  case package =>
    obtain ⟨_, h⟩ := packageEvents_atPackage s i hi
    exact completesWhere_of_atPackage h
  case core =>
    obtain ⟨_, h⟩ := coreEvents_atUnit s i hi
    exact completesWhere_of_atUnit h
  case hart => exact completesWhere_of_atUnit (exec_debugStateAccess s)
  case die =>
    obtain ⟨_, h⟩ := dieEvents_atDie s i hi
    exact completesWhere_of_atDie h

end Sys2Proof.Machine

/-! What every move keeps: memory in its canonical form, and every table of the group in its own (R12, R18, R209, R352, R380, R399, R422). -/

namespace Sys2Proof.Machine

set_option Elab.async false

/-- What is given to be canonical: memory, the tables of the group, both or neither. One walk over the model then serves both invariants. -/
structure Given where
  memory : Prop
  tables : Prop

/-- A table is canonical where the tables are given to be. -/
structure SMap.Canon {α : Type} [DecidableEq α] (c : Given) (d : α) (m : SMap α) : Prop where
  wf : c.tables → SMap.wf d m = true

/-- A register store is canonical where the tables are given to be. -/
structure Memory.Canon (c : Given) (m : Memory) : Prop where
  wf : c.tables → m.wf = true

/-- The accumulators and the register store of a hart are canonical where the tables are given to be. -/
def Hart.Canon (c : Given) (h : Hart) : Prop := SMap.Canon c 0 h.mat.acc ∧ h.lease.vmem.Canon c

/-- The queues of a die are canonical where the tables are given to be. -/
def DieRec.Canon (c : Given) (d : DieRec) : Prop := SMap.Canon c QueueRec.reset d.queues

/-- The tables of a package's hub are canonical where the tables are given to be. -/
def PkgRec.Canon (c : Given) (r : PkgRec) : Prop :=
  SMap.Canon c PortRec.reset r.ports ∧ SMap.Canon c 0 r.apertures ∧ SMap.Canon c 0 r.holders

/-- What is given to be canonical of a state is. -/
structure State.Canon (c : Given) (s : State) : Prop where
  memory : c.memory → s.mem.wf = true
  tables : c.tables → s.Tables

/-- What is given to be canonical is so in the next state, if there is one. -/
inductive Result.Canon (c : Given) : Result → Prop
  | next {t : State} : t.Canon c → Canon c (.next t)
  | fault (r : Fault) : Canon c (.fault r)
  | refused (r : Refusal) : Canon c (.refused r)

/-! ### Tables -/

theorem SMap.get_all {α : Type} {P : α → Prop} {d : α} {m : SMap α} (hd : P d) (h : ∀ p ∈ m, P p.2) (n : Nat) :
    P (SMap.get d m n) := by
  induction m with
  | nil => exact hd
  | cons p m ih =>
    obtain ⟨hp, hm⟩ := List.forall_mem_cons.mp h
    rw [SMap.get]
    split
    · exact hp
    · exact ih hm

theorem SMap.set_all {α : Type} [DecidableEq α] {P : α → Prop} {d v : α} {m : SMap α} (hv : P v) (h : ∀ p ∈ m, P p.2)
    (n : Nat) : ∀ p ∈ SMap.set d m n v, P p.2 := by
  induction m with
  | nil =>
    rw [SMap.set]
    split
    · exact h
    · exact List.forall_mem_singleton.mpr hv
  | cons q m ih =>
    obtain ⟨hq, hm⟩ := List.forall_mem_cons.mp h
    rw [SMap.set]
    split_ifs
    · exact h
    · exact List.forall_mem_cons.mpr ⟨hv, h⟩
    · exact hm
    · exact List.forall_mem_cons.mpr ⟨hv, hm⟩
    · exact List.forall_mem_cons.mpr ⟨hq, ih hm⟩

theorem SMap.mapVals_wfFrom {α : Type} [DecidableEq α] {d : α} {f : α → α} {lo : Nat} {m : SMap α}
    (h : SMap.wfFrom d lo m = true) : SMap.wfFrom d lo (SMap.mapVals d f m) = true := by
  induction m generalizing lo with
  | nil => rfl
  | cons p m ih =>
    obtain ⟨k, v⟩ := p
    simp only [SMap.wfFrom, Bool.and_eq_true, decide_eq_true_eq] at h
    obtain ⟨⟨hk, -⟩, hm⟩ := h
    by_cases hv : f v = d
    · simp only [SMap.mapVals, List.filterMap_cons, hv, if_true]
      exact SMap.wfFrom_mono (by omega) (ih hm)
    · simp only [SMap.mapVals, List.filterMap_cons, hv, if_false, SMap.wfFrom, Bool.and_eq_true, decide_eq_true_eq]
      exact ⟨⟨hk, hv⟩, ih hm⟩

/-- A table whose entries are all changed is canonical: those that become the default are dropped. -/
theorem SMap.mapVals_wf {α : Type} [DecidableEq α] {d : α} {f : α → α} {m : SMap α} (h : SMap.wf d m = true) :
    SMap.wf d (SMap.mapVals d f m) = true := SMap.mapVals_wfFrom h

theorem SMap.mapVals_all {α : Type} [DecidableEq α] {P : α → Prop} {d : α} {f : α → α} {m : SMap α} (hf : ∀ v, P v → P (f v))
    (h : ∀ p ∈ m, P p.2) : ∀ p ∈ SMap.mapVals d f m, P p.2 := by
  intro p hp
  obtain ⟨q, hq, hqp⟩ := List.mem_filterMap.mp hp
  split at hqp
  · cases hqp
  · cases hqp
    exact hf _ (h q hq)

section
variable {c : Given} {s t : State} {h : Hart}

theorem SMap.Canon.set {α : Type} [DecidableEq α] {d : α} {m : SMap α} (hm : SMap.Canon c d m) (n : Nat) (v : α) :
    SMap.Canon c d (SMap.set d m n v) := ⟨fun ht => SMap.set_wf (hm.wf ht)⟩

theorem SMap.Canon.nil {α : Type} [DecidableEq α] {d : α} : SMap.Canon c d [] := ⟨fun _ => rfl⟩

theorem SMap.Canon.foldl {α β : Type} [DecidableEq α] {d : α} {f : SMap α → β → SMap α} {l : List β} {m : SMap α}
    (hm : SMap.Canon c d m) (hf : ∀ m b, SMap.Canon c d m → SMap.Canon c d (f m b)) : SMap.Canon c d (l.foldl f m) :=
  List.foldlRecOn l f hm fun m hm b _ => hf m b hm

theorem Memory.Canon.foldl {β : Type} {f : Memory → β → Memory} {l : List β} {m : Memory} (hm : m.Canon c)
    (hf : ∀ m b, m.Canon c → (f m b).Canon c) : (l.foldl f m).Canon c :=
  List.foldlRecOn l f hm fun m hm b _ => hf m b hm

theorem Memory.Canon.write {m : Memory} (hm : m.Canon c) (k n v : Nat) : (m.write k n v).Canon c :=
  ⟨fun ht => Memory.write_wf (hm.wf ht)⟩

theorem Memory.Canon.empty : Memory.empty.Canon c := ⟨fun _ => Memory.empty_wf⟩

/-! ### Parts of the state -/

theorem Hart.Canon.iff_tables : h.Canon c ↔ (c.tables → h.Tables) :=
  ⟨fun hh ht => ⟨hh.1.wf ht, hh.2.wf ht⟩, fun hh => ⟨⟨fun ht => (hh ht).1⟩, ⟨fun ht => (hh ht).2⟩⟩⟩

theorem Hart.reset_tables : Hart.reset.Tables := ⟨rfl, rfl⟩

theorem Hart.Canon.reset : Hart.reset.Canon c := iff_tables.mpr fun _ => reset_tables

/-- What holds of every package's record holds of every one after one was set. -/
theorem State.pkg_setPkg_all {P : PkgRec → Prop} {p : Nat} {r : PkgRec} (hs : SMap.wf PkgRec.reset s.pkgs = true)
    (hr : P r) (h : ∀ q, P (s.pkg q)) (q : Nat) : P ((s.setPkg p r).pkg q) := by
  simp only [State.pkg, State.setPkg]
  rw [SMap.get_set hs]
  split
  · exact hr
  · exact h q

namespace State.Canon

theorem hart (hs : s.Canon c) : s.hart.Canon c := Hart.Canon.iff_tables.mpr fun ht => (hs.tables ht).current

theorem die (hs : s.Canon c) (k : Nat) : (s.die k).Canon c := ⟨fun ht => (hs.tables ht).queues k⟩

theorem pkg (hs : s.Canon c) (p : Nat) : (s.pkg p).Canon c :=
  ⟨⟨fun ht => (hs.tables ht).ports p⟩, ⟨fun ht => (hs.tables ht).apertures p⟩, ⟨fun ht => (hs.tables ht).holders p⟩⟩

theorem getHart (hs : s.Canon c) (g : Nat) : (s.getHart g).Canon c := by
  unfold State.getHart
  split
  · exact hs.hart
  · exact Hart.Canon.iff_tables.mpr fun ht =>
      SMap.get_all Hart.reset_tables (fun p hp => (hs.tables ht).others p (List.mem_append_left _ hp)) g

theorem parked (hs : s.Canon c) {p : Nat × Hart} (hp : p ∈ s.parked) : p.2.Canon c :=
  Hart.Canon.iff_tables.mpr fun ht => (hs.tables ht).others p (List.mem_append_right _ hp)

/-- An update of the current hart, of memory and of what no table is in. -/
theorem patch (hs : s.Canon c) {hart : Hart} {mem : Memory} (hm : c.memory → mem.wf = true) (hh : hart.Canon c)
    {cur runs dispatched part packages events arg turns eager outbox tlb tick free clk ns} :
    (State.mk hart cur s.harts mem s.cores s.forms s.parked s.dies s.pkgs s.xids runs dispatched part packages events arg turns
      eager outbox tlb tick free clk ns).Canon c where
  memory := hm
  tables ht := { (hs.tables ht) with current := Hart.Canon.iff_tables.mp hh ht }

/-- An update that leaves the accumulators and the register store of the current hart. -/
theorem same (hs : s.Canon c) {hart : Hart} 
    (hh : SMap.Canon c 0 s.hart.mat.acc ∧ s.hart.lease.vmem.Canon c → SMap.Canon c 0 hart.mat.acc ∧ hart.lease.vmem.Canon c := by exact id)
    {cur runs dispatched part packages events arg turns eager outbox tlb tick free clk ns} :
    (State.mk hart cur s.harts s.mem s.cores s.forms s.parked s.dies s.pkgs s.xids runs dispatched part packages events arg turns
      eager outbox tlb tick free clk ns).Canon c := hs.patch hs.memory (hh hs.hart)

theorem setHart (hs : s.Canon c) (g : Nat) 
    (hg : SMap.Canon c 0 (s.getHart g).mat.acc ∧ (s.getHart g).lease.vmem.Canon c → SMap.Canon c 0 h.mat.acc ∧ h.lease.vmem.Canon c := by exact id) : (s.setHart g h).Canon c := by
  have hh : h.Canon c := hg (hs.getHart g)
  unfold State.setHart
  split
  · exact hs.same fun _ => hh
  · exact {
      memory := hs.memory
      tables ht := { (hs.tables ht) with
        harts := SMap.set_wf (hs.tables ht).harts
        others := by
          have ho := (hs.tables ht).others
          rw [List.forall_mem_append] at ho ⊢
          exact ⟨SMap.set_all (Hart.Canon.iff_tables.mp hh ht) ho.1 g, ho.2⟩ } }

theorem setDie (hs : s.Canon c) (k : Nat) {d : DieRec} 
    (hk : SMap.Canon c QueueRec.reset (s.die k).queues → SMap.Canon c QueueRec.reset d.queues := by exact id) : (s.setDie k d).Canon c where
  memory := hs.memory
  tables ht := { (hs.tables ht) with
    dies := SMap.set_wf (hs.tables ht).dies
    queues j := by
      simp only [State.die, State.setDie]
      rw [SMap.get_set (hs.tables ht).dies]
      split
      · exact (hk (hs.die k)).wf ht
      · exact (hs.tables ht).queues j }

theorem setPkg (hs : s.Canon c) (p : Nat) {r : PkgRec} 
    (hp : SMap.Canon c PortRec.reset (s.pkg p).ports ∧ SMap.Canon c 0 (s.pkg p).apertures ∧ SMap.Canon c 0 (s.pkg p).holders →
      SMap.Canon c PortRec.reset r.ports ∧ SMap.Canon c 0 r.apertures ∧ SMap.Canon c 0 r.holders := by exact id) : (s.setPkg p r).Canon c where
  memory := hs.memory
  tables ht :=
    have hr : r.Canon c := hp (hs.pkg p)
    { (hs.tables ht) with
      pkgs := SMap.set_wf (hs.tables ht).pkgs
      ports := State.pkg_setPkg_all (P := fun r => SMap.wf PortRec.reset r.ports = true) (hs.tables ht).pkgs (hr.1.wf ht) (hs.tables ht).ports
      apertures := State.pkg_setPkg_all (P := fun r => SMap.wf 0 r.apertures = true) (hs.tables ht).pkgs (hr.2.1.wf ht) (hs.tables ht).apertures
      holders := State.pkg_setPkg_all (P := fun r => SMap.wf 0 r.holders = true) (hs.tables ht).pkgs (hr.2.2.wf ht) (hs.tables ht).holders }

theorem setForm (hs : s.Canon c) (k : Nat) (f : FormRec) : (s.setForm k f).Canon c where
  memory := hs.memory
  tables ht := { (hs.tables ht) with forms := SMap.set_wf (hs.tables ht).forms }

theorem setCore (hs : s.Canon c) (k : Nat) (r : CoreRec) : (s.setCore k r).Canon c where
  memory := hs.memory
  tables ht := { (hs.tables ht) with cores := SMap.set_wf (hs.tables ht).cores }

theorem setXid (hs : s.Canon c) (k : Nat) (r : XidRec) : (s.setXid k r).Canon c where
  memory := hs.memory
  tables ht := { (hs.tables ht) with xids := SMap.set_wf (hs.tables ht).xids }

/-- The pre-empted tasks replaced. -/
theorem setParked (hs : s.Canon c) {l : List (Nat × Hart)} (hl : ∀ p ∈ l, p.2.Canon c) : State.Canon c { s with parked := l } where
  memory := hs.memory
  tables ht := { (hs.tables ht) with
    others p hp := (List.mem_append.mp hp).elim (fun hp => (hs.tables ht).others p (List.mem_append_left _ hp))
      (fun hp => Hart.Canon.iff_tables.mp (hl p hp) ht) }

theorem foldl {α : Type} {f : State → α → State} {l : List α} (hs : s.Canon c) (hf : ∀ t a, t.Canon c → (f t a).Canon c) :
    (l.foldl f s).Canon c := List.foldlRecOn l f hs fun t ht a _ => hf t a ht

end State.Canon

end

section
variable {c : Given} {s t : State} {h : Hart}

namespace State.Canon

/-! ### The rollbook and flits -/

theorem roll (hs : s.Canon c) (dk kind index code a0 : Nat) (a1 a2 : Word) : (s.roll dk kind index code a0 a1 a2).Canon c := by
  simp only [State.roll]
  split
  · exact hs
  · exact hs.setDie _

theorem rollHart (hs : s.Canon c) (g code a0 : Nat) (a1 a2 : Word) : (s.rollHart g code a0 a1 a2).Canon c := hs.roll ..

theorem rollHub (hs : s.Canon c) (p index code a0 : Nat) (a1 a2 : Word) : (s.rollHub p index code a0 a1 a2).Canon c := by
  unfold State.rollHub
  split
  · exact hs
  · exact hs.roll ..

theorem setPort (hs : s.Canon c) (p n : Nat) (v : PortRec) : (s.setPort p n v).Canon c :=
  hs.setPkg p fun hp => ⟨hp.1.set n v, hp.2⟩

theorem wire (hs : s.Canon c) (p n : Nat) (f : BitVec 1024) : (s.wire p n f).Canon c := hs.same

theorem nextFree (hs : s.Canon c) : s.nextFree.Canon c := hs.same

theorem drainPort (hs : s.Canon c) (p n m : Nat) : (s.drainPort p n m).Canon c := by
  induction m generalizing s with
  | zero => exact hs
  | succ m ih =>
    simp only [State.drainPort]
    split
    · exact hs
    · split
      · exact hs
      · exact ih ((hs.setPort ..).wire ..)

theorem sendFlit (hs : s.Canon c) (p n vc : Nat) : (s.sendFlit p n vc).Canon c := (hs.nextFree.setPort ..).drainPort ..

theorem hopFlits (hs : s.Canon c) (vc p : Nat) (path : List Nat) : (s.hopFlits vc p path).Canon c := by
  induction path generalizing s p with
  | nil => exact hs
  | cons q path ih => exact ih (hs.sendFlit ..) q

theorem carryAlong (hs : s.Canon c) (a : Nat) (path : List Nat) (b vc : Nat) : (s.carryAlong a path b vc).Canon c :=
  ((hs.sendFlit ..).hopFlits ..).sendFlit ..

theorem carry (hs : s.Canon c) (a b vc : Nat) : (s.carry a b vc).Canon c := by
  unfold State.carry
  split_ifs
  · exact hs
  · exact hs.sendFlit ..
  · split
    · exact hs.carryAlong ..
    · exact hs

theorem transfer (hs : s.Canon c) (a b : Nat) : (s.transfer a b).Canon c := by
  unfold State.transfer
  split_ifs
  · exact hs
  · exact (hs.carry ..).carry ..
  · split
    · exact (hs.carryAlong ..).carryAlong ..
    · exact hs

/-! ### Hall passes and launches -/

theorem pushOnce (hs : s.Canon c) (e : Event) : (s.pushOnce e).Canon c := by
  unfold State.pushOnce
  split
  · exact hs
  · exact hs.same

theorem pokeResume (hs : s.Canon c) (dk : Nat) : (s.pokeResume dk).Canon c := by
  unfold State.pokeResume
  split
  · exact hs.pushOnce _
  · exact hs

theorem pokeProctor (hs : s.Canon c) (dk : Nat) : (s.pokeProctor dk).Canon c := by
  unfold State.pokeProctor
  split
  · exact hs.pokeResume _
  · exact (hs.pushOnce _).pokeResume _

theorem askPass (hs : s.Canon c) (dk : Nat) (r : PassReq) : (s.askPass dk r).1.Canon c := by
  simp only [State.askPass]
  split
  · exact hs.setDie _
  · exact hs.setDie _

theorem returnPass (hs : s.Canon c) (dk charge : Nat) : (s.returnPass dk charge).Canon c :=
  .pokeProctor (.setDie hs _) _

theorem withdraw (hs : s.Canon c) (dk : Nat) (p : PassReq → Bool) : (s.withdraw dk p).Canon c := by
  simp only [State.withdraw]
  split
  · exact .pokeProctor (.setDie hs _) _
  · exact hs

theorem mapCopiesOf (hs : s.Canon c) {f : Hart → Hart} (hf : ∀ h, h.Canon c → (f h).Canon c) (h : Hart) : (s.mapCopiesOf h f).Canon c := by
  have ht : ((s.copiesOf h).foldl (fun t g => t.setHart g (f (s.getHart g))) s).Canon c :=
    hs.foldl fun t g ht => ht.setHart g fun _ => hf _ (hs.getHart g)
  refine ht.setParked fun p hp => ?_
  obtain ⟨q, hq, rfl⟩ := List.mem_map.mp hp
  split
  · exact hf _ (ht.parked hq)
  · exact ht.parked hq

theorem cohortPhase (hs : s.Canon c) (h : Hart) : (s.cohortPhase h).Canon c := by
  simp only [State.cohortPhase]
  split
  · exact hs.mapCopiesOf (f := Hart.flip) (fun _ hh => hh) h
  · exact hs

theorem pokePackage (hs : s.Canon c) (p : Nat) : (s.pokePackage p).Canon c :=
  hs.foldl fun _ _ ht => (ht.pushOnce _).pokeResume _

theorem tryStart (hs : s.Canon c) (g : Nat) : (s.tryStart g).Canon c := by
  simp only [State.tryStart]
  split
  · exact hs.foldl fun t j ht => ht.setHart j
  · exact hs

/-! ### Clusters and tiles -/

theorem offerOne (hs : s.Canon c) (fk : Nat) : (s.offerOne fk).Canon c := by
  simp only [State.offerOne]
  split
  · exact hs
  next _ g _ =>
    split
    · exact hs
    · refine ((hs.askPass ..).setForm ..).setHart g fun hh => ?_
      split
      · exact hh
      · exact hh

theorem offer (hs : s.Canon c) (fk : Nat) : (s.offer fk).Canon c := hs.foldl fun _ _ ht => ht.offerOne fk

theorem handOver (hs : s.Canon c) (g n : Nat) : (s.handOver g n).Canon c := .tryStart (.setHart hs g) g

theorem giveReserved (hs : s.Canon c) (fk : Nat) (r : List (Nat × Nat)) : (s.giveReserved fk r).Canon c := by
  induction r generalizing s with
  | nil => exact hs
  | cons q r ih =>
    simp only [State.giveReserved]
    refine ih ?_
    split
    · exact hs.setForm ..
    · exact (hs.setForm ..).handOver ..

theorem freeClusters (hs : s.Canon c) (g n : Nat) (r : List (Nat × Nat)) (p : Nat) : (s.freeClusters g n r p).Canon c := by
  simp only [State.freeClusters]
  refine .pokePackage (.offer ?_ _) _
  split
  · exact (hs.giveReserved ..).setForm ..
  · exact ((hs.giveReserved ..).setForm ..).returnPass ..

theorem releaseLease (hs : s.Canon c) (g : Nat) : (s.releaseLease g).Canon c := by
  unfold State.releaseLease
  exact .freeClusters (.setForm (.withdraw (.setHart hs g fun hh => by exact ⟨hh.1, .empty⟩) ..) ..) ..

theorem serveTiles (hs : s.Canon c) (fk : Nat) : (s.serveTiles fk).Canon c := by
  simp only [State.serveTiles]
  split
  · exact hs
  · split
    · exact hs
    · exact ((hs.setForm ..).askPass ..).setHart _

theorem pokeTiles (hs : s.Canon c) (fk : Nat) : (s.pokeTiles fk).Canon c := by
  unfold State.pokeTiles
  split
  · exact hs
  · exact hs.pushOnce _

theorem freeTiles (hs : s.Canon c) (fk n : Nat) : (s.freeTiles fk n).Canon c := by
  simp only [State.freeTiles]
  split
  · exact (hs.setForm ..).pokeTiles _
  · exact ((hs.setForm ..).pokeTiles _).pokePackage _

theorem releaseTiles (hs : s.Canon c) (g : Nat) : (s.releaseTiles g).Canon c := by
  simp only [State.releaseTiles]
  have ht := hs.setHart g (h := { s.getHart g with mat := { (s.getHart g).mat with tiles := 0, pass := false, acc := [], accPois := [] } })
    fun hh => ⟨.nil, hh.2⟩
  split
  · exact (ht.returnPass ..).freeTiles ..
  · exact ht.freeTiles ..

theorem askTiles (hs : s.Canon c) (mn mx : Nat) : (s.askTiles mn mx).Canon c := by
  simp only [State.askTiles]
  split
  · split
    · exact .serveTiles (.setForm hs.same ..) _
    · exact .setForm hs.same ..
  · exact .setForm hs.same ..

/-! ### Stream slots -/

theorem setSlot (hs : s.Canon c) (g j : Nat) (sl : Slot) : (s.setSlot g j sl).Canon c := hs.setHart g

theorem dropPass (hs : s.Canon c) (g j : Nat) (sl : Slot) : (s.dropPass g j sl).Canon c := by
  unfold State.dropPass
  split_ifs
  · exact hs.returnPass ..
  · exact hs.withdraw ..
  · exact hs

theorem clearSlot (hs : s.Canon c) (g j : Nat) : (s.clearSlot g j).Canon c := (hs.dropPass ..).setSlot ..

end State.Canon

end

section
variable {c : Given} {s t : State} {h : Hart}

/-! ### Accesses (R363 to R365, R388, R389, R409) -/

namespace State.Canon

theorem ite {p : Prop} [Decidable p] (hs : s.Canon c) (ht : t.Canon c) : (if p then s else t).Canon c := by
  split
  · exact hs
  · exact ht

theorem recipherLine (hs : s.Canon c) (k j : Nat) : (s.recipherLine k j).Canon c := by
  simp only [State.recipherLine]
  split
  · exact hs
  · exact (hs.setPkg _).patch (fun hm => Memory.write_wf (hs.memory hm)) hs.hart

theorem recipher (hs : s.Canon c) (n : Option Nat) (k j : Nat) : (s.recipher n k j).Canon c := by
  unfold State.recipher
  split
  · exact hs
  · exact hs.foldl fun t a ht => .ite (ht.recipherLine ..) ht

theorem putUnder (hs : s.Canon c) (n : Option Nat) (k j v : Nat) (bad : Bool) : (s.putUnder n k j v bad).Canon c :=
  (hs.recipher n k j).patch (fun hm => Memory.writeBad_wf ((hs.recipher n k j).memory hm)) (hs.recipher n k j).hart

theorem placeOne (hs : s.Canon c) (w : HeldWrite) : (s.placeOne w).Canon c := hs.putUnder ..

theorem settle (hs : s.Canon c) (k n : Nat) : (s.settle k n).Canon c := by
  unfold State.settle
  split
  · exact hs
  · exact (hs.setPkg _).foldl fun _ _ ht => ht.placeOne _

theorem makeSeen (hs : s.Canon c) (ws : List Nat) (level : Nat) : (s.makeSeen ws level).Canon c := by
  unfold State.makeSeen
  split
  · exact hs.foldl fun _ _ ht => ht.setPkg _
  · exact hs

theorem order (hs : s.Canon c) {ws : List Nat} {level : Nat} (h : s.order ws level = some t) : t.Canon c := by
  simp only [State.order] at h
  split at h
  · cases h
  · cases h
    exact hs.makeSeen ..

theorem mark (hs : s.Canon c) (k : Kind) (l : LeafAt) : (s.mark k l).Canon c := by
  simp only [State.mark]
  split
  · exact hs.settle ..
  · exact (hs.settle ..).putUnder ..

theorem remember (hs : s.Canon c) (l : LeafAt) : (s.remember l).Canon c := by
  unfold State.remember
  split
  · exact hs
  · exact hs.same

theorem replicate (hs : s.Canon c) (k : Kind) (l : LeafAt) : (s.replicate k l).Canon c := by
  simp only [State.replicate]
  split
  · exact hs
  · exact hs.same

theorem touch (hs : s.Canon c) (k : Kind) (leaf : Option LeafAt) : (s.touch k leaf).Canon c := by
  unfold State.touch
  split
  · exact hs
  · exact ((hs.mark ..).remember _).replicate ..

theorem visit (hs : s.Canon c) (die : Nat) (pl : Place) (k : Kind) (leaf : Option LeafAt) : (s.visit die pl k leaf).Canon c :=
  (hs.transfer ..).touch ..

theorem countHot (hs : s.Canon c) (die space : Nat) (va : Word) (leaf : Option LeafAt) (k : Hot) :
    (s.countHot die space va leaf k).Canon c := by
  unfold State.countHot
  split
  · exact hs
  · exact hs.setDie die

theorem invalidateReplicas (hs : s.Canon c) (k : Nat) : (s.invalidateReplicas k).Canon c := by
  simp only [State.invalidateReplicas]
  split
  · exact hs
  · exact (hs.setPkg _).same

theorem hold (hs : s.Canon c) (w : HeldWrite) : (s.hold w).Canon c := by
  unfold State.hold
  exact .invalidateReplicas (.setPkg hs _) _

theorem placeBad (hs : s.Canon c) (w : Nat) (leaf : Option LeafAt) (k n v : Nat) (bad : Bool) : (s.placeBad w leaf k n v bad).Canon c := by
  unfold State.placeBad
  exact .ite (hs.hold _) (hs.putUnder ..)

theorem place (hs : s.Canon c) (w : Nat) (leaf : Option LeafAt) (k n v : Nat) : (s.place w leaf k n v).Canon c := hs.placeBad ..

theorem update (hs : s.Canon c) (w : Nat) (q : Bool) (leaf : Option LeafAt) (k n v : Nat) : (s.update w q leaf k n v).Canon c := by
  unfold State.update
  exact .ite (hs.hold _) (hs.putUnder ..)

end State.Canon

/-! ### Rounds of the exchange (R285 to R309) -/

theorem Hart.Canon.modParty (hh : h.Canon c) (p : Party → Bool) (f : Party → Party) : (h.modParty p f).Canon c := by
  unfold Hart.modParty
  split
  · exact hh
  · exact hh

namespace State.Canon

/-- An update of every hart, pre-empted ones too. -/
theorem mapHarts (hs : s.Canon c) {f : Hart → Hart} (hf : ∀ h, h.Canon c → (f h).Canon c) {events : List Event} :
    State.Canon c { s with hart := f s.hart, harts := SMap.mapVals Hart.reset f s.harts, parked := s.parked.map fun p => (p.1, f p.2), events := events } where
  memory := hs.memory
  tables ht :=
    have hf' (v : Hart) (hv : v.Tables) : (f v).Tables := Hart.Canon.iff_tables.mp (hf v (Hart.Canon.iff_tables.mpr fun _ => hv)) ht
    { (hs.tables ht) with
      harts := SMap.mapVals_wf (hs.tables ht).harts
      current := hf' _ (hs.tables ht).current
      others := by
        have ho := (hs.tables ht).others
        rw [List.forall_mem_append] at ho ⊢
        exact ⟨SMap.mapVals_all hf' ho.1, List.forall_mem_map.mpr fun p hp => hf' _ (ho.2 p hp)⟩ }

theorem modParties (hs : s.Canon c) (p : Party → Bool) (f : Party → Party) : (s.modParties p f).Canon c :=
  hs.mapHarts fun _ hh => hh.modParty p f

theorem endParties (hs : s.Canon c) (p : Party → Bool) (f : Party → Party) : (s.endParties p f).Canon c := by
  unfold State.endParties
  exact (hs.modParties ..).foldl fun _ _ ht => ht.returnPass ..

theorem setRound (hs : s.Canon c) (n : Nat) (r : Round) : (s.setRound n r).Canon c := hs.setXid ..

theorem freeFailed (hs : s.Canon c) (x : Nat) : (s.freeFailed x).Canon c := by
  unfold State.freeFailed
  split
  · exact hs
  · exact .ite (hs.setXid ..) hs

theorem failRound (hs : s.Canon c) (x : Nat) : (s.failRound x).Canon c := by
  unfold State.failRound
  split
  · exact hs
  · exact .freeFailed (.foldl (hs.setRound ..) fun _ _ ht => ht.pushOnce _) _

theorem pokeRound (hs : s.Canon c) (x : Nat) : (s.pokeRound x).Canon c := by
  have poke (n m : Nat) (k : Sys2Proof.Instr) {t : State} {b : Bool} (ht : t.Canon c) : (if b then t.pushOnce (xidEvent k n m) else t).Canon c :=
    .ite (ht.pushOnce _) ht
  unfold State.pokeRound
  split
  · exact hs
  · exact .ite hs (poke _ _ _ (poke _ _ _ (poke _ _ _ hs)))

theorem shipFlights (hs : s.Canon c) (r : Round) (fs : List Flight) : (s.shipFlights r fs).Canon c := by
  refine hs.foldl fun t f ht => ?_
  split
  · exact .ite ht (ht.carryAlong ..)
  · exact ht

theorem sendFlights (hs : s.Canon c) (x : Nat) (fs : List Flight) : (s.sendFlights x fs).Canon c := by
  unfold State.sendFlights
  split
  · exact hs
  next r _ =>
    have ht (fs : List Flight) (r' : Round) : (((if r.table.isSome then s.shipFlights r fs else s).setRound x r').pokeRound x).Canon c :=
      .pokeRound (.setRound (.ite (hs.shipFlights ..) hs) ..) _
    exact .ite (.failRound (ht ..) _) (ht ..)

theorem closeSender (hs : s.Canon c) (x rank : Nat) : (s.closeSender x rank).Canon c := by
  unfold State.closeSender
  split
  · exact hs
  · exact (hs.setRound ..).sendFlights ..

theorem armRound (hs : s.Canon c) (x : Nat) : (s.armRound x).Canon c := by
  unfold State.armRound
  extract_lets x
  split
  · exact hs
  · extract_lets k raw table r flights lost s1 s2 s3 s4
    have h2 : s2.Canon c := ((hs.shipFlights ..).setRound ..).modParties ..
    have h3 : s3.Canon c := .ite h2 (h2.foldl fun _ _ ht => ht.pushOnce _)
    exact .ite ((h3.pokeRound _).failRound _) (h3.pokeRound _)

theorem clearInbox (hs : s.Canon c) (a : Sender) (n : Nat) : (s.clearInbox a n).Canon c := by
  refine hs.foldl fun t i ht => ?_
  split
  · exact .ite (ht.invalidateReplicas _) ht
  · exact ht

theorem writeResidual (hs : s.Canon c) (x : Nat) (r : Rec) : (s.writeResidual x r).2.Canon c := by
  unfold State.writeResidual
  split
  · exact hs
  · split
    · exact hs
    · extract_lets ws n
      split
      · exact hs
      · split
        · exact hs.clearInbox ..
        · exact (hs.modParties ..).setPkg _
        · exact .modParties (.setRound (hs.foldl fun _ _ ht => ((ht.visit ..).settle ..).putUnder ..) ..) ..

theorem writeAll (hs : s.Canon c) (x : Nat) (kept l : List Rec) : (s.writeAll x kept l).1.Canon c := by
  induction l generalizing s kept with
  | nil => exact hs
  | cons r l ih =>
    unfold State.writeAll
    split
    · exact ih hs _
    · exact ih (hs.writeResidual ..) _

theorem writeResiduals (hs : s.Canon c) (x : Nat) : (s.writeResiduals x).Canon c := by
  unfold State.writeResiduals
  split
  · exact hs
  next r _ =>
    have ht := hs.writeAll x [] r.residual
    generalize s.writeAll x [] r.residual = w at ht
    obtain ⟨u, kept⟩ := w
    dsimp only
    split
    · exact ht
    · exact .ite (ht.setRound ..) ((ht.setRound ..).pushOnce _)

theorem returnRecord (hs : s.Canon c) (x : Nat) (r : Rec) : (s.returnRecord x r).Canon c := by
  unfold State.returnRecord
  split
  · exact hs
  · exact (hs.setRound ..).modParties ..

theorem closeRound (hs : s.Canon c) (x : Nat) : (s.closeRound x).Canon c := by
  unfold State.closeRound
  extract_lets
  split
  · exact hs
  · exact .ite hs (((hs.setXid ..).modParties ..).endParties ..)

theorem freeXid (hs : s.Canon c) (x : Nat) : (s.freeXid x).Canon c := by
  unfold State.freeXid
  split
  · exact hs
  · exact .ite (hs.setXid ..) hs

theorem closeBatch (hs : s.Canon c) (x ridx : Nat) (final : Bool) (instant : Word) : (s.closeBatch x ridx final instant).Canon c := by
  unfold State.closeBatch
  split
  · exact hs
  · split
    · exact hs
    · refine .ite hs ?_
      extract_lets comb path all cut kept back full samples j' s1 s2 s3
      have h2 : s2.Canon c := State.Canon.same (hs.setRound ..)
      have h3 : s3.Canon c := .writeResiduals (h2.foldl fun _ _ ht => ht.returnRecord ..) _
      exact ((h3.modParties ..).closeRound _).freeXid _

theorem closeDue (hs : s.Canon c) (x ridx n : Nat) : (s.closeDue x ridx n).Canon c := by
  induction n generalizing s with
  | zero => exact hs
  | succ n ih =>
    unfold State.closeDue
    split
    · exact hs
    · split
      · exact hs
      · split
        · exact hs
        · exact .ite (ih (hs.closeBatch ..)) hs

theorem settleDeadline (hs : s.Canon c) (x ridx : Nat) : (s.settleDeadline x ridx).Canon c := hs.closeDue ..

theorem arriveRecord (hs : s.Canon c) (x ridx : Nat) (q : Rec) : (s.arriveRecord x ridx q).Canon c := by
  have ht := hs.settleDeadline x ridx
  unfold State.arriveRecord
  extract_lets
  split
  · exact ht
  · split
    · exact ht
    · exact .ite ht (.ite (ht.roll ..) (.ite ((ht.setRound ..).modParties ..) (ht.setRound ..)))

theorem arriveMarker (hs : s.Canon c) (x ridx : Nat) : (s.arriveMarker x ridx).Canon c := by
  have ht := hs.settleDeadline x ridx
  unfold State.arriveMarker
  extract_lets
  split
  · exact ht
  · split
    · exact ht
    · exact .ite ((ht.setRound ..).closeBatch ..) (ht.setRound ..)

theorem leaveRound (hs : s.Canon c) (h : Hart) : (s.leaveRound h).Canon c := by
  unfold State.leaveRound
  extract_lets p x t
  have ht : t.Canon c := .ite (hs.closeSender ..) hs
  split
  · exact hs
  · split
    · split
      · exact .ite (ht.setRound ..) ht
      · exact ht
    · exact ht

theorem failParty (hs : s.Canon c) (x serial ident : Nat) : (s.failParty x serial ident).Canon c := by
  have ht := hs.endParties (fun p => p.tookPart x serial && p.ident == ident) (·.flag xFAILED)
  unfold State.failParty
  extract_lets
  split
  · exact ht
  · exact .ite ((ht.setRound ..).freeFailed _) ht

end State.Canon

end

section
variable {c : Given} {s t : State} {h : Hart}

/-! ### The Registrar's tables and the end of tasks (R209 to R225, R310 to R325, R340, R411) -/

theorem Memory.filter_wf {m : Memory} (p : Nat × Byte → Bool) (q : Nat × Bool → Bool) (hm : m.wf = true) :
    Memory.wf { cells := m.cells.filter p, pois := m.pois.filter q } = true := by
  rw [Memory.wf_iff] at hm ⊢
  exact ⟨SMap.filter_wf _ hm.1, SMap.filter_wf _ hm.2⟩

namespace State.Canon

theorem setQueue (hs : s.Canon c) (p q : Nat) (r : QueueRec) : (s.setQueue p q r).Canon c := hs.setDie _ fun hd => SMap.Canon.set hd ..

theorem setDraft (hs : s.Canon c) (p d : Nat) (r : DraftRec) : (s.setDraft p d r).Canon c := hs.setDie _

theorem setPipe (hs : s.Canon c) (p n : Nat) (v : BitVec 256) : (s.setPipe p n v).Canon c := hs.setDie _

theorem raiseMsix (hs : s.Canon c) (p v : Nat) : (s.raiseMsix p v).Canon c := by
  unfold State.raiseMsix
  exact .ite (.ite hs.same hs) (.ite hs (.ite (hs.setPkg p) hs.same))

theorem regRead (hs : s.Canon c) {dk space : Nat} {ptbase va : Word} {n v : Nat} (h : s.regRead dk space ptbase va n = .ok (v, t)) :
    t.Canon c := by
  unfold State.regRead at h
  split at h <;> cases h
  exact hs.foldl fun _ _ ht => ht.visit ..

theorem regWrite (hs : s.Canon c) {dk space : Nat} {ptbase : Word} {strict : Bool} {va : Word} {n v : Nat}
    (h : s.regWrite dk space ptbase strict va n v = .ok t) : t.Canon c := by
  unfold State.regWrite at h
  split at h <;> cases h
  exact hs.foldl fun _ _ ht => (ht.visit ..).place ..

theorem queueErr (hs : s.Canon c) (p q err : Nat) : (s.queueErr p q err).Canon c := ((hs.setQueue ..).roll ..).raiseMsix ..

theorem headerGo (hs : s.Canon c) {dk : Nat} {w : HeaderWrite} (h : s.headerGo dk w = some t) : t.Canon c := by
  unfold State.headerGo at h
  split at h <;> cases h
  · exact hs.regWrite (by assumption)
  · exact hs.roll ..

theorem headerLater (hs : s.Canon c) (dk : Nat) (w : HeaderWrite) : (s.headerLater dk w).Canon c := .pushOnce (.setDie hs dk) _

theorem headersGo (hs : s.Canon c) (dk : Nat) (l : List HeaderWrite) : (s.headersGo dk l).Canon c := by
  induction l generalizing s with
  | nil => exact hs
  | cons w l ih =>
    unfold State.headersGo
    split
    · exact ih (hs.headerLater ..)
    · split
      · exact ih (hs.headerGo (by assumption))
      · exact ih (hs.headerLater ..)

theorem headerWrite (hs : s.Canon c) (p d off n v : Nat) : (s.headerWrite p d off n v).Canon c := by
  unfold State.headerWrite
  extract_lets e dk w
  refine .ite (hs.headerLater ..) ?_
  cases hw : s.headerGo dk w with
  | none => exact hs.headerLater ..
  | some t => exact hs.headerGo hw

theorem mirror (hs : s.Canon c) (p d : Nat) : (s.mirror p d).Canon c := hs.headerWrite ..

theorem tag (hs : s.Canon c) (p d : Nat) : (s.tag p d).Canon c := hs.headerWrite ..

theorem wakeAll (hs : s.Canon c) (p : Nat → Hart → Bool) : (s.wakeAll p).Canon c := by
  have hf (g : Nat) {h : Hart} (hh : h.Canon c) : (if p g h then { h with event := true } else h : Hart).Canon c := by
    split
    · exact hh
    · exact hh
  unfold State.wakeAll
  extract_lets f u
  have hu : u.Canon c := hs.foldl fun t g ht => ht.setHart g (hf g)
  exact hu.setParked <| List.forall_mem_map.mpr fun q hq => hf _ (hu.parked hq)

theorem wake (hs : s.Canon c) (g : Nat) : (s.wake g).Canon c := .wakeAll (.setHart hs g) _

theorem settleCheck (hs : s.Canon c) (p n : Nat) : (s.settleCheck p n).Canon c := by
  unfold State.settleCheck
  extract_lets e w dk before s' addr r _
  have hs' : s'.Canon c := hs.setPipe ..
  have hr (u : State) (hu : r = .ok u) : u.Canon c := by
    simp only [r] at hu
    split at hu
    · cases hu
    · exact hs'.regWrite hu
  have tail (t : State) (ok : Bool) (ht : t.Canon c) (g k : Nat) (v : Word) :
      (let u := if fieldB e 99 1 = 1 then t.wake g else t
       let u := u.roll dk 1 0 0x12 n v 0
       if ok then u.raiseMsix k 2 else u).Canon c :=
    .ite (.raiseMsix (.roll (.ite (ht.wake _) ht) ..) ..) (.roll (.ite (ht.wake _) ht) ..)
  refine .ite hs ?_
  clear_value r
  cases r with
  | ok u => exact tail u true (hr u rfl) _ _ _
  | fail => exact tail s' false hs' _ _ _
  | wait => exact .pushOnce (hs.setDie _) _

theorem setRun (hs : s.Canon c) (r : RunRec) : (s.setRun r).Canon c := hs.same

theorem handOff (hs : s.Canon c) (r : RunRec) : (s.handOff r).Canon c := hs.foldl fun _ _ ht => ht.pushOnce _

theorem refire (hs : s.Canon c) (r : RunRec) : (s.refire r).Canon c :=
  ((((hs.setRun _).handOff _).settleCheck ..).pokePackage _).pushOnce _

theorem draftTail (hs : s.Canon c) (p d : Nat) : (s.draftTail p d).Canon c := ((hs.mirror ..).settleCheck ..).pokePackage _

theorem abandon (hs : s.Canon c) (home queue packet : Nat) : (s.abandon home queue packet).Canon c :=
  hs.foldl fun _ _ ht => (ht.setDraft ..).draftTail ..

theorem packetDone (hs : s.Canon c) (r : RunRec) : (s.packetDone r).Canon c := by
  unfold State.packetDone
  exact .pokePackage (.settleCheck (.abandon (.same (.setQueue hs ..)) ..) ..) _

theorem runCheck (hs : s.Canon c) (r : RunRec) : (s.runCheck r).Canon c :=
  .ite hs <| .ite ((hs.setRun _).pushOnce _) <| .ite (hs.refire _) <| .ite (hs.pushOnce _) (hs.packetDone _)

theorem dropTiles (hs : s.Canon c) (g : Nat) (h : Hart) : (s.dropTiles g h).Canon c := by
  have ht (f : FormRec) (p : PassReq → Bool) : ((s.setForm (formKey g) f).withdraw (dieKey g) p).Canon c := (hs.setForm ..).withdraw ..
  exact .freeTiles (.ite ((ht ..).returnPass ..) (ht ..)) ..

theorem dropPasses (hs : s.Canon c) (g : Nat) (h : Hart) : (s.dropPasses g h).Canon c := by
  have ht : (if h.hpass = 0 then s else s.returnPass (dieKey g) h.hpass).Canon c := .ite hs (hs.returnPass ..)
  exact .leaveRound (.ite (ht.returnPass ..) ht) _

theorem dropHeld (hs : s.Canon c) (g : Nat) (h : Hart) : (s.dropHeld g h).Canon c :=
  .dropPasses (.withdraw (.dropTiles (hs.foldl fun _ _ ht => ht.dropPass ..) ..) ..) ..

theorem dropKept (hs : s.Canon c) (g : Nat) (h : Hart) : (s.dropKept g h).Canon c := by
  unfold State.dropKept
  extract_lets s1 s2
  have h1 : s1.Canon c := hs.foldl fun _ _ ht => .ite (ht.returnPass ..) ht
  have h2 : s2.Canon c := .ite (h1.returnPass ..) h1
  exact (h2.freeTiles ..).dropPasses ..

theorem reKeyClusters (hs : s.Canon c) (g : Nat) (heir : Option Nat) : (s.reKeyClusters g heir).Canon c := by
  unfold State.reKeyClusters
  exact (hs.setForm ..).foldl fun t j ht => .ite (ht.setHart j) ht

theorem passLease (hs : s.Canon c) (g : Nat) (hh : h.Canon c) : (s.passLease g h).Canon c := by
  unfold State.passLease
  split
  · exact hs
  next o l _ =>
    refine .ite hs ?_
    extract_lets _ s1 s2 s3 d
    have h1 : s1.Canon c := hs.setHart o fun ho => ⟨ho.1, hh.2⟩
    have h2 : s2.Canon c := h1.foldl fun t j ht => ht.setHart j
    have h3 : s3.Canon c := h2.reKeyClusters ..
    clear_value s3
    exact h3.setDie _

theorem spareForm (hs : s.Canon c) (fk : Nat) : (s.spareForm fk).Canon c := by
  unfold State.spareForm
  extract_lets f busy cores own s1 r n s2 _ s3
  refine .ite hs ?_
  have h1 : s1.Canon c := hs.patch (fun hm => Memory.filter_wf _ _ (hs.memory hm)) hs.hart
  have h3 : s3.Canon c := (h1.setForm ..).setPkg _
  exact (h3.roll ..).pokePackage _

theorem endHart (hs : s.Canon c) (g : Nat) : (s.endHart g).Canon c := by
  unfold State.endHart
  extract_lets h s1 s2 _ s3
  have h1 : s1.Canon c := hs.dropHeld ..
  have h2 : s2.Canon c := .ite ((h1.reKeyClusters ..).releaseLease _) (h1.passLease _ (hs.getHart g))
  have h3 : s3.Canon c := .cohortPhase (.freeFailed (.freeXid (h2.setHart g fun _ => by exact ⟨.nil, .empty⟩) _) _) _
  exact (h3.spareForm _).pokePackage _

theorem copyEnded (hs : s.Canon c) (g : Nat) (h : Hart) : (s.copyEnded g h).Canon c := by
  unfold State.copyEnded
  refine .ite hs ?_
  split
  · exact hs
  · exact (hs.setRun _).runCheck _

theorem endTask (hs : s.Canon c) (g : Nat) : (s.endTask g).Canon c := (hs.endHart _).copyEnded ..

theorem killHart (hs : s.Canon c) (g cause : Nat) (pc : Word) : (s.killHart g cause pc).Canon c :=
  .endTask (.ite (hs.rollHart ..) ((hs.rollHart ..).abandon ..)) _

theorem endParked (hs : s.Canon c) (g : Nat) (h : Hart) : (s.endParked g h).Canon c := by
  have ht : State.Canon c { s with parked := s.parked.filter fun p => p.2.task ≠ h.task ∨ p.1 ≠ g } :=
    hs.setParked fun p hp => hs.parked (List.mem_of_mem_filter hp)
  exact ((((ht.dropKept ..).freeXid _).freeFailed _).cohortPhase _).spareForm _ |>.copyEnded ..

theorem killParked (hs : s.Canon c) (g : Nat) (h : Hart) (cause : Nat) : (s.killParked g h cause).Canon c :=
  .endParked (.ite (hs.rollHart ..) ((hs.rollHart ..).abandon ..)) ..

theorem fatal (hs : s.Canon c) (dk unit : Nat) (detail : Word) : (s.fatal dk unit detail).Canon c := by
  unfold State.fatal
  extract_lets s1 _ s2 s3 s4
  have h2 : s2.Canon c := (hs.roll ..).setDie dk
  have h4 : s4.Canon c := (h2.raiseMsix ..).foldl fun _ _ ht => .ite ht (ht.killHart ..)
  exact h4.foldl fun _ _ ht => ht.killParked ..

theorem kill (hs : s.Canon c) (g cause : Nat) (pc : Word) : (s.kill g cause pc).Canon c := by
  unfold State.kill
  extract_lets boot gs t
  have ht : t.Canon c := hs.foldl fun _ _ ht => ht.killHart ..
  exact .ite (ht.fatal ..) ht

theorem stopRun (hs : s.Canon c) (r : RunRec) : (s.stopRun r).Canon c := by
  unfold State.stopRun
  extract_lets r s1 s2 gs s3 s4
  have h2 : s2.Canon c := (hs.setRun _).foldl fun _ _ ht => ht.endParked ..
  have h3 : s3.Canon c := h2.foldl fun _ _ ht => ht.endTask _
  have h4 : s4.Canon c := h3.foldl fun _ g ht => ht.setHart g
  split
  · exact h4.runCheck _
  · exact h4

theorem stopNewer (hs : s.Canon c) (p : Nat) : (s.stopNewer p).Canon c := hs.foldl fun _ _ ht => ht.stopRun _

theorem draftChanged (hs : s.Canon c) (p d : Nat) : (s.draftChanged p d).Canon c := (hs.draftTail ..).stopNewer _

end State.Canon

end

section
variable {c : Given} {s t : State} {h : Hart}

/-! ### The start of copies and selection (R91, R92, R215 to R219) -/

namespace State.Canon

theorem revokeFrom (hs : s.Canon c) (p g n : Nat) : (s.revokeFrom p g n).1.Canon c := by
  unfold State.revokeFrom
  extract_lets h l
  split
  extract_lets a b kept t l' s'
  have hs' : s'.Canon c := by
    refine hs.setHart g fun hh => ⟨hh.1, ?_⟩
    have hl : l'.vmem = l.vmem := by
      simp only [l']
      split_ifs <;> rfl
    exact hl ▸ hh.2
  exact .ite hs' (hs'.returnPass ..)

theorem takeMinimum (hs : s.Canon c) {fk g minc prio n : Nat} (h : s.takeMinimum fk g minc prio = some (t, n)) : t.Canon c := by
  unfold State.takeMinimum at h
  extract_lets f need vs total at h
  split at h
  · cases h
    exact hs.setForm ..
  · split at h
    · cases h
    · have hv : (vs.foldl (fun (acc : State × Nat × Nat) v =>
          ((acc.1.revokeFrom g v acc.2.2).1, acc.2.1 + (acc.1.revokeFrom g v acc.2.2).2.1,
            acc.2.2 - (acc.1.revokeFrom g v acc.2.2).2.1 - (acc.1.revokeFrom g v acc.2.2).2.2)) (s, 0, need)).1.Canon c :=
        List.foldlRecOn (motive := fun (p : State × Nat × Nat) => p.1.Canon c) vs _ hs fun acc hacc v _ => hacc.revokeFrom ..
      cases h
      exact hv.setForm ..

theorem takeExtra (hs : s.Canon c) (fk g n : Nat) : (s.takeExtra fk g n).Canon c := by
  induction n generalizing s with
  | zero => exact hs
  | succ n ih =>
    simp only [State.takeExtra]
    split
    · exact hs
    · refine ih (((hs.askPass ..).setForm ..).setHart g fun hh => ⟨hh.1, ?_⟩)
      split
      · exact hh.2
      · exact hh.2

theorem startTiles (hs : s.Canon c) (g n : Nat) : (s.startTiles g n).Canon c := by
  unfold State.startTiles
  refine .ite hs ?_
  exact .setHart (.askPass (.setForm hs ..) ..) g

theorem startCopy (hs : s.Canon c) {r : RunRec} {rank core n : Nat} (h : s.startCopy r rank core = some (t, n)) : t.Canon c := by
  unfold State.startCopy at h
  extract_lets p ck m hs' g fk areas at h
  split at h
  · cases h
  · split at h
    next u held hu =>
      obtain ⟨rfl, -⟩ := Prod.mk.inj (Option.some.inj h)
      refine .startTiles (.foldl (hs.takeMinimum hu) fun v p hv => hv.setHart _ fun _ => ?_) ..
      split
      · exact ⟨.nil, .empty⟩
      · exact ⟨.nil, .empty⟩
    next => cases h

theorem extras (hs : s.Canon c) (r : RunRec) (g : Nat) : (s.extras r g).Canon c := hs.takeExtra ..

theorem startSome (hs : s.Canon c) (r : RunRec) (l : List (Nat × Nat)) (n : Nat) (did : List (Nat × Nat)) : (s.startSome r l n did).1.Canon c := by
  induction l generalizing s n did with
  | nil => exact hs
  | cons p l ih =>
    unfold State.startSome
    split
    · exact hs
    · split
      next u g hu => exact ih ((hs.startCopy hu).extras ..) ..
      next => exact ih hs ..

theorem startAll (hs : s.Canon c) {r : RunRec} {l : List (Nat × Nat)} {gs : List Nat} (h : s.startAll r l = some (t, gs)) : t.Canon c := by
  induction l generalizing s t gs with
  | nil =>
    cases h
    exact hs
  | cons p l ih =>
    unfold State.startAll at h
    split at h
    next u g hu =>
      obtain ⟨⟨v, gs'⟩, hv, hvt⟩ := Option.map_eq_some_iff.mp h
      cases hvt
      exact ih (hs.startCopy hu) hv
    next => cases h

theorem startSlot (hs : s.Canon c) (r : RunRec) (l : List (Nat × Nat)) : (s.startSlot r l).1.Canon c := by
  unfold State.startSlot
  split
  · split
    next u gs hu => exact (hs.startAll hu).foldl fun _ _ ht => ht.extras ..
    next => exact hs
  · exact hs.startSome ..

theorem leaveHead (hs : s.Canon c) (r : RunRec) : (s.leaveHead r).Canon c :=
  .ite (((hs.setQueue ..).setRun _).pushOnce _) hs

theorem started (hs : s.Canon c) (r : RunRec) (did : List (Nat × Nat)) : (s.started r did).Canon c := by
  unfold State.started
  exact .foldl (.same ((hs.setRun _).leaveHead _)) fun _ _ ht => ht.tryStart _

theorem look (hs : s.Canon c) (dk i : Nat) : (s.look dk i).1.Canon c := by
  simp only [State.look]
  split
  · exact hs
  · split
    · exact hs.queueErr ..
    · exact hs.pushOnce _
    next b u hu =>
      have hu := hs.regRead hu
      split
      · exact hu.queueErr ..
      · split
        · exact hu.setQueue ..
        · exact .setQueue (.ite (hu.pushOnce _) hu) ..

theorem lookAll (hs : s.Canon c) (dk : Nat) : (s.lookAll dk).1.Canon c :=
  List.foldlRecOn (motive := fun (p : State × List Cand) => p.1.Canon c) _ _ hs fun _ hp i _ => hp.look dk i

theorem fire (hs : s.Canon c) (dk : Nat) (p : Cand) : (s.fire dk p).Canon c := by
  unfold State.fire
  exact .settleCheck (.handOff (.started (.startSlot (.same hs) ..) ..) _) ..

theorem select (hs : s.Canon c) (dk level : Nat) (cs : List Cand) : (s.select dk level cs).Canon c := by
  simp only [State.select]
  split
  · exact hs
  · split
    · exact hs
    · exact ((hs.fire ..).lookAll _).setDie dk

theorem startOwed (hs : s.Canon c) {dk : Nat} {l : List RunRec} (h : s.startOwed dk l = some t) : t.Canon c := by
  induction l with
  | nil => cases h
  | cons r l ih =>
    simp only [State.startOwed] at h
    split at h
    · exact ih h
    · cases h
      exact (hs.startSlot ..).started ..

theorem askPreempt (hs : s.Canon c) (g reason : Nat) : (s.askPreempt g reason).Canon c := hs.foldl fun _ j ht => ht.setHart j

theorem levelSeven (hs : s.Canon c) (core : Nat) : (s.levelSeven core).Canon c := by
  simp only [State.levelSeven]
  split
  · exact hs
  · split
    · exact hs.askPreempt ..
    · exact hs

theorem noteBacklog (hs : s.Canon c) (dk : Nat) (cs : List Cand) : (s.noteBacklog dk cs).Canon c := hs.foldl fun _ _ ht => ht.setDie dk

theorem retry (hs : s.Canon c) (dk : Nat) : (s.retry dk).Canon c := by
  unfold State.retry
  exact .foldl (.foldl (.headersGo (.setDie hs dk) ..) fun _ _ ht => ht.settleCheck ..) fun _ _ ht => ht.runCheck _

theorem dispatchSlot (hs : s.Canon c) (dk : Nat) : (s.dispatchSlot dk).Canon c := by
  unfold State.dispatchSlot
  extract_lets s1
  have h1 : s1.Canon c := hs.retry dk
  refine .ite (h1.pushOnce _) ?_
  have h2 := h1.lookAll dk
  generalize s1.lookAll dk = p at h2
  obtain ⟨s2, all⟩ := p
  dsimp only
  have h3 (cs : List Cand) : (((s2.sevenCores dk all).foldl State.levelSeven s2).noteBacklog dk cs).Canon c :=
    .noteBacklog (.foldl h2 fun _ _ ht => ht.levelSeven _) ..
  split
  next u hu => exact ((h3 _).startOwed hu).pushOnce _
  next => exact .ite (h3 _) (((h3 _).select ..).pushOnce _)

end State.Canon

end

section
variable {c : Given} {s t : State} {h : Hart}

/-! ### Registrar windows, traps, fetch and scalar memory (R35, R70, R71, R80 to R82, R209, R334 to R340) -/

theorem Hart.Canon.writeX (hh : h.Canon c) (n : Reg) (v : Word) : (h.writeX n v).Canon c := by
  unfold Hart.writeX
  split
  · exact hh
  · exact hh

theorem Hart.Canon.countRetired (hh : h.Canon c) : h.countRetired.Canon c := by
  unfold Hart.countRetired
  split
  · exact hh
  · exact hh

theorem Hart.Canon.advance (hh : h.Canon c) (len : Nat) : (h.advance len).Canon c :=
  Hart.Canon.countRetired (h := { h with pc := h.pc + wordOf len }) hh

theorem Hart.Canon.jump (hh : h.Canon c) (target : Word) : (h.jump target).Canon c :=
  Hart.Canon.countRetired (h := { h with pc := target &&& ~~~1 }) hh

namespace State.Canon

theorem writeX (hs : s.Canon c) (d : Reg) (v : Word) : (s.writeX d v).Canon c := hs.same fun hh => Hart.Canon.writeX hh d v

theorem advance (hs : s.Canon c) (len : Nat) : (s.advance len).Canon c := hs.same fun hh => Hart.Canon.advance hh len

theorem jump (hs : s.Canon c) (target : Word) : (s.jump target).Canon c := hs.same fun hh => Hart.Canon.jump hh target

theorem finishX (hs : s.Canon c) (d : Reg) (v : Word) (len : Nat) : (s.finishX d v len).Canon c := (hs.writeX d v).advance len

theorem tailWrite (hs : s.Canon c) (p qn v : Nat) : (s.tailWrite p qn v).Canon c := by
  unfold State.tailWrite
  exact .ite (hs.roll ..) (.ite (hs.queueErr ..) (.pokePackage (hs.setQueue ..) _))

theorem queueWrite (hs : s.Canon c) (p qn b n v : Nat) : (s.queueWrite p qn b n v).Canon c := by
  unfold State.queueWrite
  extract_lets q q1 lsz q2 t
  have ht : t.Canon c := (hs.setQueue ..).pokePackage _
  exact .ite (ht.tailWrite ..) ht

theorem tcbWrite (hs : s.Canon c) (dk b n v : Nat) : (s.tcbWrite dk b n v).Canon c := by
  unfold State.tcbWrite
  exact .ite (hs.setDie dk) (.ite (.pushOnce (hs.setDie dk) _) (hs.setDie dk))

theorem winWrite (hs : s.Canon c) (dk off n v : Nat) : (s.winWrite dk off n v).Canon c := by
  unfold State.winWrite
  extract_lets d
  split
  · exact hs
  · split
    · exact hs.queueWrite ..
    · exact hs.setDie dk
    · exact hs.setDie dk
    · exact .ite (.settleCheck (hs.setDie dk) ..) (hs.setDie dk)
    · exact hs.tcbWrite ..
    · exact .pokeProctor (hs.setDie dk) _
    · exact hs.setDie dk
    · exact hs
    · exact hs

theorem doubleFault (hs : s.Canon c) (t : TrapInfo) (pc : Word) : (s.doubleFault t pc).Canon c := (hs.rollHart ..).kill ..

theorem dropAsk (hs : s.Canon c) : s.dropAsk.Canon c := by
  unfold State.dropAsk
  extract_lets g h s1 open_ back s2 _
  have h1 : s1.Canon c := hs.withdraw ..
  have h2 : s2.Canon c := .ite h1 (h1.returnPass ..)
  exact .ite hs h2.same

theorem takeTrap (hs : s.Canon c) (t : TrapInfo) (pc : Word) : (s.takeTrap t pc).Canon c := by
  unfold State.takeTrap
  exact .ite (hs.doubleFault ..) (.ite hs (.rollHart (.same hs.dropAsk) ..))

theorem trapIssue (hs : s.Canon c) (cause : Nat) (va info : Word) : (s.trapIssue cause va info).Canon c := hs.takeTrap ..

theorem trapBits (hs : s.Canon c) (cause : Nat) (i : Sys2Proof.Instr) : (s.trapBits cause i).Canon c := hs.trapIssue ..

theorem trapAccess (hs : s.Canon c) (bits : Word) (cause : Nat) (va : Word) : (s.trapAccess bits cause va).Canon c := hs.trapIssue ..

theorem fetchParcels (hs : s.Canon c) {va : Word} {n : Nat} {bs : List Sys2Proof.Byte} (h : s.fetchParcels va n = .bytes bs t) : t.Canon c := by
  induction n generalizing va bs t with
  | zero =>
    cases h
    exact hs
  | succ n ih =>
    unfold State.fetchParcels at h
    split at h
    · cases h
    · cases h
    · split at h
      next u hu =>
        cases h
        exact (ih hu).visit ..
      next hb => exact absurd h (hb _ _)

theorem fetch (hs : s.Canon c) {bs : List Sys2Proof.Byte} (h : s.fetch = .bytes bs t) : t.Canon c := by
  unfold State.fetch at h
  split at h
  · cases h
  · cases h
  · exact hs.fetchParcels h

theorem closeLate (hs : s.Canon c) (k n : Nat) : (s.closeLate k n).Canon c := by
  unfold State.closeLate
  split
  · exact .ite hs.same hs
  · exact hs

theorem dropLate (hs : s.Canon c) : s.dropLate.Canon c := hs.same

theorem openLate (hs : s.Canon c) (d : Reg) (leaf : Option LeafAt) (k n : Nat) (signed : Bool) : (s.openLate d leaf k n signed).Canon c :=
  .ite hs hs.same

theorem lateRead (hs : s.Canon c) : s.lateRead.Canon c := by
  unfold State.lateRead
  split
  · exact .ite hs.same (.writeX hs.same ..)
  · exact hs

theorem release (hs : s.Canon c) {level : Nat} (h : s.release level = some t) : t.Canon c := hs.order h

end State.Canon

namespace Result.Canon

theorem ite {p : Prop} [Decidable p] {r r' : Result} (hr : r.Canon c) (hr' : r'.Canon c) : Result.Canon c (if p then r else r') := by
  split
  · exact hr
  · exact hr'

theorem load (hs : s.Canon c) (bits : Word) (n : Nat) (signed : Bool) (d : Reg) (va : Word) (len : Nat) :
    (s.load bits n signed d va len).Canon c := by
  unfold State.load
  split
  · exact .next (hs.finishX ..)
  · split
    · exact .next (hs.trapAccess ..)
    · exact .next hs
    · exact .ite (.next (hs.trapIssue ..)) <| .ite (.next (hs.trapIssue ..)) <|
        .next ((((hs.visit ..).closeLate ..).openLate ..).finishX ..)

theorem store (hs : s.Canon c) (bits : Word) (n : Nat) (v va : Word) (len : Nat) : (s.store bits n v va len).Canon c := by
  unfold State.store
  split
  · exact .next ((hs.dropLate.winWrite ..).advance _)
  · split
    · exact .next (hs.trapAccess ..)
    · exact .next hs
    · extract_lets t
      have ht : t.Canon c := ((hs.visit ..).closeLate ..).place ..
      exact .ite (.ite (.next (ht.nextFree.trapIssue ..)) (.next (hs.nextFree.trapIssue ..))) (.next (ht.advance _))

theorem atomic (hs : s.Canon c) (bits : Word) (n : Nat) (rel acq : Bool) (op : Nat → Option Nat) (out : Nat → Word) (d : Reg) (va : Word) :
    (s.atomic bits n rel acq op out d va).Canon c := by
  unfold State.atomic
  split
  · exact .next hs
  next u hu =>
    have hu : u.Canon c := by
      split at hu
      · exact hs.release hu
      · cases hu
        exact hs
    split
    · refine .next (.finishX ?_ ..)
      split
      · exact hu.dropLate.winWrite ..
      · exact hu
    · split
      · exact .next (hu.trapAccess ..)
      · exact .next hu
      · extract_lets bad t old t'
        have ht : t.Canon c := ((hu.visit ..).closeLate ..).settle ..
        have ht' : t'.Canon c := by
          simp only [t']
          split
          · exact ht.update ..
          · exact ht
        exact .ite (.next (hu.trapIssue ..)) <| .ite (.next (hu.invalidateReplicas _)) <| .ite (.next hu) <|
          .ite (.ite (.next (ht'.nextFree.trapIssue ..)) (.next (hu.nextFree.trapIssue ..))) (.next (ht'.finishX ..))

theorem stall (hs : s.Canon c) (yields : Bool) : (s.stall yields).Canon c :=
  .ite (.next (hs.endTask _)) (.ite (.next (hs.askPreempt ..)) (.next hs))

end Result.Canon

end

section
variable {c : Given} {s t : State} {h : Hart} {m : Memory} {l : Lease}

/-! ### The vector queue, elements and rings (R98 to R122) -/

/-- What is given to be canonical is so in the state that an instruction at the queue head leaves. -/
inductive HeadRes.Canon (c : Given) : HeadRes → Prop
  | done {t : State} : t.Canon c → Canon c (.done t)
  | trap {t : State} (ti : TrapInfo) : t.Canon c → Canon c (.trap t ti)
  | wait {t : State} : t.Canon c → Canon c (.wait t)

namespace Memory.Canon

theorem clear (hm : m.Canon c) (k n : Nat) : (m.clear k n).Canon c := ⟨fun ht => Memory.clear_wf (hm.wf ht)⟩

theorem paste (hm : m.Canon c) (k : Nat) (e : Memory) : (m.paste k e).Canon c := ⟨fun ht => Memory.paste_wf (hm.wf ht)⟩

theorem ite {p : Prop} [Decidable p] {m' : Memory} (hm : m.Canon c) (hm' : m'.Canon c) : Memory.Canon c (if p then m else m') := by
  split
  · exact hm
  · exact hm'

theorem vset (hm : m.Canon c) (reg n wb i v : Nat) : (Machine.vset m reg n wb i v).Canon c := hm.write ..

theorem vclear (hm : m.Canon c) (reg n lo hi j : Nat) : (Machine.vclear m reg n lo hi j).Canon c := by
  induction j with
  | zero => exact hm
  | succ j ih => exact .ite (ih.clear ..) ih

theorem tailZero (hm : m.Canon c) (x : VCtx) (n wb from_ : Nat) : (x.tailZero m n wb from_).Canon c := .ite (hm.vclear ..) hm

theorem writeElems (x : VCtx) (dst wb : Nat) (act : Nat → Bool) (f : Nat → EOut) (n i : Nat) {r : Memory × Word} (hm : r.1.Canon c) :
    (Machine.writeElems x dst wb act f n i r).1.Canon c := by
  induction n generalizing i r with
  | zero => exact hm
  | succ n ih =>
    refine ih _ ?_
    split_ifs
    · exact hm.vset ..
    · exact hm.vset ..
    · exact hm

theorem showEntry (hl : l.vmem.Canon c) (slot j : Nat) (p : RingEntry → Bool) : (l.showEntry slot j p).vmem.Canon c := by
  unfold Lease.showEntry
  extract_lets base
  split
  · exact (hl.clear ..).paste ..
  · exact hl

theorem showRings (hl : l.vmem.Canon c) (tag : Nat) (pops push : List Nat) : (l.showRings tag pops push).vmem.Canon c :=
  List.foldlRecOn (motive := fun (l : Lease) => l.vmem.Canon c) push _
    (List.foldlRecOn (motive := fun (l : Lease) => l.vmem.Canon c) pops _ hl fun _ hl _ _ => hl.showEntry ..) fun _ hl _ _ => hl.showEntry ..

theorem hideRings (hl : l.vmem.Canon c) (tag : Nat) (pops push : List Nat) : (l.hideRings tag pops push).vmem.Canon c :=
  List.foldlRecOn (motive := fun (l : Lease) => l.vmem.Canon c) pops _
    (List.foldlRecOn (motive := fun (l : Lease) => l.vmem.Canon c) push _ hl fun _ hl _ _ => hl.clear ..) fun _ hl _ _ => hl.clear ..

theorem popRings (hl : l.vmem.Canon c) (tag : Nat) (pops : List Nat) : (pops.foldl (Lease.popRing tag) l).vmem.Canon c :=
  List.foldlRecOn (motive := fun (l : Lease) => l.vmem.Canon c) pops _ hl fun _ hl _ _ => hl

theorem openRings (hl : l.vmem.Canon c) (tag : Nat) (push : List Nat) : (push.foldl (Lease.openRing tag) l).vmem.Canon c :=
  List.foldlRecOn (motive := fun (l : Lease) => l.vmem.Canon c) push _ hl fun _ hl _ _ => hl

end Memory.Canon

theorem Hart.Canon.setMask (hh : h.Canon c) (n v : Nat) : (h.setMask n v).Canon c := by
  unfold Hart.setMask
  split
  · exact hh
  · exact hh

namespace State.Canon

theorem vmem (hs : s.Canon c) : s.vmem.Canon c := by
  unfold State.vmem State.lease
  split
  · exact hs.hart.2
  · exact (hs.getHart _).2

theorem setLease (hs : s.Canon c) (hl : l.vmem.Canon c) : (s.setLease l).Canon c := by
  unfold State.setLease
  split
  · exact hs.same fun hh => by exact ⟨hh.1, hl⟩
  · exact hs.setHart _ fun hh => by exact ⟨hh.1, hl⟩

theorem setVmem (hs : s.Canon c) (hm : m.Canon c) : (s.setVmem m).Canon c := hs.setLease hm

theorem orVstat (hs : s.Canon c) (v : Word) : (s.orVstat v).Canon c := hs.same

theorem setFront (hs : s.Canon c) (e : QEntry) : (s.setFront e).Canon c := hs.same

theorem popFront (hs : s.Canon c) : s.popFront.Canon c := hs.same

theorem noEstart (hs : s.Canon c) : s.noEstart.Canon c := hs.same

theorem endV (hs : s.Canon c) : s.endV.Canon c := .ite hs hs.noEstart

theorem finishV (hs : s.Canon c) (d : Reg) (v : Word) : (s.finishV d v).Canon c := hs.endV.finishX ..

theorem advanceV (hs : s.Canon c) : s.advanceV.Canon c := hs.endV.advance _

theorem healMask (hs : s.Canon c) (e : QEntry) (bad : SMap Bool) : (s.healMask e bad).Canon c := by
  unfold State.healMask
  split
  · exact hs
  · split
    · exact hs
    · exact hs.same

theorem withMlen (hs : s.Canon c) (e : QEntry) : (s.withMlen e).Canon c := by
  unfold State.withMlen
  split
  · exact hs.same
  · exact hs

theorem keepMlen (hs : s.Canon c) (e : QEntry) (old : Word) : (s.keepMlen e old).Canon c := by
  unfold State.keepMlen
  split
  · exact hs.same
  · exact hs

theorem behindFence (hs : s.Canon c) {e : QEntry} (h : s.behindFence e = some t) : t.Canon c := by
  unfold State.behindFence at h
  split at h
  · exact hs.order h
  · cases h
    exact hs

end State.Canon

namespace HeadRes.Canon

theorem doneV (hs : s.Canon c) : s.doneV.Canon c := .done hs.noEstart

theorem ite {p : Prop} [Decidable p] {r r' : HeadRes} (hr : r.Canon c) (hr' : r'.Canon c) : HeadRes.Canon c (if p then r else r') := by
  split
  · exact hr
  · exact hr'

theorem queueTrap (hs : s.Canon c) (e : QEntry) (src cause : Nat) (va : Word) (info p : Nat) : (s.queueTrap e src cause va info p).Canon c :=
  .trap _ (hs.setFront _)

theorem maskTrap (hs : s.Canon c) (e : QEntry) (k : Nat) : (s.maskTrap e k).Canon c := .trap _ (hs.setFront _)

theorem elementwise (hs : s.Canon c) (e : QEntry) (vd : Reg) (wb mask : Nat) (srcs : List (Nat × Nat)) (f : Memory → Nat → EOut) :
    (s.elementwise e vd wb mask srcs f).Canon c := by
  simp only [State.elementwise]
  split
  · exact .queueTrap hs ..
  · exact .doneV (.orVstat (.setVmem hs (.tailZero (.writeElems _ _ _ _ _ _ _ hs.vmem) ..)) _)

theorem elementMask (hs : s.Canon c) (e : QEntry) (md wb mask : Nat) (srcs : List (Nat × Nat)) (f : Memory → Nat → Bool × Word) :
    (s.elementMask e md wb mask srcs f).Canon c := by
  simp only [State.elementMask]
  split
  · exact .queueTrap hs ..
  · exact .doneV (.orVstat (hs.same fun hh => Hart.Canon.setMask hh ..) _)

end HeadRes.Canon

/-! ### What is run at the queue head -/

section
variable {head : QEntry → State → HeadRes}

namespace HeadRes.Canon

theorem headRes (hs : s.Canon c) (e : QEntry) (hh : ∀ e t, t.Canon c → (head e t).Canon c) : (s.headRes e head).Canon c := by
  unfold State.headRes State.overMasks
  refine .ite (hh _ _ hs) ?_
  split
  · exact .maskTrap hs ..
  · exact hh _ _ hs

theorem inRings (hs : s.Canon c) (e : QEntry) (pops push : List Nat) (hh : ∀ e t, t.Canon c → (head e t).Canon c) :
    (s.inRings e pops push head).Canon c := by
  have ht := hh e _ (hs.setLease (hs.vmem.showRings s.ringTag pops push))
  unfold State.inRings
  extract_lets tag
  generalize head e (s.setLease (s.lease.showRings s.ringTag pops push)) = r at ht
  cases ht with
  | done ht => exact .done (ht.setLease (ht.vmem.hideRings ..))
  | trap ti ht => exact .trap ti (ht.setLease (ht.vmem.hideRings ..))
  | wait ht => exact .wait (ht.setLease (ht.vmem.hideRings ..))

theorem withRingsAll (hs : s.Canon c) (e : QEntry) (srcs dsts : List Reg) (hh : ∀ e t, t.Canon c → (head e t).Canon c) :
    (s.withRingsAll e srcs dsts head).Canon c := by
  unfold State.withRingsAll
  refine .ite (hh _ _ hs) <| .ite (hh _ _ hs) <| .ite (.inRings hs _ _ _ hh) <| .ite (.wait hs) ?_
  exact .inRings (.setFront (.setLease hs (.openRings (.popRings hs.vmem ..) ..)) _) _ _ _ hh

theorem withRings (hs : s.Canon c) (e : QEntry) (srcs : List Reg) (dst : Option Reg) (hh : ∀ e t, t.Canon c → (head e t).Canon c) :
    (s.withRings e srcs dst head).Canon c := .withRingsAll hs _ _ _ hh

end HeadRes.Canon

theorem State.Canon.runFrontWith (hs : s.Canon c) {slip : State → State} (hslip : ∀ t, t.Canon c → (slip t).Canon c)
    (hh : ∀ e t, t.Canon c → (head e t).Canon c) : (s.runFrontWith slip head).Canon c := by
  unfold State.runFrontWith
  split
  · exact hs
  next e _ _ =>
    refine .ite hs ?_
    split
    · exact hs
    next u hu =>
      have hr := HeadRes.Canon.headRes ((hs.behindFence hu).withMlen e) e hh
      generalize (u.withMlen e).headRes e head = r at hr
      cases hr with
      | done ht => exact ((ht.keepMlen ..).healMask ..).popFront
      | trap ti ht => exact (hslip _ (ht.keepMlen ..)).takeTrap ..
      | wait ht => exact ht.keepMlen ..

theorem State.Canon.runFront (hs : s.Canon c) (hh : ∀ e t, t.Canon c → (head e t).Canon c) : (s.runFront head).Canon c :=
  hs.runFrontWith (fun _ ht => ht) hh

theorem Result.Canon.issueNow (hs : s.Canon c) (now : Bool) (i : Sys2Proof.Instr) (len : Nat) (chk : Option IssueTrap) (xa xb : Word)
    (hh : ∀ e t, t.Canon c → (head e t).Canon c) : (s.issueNow now i len chk xa xb head).Canon c := by
  unfold State.issueNow
  split
  · exact .next (hs.trapIssue ..)
  · extract_lets t _ u
    have hu : u.Canon c := (hs.advance len).same
    exact .ite (.next hs) (.next (.ite (hu.runFront hh) hu))

theorem Result.Canon.issue (hs : s.Canon c) (i : Sys2Proof.Instr) (len : Nat) (chk : Option IssueTrap) (xa xb : Word)
    (hh : ∀ e t, t.Canon c → (head e t).Canon c) : (s.issue i len chk xa xb head).Canon c := .issueNow hs _ _ _ _ _ _ hh

end

end

section
variable {c : Given} {s t : State} {h : Hart} {m : Memory} {l : Lease}

/-! ### Strip boundaries (R93, R103, R114, R116 to R119) -/

theorem Memory.Canon.poison (hm : m.Canon c) (k : Nat) : (m.poison k).Canon c := ⟨fun ht => Memory.poison_wf (hm.wf ht)⟩

theorem Memory.Canon.carryGroup (hm : m.Canon c) (old : Memory) (ro rn n wb k : Nat) : (Machine.carryGroup old ro rn n wb k m).Canon c := by
  induction k with
  | zero => exact hm
  | succ k ih => exact .ite ((ih.vset ..).poison _) (ih.vset ..)

theorem Memory.Canon.redistribute (old : Memory) (ro rn grp wb keep carry : Nat) :
    (Machine.redistribute old ro rn grp wb keep carry).Canon c := Memory.Canon.empty.foldl fun _ _ hm => hm.carryGroup ..

theorem Hart.Canon.redistributed (hh : h.Canon c) (n n' vl : Nat) (old vcfg : Word) : (h.redistributed n n' vl old vcfg).Canon c :=
  ⟨hh.1, .ite (.redistribute ..) .empty⟩

theorem Hart.Canon.release (hh : h.Canon c) (vl : Nat) : (h.release vl).Canon c := by
  unfold Hart.release
  split
  · exact hh
  · exact hh

namespace State.Canon

theorem takeTarget (hs : s.Canon c) (g : Nat) : (s.takeTarget g).Canon c := by
  unfold State.takeTarget
  refine .ite (hs.setHart g fun hh => ⟨hh.1, ?_⟩) hs
  unfold Lease.sample
  split
  · exact hh.2
  · exact hh.2

theorem resize (hs : s.Canon c) (vl : Nat) (old vcfg : Word) : (s.resize vl old vcfg).Canon c := by
  unfold State.resize
  extract_lets h l h' _ t
  have ht : t.Canon c := hs.same fun hh => by exact Hart.Canon.redistributed hh ..
  exact .ite ht (ht.freeClusters ..)

end State.Canon

theorem HeadRes.Canon.headBoundary (e : QEntry) (hs : s.Canon c) : (Machine.headBoundary e s).Canon c := by
  unfold Machine.headBoundary
  exact .ite (.done hs) <| .ite (.done hs.same) <| .ite (.wait hs) (.done (hs.resize ..))

namespace State.Canon

theorem markBoundary (hs : s.Canon c) (e : QEntry) : (s.markBoundary e).Canon c := by
  unfold State.markBoundary
  exact .ite hs (.ite (.runFront hs.same fun _ _ ht => .headBoundary _ ht) hs.same)

theorem setLength (hs : s.Canon c) (vl : Nat) (vcfg : Word) (d : Reg) : (s.setLength vl vcfg d).Canon c := by
  unfold State.setLength
  exact .writeX hs.same ..

theorem mapCopies (hs : s.Canon c) {f : Hart → Hart} (hf : ∀ h, h.Canon c → (f h).Canon c) : (s.mapCopies f).Canon c := hs.mapCopiesOf hf _

theorem gsetTargets (hs : s.Canon c) : s.gsetTargets.Canon c := by
  refine hs.foldl fun t g ht => ?_
  split
  · exact ht.takeTarget g
  · exact ht

theorem gsetTry (hs : s.Canon c) : s.gsetTry.Canon c := by
  unfold State.gsetTry
  exact .ite (hs.gsetTargets.mapCopies fun _ hh => hh.release _) hs

end State.Canon

namespace Result.Canon

theorem boundary (hs : s.Canon c) (i : Sys2Proof.Instr) (bits vcfg xa : Word) (avl : Nat) (d : Reg) (len : Nat) :
    (s.boundary i bits vcfg xa avl d len).Canon c := by
  unfold State.boundary
  exact .ite (.next (hs.endTask _)) <| .ite (.next hs) <| .ite (.next hs) <|
    .next ((((hs.takeTarget _).setLength ..).advance _).markBoundary _)

theorem hSetvl (hs : s.Canon c) (o : Sys2Proof.HOp) : (execHSetvl o s).Canon c := by
  unfold execHSetvl
  exact .ite (.next (hs.trapIssue ..)) (.boundary hs ..)

theorem setcfg (hs : s.Canon c) (o : Sys2Proof.IOp) : (execSetcfg o s).Canon c := by
  unfold execSetcfg
  exact .ite (.next (hs.trapBits ..)) (.ite (.next hs) (.boundary hs ..))

theorem gsetvl (hs : s.Canon c) (o : Sys2Proof.IOp) : (execGsetvl o s).Canon c := by
  unfold execGsetvl
  extract_lets vcfg e _ s'
  have hs' : s'.Canon c := by
    simp only [s']
    split
    · exact .gsetTry hs.same
    · exact hs.gsetTry
    · exact hs
  clear_value s'
  refine .ite (.next (hs.endTask _)) <| .ite (.boundary hs ..) <| .ite (.next hs) ?_
  split
  · exact .next (.markBoundary (.advance (.same (hs'.setLength ..)) _) _)
  · exact .next hs'

/-! ### Atomics, and the shapes of the element-wise instructions -/

theorem amo (hs : s.Canon c) (i : Sys2Proof.Instr) (o : Sys2Proof.AOp) (f : Nat → Nat → Nat → Nat) : (s.amo i o f).Canon c := by
  unfold State.amo
  exact .atomic hs ..

section
variable {head : QEntry → State → HeadRes} (hh : ∀ e t, t.Canon c → (head e t).Canon c)
include hh

theorem issueBin (hs : s.Canon c) (i : Sys2Proof.Instr) (o : Sys2Proof.VOp) (wb : Nat) : (s.issueBin i o wb head).Canon c := .issue hs _ _ _ _ _ hh

theorem issueCmp (hs : s.Canon c) (i : Sys2Proof.Instr) (o : Sys2Proof.VOp) (wb : Nat) : (s.issueCmp i o wb head).Canon c := .issue hs _ _ _ _ _ hh

theorem issueUn (hs : s.Canon c) (i : Sys2Proof.Instr) (o : Sys2Proof.VOp) (db sb : Nat) (bad : Bool) : (s.issueUn i o db sb bad head).Canon c :=
  .issue hs _ _ _ _ _ hh

theorem issueRed (hs : s.Canon c) (i : Sys2Proof.Instr) (o : Sys2Proof.VOp) (wb : Nat) : (s.issueRed i o wb head).Canon c := .issue hs _ _ _ _ _ hh

end

end Result.Canon

namespace HeadRes.Canon

variable (o : Sys2Proof.VOp) (e : QEntry)

theorem headBin (hs : s.Canon c) (wb : Nat) (acc : Bool) (f : Nat → Nat → Nat → EOut) : (s.headBin o e wb acc f).Canon c :=
  .withRings hs _ _ _ fun _ _ ht => .elementwise ht ..

theorem headInt (hs : s.Canon c) (acc : Bool) (f : IntOp) : (s.headInt o e acc f).Canon c := .headBin _ _ hs ..

theorem headCmp (hs : s.Canon c) (wb : Nat) (f : Nat → Nat → Bool × Word) : (s.headCmp o e wb f).Canon c :=
  .withRings hs _ _ _ fun _ _ ht => .elementMask ht ..

theorem headIntCmp (hs : s.Canon c) (f : Int → Int → Bool) : (s.headIntCmp o e f).Canon c := by
  unfold State.headIntCmp
  exact .headCmp _ _ hs ..

theorem headVmerge (hs : s.Canon c) : (Machine.headVmerge o e s).Canon c := .withRings hs _ _ _ fun _ _ ht => .elementwise ht ..

theorem headVmv (hs : s.Canon c) : (Machine.headVmv o e s).Canon c := .withRings hs _ _ _ fun _ _ ht => .elementwise ht ..

theorem headVid (hs : s.Canon c) : (Machine.headVid o e s).Canon c := .withRings hs _ _ _ fun _ _ ht => .elementwise ht ..

theorem headFp (hs : s.Canon c) (acc : Bool) (f : Fmt → Rm → Nat → Nat → Nat → FRes) : (s.headFp o e acc f).Canon c := .headBin _ _ hs ..

theorem headUn (hs : s.Canon c) (db sb : Nat) (f : Rm → Nat → Nat → EOut) : (s.headUn o e db sb f).Canon c :=
  .withRings hs _ _ _ fun _ _ ht => .elementwise ht ..

theorem headFp1 (hs : s.Canon c) (f : Fmt → Rm → Nat → FRes) : (s.headFp1 o e f).Canon c := .headUn _ _ hs ..

theorem headFpCmp (hs : s.Canon c) (k : Cmp) : (s.headFpCmp o e k).Canon c := .headCmp _ _ hs ..

theorem headRed (hs : s.Canon c) (wb : Nat) (f : List Nat → Word × Word) : (s.headRed o e wb f).Canon c := by
  refine .withRings hs _ _ _ fun e t ht => ?_
  extract_lets x m idx
  split
  · exact .queueTrap ht ..
  · exact .doneV ((ht.writeX ..).orVstat _)

theorem headRedInt (hs : s.Canon c) (start : Word) (f : Word → Word → Word) : (s.headRedInt o e start f).Canon c := .headRed _ _ hs ..

theorem headRedF (hs : s.Canon c) (f : Fmt → List Nat → Option Nat → Nat × FFlags) : (s.headRedF o e f).Canon c := by
  unfold State.headRedF
  exact .headRed _ _ hs ..

theorem headRedM (hs : s.Canon c) (larger : Bool) : (s.headRedM o e larger).Canon c := by
  unfold State.headRedM
  exact .headRed _ _ hs ..

end HeadRes.Canon

end

section
variable {c : Given} {s t : State} {h : Hart} {m : Memory} {l : Lease}

/-! ### Masks, permutes, selection and slices (R136 to R151) -/

theorem Memory.Canon.putFrom (hm : m.Canon c) (reg d wb i : Nat) (vs : List Nat) : (Machine.putFrom reg d wb i vs m).Canon c := by
  induction vs generalizing i m with
  | nil => exact hm
  | cons v vs ih => exact ih (hm.vset ..) _

theorem State.Canon.writeGroup (hs : s.Canon c) (x : VCtx) (vd : Reg) (wb mask : Nat) (f : Nat → EOut) : (s.writeGroup x vd wb mask f).Canon c := by
  unfold State.writeGroup
  exact .orVstat (.setVmem hs (.tailZero (.writeElems _ _ _ _ _ _ _ hs.vmem) ..)) _

namespace HeadRes.Canon

theorem whole (hs : s.Canon c) (e : QEntry) (bad : Option Nat) {body : State → HeadRes} (hb : (body s).Canon c) : (s.whole e bad body).Canon c := by
  unfold State.whole
  split
  · exact .queueTrap hs ..
  · exact hb

theorem headMask (hs : s.Canon c) (md : Reg) (e : QEntry) (f : Nat → Bool) : (s.headMask md e f).Canon c := by
  unfold State.headMask
  exact .doneV (hs.same fun hh => by exact Hart.Canon.setMask hh ..)

variable (o : Sys2Proof.VOp) (e : QEntry)

theorem headMask2 (hs : s.Canon c) (f : Bool → Bool → Bool) : (s.headMask2 o e f).Canon c := .headMask hs ..

theorem headMpopc (hs : s.Canon c) : (Machine.headMpopc o e s).Canon c := .doneV (hs.writeX ..)

theorem headMfirst (hs : s.Canon c) : (Machine.headMfirst o e s).Canon c := .doneV (hs.writeX ..)

theorem headVmvx (hs : s.Canon c) : (Machine.headVmvx o e s).Canon c := by
  refine .withRings hs _ _ _ fun e t ht => ?_
  exact .ite (.whole ht _ _ (.doneV (ht.writeX ..))) (.doneV ((ht.writeX ..).orVstat _))

theorem headVscan (hs : s.Canon c) : (Machine.headVscan o e s).Canon c := by
  refine .withRings hs _ _ _ fun e t ht => ?_
  exact .whole ht _ _ (.doneV (ht.writeGroup ..))

theorem headVperm (hs : s.Canon c) : (Machine.headVperm o e s).Canon c := by
  refine .withRings hs _ _ _ fun e t ht => ?_
  exact .whole ht _ _ (.doneV (ht.writeGroup ..))

theorem headSlide (hs : s.Canon c) (lo : Nat) (src : Nat → Option Nat) : (s.headSlide o e lo src).Canon c := by
  refine .withRings hs _ _ _ fun e t ht => ?_
  exact .whole ht _ _ (.doneV (ht.setVmem (.tailZero (.writeElems _ _ _ _ _ _ _ ht.vmem) ..)))

theorem headVslideup (hs : s.Canon c) : (Machine.headVslideup o e s).Canon c := by
  unfold Machine.headVslideup
  exact .headSlide _ _ hs ..

theorem headVslidedn (hs : s.Canon c) : (Machine.headVslidedn o e s).Canon c := by
  unfold Machine.headVslidedn
  exact .headSlide _ _ hs ..

theorem headVcompress (hs : s.Canon c) : (Machine.headVcompress o e s).Canon c := by
  refine .withRings hs _ _ _ fun e t ht => ?_
  exact .whole ht _ _ (.doneV (ht.setVmem (.tailZero (ht.vmem.putFrom ..) ..)))

theorem headVrank (hs : s.Canon c) : (Machine.headVrank o e s).Canon c :=
  .withRings hs _ _ _ fun _ _ ht => .doneV (ht.writeGroup ..)

theorem headSelect (hs : s.Canon c) (max : Bool) : (s.headSelect o e max).Canon c := by
  refine .withRings hs _ _ _ fun e t ht => ?_
  refine .whole ht _ _ ?_
  split
  · exact .doneV (((ht.writeX ..).writeX ..).orVstat _)
  · exact .doneV (State.Canon.same ((ht.writeX ..).writeX ..) fun hh => by exact Hart.Canon.setMask hh ..)

theorem headVsortk (hs : s.Canon c) : (Machine.headVsortk o e s).Canon c := by
  refine .withRings hs _ _ _ fun e t ht => ?_
  exact .whole ht _ _ (.doneV (ht.setVmem (.tailZero (ht.vmem.putFrom ..) ..)))

theorem headVbfly (hs : s.Canon c) : (Machine.headVbfly o e s).Canon c := by
  refine .withRings hs _ _ _ fun e t ht => ?_
  exact .ite (.doneV (ht.orVstat _)) (.whole ht _ _ (.doneV (ht.writeGroup ..)))

theorem headVbslice (hs : s.Canon c) : (Machine.headVbslice o e s).Canon c := by
  refine .withRings hs _ _ _ fun e t ht => ?_
  exact .whole ht _ _ (.doneV ((ht.setVmem (.tailZero (ht.vmem.putFrom ..) ..)).orVstat _))

theorem headVbunslice (hs : s.Canon c) : (Machine.headVbunslice o e s).Canon c := by
  refine .withRings hs _ _ _ fun e t ht => ?_
  exact .whole ht _ _ (.doneV (ht.writeGroup ..))

end HeadRes.Canon

end

section
variable {c : Given} {s t : State} {h : Hart} {m : Memory} {l : Lease}

/-! ### Vector loads and stores (R152 to R171, R245 to R249, R267) -/

namespace State.Canon

theorem finishSlot (hs : s.Canon c) (g j : Nat) (sl : Slot) : (s.finishSlot g j sl).Canon c := hs.setHart g

theorem resumeStreams (hs : s.Canon c) : s.resumeStreams.Canon c :=
  hs.foldl fun _ _ ht => .ite ((ht.setSlot ..).pushOnce _) ht

theorem performed (hs : s.Canon c) (k : Kind) (hot : Hot) (va : Word) (pl : Place) (leaf : Option LeafAt) :
    (s.performed k hot va pl leaf).Canon c := (hs.visit ..).countHot ..

theorem pieced (hs : s.Canon c) (hot : Hot) (va : Word) (leaf : Option LeafAt) : (s.pieced hot va leaf).Canon c :=
  (hs.touch ..).countHot ..

theorem performAll (k : Kind) (a : VAcc) (l : List Nat) (hs : s.Canon c) : (Machine.performAll k a l s).Canon c := by
  induction l generalizing s with
  | nil => exact hs
  | cons i l ih =>
    refine ih ?_
    split
    · exact .ite (hs.pieced ..) (hs.performed ..)
    · exact .ite (hs.performed ..) hs
    · exact hs

theorem fillElems (a : VAcc) (reg d : Nat) (l : List Nat) (hs : s.Canon c) : (Machine.fillElems a reg d l s).Canon c := by
  induction l generalizing s with
  | nil => exact hs
  | cons i l ih =>
    refine ih ?_
    split
    · exact hs.setVmem (hs.vmem.vset ..)
    · exact hs

theorem loadElems (a : VAcc) (reg d : Nat) (l : List Nat) (hs : s.Canon c) : (Machine.loadElems a reg d l s).Canon c :=
  .performAll _ _ _ (.fillElems _ _ _ _ hs)

theorem zeroMasked (hs : s.Canon c) (x : VCtx) (d wb mask i n : Nat) : (s.zeroMasked x d wb mask i n).Canon c :=
  .ite (hs.setVmem (hs.vmem.foldl fun _ _ hm => hm.vset ..)) hs

theorem trim (hs : s.Canon c) (k : Nat) : (s.trim k).Canon c := by
  unfold State.trim
  split
  · exact hs
  · dsimp only
    split
    · exact hs.same
    · exact hs.same

theorem fofFill (hs : s.Canon c) (o : Sys2Proof.VOp) (e : QEntry) (a : VAcc) : (s.fofFill o e a).Canon c := by
  have ht := ((hs.fillElems a (s.vctx e).reg ((s.vctx e).dreg o.vd) (s.loadIdx o e e.p)).zeroMasked (s.vctx e)
    ((s.vctx e).dreg o.vd) a.wb o.m.toNat e.p ((s.vctx e).vl - e.p))
  exact ht.setVmem (ht.vmem.tailZero ..)

theorem fofAll (hs : s.Canon c) (o : Sys2Proof.VOp) (e : QEntry) (a : VAcc) : (s.fofAll o e a).Canon c :=
  .performAll _ _ _ (hs.fofFill ..)

theorem trimFill (hs : s.Canon c) (o : Sys2Proof.VOp) (e : QEntry) (a : VAcc) (k : Nat) : (s.trimFill o e a k).Canon c := by
  unfold State.trimFill
  extract_lets x d idx u _ v
  have hu : u.Canon c := .zeroMasked (.fillElems _ _ _ _ hs) ..
  have hv : v.Canon c := .trim (.same hu) _
  exact .ite (hv.setVmem (hv.vmem.tailZero ..)) (.nextFree (.fillElems _ _ _ _ hv))

theorem fofTrim (hs : s.Canon c) (o : Sys2Proof.VOp) (e : QEntry) (a : VAcc) (k : Nat) : (s.fofTrim o e a k).Canon c :=
  .performAll _ _ _ (hs.trimFill ..)

theorem setEstart (hs : s.Canon c) (k : Nat) : (s.setEstart k).Canon c := hs.same

theorem loadAbove (hs : s.Canon c) (x : VCtx) (a : VAcc) (d mask k : Nat) (pick : Nat → Bool) : (s.loadAbove x a d mask k pick).Canon c :=
  hs.foldl fun t i ht =>
    have hz : (t.setVmem (vset t.vmem x.reg d a.wb i 0)).Canon c := ht.setVmem (ht.vmem.vset ..)
    .ite ht (.ite (.ite (.loadElems _ _ _ _ ht) (.ite hz ht)) (.ite hz ht))

theorem placeElems (a : VAcc) (reg n : Nat) (m : Memory) (l : List Nat) (hs : s.Canon c) : (Machine.placeElems a reg n m l s).Canon c := by
  induction l generalizing s with
  | nil => exact hs
  | cons i l ih =>
    refine ih ?_
    split
    · exact hs.place ..
    · exact hs.place ..
    · exact hs

theorem storeElems (a : VAcc) (reg n : Nat) (m : Memory) (l : List Nat) (hs : s.Canon c) : (Machine.storeElems a reg n m l s).Canon c :=
  .placeElems _ _ _ _ _ (.performAll _ _ _ hs)

theorem sendPiece (hs : s.Canon c) (r : Piece) : (s.sendPiece r).Canon c :=
  .pushOnce (.foldl ((hs.sendFlit ..).hopFlits ..) fun _ _ ht => ht.sendFlit ..) _

theorem updateAt (hs : s.Canon c) (wb : Nat) (op : Nat → Nat → Nat) (data : Nat → Nat) (free : Nat) (g : Target) :
    (s.updateAt wb op data free g).Canon c :=
  .ite hs (.ite hs (.update (hs.settle ..) ..))

theorem loadScales (a : VAcc) (o : Sys2Proof.VOp) (l : List Nat) (hs : s.Canon c) : (Machine.loadScales a o l s).Canon c := by
  induction l generalizing s with
  | nil => exact hs
  | cons j l ih =>
    refine ih ?_
    split
    · exact State.Canon.same ((hs.performed ..).orVstat _)
    · exact hs

end State.Canon

namespace HeadRes.Canon
variable (o : Sys2Proof.VOp) (e : QEntry)

theorem streamTrap (hs : s.Canon c) (g j k p : Nat) : (s.streamTrap e g j k p).Canon c := .trap _ (.setFront (hs.setSlot ..) _)

theorem elemTrap (hs : s.Canon c) (ec : ECheck) (k p : Nat) : (s.elemTrap e ec k p).Canon c := by
  cases ec with
  | bad => exact .queueTrap hs ..
  | lost => exact .queueTrap hs ..
  | stream => exact .streamTrap _ hs ..
  | guarded => exact .wait hs
  | ok => exact .wait hs
  | wait => exact .wait hs

theorem loadFof (hs : s.Canon c) (a : VAcc) (av : Bool) : (s.loadFof o e a av).Canon c := by
  unfold State.loadFof
  extract_lets b
  split
  · exact .ite (.wait hs) (.ite (.elemTrap _ hs ..) (.doneV (hs.fofTrim ..)))
  · exact .doneV (hs.fofAll ..)

theorem loadPrecise (hs : s.Canon c) (a : VAcc) : (s.loadPrecise o e a).Canon c := by
  unfold State.loadPrecise
  extract_lets x d mask b a idx _ u
  refine .ite (.wait hs) ?_
  split
  · exact .elemTrap _ (.setEstart (.nextFree (.loadAbove (.zeroMasked (.loadElems _ _ _ _ hs) ..) ..)) _) ..
  · have hu : u.Canon c := .zeroMasked (.loadElems _ _ _ _ hs) ..
    exact .doneV (hu.setVmem (hu.vmem.tailZero ..))

theorem storePrecise (hs : s.Canon c) (a : VAcc) (order : List Nat → List Nat) : (s.storePrecise o e a order).Canon c := by
  unfold State.storePrecise
  extract_lets x mask b m a idx
  refine .ite (.wait hs) ?_
  split
  · exact .elemTrap _ (.setEstart (.nextFree (.storeElems _ _ _ _ _ hs)) _) ..
  · exact .doneV (.nextFree (.storeElems _ _ _ _ _ hs))

theorem withPieces {e : QEntry} (hs : s.Canon c) (addr : Nat → Word) (idx : List Nat) {body : Fates → QEntry → State → HeadRes}
    (hb : ∀ f e t, t.Canon c → (body f e t).Canon c) : (s.withPieces e addr idx body).Canon c := by
  unfold State.withPieces
  extract_lets hl ps e'
  exact .ite (hb _ _ _ hs) <| .ite (.ite (hb _ _ _ (hs.setFront _)) (.wait (.foldl (hs.setFront _) fun _ _ ht => ht.sendPiece _))) <|
    .ite (hb _ _ _ hs) (.wait hs)

theorem headVld (hs : s.Canon c) : (Machine.headVld o e s).Canon c :=
  .withRings hs _ _ _ fun _ _ ht => .withPieces ht _ _ fun _ _ _ hu => .loadFof _ _ hu ..

theorem headVldav (hs : s.Canon c) : (Machine.headVldav o e s).Canon c :=
  .withRings hs _ _ _ fun _ _ ht => .withPieces ht _ _ fun _ _ _ hu => .loadFof _ _ hu ..

theorem headVlds (hs : s.Canon c) : (Machine.headVlds o e s).Canon c :=
  .withRings hs _ _ _ fun _ _ ht => .withPieces ht _ _ fun _ _ _ hu => .loadFof _ _ hu ..

theorem headVldx (hs : s.Canon c) : (Machine.headVldx o e s).Canon c :=
  .withRings hs _ _ _ fun _ _ ht => .withPieces ht _ _ fun _ _ _ hu => .loadPrecise _ _ hu _

theorem headVldxu (hs : s.Canon c) : (Machine.headVldxu o e s).Canon c :=
  .withRings hs _ _ _ fun _ _ ht => .withPieces ht _ _ fun _ _ _ hu => .loadPrecise _ _ hu _

theorem headVldxf (hs : s.Canon c) : (Machine.headVldxf o e s).Canon c :=
  .withRings hs _ _ _ fun _ _ ht => .withPieces ht _ _ fun _ _ _ hu => .loadFof _ _ hu ..

theorem headVst (hs : s.Canon c) : (Machine.headVst o e s).Canon c := .withRings hs _ _ _ fun _ _ ht => .storePrecise _ _ ht ..

theorem headVsts (hs : s.Canon c) : (Machine.headVsts o e s).Canon c := .withRings hs _ _ _ fun _ _ ht => .storePrecise _ _ ht ..

theorem headVstx (hs : s.Canon c) : (Machine.headVstx o e s).Canon c := .withRings hs _ _ _ fun _ _ ht => .storePrecise _ _ ht ..

theorem headVstxu (hs : s.Canon c) : (Machine.headVstxu o e s).Canon c := .withRings hs _ _ _ fun _ _ ht => .storePrecise _ _ ht ..

theorem scatter (hs : s.Canon c) (wb : Nat) (op : Nat → Nat → Nat) : (s.scatter o e wb op).Canon c := by
  refine .withRings hs _ _ _ fun e t ht => ?_
  extract_lets x m b a idx gs order u _ _ _
  split
  · exact .ite (.wait ht) (.elemTrap _ ht ..)
  · split
    · exact .wait (ht.invalidateReplicas _)
    · have hu : u.Canon c := .nextFree (.foldl (.performAll _ _ _ ht) fun _ _ hv => hv.updateAt ..)
      clear_value u
      split
      · exact .doneV hu
      · exact .queueTrap (hu.setEstart _) ..

theorem headQlds (hs : s.Canon c) : (Machine.headQlds o e s).Canon c := by
  unfold Machine.headQlds
  extract_lets x a idx
  refine .ite (.wait hs) ?_
  split
  · exact .elemTrap _ (.nextFree (.loadScales _ _ _ hs)) ..
  · exact .doneV (.loadScales _ _ _ hs)

theorem headMld (hs : s.Canon c) : (Machine.headMld o e s).Canon c := by
  unfold Machine.headMld
  extract_lets x addr bytes check
  refine .ite (.wait hs) ?_
  split
  · exact .elemTrap _ hs ..
  · refine .headMask (hs.foldl fun u b hu => ?_) ..
    split
    · exact hu.visit ..
    · exact hu

theorem headMst (hs : s.Canon c) : (Machine.headMst o e s).Canon c := by
  unfold Machine.headMst
  extract_lets x addr bytes check
  refine .ite (.wait hs) ?_
  split
  · exact .elemTrap _ hs ..
  · refine .doneV (.foldl (hs.foldl fun u b hu => ?_) fun u b hu => ?_)
    · split
      · exact hu.visit ..
      · exact hu
    · split
      · exact hu.place ..
      · exact hu

end HeadRes.Canon

end

section
variable {c : Given} {s t : State} {h : Hart} {m : Memory} {l : Lease} {a : Mat}

/-! ### The matrix unit (R172 to R192) -/

namespace SMap.Canon

theorem putEntry (ha : SMap.Canon c 0 a.acc) (t i j v : Nat) : SMap.Canon c 0 (a.putEntry t i j v).acc := ha.set ..

theorem putValue (ha : SMap.Canon c 0 a.acc) (tt t i j v : Nat) : SMap.Canon c 0 (a.putValue tt t i j v).acc := by
  unfold Mat.putValue
  split
  · exact (ha.putEntry t i j v).putEntry ..
  · exact ha.putEntry ..

theorem accumulateAll (tt acd : Nat) (f : Nat → Nat → Nat → FRes) (l : List (Nat × Nat)) {r : Mat × Word} (ha : SMap.Canon c 0 r.1.acc) :
    SMap.Canon c 0 (Machine.accumulateAll tt acd f l r).1.acc := by
  induction l generalizing r with
  | nil => exact ha
  | cons p l ih => exact ih (ha.putValue ..)

theorem mwrvLine (o : Sys2Proof.DOp) (line : Nat) (v : Nat → Nat) (l : List Nat) {r : Mat × Word} (ha : SMap.Canon c 0 r.1.acc) :
    SMap.Canon c 0 (Machine.mwrvLine o line v l r).1.acc := by
  induction l generalizing r with
  | nil => exact ha
  | cons p l ih => exact ih (ha.putValue ..)

end SMap.Canon

namespace State.Canon

theorem acc (hs : s.Canon c) : SMap.Canon c 0 s.hart.mat.acc := hs.hart.1

theorem orMstat (hs : s.Canon c) (v : Word) : (s.orMstat v).Canon c := hs.same

theorem modMat (hs : s.Canon c) {f : Mat → Mat} (hf : SMap.Canon c 0 (f s.hart.mat).acc) : (s.modMat f).Canon c :=
  hs.same fun hh => by exact ⟨hf, hh.2⟩

theorem setProgress (hs : s.Canon c) (b t : Nat) : (s.setProgress b t).Canon c := hs.modMat hs.acc

theorem takeTurn (hs : s.Canon c) : s.takeTurn.Canon c := hs.setForm ..

theorem attach (hs : s.Canon c) (xs : Reg) (ok : Bool) : (s.attach xs ok).Canon c := (hs.modMat .nil).writeX ..

theorem panelTouch (hs : s.Canon c) (wb n : Nat) (ps : List (Nat × Word)) : (s.panelTouch wb n ps).Canon c :=
  hs.foldl fun t p ht => ht.foldl fun t w ht => by
    dsimp only
    split
    · exact ht.foldl fun _ _ hu => hu.performed ..
    · exact ht

theorem mldtEntries (tt acd : Nat) (addr : Nat × Nat → Word) (check : Nat × Nat → ECheck) (l : List (Nat × Nat)) (hs : s.Canon c) :
    (Machine.mldtEntries tt acd addr check l s).Canon c := by
  induction l generalizing s with
  | nil => exact hs
  | cons p l ih =>
    refine ih ?_
    split
    · next pl leaf _ =>
      have hp := hs.performed .read .strided (addr p) pl leaf
      exact .orMstat (hp.modMat (hp.acc.putValue ..)) _
    · exact hs

theorem msttTouch (addr : Nat × Nat → Word) (check : Nat × Nat → ECheck) (l : List (Nat × Nat)) (hs : s.Canon c) :
    (Machine.msttTouch addr check l s).Canon c := by
  induction l generalizing s with
  | nil => exact hs
  | cons p l ih =>
    refine ih ?_
    split
    · exact hs.performed ..
    · exact hs.performed ..
    · exact hs

theorem msttPlace (tt acd : Nat) (check : Nat × Nat → ECheck) (l : List (Nat × Nat)) (hs : s.Canon c) :
    (Machine.msttPlace tt acd check l s).Canon c := by
  induction l generalizing s with
  | nil => exact hs
  | cons p l ih =>
    refine ih ?_
    split
    · exact .orMstat (hs.place ..) _
    · exact .orMstat (hs.place ..) _
    · exact hs

theorem msttEntries (tt acd : Nat) (addr : Nat × Nat → Word) (check : Nat × Nat → ECheck) (l : List (Nat × Nat)) (hs : s.Canon c) :
    (Machine.msttEntries tt acd addr check l s).Canon c := .msttPlace _ _ _ _ (.msttTouch _ _ _ hs)

theorem wordTouch (k : Kind) (addr : Nat → Word) (check : Nat → ECheck) (hs : s.Canon c) (w : Nat) :
    (Machine.wordTouch k addr check s w).Canon c := by
  unfold Machine.wordTouch
  split
  · exact (hs.performed ..).performed ..
  · exact .ite ((hs.performed ..).performed ..) hs
  · exact hs

theorem saveWord (check : Nat → ECheck) (hs : s.Canon c) (w : Nat) : (Machine.saveWord check s w).Canon c := by
  unfold Machine.saveWord
  extract_lets a get bad put
  split
  · exact hs.placeBad ..
  · exact hs.placeBad ..
  · exact hs

theorem loadWord (check : Nat → ECheck) (hs : s.Canon c) (w : Nat) : (Machine.loadWord check s w).Canon c := by
  unfold Machine.loadWord
  split
  · exact hs.modMat ((hs.acc.set ..).set ..)
  · exact hs

end State.Canon

section
variable {head body : QEntry → State → HeadRes}

theorem Result.Canon.issueM (hs : s.Canon c) (i : Sys2Proof.Instr) (mlen : Bool) (chk : Option IssueTrap) (xa xb : Word)
    (hh : ∀ e t, t.Canon c → (head e t).Canon c) : (s.issueM i mlen chk xa xb head).Canon c :=
  .ite (.next hs) (.issueNow hs _ _ _ _ _ _ fun e _ ht => hh e _ ht.takeTurn)

namespace HeadRes.Canon

theorem doneM (hs : s.Canon c) : s.doneM.Canon c := .done (hs.setProgress ..)

theorem overMasks (hs : s.Canon c) (e : QEntry) (hb : ∀ e t, t.Canon c → (body e t).Canon c) : (s.overMasks e body).Canon c := by
  unfold State.overMasks
  split
  · exact .maskTrap hs ..
  · exact hb _ _ hs

theorem withTiles (hs : s.Canon c) (e : QEntry) (acd n : Nat) (srcs : List Reg) (dst : Option Reg)
    (hb : ∀ e t, t.Canon c → (body e t).Canon c) : (s.withTiles e acd n srcs dst body).Canon c :=
  .ite (.queueTrap hs ..) (.overMasks hs _ fun _ _ ht => .withRings ht _ _ _ hb)

end HeadRes.Canon
end

namespace HeadRes.Canon
variable (o : Sys2Proof.DOp) (e : QEntry)

theorem matTrap (hs : s.Canon c) (ec : ECheck) (info : Nat) : (s.matTrap e ec info).Canon c := by
  unfold State.matTrap
  split
  · exact .queueTrap hs ..
  · exact .queueTrap hs ..
  · exact .wait hs

theorem accumulate (hs : s.Canon c) (tt acd : Nat) (act : List (Nat × Nat)) (st : Word) (f : Nat → Nat → Nat → FRes) :
    (s.accumulate e tt acd act st f).Canon c := by
  unfold State.accumulate
  split
  · exact .queueTrap hs ..
  · exact .doneM ((hs.modMat (SMap.Canon.accumulateAll (r := (s.hart.mat, st)) _ _ _ _ hs.acc)).orMstat _)

theorem headMatt (hs : s.Canon c) : (Machine.headMatt o e s).Canon c := by
  refine .ite (.doneM ((hs.orMstat _).writeX ..)) ?_
  extract_lets t
  have ht : t.Canon c := .ite hs (hs.askTiles ..)
  clear_value t
  split
  · exact .doneM (ht.attach ..)
  · exact .wait ht

theorem headMrel (hs : s.Canon c) : (Machine.headMrel e s).Canon c := .doneM (hs.releaseTiles _)

theorem headMsetlen (hs : s.Canon c) : (Machine.headMsetlen o e s).Canon c := .ite (.doneM (hs.orMstat _)) (.doneM hs.same)

theorem headMzero (hs : s.Canon c) : (Machine.headMzero o e s).Canon c :=
  .withTiles hs _ _ _ _ _ fun _ _ ht => .doneM (ht.modMat
    (List.foldlRecOn (motive := fun (a : Mat) => SMap.Canon c 0 a.acc) _ _ ht.acc fun _ ha _ _ =>
      List.foldlRecOn (motive := fun (a : Mat) => SMap.Canon c 0 a.acc) _ _ ha fun _ ha _ _ => ha.putEntry ..))

theorem outerBy (bad : State → VCtx → List (Nat × Nat × Nat) → Option Nat) (hs : s.Canon c) (accT wb na nb : Nat) (meta_ : Option (Reg × Nat))
    (f : State → Array Nat → Array Nat → Array Nat → Nat → Nat → Nat → FRes) (stat : Hart → Array Nat → Word) :
    (State.outerBy bad s o e accT wb na nb meta_ f stat).Canon c := by
  refine .withTiles hs _ _ _ _ _ fun e t ht => ?_
  dsimp only
  split
  · exact .queueTrap ht ..
  · exact .accumulate _ ht ..

theorem outer (hs : s.Canon c) (accT wb na nb : Nat) (meta_ : Option (Reg × Nat))
    (f : State → Array Nat → Array Nat → Array Nat → Nat → Nat → Nat → FRes) (stat : Hart → Array Nat → Word) :
    (s.outer o e accT wb na nb meta_ f stat).Canon c := .outerBy _ _ _ hs ..

theorem headOp (hs : s.Canon c) (sub : Bool) : (s.headOp o e sub).Canon c := .outer _ _ hs ..

theorem headOpaddQ (hs : s.Canon c) : (Machine.headOpaddQ o e s).Canon c := .outer _ _ hs ..

theorem headOpaddSp (hs : s.Canon c) : (Machine.headOpaddSp o e s).Canon c := .outer _ _ hs ..

theorem headOpaddBs (hs : s.Canon c) : (Machine.headOpaddBs o e s).Canon c := by
  unfold Machine.headOpaddBs
  exact .outerBy _ _ _ hs ..

theorem mgrpRun (hs : s.Canon c) (q : Option Nat) (mstat : Word) (spans : List (Nat × Nat × Nat × Word)) :
    (s.mgrpRun o e q mstat spans).Canon c := by
  unfold State.mgrpRun
  extract_lets tt k wb x
  split
  · exact .queueTrap hs ..
  · exact .accumulate _ (hs.panelTouch ..) ..

theorem headGrp (hs : s.Canon c) (q : Option Nat) : (s.headGrp o e q).Canon c := by
  refine .withTiles hs _ _ _ _ _ fun e t ht => ?_
  split
  · exact .queueTrap ht ..
  · refine .ite (.wait ht) ?_
    extract_lets g n bad
    refine .ite (.queueTrap ht ..) <| .ite (.doneM (ht.orMstat _)) <| .ite (.queueTrap ht ..) <| .ite (.queueTrap ht ..) ?_
    split
    · exact .matTrap _ ht ..
    · exact .mgrpRun _ _ ht ..

theorem headLdt (hs : s.Canon c) (ff : Bool) : (s.headLdt o e ff).Canon c := by
  refine .withTiles hs _ _ _ _ _ fun e t ht => ?_
  dsimp only
  refine .ite (.wait ht) ?_
  split
  · exact .doneM (.mldtEntries _ _ _ _ _ ht)
  · exact .ite (.doneM (State.Canon.same (.mldtEntries _ _ _ _ _ ht))) (.matTrap _ (.nextFree (.mldtEntries _ _ _ _ _ ht)) ..)

theorem headMstt (hs : s.Canon c) : (Machine.headMstt o e s).Canon c := by
  refine .withTiles hs _ _ _ _ _ fun e t ht => ?_
  dsimp only
  refine .ite (.wait ht) ?_
  split
  · exact .doneM (.msttEntries _ _ _ _ _ ht)
  · exact .matTrap _ (.nextFree (.msttEntries _ _ _ _ _ ht)) ..

theorem headMrdv (hs : s.Canon c) : (Machine.headMrdv o e s).Canon c := by
  refine .withTiles hs _ _ _ _ _ fun e t ht => ?_
  extract_lets x a act src d r m
  refine .ite (.doneM (ht.orMstat _)) ?_
  split
  · exact .queueTrap ht ..
  · have hr : r.1.Canon c := .writeElems _ _ _ _ _ _ _ ht.vmem
    exact .doneM ((ht.setVmem (.ite (hr.vclear ..) hr)).orMstat _)

theorem headMwrv (hs : s.Canon c) : (Machine.headMwrv o e s).Canon c := by
  refine .withTiles hs _ _ _ _ _ fun e t ht => ?_
  refine .ite (.doneM (ht.orMstat _)) ?_
  split
  · exact .queueTrap ht ..
  · exact .doneM ((ht.modMat (SMap.Canon.mwrvLine (r := (t.hart.mat, 0)) _ _ _ _ ht.acc)).orMstat _)

theorem headSave (hs : s.Canon c) (k : Kind) {run : (Nat → ECheck) → State → Nat → State}
    (hr : ∀ check t w, t.Canon c → (run check t w).Canon c) : (s.headSave e k run).Canon c := by
  have hm (addr : Nat → Word) (check : Nat → ECheck) (l : List Nat) : (moveWords k addr check run l s).Canon c :=
    .foldl (hs.foldl fun _ _ ht => ht.wordTouch ..) fun _ _ ht => hr _ _ _ ht
  unfold State.headSave
  extract_lets words addr check
  refine .ite (.wait hs) ?_
  split
  · exact .doneM (hm ..)
  · exact .matTrap _ (.nextFree (hm ..)) ..

theorem headMsave (hs : s.Canon c) : (Machine.headMsave o e s).Canon c := .headSave _ hs _ fun _ _ _ ht => ht.saveWord ..

theorem headMload (hs : s.Canon c) : (Machine.headMload o e s).Canon c := .headSave _ hs _ fun _ _ _ ht => ht.loadWord ..

end HeadRes.Canon

end

section
variable {c : Given} {s t : State} {h : Hart} {m : Memory} {l : Lease} {a : Mat}

/-! ### Butterfly stages (R193 to R203) -/

theorem SMap.Canon.stageRow (k : Chain) (lstr : Nat) (half : Bool) (wa wb : Array FVal) (i : Nat) {r : Mat × Word}
    (ha : SMap.Canon c 0 r.1.acc) : SMap.Canon c 0 (Machine.stageRow k lstr half wa wb i r).1.acc :=
  List.foldlRecOn (motive := fun (r : Mat × Word) => SMap.Canon c 0 r.1.acc) _ _ ha fun _ ha _ _ => ha.putEntry ..

namespace HeadRes.Canon
variable (o : Sys2Proof.DOp) (e : QEntry)

theorem step1 (hs : s.Canon c) (k : Chain) (r : Stage) (blk b t : Nat) : (s.step1 e k r blk b t).Canon c := by
  unfold State.step1
  extract_lets u rows wa wb res v
  have hu : u.Canon c := hs.setProgress ..
  have hres : SMap.Canon c 0 res.1.acc :=
    List.foldlRecOn (motive := fun (r : Mat × Word) => SMap.Canon c 0 r.1.acc) _ _ hu.acc fun _ ha _ _ => ha.stageRow ..
  have hv : v.Canon c := .orMstat (hu.modMat hres) _
  clear_value u res v
  refine .ite (.wait hu) ?_
  split
  · exact .queueTrap hu ..
  · split
    · exact .queueTrap hu ..
    · split
      · exact .doneM hv
      · exact .wait (.setFront (hv.setProgress ..) _)

theorem headStage (hs : s.Canon c) (k : Chain) : (s.headStage e k).Canon c := by
  unfold State.headStage
  refine .ite (.queueTrap hs ..) <| .ite (.queueTrap hs ..) <| .ite (.doneM (hs.orMstat _)) ?_
  split
  · exact .doneM hs
  · exact .step1 _ hs ..

theorem headBst (hs : s.Canon c) : (Machine.headBst o e s).Canon c := .headStage _ hs _

theorem headBchain (hs : s.Canon c) : (Machine.headBchain o e s).Canon c := .headStage _ hs _

theorem headBsset (hs : s.Canon c) : (Machine.headBsset o e s).Canon c := .doneM (hs.modMat hs.acc)

theorem headBsget (hs : s.Canon c) : (Machine.headBsget o e s).Canon c := .doneM (hs.writeX ..)

end HeadRes.Canon

/-! ### Streams (R259 to R279) -/

theorem State.Canon.readRecord (hs : s.Canon c) {va : Word} {n v : Nat} (h : s.readRecord va n = .ok v t) : t.Canon c := by
  unfold State.readRecord at h
  dsimp only at h
  split at h
  · cases h
  · split at h
    · cases h
    · cases h
    · split at h
      · cases h
      · cases h
        refine hs.foldl fun u l hu => ?_
        split
        · exact hu.visit ..
        · exact hu

/-- What is given to be canonical is so whether an element lands, faults or waits. -/
inductive Landed.Canon (c : Given) : Landed → Prop
  | done {t : State} : t.Canon c → Canon c (.done t)
  | fault (cause : Nat) (va : Word) {t : State} : t.Canon c → Canon c (.fault cause va t)
  | wait {t : State} : t.Canon c → Canon c (.wait t)

namespace State.Canon

theorem startStream (hs : s.Canon c) (j : Nat) (sl : Slot) : (s.startStream j sl).Canon c := by
  unfold State.startStream
  extract_lets g u size
  have hu : u.Canon c := hs.clearSlot ..
  clear_value u
  refine .ite (hu.finishSlot ..) <| .ite (hu.finishSlot ..) <| .ite ?_ ((hu.setSlot ..).pushOnce _)
  have hp := hu.askPass (dieKey g) { kind := .stream, g := g, slot := j, charge := streamCharge }
  generalize u.askPass (dieKey g) { kind := .stream, g := g, slot := j, charge := streamCharge } = r at hp
  obtain ⟨v, ok⟩ := r
  exact .ite (.pushOnce (State.Canon.setSlot hp ..) _) (State.Canon.setSlot hp ..)

theorem streamGo (hs : s.Canon c) (j : Nat) (sl : Slot) : (s.streamGo j sl).Canon c := by
  unfold State.streamGo
  extract_lets vl n sl' _ _ u
  have hu : u.Canon c := .ite hs.same hs
  clear_value u
  refine .ite (hs.startStream ..).advanceV ?_
  split
  · exact hs.trapIssue ..
  · exact (hu.startStream ..).advanceV

theorem streamed (hs : s.Canon c) (g : Nat) (sl : Slot) (k : Kind) (va : Word) (p : Place) (leaf : Option LeafAt) :
    (s.streamed g sl k va p leaf).Canon c := (hs.visit ..).countHot ..

theorem landAt (hs : s.Canon c) (g : Nat) (sl : Slot) (va : Word) (p : Place) (leaf : Option LeafAt) (v : Nat) (bad : Bool) :
    (s.landAt g sl va p leaf v bad).Canon c := .putUnder (.settle (hs.streamed ..) ..) ..

theorem streamRead (hs : s.Canon c) {g j e v : Nat} {sl : Slot} {bad : Bool} (h : s.streamRead g j sl e = .value v bad t) : t.Canon c := by
  unfold State.streamRead at h
  split at h
  · cases h
    exact hs
  · split at h
    · cases h
    · cases h
    · split at h
      · cases h
        exact hs.streamed ..
      · cases h
      · cases h
    · cases h

theorem tileMask (hs : s.Canon c) (g : Nat) (sl : Slot) : (s.tileMask g sl).Canon c := by
  unfold State.tileMask
  extract_lets md h l cap v v' h'
  have hh' : h'.Canon c := hs.getHart g
  exact .ite hs (hs.setHart g fun _ => hh'.setMask ..)

theorem streamDone (hs : s.Canon c) (g j : Nat) : (s.streamDone g j).Canon c := .finishSlot (.tileMask (hs.dropPass ..) ..) ..

theorem streamFault (hs : s.Canon c) (g j k cause : Nat) (va : Word) : (s.streamFault g j k cause va).Canon c := hs.finishSlot ..

theorem streamLanded (hs : s.Canon c) (g j e : Nat) : (s.streamLanded g j e).Canon c :=
  .ite (.streamDone (hs.setSlot ..) ..) (.pushOnce (hs.setSlot ..) _)

theorem landAll (g : Nat) (sl : Slot) (l : List Staged) (hs : s.Canon c) : (s.landAll g sl l).Canon c := by
  induction l generalizing s with
  | nil => exact hs
  | cons r l ih => exact ih (hs.landAt ..)

theorem landOverlap (hs : s.Canon c) (g j : Nat) (sl : Slot) : (s.landOverlap g j sl).Canon c := by
  unfold State.landOverlap
  extract_lets es reads dsts all
  refine .ite (hs.pushOnce _) ?_
  split
  · exact hs.streamFault ..
  · split
    · exact (hs.invalidateReplicas _).pushOnce _
    · refine .streamDone (.landAll _ _ _ (hs.foldl fun u e hu => ?_)) ..
      split
      · split
        · exact hu.streamed ..
        · exact hu
      · exact hu

end State.Canon

theorem Landed.Canon.landElem (hs : s.Canon c) (g j : Nat) (sl : Slot) (e : Nat) : (s.landElem g j sl e).Canon c := by
  unfold State.landElem
  split
  · exact .fault _ _ hs
  · exact .wait hs
  next v bad u hu =>
    have hu := hs.streamRead hu
    dsimp only
    split
    · split
      · exact .wait (hs.invalidateReplicas _)
      · exact .done (hu.landAt ..)
    · exact .fault _ _ hs
    · exact .fault _ _ (.ite (.nextFree (hu.landAt ..)) hs.nextFree)
    · exact .wait hs

namespace Result.Canon

theorem stream (hs : s.Canon c) (i : Sys2Proof.Instr) (o : Sys2Proof.VOp) : (s.stream i o).Canon c := by
  unfold State.stream
  extract_lets sl0 md va
  refine .ite (.next hs) ?_
  split
  · exact .next (hs.trapBits ..)
  · refine .ite (.ite (.next (hs.trapIssue ..)) ?_) (.next (hs.streamGo ..))
    split
    · exact .next (hs.trapAccess ..)
    · exact .next hs
    next v u hu =>
      have hu := hs.readRecord hu
      exact .ite (.next (hu.trapIssue ..)) (.next (hu.streamGo ..))

theorem shape (hs : s.Canon c) (o : Sys2Proof.VOp) : (execShape o s).Canon c := by
  unfold execShape
  extract_lets va
  split
  · exact .next (hs.trapAccess ..)
  · exact .next hs
  next v u hu => exact .next ((hs.readRecord hu).finishV ..)

theorem streamElementLanding (hs : s.Canon c) : (execStreamElementLanding s).Canon c := by
  unfold execStreamElementLanding
  extract_lets g j sl e
  refine .ite (.next hs) <| .ite (.next (hs.landOverlap ..)) ?_
  have hl := Landed.Canon.landElem hs.nextFree g j sl e
  generalize s.nextFree.landElem g j sl e = r at hl
  cases hl with
  | done ht => exact .next (ht.streamLanded ..)
  | wait ht => exact .next (ht.pushOnce _)
  | fault cause va ht => exact .next (.ite (ht.streamFault ..) (ht.pushOnce _))

theorem stmwait (hs : s.Canon c) (o : Sys2Proof.VOp) : (execStmwait o s).Canon c := by
  unfold execStmwait
  extract_lets j sl u
  split
  · exact .stall hs _
  · exact .next (.ite hs (.takeTrap (hs.setSlot ..) ..))
  · exact .next (hs.finishV ..)

theorem stmstat (hs : s.Canon c) (o : Sys2Proof.VOp) : (execStmstat o s).Canon c := .next (hs.finishV ..)

theorem stmcancel (hs : s.Canon c) (o : Sys2Proof.VOp) : (execStmcancel o s).Canon c := .next ((hs.clearSlot ..).finishV ..)

end Result.Canon

end

section
variable {c : Given} {s t : State} {h : Hart} {m : Memory} {l : Lease}

/-! ### The exchange (R280 to R318) -/

namespace State.Canon

theorem setParty (hs : s.Canon c) (p : Party) : (s.setParty p).Canon c := hs.same

theorem join (hs : s.Canon c) (v : Nat) (role : Word) (pass : Bool) : (s.join v role pass).Canon c := by
  unfold State.join
  extract_lets xid x _ r r' _ u _ u' w
  have hu : u.Canon c := State.Canon.setParty (hs.setXid ..) _
  clear_value u
  have hu' : u'.Canon c := hu.same
  clear_value u'
  have hw : w.Canon c := .ite (hu'.armRound _) hu'
  clear_value w
  exact .ite (hw.failRound _) hw

theorem xopenFail (hs : s.Canon c) (d : Reg) (code : Nat) : (s.xopenFail d code).Canon c := by
  unfold State.xopenFail
  extract_lets g u h _ u'
  have hu : u.Canon c := .ite hs (.ite (hs.returnPass ..) (hs.withdraw ..))
  clear_value u
  have hu' : u'.Canon c := hu.same
  exact hu'.finishV ..

theorem badSender (hs : s.Canon c) : s.badSender.Canon c := .ite hs (hs.orVstat _)

theorem emit (hs : s.Canon c) (len : Nat) (sorted : Bool) (l : List (Nat × Nat)) : (s.emit len sorted l).Canon c := by
  unfold State.emit
  extract_lets p
  generalize emitAll len (s.timeNs (pkgOf s.cur)) (if sorted then { p with lastKey := none } else p) l = r
  obtain ⟨rs, p'⟩ := r
  refine .sendFlights (.ite ?_ (hs.setParty _)) ..
  split
  · exact .modParties (.setRound (hs.setParty _) ..) ..
  · exact hs.setParty _

theorem nextBatch (hs : s.Canon c) (r : Round) (j : Receiver) : (s.nextBatch r j).Canon c := by
  unfold State.nextBatch
  extract_lets p rest _ u
  have hu : u.Canon c := .setParty (hs.setRound ..) _
  exact .ite (.freeXid (hu.endParties ..) _) (hu.setParty _)

end State.Canon

theorem Memory.Canon.receiveAll (o : Sys2Proof.VOp) (x : VCtx) (w k i : Nat) (l : List Rec) (hm : m.Canon c) :
    (s.receiveAll o x w k i l m).Canon c := by
  induction l generalizing i m with
  | nil => exact hm
  | cons r l ih => exact ih _ (.foldl (hm.vset ..) fun _ _ hm => hm.vset ..)

theorem State.Canon.receive (hs : s.Canon c) (o : Sys2Proof.VOp) (e : QEntry) (x : VCtx) (r : Round) (j : Receiver) (b : List Rec) :
    (s.receive o e x r j b).Canon c := by
  unfold State.receive
  extract_lets w k n got u u' mem x' mem'
  have hu : u.Canon c := .setParty (hs.setRound ..) _
  have hu' : u'.Canon c := .ite (hu.orVstat _) hu
  have hm : mem.Canon c := .receiveAll _ _ _ _ _ _ hu'.vmem
  exact .trim (hu'.setVmem (.tailZero (hm.tailZero ..) ..)) _

namespace HeadRes.Canon
variable (o : Sys2Proof.VOp) (e : QEntry)

theorem headSend (hs : s.Canon c) (sorted : Bool) : (s.headSend o e sorted).Canon c := by
  refine .withRingsAll hs _ _ _ fun e t ht => ?_
  exact .ite (.doneV ht.badSender) <| .ite (.doneV (ht.orVstat _)) <| .whole ht _ _ (.doneV (ht.emit ..))

theorem headRend (hs : s.Canon c) : (Machine.headRend e s).Canon c := .ite (.doneV (hs.setParty _)) (.doneV hs.badSender)

theorem headXclose (hs : s.Canon c) : (Machine.headXclose o e s).Canon c :=
  .ite (.doneV (.writeX (.closeSender (hs.setParty _) ..) ..)) (.doneV ((hs.orVstat _).writeX ..))

theorem headRrecv (hs : s.Canon c) : (Machine.headRrecv o e s).Canon c := by
  refine .withRingsAll hs _ _ _ fun e t ht => ?_
  refine .ite (.doneV (.ite ht (ht.trim _))) <| .ite (.doneV ((ht.orVstat _).trim _)) <| .ite (.doneV ht) ?_
  split
  · exact .doneV (ht.trim _)
  · split
    · exact .doneV (ht.trim _)
    · split
      · exact .doneV ((ht.nextBatch ..).trim _)
      · exact .doneV (ht.receive ..)
      · exact .doneV (ht.trim _)

end HeadRes.Canon

theorem State.Canon.moveFlight (hs : s.Canon c) (xid : Nat) (p : Flight → Bool) {go : State → Round → Nat → Flight → State}
    (hg : ∀ t r i f, t.Canon c → (go t r i f).Canon c) : (s.moveFlight xid p go).Canon c := by
  unfold State.moveFlight
  split
  · exact hs
  · refine .ite hs ?_
    split
    · exact hs
    · exact .pokeRound (hg _ _ _ _ hs.nextFree) _

namespace Result.Canon

theorem viaHub (hs : s.Canon c) (xid : Nat) (d : Reg) {go : Result} (hg : go.Canon c) : (s.viaHub xid d go).Canon c :=
  .ite hg (.next (hs.nextFree.finishV ..))

theorem xopenGo (hs : s.Canon c) (d : Reg) (v : Nat) (role : Word) : (s.xopenGo d v role).Canon c := by
  unfold State.xopenGo
  extract_lets k
  refine .ite (.next (hs.xopenFail ..)) (.viaHub hs _ _ (.ite (.next (hs.xopenFail ..)) <| .ite (.next ((hs.join ..).finishV ..)) <| .ite ?_ ?_))
  · split
    · exact .next ((hs.join ..).finishV ..)
    · exact .next (hs.xopenFail ..)
    · exact .next hs
  · have hp := hs.askPass (dieKey s.cur) { kind := .exchange, g := s.cur, slot := 0, charge := exchangeCharge }
    generalize s.askPass (dieKey s.cur) { kind := .exchange, g := s.cur, slot := 0, charge := exchangeCharge } = r at hp
    obtain ⟨u, ok⟩ := r
    exact .next (.ite (.finishV (State.Canon.join hp ..) ..) (State.Canon.same hp))

theorem xopen (hs : s.Canon c) (o : Sys2Proof.VOp) : (execXopen o s).Canon c := by
  refine .ite (.next hs) <| .ite (.next (hs.xopenFail ..)) ?_
  split
  · exact .next (hs.trapAccess ..)
  · exact .next hs
  next v u hu => exact .xopenGo (hs.readRecord hu) ..

theorem settings (hs : s.Canon c) (d : Reg) {go : XidRec → Result} (hg : ∀ x, (go x).Canon c) : (s.settings d go).Canon c :=
  .ite (.next hs) <| .ite (.next (hs.finishV ..)) (.viaHub hs _ _ (hg _))

theorem setSettings (hs : s.Canon c) (d : Reg) (x : XidRec) : (s.setSettings d x).Canon c := .next (.finishV (hs.setXid ..) ..)

theorem splitFrom (hs : s.Canon c) (i : Sys2Proof.Instr) (d : Reg) (va : Word) (x : XidRec) : (s.splitFrom i d va x).Canon c := by
  refine .ite (.next (hs.finishV ..)) <| .ite (.setSettings hs ..) ?_
  split
  · exact .next (hs.trapAccess ..)
  · exact .next hs
  next v u hu => exact .setSettings (hs.readRecord hu) ..

theorem xsplit (hs : s.Canon c) (o : Sys2Proof.VOp) : (execXsplit o s).Canon c := .settings hs _ fun _ => .splitFrom hs ..

theorem xcap (hs : s.Canon c) (o : Sys2Proof.VOp) : (execXcap o s).Canon c :=
  .settings hs _ fun _ => .ite (.next (hs.finishV ..)) (.setSettings hs ..)

theorem xdeadl (hs : s.Canon c) (o : Sys2Proof.VOp) : (execXdeadl o s).Canon c := .settings hs _ fun _ => .setSettings hs ..

theorem xrebal (hs : s.Canon c) (o : Sys2Proof.VOp) : (execXrebal o s).Canon c :=
  .settings hs _ fun x => .ite (.splitFrom hs ..) (by
    split
    · exact .setSettings hs ..
    · exact .next (hs.finishV ..))

theorem xwait (hs : s.Canon c) (o : Sys2Proof.VOp) : (execXwait o s).Canon c :=
  .ite (.next hs) <| .ite (.next ((hs.orVstat _).finishV ..)) <| .ite (.next (hs.finishV ..)) (.stall hs _)

theorem xstat (hs : s.Canon c) (o : Sys2Proof.VOp) : (execXstat o s).Canon c := by
  refine .ite (.next hs) ?_
  split
  · exact .next (hs.finishV ..)
  · exact .next ((hs.orVstat _).finishV ..)

theorem recordMerge (hs : s.Canon c) : (execRecordMerge s).Canon c := .next (hs.moveFlight _ _ fun _ _ _ _ ht => ht.setRound ..)

theorem recordArrival (hs : s.Canon c) : (execRecordArrival s).Canon c :=
  .ite (.next (.freeXid (.closeRound (hs.writeResiduals _) _) _))
    (.next (hs.moveFlight _ _ fun _ _ _ _ ht => .arriveRecord (ht.setRound ..) ..))

theorem closeMarkerArrival (hs : s.Canon c) : (execCloseMarkerArrival s).Canon c :=
  .next (hs.moveFlight _ _ fun _ _ _ _ ht => .arriveMarker (ht.setRound ..) ..)

theorem batchDeadline (hs : s.Canon c) : (execBatchDeadline s).Canon c := by
  unfold execBatchDeadline
  extract_lets xid u
  have hu : u.Canon c := hs.settleDeadline ..
  clear_value u
  split
  · exact .next (.ite (hu.pushOnce _) hu)
  · exact .next hu

theorem roundFailureNotice (hs : s.Canon c) : (execRoundFailureNotice s).Canon c := .next (hs.failParty ..)

end Result.Canon

end

section
variable {c : Given} {s t : State} {h : Hart} {m : Memory} {l : Lease}

/-! ### Loads of a cohort and of scattered chunks (R162, R246, R247, R344) -/

theorem State.Canon.switch (hs : s.Canon c) (g : Nat) : (s.switch g).Canon c := by
  unfold State.switch
  refine .ite hs ⟨hs.memory, fun ht => ?_⟩
  have hr := hs.tables ht
  have hall : ∀ p ∈ SMap.set Hart.reset s.harts s.cur s.hart, p.2.Tables :=
    SMap.set_all hr.current (fun p hp => hr.others p (List.mem_append_left _ hp)) _
  exact {
    hr with
    harts := SMap.set_wf (SMap.set_wf hr.harts)
    current := SMap.get_all Hart.reset_tables hall g
    others := List.forall_mem_append.mpr
      ⟨SMap.set_all Hart.reset_tables hall _, fun p hp => hr.others p (List.mem_append_right _ hp)⟩ }

theorem State.Canon.onHart (hs : s.Canon c) (g : Nat) {f : State → State} (hf : ∀ t, t.Canon c → (f t).Canon c) :
    (s.onHart g f).Canon c := .switch (hf _ (hs.switch g)) _

namespace State.Canon

theorem vldgDone (hs : s.Canon c) : s.vldgDone.Canon c := hs.same

theorem behindFences (l : List Member) (hs : s.Canon c) (h : s.behindFences l = some t) : t.Canon c := by
  induction l generalizing s with
  | nil =>
    cases h
    exact hs
  | cons a l ih =>
    unfold State.behindFences at h
    split at h
    · obtain ⟨u, hu, h⟩ := Option.bind_eq_some_iff.mp h
      exact ih (hs.order hu) h
    · exact ih hs h

theorem share (hs : s.Canon c) (a : Member) (v : VAcc) (f : Fate) : (s.share a v f).Canon c := by
  cases f with
  | clear => exact .vldgDone (hs.fofFill ..)
  | trim k => exact .vldgDone (hs.trimFill ..)
  | trap ec =>
    have he := HeadRes.Canon.elemTrap a.e hs ec 0 0
    simp only [State.share]
    generalize s.elemTrap a.e ec 0 0 = r at he
    cases he with
    | trap ti ht => exact ht.takeTrap ..
    | done _ => exact hs
    | wait _ => exact hs

theorem reachMember (hs : s.Canon c) (lead a : Member) (v : VAcc) (f : Fate) : (s.reachMember lead a v f).Canon c := by
  refine hs.onHart _ fun t ht => .ite ?_ ((ht.orVstat _).setFront _)
  split
  · exact ht.share ..
  · exact (ht.share ..).popFront

theorem startMask (hs : s.Canon c) (o : Sys2Proof.VOp) (x : VCtx) (wb : Nat) : (s.startMask o x wb).Canon c :=
  hs.same fun hh => Hart.Canon.setMask hh ..

theorem deliver (hs : s.Canon c) (o : Sys2Proof.VOp) (e : QEntry) (done k : Nat) : (s.deliver o e done k).Canon c := by
  unfold State.deliver
  extract_lets x a d es lost bad u v v' md old
  have hu : u.Canon c := hs.setFront _
  have hv' : v'.Canon c := .loadElems _ _ _ _ hu
  exact .ite hs (.ite (.orVstat (.orVstat (.nextFree (.fillElems _ _ _ _ hu)) _) _) (hv'.same fun hh => Hart.Canon.setMask hh ..))

theorem levelAt (hs : s.Canon c) (o : Sys2Proof.VOp) (e : QEntry) (done : Nat) : (s.levelAt o e done).Canon c := by
  unfold State.levelAt
  extract_lets x ps p open_ a part u v
  have hu : u.Canon c := hs.nextFree.foldl fun t k ht => by
    split
    · exact ht.deliver ..
    · exact ht
  have hv : v.Canon c := .loadElems _ _ _ _ hu
  clear_value u v
  split
  · exact hs.nextFree
  · split
    · exact hv.setFront _
    · exact hv

theorem levelMove (hs : s.Canon c) (h : s.levelMove = some t) : t.Canon c := by
  obtain ⟨r, -, rfl⟩ := Option.map_eq_some_iff.mp h
  exact hs.levelAt ..

end State.Canon

namespace HeadRes.Canon

theorem of_done (hr : HeadRes.Canon c (.done t)) : t.Canon c := by
  cases hr
  assumption

variable (o : Sys2Proof.VOp) (e : QEntry)

theorem multicastGo (hs : s.Canon c) (lead : Member) (l : List Member) (a : VAcc) : (s.multicastGo lead l a).Canon c := by
  unfold State.multicastGo
  extract_lets ss
  split
  · exact .wait hs
  next u hu =>
    have hu := hs.behindFences _ hu
    extract_lets b idx
    split
    · exact .wait hu
    next f _ =>
      extract_lets v
      have hv : v.Canon c := hu.foldl fun _ _ ht => ht.reachMember ..
      clear_value v
      split
      · exact .elemTrap _ hv ..
      · exact .done (.performAll _ _ _ (hv.share ..))
      · exact .done (.performAll _ _ _ (hv.share ..))

theorem headVldg (hs : s.Canon c) : (Machine.headVldg o e s).Canon c := by
  have hw (e : QEntry) (wb : Nat) (addr : Nat → Word) {t : State} (ht : t.Canon c) :
      (t.withPieces e addr (t.loadIdx o e e.p) fun f e s => s.loadFof o e (s.accLoad f wb .unit addr) false).Canon c :=
    .withPieces ht _ _ fun _ _ _ hu => .loadFof _ _ hu ..
  unfold Machine.headVldg
  extract_lets wb addr n me ms
  clear_value wb addr n ms
  refine .ite (.withRings hs _ _ _ fun _ _ ht => hw _ _ _ ht) <| .ite ?_ <|
    .ite (.wait hs) (.withPieces hs _ _ fun _ _ _ hu => .multicastGo hu ..)
  have hr := hw e wb addr hs
  split
  next u hu => exact .done (of_done (hu ▸ hr)).vldgDone
  · exact hr

theorem vldxcEnd (hs : s.Canon c) (x : VCtx) (wb : Nat) : (s.vldxcEnd o x wb).Canon c := .doneV (hs.setVmem (hs.vmem.tailZero ..))

theorem headVldxc (hs : s.Canon c) : (Machine.headVldxc o e s).Canon c := by
  refine .withRings hs _ _ _ fun e t ht => ?_
  extract_lets x wb u
  have hu : u.Canon c := .ite (ht.startMask ..) ht
  clear_value u
  split
  · exact .ite (.vldxcEnd _ ht ..) (.wait (ht.pushOnce _))
  · refine .ite (.vldxcEnd _ hu ..) (.withPieces hu _ _ fun f e v hv => ?_)
    extract_lets a go
    have hgo : go.Canon c := .pushOnce (hv.setFront _) _
    clear_value go
    split
    · exact .elemTrap _ hv ..
    · exact .elemTrap _ hv ..
    · exact .wait hv
    · exact .wait hv
    · exact .wait hgo

end HeadRes.Canon

namespace Result.Canon

theorem vldg (hs : s.Canon c) (o : Sys2Proof.VOp) : (execVldg o s).Canon c := by
  unfold execVldg
  extract_lets wb cohort off _ u
  have hu : u.Canon c := .ite hs.same hs
  exact .ite (.next hs) (.issue hu _ _ _ _ _ fun e _ ht => .headVldg o e ht)

theorem chunkDelivered (hs : s.Canon c) : (execChunkDelivered s).Canon c := by
  refine .next (hs.onHart _ fun t ht => ?_)
  split
  · split
    · refine .ite ht ?_
      split
      · exact ht
      · exact ht.nextFree.deliver ..
    · exact ht
  · exact ht

end Result.Canon

end

section
variable {c : Given} {s t : State} {head : QEntry → State → HeadRes}

/-! ### Every instruction at the queue head (R98) -/

theorem HeadRes.Canon.headVfcvtScaled (o : Sys2Proof.VOp) (e : QEntry) (hs : s.Canon c) : (Machine.headVfcvtScaled o e s).Canon c := by
  unfold Machine.headVfcvtScaled
  exact .headUn o e hs ..

theorem HeadRes.Canon.headVf2i (o : Sys2Proof.VOp) (e : QEntry) (hs : s.Canon c) : (Machine.headVf2i o e s).Canon c := by
  unfold Machine.headVf2i
  exact .headUn o e hs ..

theorem HeadRes.Canon.headVi2f (o : Sys2Proof.VOp) (e : QEntry) (hs : s.Canon c) : (Machine.headVi2f o e s).Canon c := by
  unfold Machine.headVi2f
  exact .headUn o e hs ..

theorem HeadRes.Canon.headViext (o : Sys2Proof.VOp) (e : QEntry) (hs : s.Canon c) : (Machine.headViext o e s).Canon c := by
  unfold Machine.headViext
  exact .headUn o e hs ..

/-- What is given to be canonical is so in the state that any queued instruction leaves. -/
theorem HeadRes.Canon.headOf {i : Sys2Proof.Instr} (hf : Machine.headOf i = some head) : ∀ e t, t.Canon c → (head e t).Canon c := by
  cases i with
  | vadd o => cases hf; exact fun _ _ ht => .headInt o _ ht ..
  | vsub o => cases hf; exact fun _ _ ht => .headInt o _ ht ..
  | vmul o => cases hf; exact fun _ _ ht => .headInt o _ ht ..
  | vmulh o => cases hf; exact fun _ _ ht => .headInt o _ ht ..
  | vmin o => cases hf; exact fun _ _ ht => .headInt o _ ht ..
  | vmax o => cases hf; exact fun _ _ ht => .headInt o _ ht ..
  | vdiv o => cases hf; exact fun _ _ ht => .headInt o _ ht ..
  | vrem o => cases hf; exact fun _ _ ht => .headInt o _ ht ..
  | vand o => cases hf; exact fun _ _ ht => .headInt o _ ht ..
  | vor o => cases hf; exact fun _ _ ht => .headInt o _ ht ..
  | vxor o => cases hf; exact fun _ _ ht => .headInt o _ ht ..
  | vsll o => cases hf; exact fun _ _ ht => .headInt o _ ht ..
  | vsr o => cases hf; exact fun _ _ ht => .headInt o _ ht ..
  | vsadd o => cases hf; exact fun _ _ ht => .headInt o _ ht ..
  | vssub o => cases hf; exact fun _ _ ht => .headInt o _ ht ..
  | vmac o => cases hf; exact fun _ _ ht => .headInt o _ ht ..
  | vcmpeq o => cases hf; exact fun _ _ ht => .headIntCmp o _ ht _
  | vcmpne o => cases hf; exact fun _ _ ht => .headIntCmp o _ ht _
  | vcmplt o => cases hf; exact fun _ _ ht => .headIntCmp o _ ht _
  | vcmple o => cases hf; exact fun _ _ ht => .headIntCmp o _ ht _
  | vmerge o => cases hf; exact fun _ _ ht => .headVmerge o _ ht
  | vmv o => cases hf; exact fun _ _ ht => .headVmv o _ ht
  | vmvx o => cases hf; exact fun _ _ ht => .headVmvx o _ ht
  | vid o => cases hf; exact fun _ _ ht => .headVid o _ ht
  | vfadd o => cases hf; exact fun _ _ ht => .headFp o _ ht ..
  | vfsub o => cases hf; exact fun _ _ ht => .headFp o _ ht ..
  | vfmul o => cases hf; exact fun _ _ ht => .headFp o _ ht ..
  | vfdiv o => cases hf; exact fun _ _ ht => .headFp o _ ht ..
  | vfma o => cases hf; exact fun _ _ ht => .headFp o _ ht ..
  | vfnma o => cases hf; exact fun _ _ ht => .headFp o _ ht ..
  | vfmin o => cases hf; exact fun _ _ ht => .headFp o _ ht ..
  | vfmax o => cases hf; exact fun _ _ ht => .headFp o _ ht ..
  | vfsqrt o => cases hf; exact fun _ _ ht => .headFp1 o _ ht _
  | vfrsqrt o => cases hf; exact fun _ _ ht => .headFp1 o _ ht _
  | vfabs o => cases hf; exact fun _ _ ht => .headFp1 o _ ht _
  | vfneg o => cases hf; exact fun _ _ ht => .headFp1 o _ ht _
  | vfcmpeq o => cases hf; exact fun _ _ ht => .headFpCmp o _ ht _
  | vfcmplt o => cases hf; exact fun _ _ ht => .headFpCmp o _ ht _
  | vfcmple o => cases hf; exact fun _ _ ht => .headFpCmp o _ ht _
  | vfclass o => cases hf; exact fun _ _ ht => .headUn o _ ht ..
  | vfcvt o => cases hf; exact fun _ _ ht => .headUn o _ ht ..
  | vfcvtScaled o => cases hf; exact fun _ _ ht => .headVfcvtScaled o _ ht
  | vf2i o => cases hf; exact fun _ _ ht => .headVf2i o _ ht
  | vi2f o => cases hf; exact fun _ _ ht => .headVi2f o _ ht
  | viext o => cases hf; exact fun _ _ ht => .headViext o _ ht
  | vredsum o => cases hf; exact fun _ _ ht => .headRedInt o _ ht ..
  | vredmin o => cases hf; exact fun _ _ ht => .headRedInt o _ ht ..
  | vredmax o => cases hf; exact fun _ _ ht => .headRedInt o _ ht ..
  | vredor o => cases hf; exact fun _ _ ht => .headRedInt o _ ht ..
  | vfredsum o => cases hf; exact fun _ _ ht => .headRedF o _ ht _
  | vfredosum o => cases hf; exact fun _ _ ht => .headRedF o _ ht _
  | vfredmin o => cases hf; exact fun _ _ ht => .headRedM o _ ht _
  | vfredmax o => cases hf; exact fun _ _ ht => .headRedM o _ ht _
  | vscan o => cases hf; exact fun _ _ ht => .headVscan o _ ht
  | vperm o => cases hf; exact fun _ _ ht => .headVperm o _ ht
  | vslideup o => cases hf; exact fun _ _ ht => .headVslideup o _ ht
  | vslidedn o => cases hf; exact fun _ _ ht => .headVslidedn o _ ht
  | vcompress o => cases hf; exact fun _ _ ht => .headVcompress o _ ht
  | vrank o => cases hf; exact fun _ _ ht => .headVrank o _ ht
  | vbfly o => cases hf; exact fun _ _ ht => .headVbfly o _ ht
  | vsortk o => cases hf; exact fun _ _ ht => .headVsortk o _ ht
  | mand o => cases hf; exact fun _ _ ht => .headMask2 o _ ht _
  | mor o => cases hf; exact fun _ _ ht => .headMask2 o _ ht _
  | mxor o => cases hf; exact fun _ _ ht => .headMask2 o _ ht _
  | mandn o => cases hf; exact fun _ _ ht => .headMask2 o _ ht _
  | mpopc o => cases hf; exact fun _ _ ht => .headMpopc o _ ht
  | mfirst o => cases hf; exact fun _ _ ht => .headMfirst o _ ht
  | mset o => cases hf; exact fun _ _ ht => .headMask ht ..
  | vmaxi o => cases hf; exact fun _ _ ht => .headSelect o _ ht _
  | vmini o => cases hf; exact fun _ _ ht => .headSelect o _ ht _
  | vbslice o => cases hf; exact fun _ _ ht => .headVbslice o _ ht
  | vbunslice o => cases hf; exact fun _ _ ht => .headVbunslice o _ ht
  | vld o => cases hf; exact fun _ _ ht => .headVld o _ ht
  | vlds o => cases hf; exact fun _ _ ht => .headVlds o _ ht
  | vldav o => cases hf; exact fun _ _ ht => .headVldav o _ ht
  | vldg o => cases hf; exact fun _ _ ht => .headVldg o _ ht
  | vldx o => cases hf; exact fun _ _ ht => .headVldx o _ ht
  | vldxu o => cases hf; exact fun _ _ ht => .headVldxu o _ ht
  | vldxf o => cases hf; exact fun _ _ ht => .headVldxf o _ ht
  | qlds o => cases hf; exact fun _ _ ht => .headQlds o _ ht
  | vst o => cases hf; exact fun _ _ ht => .headVst o _ ht
  | vsts o => cases hf; exact fun _ _ ht => .headVsts o _ ht
  | vstx o => cases hf; exact fun _ _ ht => .headVstx o _ ht
  | vstxu o => cases hf; exact fun _ _ ht => .headVstxu o _ ht
  | vstxadd o => cases hf; exact fun _ _ ht => .scatter o _ ht ..
  | vstxmax o => cases hf; exact fun _ _ ht => .scatter o _ ht ..
  | vstxmin o => cases hf; exact fun _ _ ht => .scatter o _ ht ..
  | mld o => cases hf; exact fun _ _ ht => .headMld o _ ht
  | mst o => cases hf; exact fun _ _ ht => .headMst o _ ht
  | vldxc o => cases hf; exact fun _ _ ht => .headVldxc o _ ht
  | rsend o => cases hf; exact fun _ _ ht => .headSend o _ ht _
  | rrun o => cases hf; exact fun _ _ ht => .headSend o _ ht _
  | rend => cases hf; exact fun _ _ ht => .headRend _ ht
  | xclose o => cases hf; exact fun _ _ ht => .headXclose o _ ht
  | rrecv o => cases hf; exact fun _ _ ht => .headRrecv o _ ht
  | matt o => cases hf; exact fun _ _ ht => .headMatt o _ ht
  | mrel => cases hf; exact fun _ _ ht => .headMrel _ ht
  | mzero o => cases hf; exact fun _ _ ht => .headMzero o _ ht
  | msetlen o => cases hf; exact fun _ _ ht => .headMsetlen o _ ht
  | msave o => cases hf; exact fun _ _ ht => .headMsave o _ ht
  | mload o => cases hf; exact fun _ _ ht => .headMload o _ ht
  | opadd o => cases hf; exact fun _ _ ht => .headOp o _ ht _
  | opsub o => cases hf; exact fun _ _ ht => .headOp o _ ht _
  | opaddSp o => cases hf; exact fun _ _ ht => .headOpaddSp o _ ht
  | opaddBs o => cases hf; exact fun _ _ ht => .headOpaddBs o _ ht
  | opaddQ o => cases hf; exact fun _ _ ht => .headOpaddQ o _ ht
  | mgrp o => cases hf; exact fun _ _ ht => .headGrp o _ ht _
  | mgrpQ o => cases hf; exact fun _ _ ht => .headGrp o _ ht _
  | mldt o => cases hf; exact fun _ _ ht => .headLdt o _ ht _
  | mldtFf o => cases hf; exact fun _ _ ht => .headLdt o _ ht _
  | mstt o => cases hf; exact fun _ _ ht => .headMstt o _ ht
  | mrdv o => cases hf; exact fun _ _ ht => .headMrdv o _ ht
  | mwrv o => cases hf; exact fun _ _ ht => .headMwrv o _ ht
  | bst o => cases hf; exact fun _ _ ht => .headBst o _ ht
  | bchain o => cases hf; exact fun _ _ ht => .headBchain o _ ht
  | bsset o => cases hf; exact fun _ _ ht => .headBsset o _ ht
  | bsget o => cases hf; exact fun _ _ ht => .headBsget o _ ht
  | setvl o => cases hf; exact fun _ _ ht => .headBoundary _ ht
  | setvli o => cases hf; exact fun _ _ ht => .headBoundary _ ht
  | setcfg o => cases hf; exact fun _ _ ht => .headBoundary _ ht
  | gsetvl o => cases hf; exact fun _ _ ht => .headBoundary _ ht  | _ => cases hf

/-! ### The queue's moves (R98 to R110) -/

namespace State.Canon

theorem perform (hs : s.Canon c) {e : QEntry} {p : Nat} (h : s.perform e p = some t) : t.Canon c := by
  unfold State.perform at h
  split at h
  · cases h
  next f hf =>
    have hr := HeadRes.Canon.headOf hf { e with vl := p, vcfg := e.vcfg &&& ~~~0x20 }
      { s with hart := { s.hart with queue := [{ e with vl := p, vcfg := e.vcfg &&& ~~~0x20 }] } } (State.Canon.same hs)
    dsimp only at h
    generalize f _ _ = r at h hr
    cases hr with
    | done ht =>
      cases h
      exact ht.same
    | trap _ _ => cases h
    | wait _ => cases h

theorem slipOne (hs : s.Canon c) (pre : List QEntry) (e : QEntry) : (s.slipOne pre e).1.Canon c := by
  unfold State.slipOne
  split
  · exact hs
  · dsimp only
    split
    · exact hs
    · split
      next u hu => exact (hs.perform hu).nextFree
      · exact hs

theorem slipThrough (pre l : List QEntry) (hs : s.Canon c) : (s.slipThrough pre l).1.Canon c := by
  induction l generalizing s pre with
  | nil => exact hs
  | cons e l ih => exact ih _ (hs.slipOne ..)

theorem slip (n : Nat) (hs : s.Canon c) : (s.slip n).Canon c :=
  (hs.slipThrough (s.hart.queue.take n) (s.hart.queue.drop n)).same

theorem runBeside (hs : s.Canon c) (v : QEntry) (hh : ∀ e t, t.Canon c → (head e t).Canon c) : (s.runBeside v head).Canon c := by
  unfold State.runBeside
  extract_lets back keep
  have hb {u : State} (hu : u.Canon c) : (back u).Canon c := hu.same
  have hk {u : State} (hu : u.Canon c) : (keep u).Canon c := hu.same
  clear_value back keep
  split
  · exact hs
  next e l _ =>
    refine .ite hs ?_
    have hr := HeadRes.Canon.headRes (head := head)
      (s := { s.noEstart with hart := { s.noEstart.hart with queue := e :: l } }) (State.Canon.same hs.noEstart) e hh
    generalize State.headRes _ e head = r at hr
    cases hr with
    | done ht => exact hb (ht.healMask ..).popFront
    | trap ti ht =>
      dsimp only
      cases hl : s.levelMove with
      | none => exact .takeTrap (hb (.ite ht (hk ht))) ..
      | some u => exact hs.levelMove hl
    | wait ht => exact hb (hk ht)

theorem frontMove (hs : s.Canon c) (e : QEntry) : (s.frontMove e).Canon c := by
  have hslip (t : State) (ht : t.Canon c) : (State.slip 1 t).Canon c := ht.slip 1
  unfold State.frontMove
  split
  next f hf =>
    exact .ite (hs.runFrontWith hslip (HeadRes.Canon.headOf hf)) (.ite (hs.takeTurn.runFrontWith hslip (HeadRes.Canon.headOf hf)) hs)
  · exact hs.popFront

theorem queueMove (hs : s.Canon c) : s.queueMove.Canon c := by
  unfold State.queueMove
  refine .ite hs ?_
  split
  · exact hs
  · split
    · exact .ite (hs.slip 0).nextFree (hs.frontMove _)
    · refine .ite ?_ (.ite (hs.slip 0).nextFree (hs.frontMove _))
      split
      next g hg => exact (hs.runBeside _ (HeadRes.Canon.headOf hg)).nextFree
      · exact hs

end State.Canon
end

section
variable {c : Given} {s t : State} {h : Hart} {m : Memory} {l : Lease}

/-! ### Fences, traps, control registers and tasks (R83 to R97, R206 to R244) -/

theorem Hart.Canon.returnFromTrap (hh : h.Canon c) : h.returnFromTrap.Canon c := hh

theorem Hart.Canon.markFence (hh : h.Canon c) (level : Nat) : (h.markFence level).Canon c := hh

theorem Hart.Canon.moveFront (hh : h.Canon c) (n : Nat) (v : Word) : (h.moveFront n v).Canon c := by
  unfold Hart.moveFront
  split
  · split
    · exact hh
    · exact hh
  · exact hh

theorem Hart.Canon.keepFrozen (hh : h.Canon c) (n : Nat) (old : Word) : (h.keepFrozen n old).Canon c := by
  unfold Hart.keepFrozen
  split
  · exact hh
  · exact hh

namespace State.Canon

theorem haltNow (hs : s.Canon c) (core reason : Nat) (stable unstable : Bool) : (s.haltNow core reason stable unstable).Canon c := by
  unfold State.haltNow
  extract_lets k u v e _ w
  have hu : u.Canon c := hs.foldl fun t j ht => ht.setHart _
  have hv : v.Canon c := hu.setCore ..
  have hw : w.Canon c := hv.same
  exact hw.rollHart ..

theorem askHalt (hs : s.Canon c) (core reason : Nat) (quiet : Bool) : (s.askHalt core reason quiet).Canon c :=
  .ite hs <| .ite (.pushOnce (hs.setCore ..) _) <| .ite (.pushOnce (hs.setCore ..) _) (hs.haltNow ..)

theorem launch (hs : s.Canon c) {qn bytes : Nat} {w : Word} (h : s.launch qn bytes = some (w, t)) : t.Canon c := by
  unfold State.launch at h
  extract_lets p q n u at h
  have hu : u.Canon c := hs.setQueue ..
  clear_value u
  split_ifs at h
  · cases h
    exact hs
  · cases h
    exact hs
  · cases h
    exact hs
  · cases h
    exact hs
  · split at h
    next v hv =>
      cases h
      exact (hu.regWrite hv).pokePackage _
    · cases h
      exact hu.queueErr ..
    · cases h

theorem phaseTry (hs : s.Canon c) : s.phaseTry.Canon c := .ite (.ite (hs.same fun hh => by exact hh) hs) (hs.cohortPhase _)

theorem arrive (hs : s.Canon c) : s.arrive.Canon c := State.Canon.phaseTry hs.same

theorem dropAside (g n : Nat) (hs : s.Canon c) : (s.dropAside g n).Canon c := by
  induction n generalizing s with
  | zero => exact hs
  | succ n ih =>
    unfold State.dropAside
    extract_lets d w i u h _ v f
    have hu : u.Canon c := .pokeProctor (hs.setDie _) _
    have hv : v.Canon c := hu.setHart g
    exact ih (hv.setForm ..)

theorem leaseTarget (hs : s.Canon c) (g pref : Nat) : (s.leaseTarget g pref).Canon c := by
  unfold State.leaseTarget
  extract_lets l u h l' t extra new v f w
  have hu : u.Canon c := hs.dropAside ..
  have hv : v.Canon c := hu.setHart g
  have hw : w.Canon c := hv.setForm ..
  exact .offer (.ite hw (hw.returnPass ..)) _

end State.Canon

namespace Result.Canon

theorem fence (hs : s.Canon c) (ready : Bool) (agents : List Agent) : (s.fence ready agents).Canon c := by
  unfold State.fence
  split
  next u hu =>
    split at hu
    · exact .next ((hs.order hu).advance _)
    · cases hu
  · exact .next hs

theorem fenceVv (hs : s.Canon c) : (execFenceVv s).Canon c := .next (State.Canon.advance (hs.same fun hh => Hart.Canon.markFence hh _) _)

theorem fenceI (hs : s.Canon c) : (execFenceI s).Canon c := .next (.ite (State.Canon.advance hs.same _) hs)

theorem brk (hs : s.Canon c) : (execBrk s).Canon c := .ite (.next (hs.askHalt ..)) (.next (hs.trapIssue ..))

theorem tret (hs : s.Canon c) : (execTret s).Canon c :=
  .ite (.next (hs.trapBits ..)) <| .ite (.next (hs.trapIssue ..)) (.next (State.Canon.resumeStreams (hs.same fun hh => Hart.Canon.returnFromTrap hh)))

theorem wfe (hs : s.Canon c) : (execWfe s).Canon c := .ite (.next (State.Canon.advance hs.same _)) (.stall hs _)

theorem ctl (hs : s.Canon c) (i : Sys2Proof.Instr) (n : Nat) (d : Reg) (new : Option (Word → Word)) : (s.ctl i n d new).Canon c := by
  unfold State.ctl
  extract_lets old _ u
  have hu : u.Canon c := by
    cases new with
    | none => exact hs
    | some f =>
      have hw : Hart.Canon c { s.hart with ctl := s.hart.ctl.write n (f old) } := hs.hart
      exact hs.same fun _ => (hw.moveFront n (f old)).keepFrozen n old
  clear_value u
  exact .ite (.next (hs.trapBits ..)) <| .ite (.next (hs.trapBits ..)) <| .ite (.next (hs.trapBits ..)) <| .ite (.next hs) (.next (hu.finishX ..))

theorem readBlock (hs : s.Canon c) (i : Sys2Proof.Instr) (va : Word) (n : Nat) {go : Nat → State → Result}
    (hg : ∀ v t, t.Canon c → (go v t).Canon c) : (s.readBlock i va n go).Canon c := by
  unfold State.readBlock
  split
  · exact .next (hs.trapAccess ..)
  · exact .next hs
  · exact .ite (.next (hs.trapIssue ..)) <| .ite (.next (hs.trapIssue ..)) (hg _ _ (hs.visit ..))

theorem tlaunch (hs : s.Canon c) (o : Sys2Proof.VOp) : (execTlaunch o s).Canon c := by
  refine .ite (.next hs) (.readBlock hs _ _ _ fun b t ht => ?_)
  split
  next r hr => exact .next ((ht.launch hr).finishV ..)
  · exact .next hs

theorem twait (hs : s.Canon c) (o : Sys2Proof.VOp) : (execTwait o s).Canon c :=
  .ite (.next (hs.finishV ..)) <| .ite (.next (hs.finishV ..)) (.stall hs _)

theorem texit (hs : s.Canon c) : (execTexit s).Canon c := .ite (.next (hs.endTask _)) (.next hs)

theorem tyield (hs : s.Canon c) : (execTyield s).Canon c := .next (.ite (hs.advanceV.askPreempt ..) hs.advanceV)

theorem garrive (hs : s.Canon c) (o : Sys2Proof.VOp) : (execGarrive o s).Canon c := .ite (.next hs) (.next (hs.arrive.finishV ..))

theorem gwait (hs : s.Canon c) (o : Sys2Proof.VOp) : (execGwait o s).Canon c := .ite (.next hs.phaseTry.advanceV) (.stall hs.phaseTry _)

theorem gbar (hs : s.Canon c) : (execGbar s).Canon c := by
  unfold execGbar
  extract_lets _ u
  have hu : u.Canon c := by
    dsimp only [u]
    split
    · exact State.Canon.arrive hs.same
    · exact hs.phaseTry
  clear_value u
  refine .ite (.next hs) ?_
  split
  · exact .ite (.next (State.Canon.advanceV hu.same)) (.stall hu _)
  · exact .next hu

theorem lease (hs : s.Canon c) (o : Sys2Proof.VOp) : (execLease o s).Canon c := by
  refine .ite (.next hs) <| .ite (.next ((hs.orVstat _).finishV ..)) ?_
  exact .next (((State.Canon.leaseTarget (hs.same fun hh => by exact ⟨hh.1, hh.2⟩) ..).pokePackage _).finishV ..)

theorem hpassDone (hs : s.Canon c) (d : Reg) (q : Nat) (ok : Bool) : (s.hpassDone d q ok).Canon c := .next (State.Canon.finishX hs.same.endV ..)

theorem hpass (hs : s.Canon c) (o : Sys2Proof.VOp) : (execHpass o s).Canon c := by
  unfold execHpass
  extract_lets q
  split
  · split
    · exact .hpassDone hs ..
    · exact .next hs
  · refine .ite (.next ((hs.orVstat _).finishV ..)) ?_
    have hp := hs.askPass (dieKey s.cur) { kind := .explicit, g := s.cur, slot := 0, charge := q }
    generalize s.askPass (dieKey s.cur) { kind := .explicit, g := s.cur, slot := 0, charge := q } = r at hp
    obtain ⟨u, ok⟩ := r
    exact .ite (.hpassDone hp ..) (.next (State.Canon.same hp))

theorem hdone (hs : s.Canon c) (o : Sys2Proof.VOp) : (execHdone o s).Canon c := by
  have ht : State.Canon c { s with hart := { s.hart with hpass := 0 } } := hs.same
  exact .next (.finishV (.ite ht (ht.returnPass ..)) ..)

end Result.Canon

end

section
variable {c : Given} {s t : State} {h : Hart} {m : Memory} {l : Lease}

/-! ### The vector context (R120, R226 to R230, R341 to R347) -/

/-- What is given to be canonical is so in the state that a move to or from a save area leaves, and in what it moved. -/
inductive Moved.Canon (c : Given) {α : Type} (P : α → Prop) : Moved α → Prop
  | ok {v : α} : P v → Canon c P (.ok v)
  | bad (cause : Nat) (va : Word) {t : State} : t.Canon c → Canon c P (.bad cause va t)
  | wait : Canon c P .wait

theorem Memory.Canon.loadStore (rd : Nat → Nat × Bool) (key off n : Nat) (hm : m.Canon c) : (Machine.loadStore rd key off n m).Canon c := by
  induction n with
  | zero => exact hm
  | succ n ih => exact .ite (.poison (ih.write ..) _) (ih.write ..)

theorem Memory.Canon.loadLease (hl : l.vmem.Canon c) (h : Hart) (rd : Nat → Nat × Bool) : (l.load h rd).vmem.Canon c := by
  unfold Lease.load
  extract_lets pipe n cut m l'
  have hm : m.Canon c := hl.foldl fun _ _ hm => hm.loadStore ..
  have hl' : l'.vmem.Canon c := hm
  split
  · exact List.foldlRecOn (motive := fun (l : Lease) => l.vmem.Canon c) _ _ hl' fun _ hl _ _ => hl
  · exact hl'

namespace Hart.Canon

theorem loadVector (hh : h.Canon c) (n : Nat) (words : Nat → Nat × Bool) : (h.loadVector n words).Canon c :=
  List.foldlRecOn (motive := Hart.Canon c) _ _ hh fun _ hh _ _ => hh.setMask ..

theorem loadScalar (hh : h.Canon c) (rd : Nat → Nat) : (h.loadScalar rd).Canon c := hh

theorem putFences (hh : h.Canon c) : h.putFences.Canon c := by
  unfold Hart.putFences
  split
  · exact hh
  · exact hh

theorem claim (hh : h.Canon c) : h.claim.Canon c := hh

theorem cleared : h.cleared.Canon c := ⟨.nil, .empty⟩

end Hart.Canon

namespace State.Canon

theorem putWord (hs : s.Canon c) (g : Nat) (loc : Nat → Loc) (w : ImageWord) : (s.putWord g loc w).Canon c := by
  unfold State.putWord
  split
  · exact .placeBad (hs.visit ..) ..
  · exact hs

theorem dropTileAsk (hs : s.Canon c) (g : Nat) : (s.dropTileAsk g).Canon c := by
  unfold State.dropTileAsk
  extract_lets h fk f u v w h'
  have hu : u.Canon c := hs.setForm ..
  have hv : v.Canon c := hu.withdraw ..
  have hw : w.Canon c := .ite (hv.returnPass ..) hv
  clear_value w
  exact .ite hs (.freeTiles (hw.setHart g fun hh => by exact ⟨hh.1, hh.2⟩) ..)

theorem resumeLanding (hs : s.Canon c) (g : Nat) : (s.resumeLanding g).Canon c := hs.foldl fun _ _ ht => ht.pushOnce _

theorem lostBoundary (hs : s.Canon c) : s.lostBoundary.Canon c := .ite (hs.resize ..) hs

end State.Canon

namespace Moved.Canon

theorem putImage (hs : s.Canon c) (g : Nat) (h : Hart) (base : Word) (strict : Bool) (ws : List ImageWord) :
    (s.putImage g h base strict ws).Canon c (State.Canon c) := by
  unfold State.putImage
  extract_lets a loc part
  have hp (u : Unit) : (part u).Canon c := .nextFree (hs.foldl fun _ _ ht => ht.putWord ..)
  clear_value part
  split
  · exact .wait
  · exact .bad _ _ (hp ())
  · split
    · exact .bad _ _ (hp ())
    · exact .ok (hs.foldl fun _ _ ht => ht.putWord ..)

theorem getWords (hs : s.Canon c) (g : Nat) (h : Hart) (base : Word) (carry : Nat) (offs : List Nat) :
    (s.getWords g h base carry offs).Canon c (State.Canon c) := by
  unfold State.getWords
  extract_lets a
  split
  · exact .wait
  · exact .bad _ _ hs
  · split
    · exact .bad _ _ hs
    · refine .ok (hs.foldl fun u o hu => ?_)
      split
      · exact hu.visit ..
      · exact hu

theorem saveHart (hs : s.Canon c) (g : Nat) : (s.saveHart g).Canon c (State.Canon c) := by
  unfold State.saveHart
  extract_lets h l
  split
  · exact .bad _ _ hs
  · exact .putImage hs ..

theorem saveAll (l : List Nat) (hs : s.Canon c) : (s.saveAll l).Canon c (State.Canon c) := by
  induction l generalizing s with
  | nil => exact .ok hs
  | cons g l ih =>
    have hg := saveHart hs g
    simp only [State.saveAll]
    generalize s.saveHart g = r at hg
    cases hg with
    | ok hu => exact ih hu
    | bad _ _ hu => exact .bad _ _ hu
    | wait => exact .wait

theorem readHart (hs : s.Canon c) (g : Nat) (hh : h.Canon c) (hl : l.vmem.Canon c) :
    (s.readHart g h l).Canon c fun r => r.1.Canon c ∧ r.2.1.Canon c ∧ r.2.2.vmem.Canon c := by
  unfold State.readHart
  extract_lets base rd fences v
  have hv : v.Canon c := hh.loadVector ..
  clear_value v
  have hg := getWords hs g h base 0x10000 (scalarOffs ++ fixedOffs h l.lanes ++ countedOffs h l.lanes (rd 0x168).1 (rd 0x170).1)
  generalize s.getWords g h base 0x10000 _ = r at hg
  cases hg with
  | ok hu =>
    exact .ok ⟨hu, .loadScalar (.putFences (by exact hv)) _, hl.loadLease ..⟩
  | bad _ _ hu => exact .bad _ _ hu
  | wait => exact .wait

theorem readAll (ps : List (Nat × Hart)) (hps : ∀ p ∈ ps, p.2.Canon c) (hs : s.Canon c) (hl : l.vmem.Canon c) :
    (s.readAll ps l).Canon c fun r => r.1.Canon c ∧ (∀ h ∈ r.2.1, h.Canon c) ∧ r.2.2.vmem.Canon c := by
  induction ps generalizing s l with
  | nil => exact .ok ⟨hs, fun _ hh => (List.not_mem_nil hh).elim, hl⟩
  | cons p ps ih =>
    obtain ⟨hp, hps⟩ := List.forall_mem_cons.mp hps
    have hr := readHart hs p.1 hp hl
    simp only [State.readAll]
    generalize s.readHart p.1 p.2 l = r at hr
    cases hr with
    | wait => exact .wait
    | bad _ _ hu => exact .bad _ _ hu
    | ok hr =>
      next v =>
      obtain ⟨u, h', l'⟩ := v
      obtain ⟨hu, hh', hl'⟩ := hr
      have hrest := ih hps hu hl'
      dsimp only
      generalize u.readAll ps l' = q at hrest
      cases hrest with
      | wait => exact .wait
      | bad _ _ hv => exact .bad _ _ hv
      | ok hq =>
        obtain ⟨hv, hhs, hl''⟩ := hq
        exact .ok ⟨hv, List.forall_mem_cons.mpr ⟨hh', hhs⟩, hl''⟩

end Moved.Canon

/-- One hart of a pre-empted task goes on, as `State.resumeTask` has it: it runs again, and the task's owner holds its lease. -/
def State.putBack (owner : Nat) (lease : Lease) (s : State) (p : Hart × Nat) : State :=
  let h := { p.1 with run := .running, owner := owner, lease := (if p.2 = owner then lease else Lease.none) }
  ((s.setHart p.2 h).resumeLanding p.2).rollHart p.2 4 0 h.pc h.ctl.vsaveptr

namespace State.Canon

theorem park (hs : s.Canon c) (g reason : Nat) : (s.park g reason).Canon c := by
  unfold State.park
  extract_lets u h v w x
  have hu : u.Canon c := hs.dropTileAsk g
  have hv : v.Canon c := hu.rollHart ..
  have hw : w.Canon c := hv.setParked (List.forall_mem_append.mpr ⟨fun _ hp => hv.parked hp, List.forall_mem_singleton.mpr (hu.getHart g)⟩)
  have hx : x.Canon c := .ite (hw.releaseLease g) hw
  exact .pokePackage (hx.setHart g fun _ => Hart.Canon.cleared) _

theorem preemptNow (hs : s.Canon c) (g reason : Nat) : (s.preemptNow g reason).Canon c := by
  unfold State.preemptNow
  extract_lets gs
  refine .ite (hs.foldl fun _ _ ht => ht.endTask _) (.ite hs ?_)
  split
  next j _ =>
    refine hs.onHart j fun t ht => ?_
    cases hl : t.levelMove with
    | none => exact ht
    | some u => exact ht.levelMove hl
  · have hr := Moved.Canon.saveAll gs hs
    generalize s.saveAll gs = r at hr
    cases hr with
    | wait => exact hs
    | bad _ _ hu => exact hu.kill ..
    | ok hu => exact hu.foldl fun _ _ ht => ht.park ..

theorem parkedTask (hs : s.Canon c) (g : Nat) (h : Hart) : ∀ p ∈ s.parkedTask g h, p.2.Canon c := by
  intro p hp
  obtain ⟨_, -, hp⟩ := List.mem_flatMap.mp hp
  exact hs.parked (List.mem_of_mem_filter (List.mem_of_mem_filter hp))

theorem regrant (hs : s.Canon c) {g : Nat} {l : Lease} (h : s.regrant g l = some t) : t.Canon c := by
  unfold State.regrant at h
  extract_lets fk f d need charge at h
  split_ifs at h
  · cases h
    exact hs.setForm ..
  · cases h
    exact State.Canon.setDie (hs.setForm ..) _ fun _ => hs.die _

theorem putBack (hs : s.Canon c) (owner : Nat) (hl : l.vmem.Canon c) {p : Hart × Nat} (hp : p.1.Canon c) : (State.putBack owner l s p).Canon c := by
  have hlease : (if p.2 = owner then l else Lease.none).vmem.Canon c := by
    split
    · exact hl
    · exact .empty
  exact .rollHart (.resumeLanding (hs.setHart p.2 fun _ => by exact ⟨hp.1, hlease⟩) _) ..

theorem resumeTask (hs : s.Canon c) {ps : List (Nat × Hart)} (hps : ∀ p ∈ ps, p.2.Canon c) (h : s.resumeTask ps = some t) : t.Canon c := by
  unfold State.resumeTask at h
  split at h
  · cases h
  next g h' rest =>
    extract_lets idle k own l at h
    have hown : own.2.Canon c := by
      cases hf : ((g, h') :: rest).find? (fun p => p.1 = p.2.owner) with
      | none => exact hps _ (by simp [own, hf])
      | some q => exact hps _ (by simpa [own, hf] using List.mem_of_find?_eq_some hf)
    clear_value own
    split at h
    · cases h
    · split at h
      · cases h
      next granted hg =>
        have hg := hs.regrant hg
        have hr := Moved.Canon.readAll _ hps hs hown.2
        have hr' := Moved.Canon.readAll _ hps hg hown.2
        generalize s.readAll _ own.2.lease = r at h hr
        generalize granted.readAll _ own.2.lease = r' at h hr'
        cases hr with
        | wait => cases h
        | bad _ _ hu =>
          dsimp only at h
          obtain rfl := Option.some.inj h
          exact hu.foldl fun _ _ ht => ht.killParked ..
        | ok hr =>
          next v =>
          obtain ⟨u, hs', l'⟩ := v
          obtain ⟨-, hharts, hl'⟩ := hr
          dsimp only at h hharts hl'
          obtain rfl := Option.some.inj h
          refine List.foldlRecOn (motive := State.Canon c) _ (State.putBack _ _) ?_ fun t ht p hp => ht.putBack _ (by exact hl') (hharts p.1 (List.of_mem_zip hp).1)
          have hgone {t : State} (ht : t.Canon c) : State.Canon c { t with parked := t.parked.filter fun p => !((g, h') :: rest).contains p } :=
            ht.setParked fun p hp => ht.parked (List.mem_of_mem_filter hp)
          cases hr' with
          | ok hr => exact hgone hr.1
          | bad _ _ _ => exact hgone hg
          | wait => exact hgone hg

theorem resumeFirst (hs : s.Canon c) (l : List (Nat × Hart)) (h : s.resumeFirst l = some t) : t.Canon c := by
  induction l with
  | nil => cases h
  | cons p l ih =>
    unfold State.resumeFirst at h
    split at h
    next u hu =>
      cases h
      exact hs.resumeTask (hs.parkedTask _ _) hu
    · exact ih h

end State.Canon

namespace Result.Canon

theorem context (hs : s.Canon c) (i : Sys2Proof.Instr) (va : Word) {go : Result} (hg : go.Canon c) : (s.context i va go).Canon c :=
  .ite (.next (hs.trapBits ..)) <| .ite (.next (hs.trapIssue ..)) <| .ite (.next hs) hg

theorem saveVector (hs : s.Canon c) (va : Word) {go : State → Result} (hg : ∀ t, t.Canon c → (go t).Canon c) : (s.saveVector va go).Canon c := by
  have hp := Moved.Canon.putImage hs s.cur s.hart va false (s.hart.vectorImage s.lease s.hart.ctxWord)
  unfold State.saveVector
  generalize s.putImage s.cur s.hart va false (s.hart.vectorImage s.lease s.hart.ctxWord) = r at hp
  cases hp with
  | ok ht => exact hg _ ht
  | bad _ _ ht => exact .next (ht.trapIssue ..)
  | wait => exact .next hs

theorem vclaim (hs : s.Canon c) : (execVclaim s).Canon c := by
  refine .ite (.next (hs.advance _)) (.context hs _ _ (.saveVector hs _ fun t ht => ?_))
  have hu : (t.dropTileAsk t.cur).Canon c := ht.dropTileAsk _
  exact .next (State.Canon.advance (hu.same fun hh => Hart.Canon.claim hh) _)

theorem vsave (hs : s.Canon c) (a : Reg) : (execVsave a s).Canon c :=
  .context hs _ _ (.saveVector hs _ fun _ ht => .next (ht.advance _))

theorem restoreVector (hs : s.Canon c) (va : Word) : (s.restoreVector va).Canon c := by
  unfold State.restoreVector
  extract_lets g a rd n offs
  have hg := Moved.Canon.getWords hs g s.hart va (2 ^ 64) offs
  generalize s.getWords g s.hart va (2 ^ 64) offs = r at hg
  cases hg with
  | wait => exact .next hs
  | bad _ _ ht => exact .next (ht.trapIssue ..)
  | ok ht =>
    next t =>
    dsimp only
    have hu : (t.dropTileAsk g).Canon c := ht.dropTileAsk g
    generalize t.dropTileAsk g = u at hu
    have hv : (u.setLease (u.lease.load u.hart rd)).Canon c := hu.setLease (hu.vmem.loadLease ..)
    generalize u.setLease (u.lease.load u.hart rd) = v at hv
    have hw : (v.hart.loadVector n rd).Canon c := hv.hart.loadVector ..
    generalize v.hart.loadVector n rd = w at hw
    have hx : Hart.Canon c (Hart.putFences { w with
        claimFences := if v.hart.vclaimed then v.hart.claimFences else v.hart.vvFence :: v.hart.queue.map QEntry.fenced }) :=
      Hart.Canon.putFences (by exact hw)
    generalize Hart.putFences _ = x at hx
    exact .next ((State.Canon.resumeLanding (State.Canon.lostBoundary (hv.same fun _ => by exact hx)) _).advance _)

theorem vrestore (hs : s.Canon c) (a : Reg) : (execVrestore a s).Canon c := by
  unfold execVrestore
  extract_lets va rd
  refine .context hs _ _ ?_
  have hg := Moved.Canon.getWords hs s.cur s.hart va (2 ^ 64) [0x150, 0x158]
  generalize s.getWords s.cur s.hart va (2 ^ 64) [0x150, 0x158] = r at hg
  cases hg with
  | wait => exact .next hs
  | bad _ _ ht => exact .next (ht.trapIssue ..)
  | ok ht => exact .ite (.next (ht.advance _)) (.restoreVector hs va)

theorem taskResume (hs : s.Canon c) : (execTaskResume s).Canon c := by
  unfold execTaskResume
  extract_lets dk
  split
  next u hu => exact .next ((hs.resumeFirst _ hu).pokePackage _)
  · exact .next (.ite (hs.pokeResume _) hs)

end Result.Canon
end

section
variable {c : Given} {s t : State} {h : Hart} {m : Memory} {l : Lease}

/-! ### Drafts (R312 to R318) -/

namespace State.Canon

theorem dregGo (hs : s.Canon c) (h : Word) (d : Nat) : (s.dregGo h d).Canon c :=
  .ite (.pokePackage (.settleCheck (hs.setDraft ..) ..) _) (.tag (.mirror (hs.setDraft ..) ..) ..)

theorem wakeDrafts (hs : s.Canon c) (p d : Nat) : (s.wakeDrafts p d).Canon c := hs.wakeAll _

theorem wakeProducer (hs : s.Canon c) (p : Nat) (e : DraftRec) : (s.wakeProducer p e).Canon c := hs.wakeAll _

end State.Canon

namespace Result.Canon
variable (o : Sys2Proof.VOp)

theorem dreg (hs : s.Canon c) : (execDreg o s).Canon c := by
  unfold execDreg
  extract_lets h d _ go
  have hgo (u : Unit) : (go u).Canon c := .next (.finishV (.ite (hs.dregGo ..) hs) ..)
  clear_value go
  refine .ite (hgo ()) ?_
  split
  · exact .next (hs.trapAccess ..)
  · exact .next hs
  · exact .ite (.next (hs.trapIssue ..)) (hgo ())

theorem publish (hs : s.Canon c) (final : Bool) : (s.publish o final).Canon c := by
  unfold State.publish
  extract_lets p d
  split
  · exact .next hs
  next u hu =>
    have hu := hs.release hu
    exact .ite (.next (hu.finishV ..)) (.next (.finishV (.draftChanged (.wakeDrafts (hu.setDraft ..) ..) ..) ..))

theorem dfinal (hs : s.Canon c) : (execDfinal o s).Canon c := .ite (.next (hs.trapIssue ..)) (.publish o hs _)

theorem dstop (hs : s.Canon c) : (execDstop o s).Canon c :=
  .next (.finishV (.ite hs (.wakeProducer (.ite hs (.draftTail (hs.setDraft ..) ..)) ..)) ..)

theorem dchk (hs : s.Canon c) : (execDchk o s).Canon c := by
  unfold execDchk
  extract_lets d w
  split
  · exact .next (hs.finishV ..)
  · exact .next (hs.finishV ..)
  · exact .next ((hs.orVstat _).finishV ..)

theorem dwait (hs : s.Canon c) : (execDwait o s).Canon c := .ite (.next (State.Canon.finishX hs.same.endV ..)) (.stall hs.same _)

theorem illegalInstruction (hs : s.Canon c) : (execIllegalInstruction s).Canon c := .next (hs.trapIssue ..)

theorem fetchFault (hs : s.Canon c) : (execFetchFault s).Canon c := .next (hs.trapIssue ..)

end Result.Canon

/-! ### Agents' events (R348 to R351): dispatch, registers and grants -/

theorem SMap.map_wf {α : Type} [DecidableEq α] {d : α} {f : α → α} (hf : ∀ v, v ≠ d → f v ≠ d) {m : SMap α} {lo : Nat}
    (hm : SMap.wfFrom d lo m = true) : SMap.wfFrom d lo (m.map fun p => (p.1, f p.2)) = true := by
  induction m generalizing lo with
  | nil => rfl
  | cons p m ih =>
    simp only [SMap.wfFrom, List.map_cons, Bool.and_eq_true, decide_eq_true_eq] at hm ⊢
    obtain ⟨⟨hk, hv⟩, hm⟩ := hm
    exact ⟨⟨hk, hf _ hv⟩, ih hm⟩

/-- A queue at its age by now, as LEVEL_AGING leaves it (R348). -/
def QueueRec.aged (clk : Nat) (q : QueueRec) : QueueRec :=
  match q.ready with
  | some t => { q with age := agedTo t clk }
  | none => q

/-- A queue that ages waits to start, which no queue at reset does. -/
theorem QueueRec.aged_ne_reset {clk : Nat} {q : QueueRec} (hq : q ≠ QueueRec.reset) : q.aged clk ≠ QueueRec.reset := by
  unfold QueueRec.aged
  split
  next w hw =>
    intro he
    have hready := congrArg QueueRec.ready he
    cases hw.symm.trans hready
  · exact hq

namespace Result.Canon

theorem atPackage (hs : s.Canon c) : (t.atPackage s).Canon c := .ite (.next hs) (.fault _)

theorem atDie (hs : s.Canon c) : (t.atDie s).Canon c := .ite (.next hs) (.fault _)

end Result.Canon

namespace State.Canon

theorem writeEnable (hs : s.Canon c) (v : Nat) : (s.writeEnable v).Canon c := hs.winWrite ..

theorem freeAside (hs : s.Canon c) (g : Nat) : (s.freeAside g).Canon c :=
  .pokePackage (.setForm (hs.setHart g fun hh => by exact ⟨hh.1, hh.2⟩) ..) _

theorem clusterGranted (hs : s.Canon c) (g : Nat) (dispatch : Bool) : (s.clusterGranted g dispatch).Canon c :=
  .ite (hs.setHart g fun hh => by exact ⟨hh.1, hh.2⟩) <| .ite ((hs.freeAside _).returnPass ..) (hs.setHart g fun hh => by exact ⟨hh.1, hh.2⟩)

theorem passGranted (hs : s.Canon c) (r : PassReq) : (s.passGranted r).Canon c := by
  unfold State.passGranted
  extract_lets g h
  split
  · exact .tryStart (hs.setHart g fun hh => by exact ⟨hh.1, hh.2⟩) _
  · exact hs.clusterGranted ..
  · exact hs.setHart g
  · exact hs.setHart g
  · exact .pushOnce (hs.setSlot ..) _

theorem passRefused (hs : s.Canon c) (r : PassReq) : (s.passRefused r).Canon c := by
  unfold State.passRefused
  extract_lets g h
  split
  · exact .tryStart (.freeTiles (hs.setHart g fun hh => by exact ⟨hh.1, hh.2⟩) ..) _
  · exact hs.freeAside _
  · exact hs.setHart g
  · exact hs.setHart g
  · exact hs.finishSlot ..

end State.Canon

namespace Result.Canon

theorem copyHandoff (hs : s.Canon c) : (execCopyHandoff s).Canon c := .atDie (.pokePackage (State.Canon.same (hs.carry ..)) _)

theorem levelAging (hs : s.Canon c) : (execLevelAging s).Canon c := by
  unfold execLevelAging
  extract_lets dk d queues u v more
  have hq : SMap.Canon c QueueRec.reset queues := by
    exact ⟨fun ht => SMap.map_wf (f := QueueRec.aged s.clk) (fun q hq => QueueRec.aged_ne_reset hq) ((hs.die dk).wf ht)⟩
  have hv : v.Canon c := State.Canon.same (hs.setDie dk fun _ => hq)
  exact .atDie (.ite (hv.pushOnce _) hv)

theorem relaunch (hs : s.Canon c) : (execRelaunch s).Canon c := by
  refine .atDie ?_
  split
  · exact hs.refire _
  · exact hs

theorem tailWrite (hs : s.Canon c) : (execTailWrite s).Canon c := .atDie (.ite hs.same (hs.winWrite ..))

theorem registerWrite (hs : s.Canon c) : (execRegisterWrite s).Canon c := .atDie (.ite (hs.winWrite ..) hs)

theorem leasewaitExpiry (hs : s.Canon c) : (execLeasewaitExpiry s).Canon c :=
  .next (.ite hs <| .ite (hs.endTask _) <| .ite (.ite hs (hs.askPreempt ..)) <| .ite (hs.askPreempt ..) hs)

theorem hallPassGrant (hs : s.Canon c) : (execHallPassGrant s).Canon c := by
  unfold execHallPassGrant
  extract_lets dk d
  split
  · exact .atDie (.ite (.pokeProctor (.passGranted (hs.setDie dk) _) _) hs)
  · exact .atDie hs

theorem hpwaitExpiry (hs : s.Canon c) : (execHpwaitExpiry s).Canon c := by
  unfold execHpwaitExpiry
  extract_lets g dk d
  split
  · exact .next (.pokeProctor (.passRefused (.roll (hs.setDie dk) ..) _) _)
  · exact .next (.ite (.pokeTiles (State.Canon.setHart (hs.setForm ..) g fun _ => by exact hs.getHart g) _) hs)

theorem tileGrant (hs : s.Canon c) : (execTileGrant s).Canon c := .atDie (.ite ((hs.serveTiles _).pokeTiles _) (hs.serveTiles _))

end Result.Canon
end

section
variable {c : Given} {s t : State} {h : Hart} {m : Memory} {l : Lease}

/-! ### Links, replicas and time (R244, R365 to R369, R380 to R394) -/

namespace State.Canon

theorem modPieces (hs : s.Canon c) (g : Nat) (f : Piece → Piece) : (s.modPieces g f).Canon c := hs.setHart g

theorem answerFlits (hs : s.Canon c) (g : Nat) (p : Piece) : (s.answerFlits g p).Canon c :=
  .sendFlit (.hopFlits (hs.foldl fun _ _ ht => ht.sendFlit ..) ..) ..

theorem dropReplicas (hs : s.Canon c) (p : Nat) : (s.dropReplicas p).Canon c := hs.setPkg p

theorem routeLost (hs : s.Canon c) (p : Nat) : (s.routeLost p).Canon c := (hs.nextFree.rollHub ..).nextFree

theorem markFailed (hs : s.Canon c) (u n : Nat) : (s.markFailed u n).Canon c := by
  unfold State.markFailed
  extract_lets r
  split
  · exact hs.setPkg u
  · exact hs.setPkg u

theorem failUnit (hs : s.Canon c) (u n : Nat) : (s.failUnit u n).Canon c := by
  unfold State.failUnit
  extract_lets hit lost streams before f s1 s2 a1 s3 s4 s5 bad s6
  have h1 : s1.Canon c := (hs.markFailed ..).nextFree
  have h2 : s2.Canon c := h1.foldl fun _ _ ht => ht.modPieces ..
  have h3 : s3.Canon c := .ite (h2.rollHub ..) (.ite (h2.rollHub ..) (h2.roll ..))
  have h4 : s4.Canon c := h3.foldl fun _ _ ht => ht.foldl fun _ _ hu => hu.routeLost _
  have h5 : s5.Canon c := h4.foldl fun _ _ ht => ht.dropReplicas _
  have h6 : s6.Canon c := h5.foldl fun _ _ ht => ht.failRound _
  exact h6.foldl fun _ _ ht => ht.pushOnce _

theorem sendIdle (hs : s.Canon c) (p n : Nat) : (s.sendIdle p n).Canon c := hs.wire ..

theorem resendAll (hs : s.Canon c) (p n : Nat) : (s.resendAll p n).Canon c := .foldl (hs.setPort ..) fun _ _ ht => ht.wire ..

theorem retrainDue (hs : s.Canon c) (p n : Nat) : (s.retrainDue p n).Canon c := .ite (hs.pushOnce _) hs

theorem takeFlit (hs : s.Canon c) (p n : Nat) (f : FlitHead) (payload : BitVec 928) : (s.takeFlit p n f payload).Canon c := by
  unfold State.takeFlit
  extract_lets u v w
  have hu : u.Canon c := hs.setPort ..
  have hv : v.Canon c := .ite (hu.resendAll ..) hu
  have hw : w.Canon c := hv.drainPort ..
  exact .retrainDue (.ite hw (hw.sendIdle ..)) ..

theorem dropHolder (hs : s.Canon c) (page holder : Nat) : (s.dropHolder page holder).Canon c :=
  hs.setPkg _ fun hh => by exact ⟨hh.1, hh.2.1, SMap.Canon.set hh.2.2 ..⟩

theorem placeHeld (hs : s.Canon c) (page : Nat) (l : List HeldWrite) : (s.placeHeld page l).Canon c :=
  hs.foldl fun _ _ ht => .ite (ht.placeOne _) ht

theorem holderDone (hs : s.Canon c) (q page holder : Nat) : (s.holderDone q page holder).Canon c :=
  .ite hs <| .ite (hs.setPkg q) (.placeHeld (hs.setPkg q fun hh => by exact ⟨hh.1, hh.2.1, SMap.Canon.set hh.2.2 ..⟩) ..)

theorem correctTime (hs : s.Canon c) (p : Nat) (off ahead : Int) : (s.correctTime p off ahead).Canon c :=
  .ite (.rollHub (hs.setPkg p) ..) (hs.setPkg p)

end State.Canon

namespace Result.Canon

theorem gatherPieceResponse (hs : s.Canon c) : (execGatherPieceResponse s).Canon c :=
  .next (.modPieces (.nextFree (hs.foldl fun _ _ ht => ht.answerFlits ..)) ..)

theorem transferTimeout (hs : s.Canon c) : (execTransferTimeout s).Canon c :=
  .ite (.next (hs.setPkg _)) <| .ite (.next (hs.nextFree.modPieces ..)) (.next (hs.setHart _))

theorem linkFail (hs : s.Canon c) : (execLinkFail s).Canon c := .atPackage (.ite (hs.failUnit ..) hs)

theorem flitReceive (hs : s.Canon c) : (execFlitReceive s).Canon c :=
  .atPackage (.ite hs <| .ite (hs.takeFlit ..) (.sendIdle (hs.setPort ..) ..))

theorem portRetrain (hs : s.Canon c) : (execPortRetrain s).Canon c := .atPackage (.ite hs (hs.setPort ..))

theorem retrainDone (hs : s.Canon c) : (execRetrainDone s).Canon c := by
  unfold execRetrainDone
  extract_lets a r u v
  have hv : v.Canon c := .drainPort (.resendAll (hs.setPort ..) ..) ..
  exact .atPackage (.ite hs <| .ite (hv.failUnit ..) <| .ite (hv.rollHub ..) hv)

theorem retrainTimeout (hs : s.Canon c) : (execRetrainTimeout s).Canon c := .atPackage (.ite (.failUnit (hs.setPort ..) ..) hs)

theorem replicaCreate (hs : s.Canon c) : (execReplicaCreate s).Canon c := by
  unfold execReplicaCreate
  extract_lets p page q r h pool full u _ v w k
  have hu : u.Canon c := .ite (hs.dropHolder ..) hs
  have hv : v.Canon c := hu.setPkg p
  exact .atPackage (.ite hs (hv.setPkg q fun hh => by exact ⟨hh.1, hh.2.1, SMap.Canon.set hh.2.2 ..⟩))

theorem replicaInvalidate (hs : s.Canon c) : (execReplicaInvalidate s).Canon c := by
  unfold execReplicaInvalidate
  extract_lets p page q r u
  have hu : u.Canon c := hs.setPkg p
  exact .atPackage (.ite (hs.pushOnce _) (State.Canon.pushOnce hu.same _))

theorem replicaAck (hs : s.Canon c) : (execReplicaAck s).Canon c := .atPackage (hs.holderDone ..)

theorem replicaAckTimeout (hs : s.Canon c) : (execReplicaAckTimeout s).Canon c := .atPackage (.ite (hs.holderDone ..) hs)

theorem ptpSync (hs : s.Canon c) : (execPtpSync s).Canon c :=
  .atPackage (.ite hs (.correctTime (State.Canon.setPkg (hs.hopFlits ..) _) ..))

theorem pdelay (hs : s.Canon c) : (execPdelay s).Canon c := .atPackage (.ite hs (.sendFlit (hs.setPort ..) ..))

theorem noGm (hs : s.Canon c) : (execNoGm s).Canon c := .atPackage (.ite hs (.rollHub (hs.setPkg _) ..))

theorem timeSet (hs : s.Canon c) : (execTimeSet s).Canon c :=
  .atPackage (.ite (.ite hs (hs.setPkg _)) <| .ite hs <| .ite (hs.foldl fun _ _ ht => ht.setPkg _) (hs.foldl fun _ _ ht => ht.correctTime ..))

theorem timeSlew (hs : s.Canon c) : (execTimeSlew s).Canon c := .atPackage (.ite (hs.setPkg _) hs)

end Result.Canon
end

section
variable {c : Given} {s t : State} {h : Hart} {m : Memory} {l : Lease}

/-! ### The host bridge (R319 to R326) -/

theorem Hart.Canon.raise (hh : h.Canon c) (f : FFlags) : (h.raise f).Canon c := hh

namespace State.Canon

theorem complete (hs : s.Canon c) (p : Nat) (k : Completion) (bs : List Sys2Proof.Byte) : (s.complete p k bs).Canon c := hs.same

theorem hostAgain (hs : s.Canon c) (k : Sys2Proof.Instr) : (s.hostAgain k).Canon c := hs.same

theorem apertureWrite (hs : s.Canon c) (p a b n v : Nat) : (s.apertureWrite p a b n v).Canon c :=
  hs.setPkg p fun hh => by exact ⟨hh.1, SMap.Canon.set hh.2.1 .., hh.2.2⟩

theorem hubTransfer (hs : s.Canon c) (p dk : Nat) : (s.hubTransfer p dk).Canon c := by
  unfold State.hubTransfer
  refine .ite hs ?_
  split
  · exact .hopFlits (.sendFlit (.sendFlit (hs.hopFlits ..) ..) ..) ..
  · exact hs

theorem hostVisit (hs : s.Canon c) (p : Nat) (pl : Place) (k : Kind) (leaf : Option LeafAt) : (s.hostVisit p pl k leaf).Canon c :=
  (hs.hubTransfer ..).touch ..

theorem hostAbort (hs : s.Canon c) (p cause ap : Nat) (write : Bool) (va : Word) : (s.hostAbort p cause ap write va).Canon c :=
  .rollHub (hs.setPkg p) ..

theorem hostWait (hs : s.Canon c) (k : Sys2Proof.Instr) {gaveUp : State → State} (hg : ∀ t, t.Canon c → (gaveUp t).Canon c) :
    (s.hostWait k gaveUp).Canon c := .ite (hg _ hs.nextFree) (hs.nextFree.hostAgain _)

theorem bar2Read (hs : s.Canon c) (p off n : Nat) : (s.bar2Read p off n).Canon c := by
  unfold State.bar2Read
  extract_lets ap d o base abort
  have ha {t : State} (ht : t.Canon c) (k : Nat) (va : Word) : (abort t k va).Canon c := (ht.hostAbort ..).complete ..
  clear_value abort
  refine .ite (hs.complete ..) ?_
  split
  · exact ha hs ..
  · exact hs.hostWait _ fun _ ht => ha ht ..
  · split
    · exact ha hs ..
    · exact .complete (hs.foldl fun _ _ ht => ht.hostVisit ..) ..

theorem bar2Write (hs : s.Canon c) (p off : Nat) (bs : List Sys2Proof.Byte) : (s.bar2Write p off bs).Canon c := by
  unfold State.bar2Write
  extract_lets ap d o base v
  refine .ite hs ?_
  split
  · exact hs.hostAbort ..
  · exact hs.hostWait _ fun _ ht => ht.hostAbort ..
  next l _ =>
    extract_lets u
    have hu : u.Canon c := hs.foldl fun _ _ ht => .ite ht ((ht.hostVisit ..).place ..)
    clear_value u
    split
    · exact hu.nextFree.hostAbort ..
    · exact hu

theorem completeRegs (hs : s.Canon c) (p : Nat) (r : Option (List Sys2Proof.Byte)) : (s.completeRegs p r).Canon c := by
  cases r with
  | some bs => exact hs.complete ..
  | none => exact hs.complete ..

theorem windowAbort (hs : s.Canon c) (p : Nat) (write : Bool) : (s.windowAbort p write).Canon c := hs.nextFree.nextFree.hostAbort ..

theorem bar0Read (hs : s.Canon c) (p off n : Nat) : (s.bar0Read p off n).Canon c := by
  unfold State.bar0Read
  extract_lets ps
  split
  · exact hs.complete ..
  · exact .ite ((hs.windowAbort ..).complete ..) (hs.complete ..)

theorem bar0Write (hs : s.Canon c) (p off : Nat) (bs : List Sys2Proof.Byte) : (s.bar0Write p off bs).Canon c := by
  unfold State.bar0Write
  extract_lets v ps u
  have hu : u.Canon c := hs.foldl fun t r ht => by
    split
    · exact ht
    · exact .ite ht (ht.winWrite ..)
  exact .ite (hu.nextFree.windowAbort ..) hu

theorem bar4Write (hs : s.Canon c) (p off : Nat) (bs : List Sys2Proof.Byte) : (s.bar4Write p off bs).Canon c :=
  hs.foldl fun _ _ ht => .ite (ht.apertureWrite ..) ht

theorem raise (hs : s.Canon c) (f : FFlags) : State.Canon c { s with hart := s.hart.raise f } := hs.same fun hh => Hart.Canon.raise hh f

end State.Canon

namespace Result.Canon

theorem apertureDescriptorWrite (hs : s.Canon c) : (execApertureDescriptorWrite s).Canon c := .atPackage (.ite (hs.apertureWrite ..) hs)

theorem hostRead (hs : s.Canon c) : (execHostRead s).Canon c := by
  unfold execHostRead
  extract_lets a p n
  refine .atPackage (.ite hs (.ite (hs.hostAgain _) ?_))
  split
  · exact .ite (hs.complete ..) (hs.bar0Read ..)
  · exact .ite (hs.complete ..) (hs.bar2Read ..)
  · exact hs.completeRegs ..
  · exact hs.complete ..

theorem hostWrite (hs : s.Canon c) : (execHostWrite s).Canon c := by
  unfold execHostWrite
  extract_lets a p
  refine .atPackage (.ite hs (.ite (hs.hostAgain _) ?_))
  split
  · exact hs.bar0Write ..
  · exact hs.bar2Write ..
  · exact hs.bar4Write ..
  · exact hs

theorem msixUnmask (hs : s.Canon c) : (execMsixUnmask s).Canon c := by
  unfold execMsixUnmask
  extract_lets p v r masked u
  have hm : masked.Canon c := hs.setPkg p
  have hu : u.Canon c := hs.setPkg p
  exact .atPackage (.ite hs <| .ite hm <| .ite hu.same hu)

/-! ### Scalar arithmetic, branches and jumps (R66 to R79) -/

theorem finishX (hs : s.Canon c) (d : Reg) (v : Word) (len : Nat) : Result.Canon c (.next (s.finishX d v len)) := .next (hs.finishX ..)

theorem finishF (hs : s.Canon c) (d : Reg) (r : FRes) : (s.finishF d r).Canon c := .next ((hs.raise _).finishX ..)

theorem fcvti (hs : s.Canon c) (o : Sys2Proof.FOp) : (execFcvti o s).Canon c := .next ((hs.raise _).finishX ..)

theorem branch (hs : s.Canon c) (taken : Bool) (offset : Word) (len : Nat) : (s.branch taken offset len).Canon c :=
  .next (.ite (hs.jump _) (hs.advance _))

theorem jumpLink (hs : s.Canon c) (d : Reg) (target link : Word) : (s.jumpLink d target link).Canon c := .next ((hs.writeX ..).jump _)

end Result.Canon
end

section
variable {c : Given} {s t : State} {h : Hart} {m : Memory} {l : Lease}

/-! ### Errors, resets, keys and debug (R327 to R340, R395 to R427) -/

theorem Memory.Canon.wipe {m : Memory} (p : Nat → Bool) (hm : m.wf = true) : (m.wipe p).wf = true := Memory.filter_wf _ _ hm

namespace Hart.Canon

theorem poisonEntry (hl : l.vmem.Canon c) (j e n : Nat) : (l.poisonEntry j e n).vmem.Canon c := hl

theorem poisonReg (hh : h.Canon c) (n : Nat) : (h.poisonReg n).Canon c := by
  unfold Hart.poisonReg
  split_ifs
  · exact ⟨hh.1, hh.2.poison n⟩
  · exact ⟨hh.1, poisonEntry hh.2 ..⟩
  · exact hh

theorem withCode (hh : h.Canon c) (m : Memory) : Hart.Canon c { h with code := m } := hh

theorem poisonTile (hh : h.Canon c) (n : Nat) : (h.poisonTile n).Canon c := hh

theorem bootHart (b : BootCfg) (m : Memory) (p d : Nat) : (Machine.bootHart b m p d).Canon c := ⟨.nil, .empty⟩

end Hart.Canon

/-- The harts, dies and other tables of a state replaced by canonical ones. -/
theorem State.Canon.rebuild (hs : s.Canon c) {hart : Hart} {harts : SMap Hart} {cores : SMap CoreRec} {forms : SMap FormRec}
    {parked : List (Nat × Hart)} {dies : SMap DieRec} {xids : SMap XidRec} (hh : hart.Canon c)
    (hharts : SMap.Canon c Hart.reset harts) (hall : ∀ p ∈ harts, p.2.Canon c) (hcores : SMap.Canon c CoreRec.reset cores)
    (hforms : SMap.Canon c FormRec.reset forms) (hparked : ∀ p ∈ parked, p.2.Canon c) (hdies : SMap.Canon c DieRec.reset dies)
    (hqueues : ∀ k, (SMap.get DieRec.reset dies k).Canon c) (hxids : SMap.Canon c XidRec.reset xids) {runs dispatched tlb} :
    State.Canon c { s with
      hart := hart, harts := harts, cores := cores, forms := forms, parked := parked, dies := dies, xids := xids, runs := runs,
      dispatched := dispatched, tlb := tlb } where
  memory := hs.memory
  tables ht := { (hs.tables ht) with
    harts := hharts.wf ht
    dies := hdies.wf ht
    cores := hcores.wf ht
    forms := hforms.wf ht
    xids := hxids.wf ht
    queues := fun k => (hqueues k).wf ht
    current := Hart.Canon.iff_tables.mp hh ht
    others := List.forall_mem_append.mpr
      ⟨fun p hp => Hart.Canon.iff_tables.mp (hall p hp) ht, fun p hp => Hart.Canon.iff_tables.mp (hparked p hp) ht⟩ }

theorem SMap.Canon.filter {α : Type} [DecidableEq α] {d : α} {m : SMap α} (hm : SMap.Canon c d m) (p : Nat × α → Bool) :
    SMap.Canon c d (m.filter p) := ⟨fun ht => SMap.filter_wf _ (hm.wf ht)⟩

/-- The records of dies set one after another keep canonical queues. -/
theorem SMap.Canon.setDies {f : Nat → Nat} {g : Nat → DieRec} {l : List Nat} {m : SMap DieRec}
    (hm : SMap.Canon c DieRec.reset m) (hq : ∀ k, (SMap.get DieRec.reset m k).Canon c) (hg : ∀ d, (g d).Canon c) :
    SMap.Canon c DieRec.reset (l.foldl (fun m d => SMap.set DieRec.reset m (f d) (g d)) m) ∧
      ∀ k, (SMap.get DieRec.reset (l.foldl (fun m d => SMap.set DieRec.reset m (f d) (g d)) m) k).Canon c := by
  refine List.foldlRecOn (motive := fun (m : SMap DieRec) => SMap.Canon c DieRec.reset m ∧ ∀ k, (SMap.get DieRec.reset m k).Canon c)
    _ _ ⟨hm, hq⟩ fun m hm d _ => ⟨hm.1.set .., fun k => ⟨fun ht => ?_⟩⟩
  rw [SMap.get_set (hm.1.wf ht)]
  split
  · exact (hg d).wf ht
  · exact (hm.2 k).wf ht

namespace State.Canon

theorem tables_harts (hs : s.Canon c) : SMap.Canon c Hart.reset s.harts := ⟨fun ht => (hs.tables ht).harts⟩

theorem other (hs : s.Canon c) {p : Nat × Hart} (hp : p ∈ s.harts) : p.2.Canon c :=
  Hart.Canon.iff_tables.mpr fun ht => (hs.tables ht).others p (List.mem_append_left _ hp)

theorem rollCheck (hs : s.Canon c) (code : Nat) : (s.rollCheck code).Canon c := hs.roll ..

theorem countRow (hs : s.Canon c) : s.countRow.Canon c := .ite (.pushOnce (hs.setDie _) _) (hs.setDie _)

theorem poisonWord (hs : s.Canon c) : s.poisonWord.Canon c := by
  unfold State.poisonWord
  extract_lets a n g
  split
  · exact hs.setHart g fun hh => Hart.Canon.poisonReg hh n
  · exact hs.patch (fun hm => Memory.poison_wf (hs.memory hm)) hs.hart
  · refine .ite (hs.setParked ?_) (hs.setHart g fun hh => Hart.Canon.poisonTile hh n)
    refine List.forall_mem_map.mpr fun p hp => ?_
    split
    · exact (hs.parked hp).poisonTile n
    · exact hs.parked hp
  · exact hs.patch (fun hm => Memory.poison_wf (hs.memory hm)) hs.hart

theorem dropLates (hs : s.Canon c) : s.dropLates.Canon c :=
  have ht := hs.mapHarts (f := fun h => { h with late := none }) (events := s.events) fun _ hh => hh
  ht.setParked fun _ hp => hs.parked hp

theorem freshForms (hs : s.Canon c) (p : Nat) (boot : Bool) : SMap.Canon c FormRec.reset (s.freshForms p boot) :=
  .foldl (.filter ⟨fun ht => (hs.tables ht).forms⟩ _) fun _ _ hm => hm.foldl fun _ _ hm => hm.set ..

theorem bootHarts (p : Nat) (boot : Bool) (g : Nat) : (s.bootHarts p boot g).Canon c := by
  unfold State.bootHarts
  split
  · exact .bootHart ..
  · exact .reset

theorem writeRecords (hs : s.Canon c) (p : Nat) : (s.writeRecords p).Canon c :=
  hs.patch (fun hm => List.foldlRecOn (motive := fun (m : Memory) => m.wf = true) _ _ (hs.memory hm) fun _ hm _ _ => Memory.write_wf hm) hs.hart

theorem resetPackage (hs : s.Canon c) (p : Nat) (warm : Bool) (step : Nat) : (s.resetPackage p warm step).Canon c := by
  unfold State.resetPackage
  extract_lets boot zero mine r left s1 t1 t2 t3 own harts1 harts2 alone t4
  have h1 : s1.Canon c := (hs.foldl fun _ _ ht => ht.failRound _).dropLates
  have ht1 : t1.Canon c := h1.setPkg p fun _ => ⟨.nil, .nil, .nil⟩
  have ht2 : t2.Canon c := by
    refine ht1.patch (fun hm => ?_) ht1.hart
    split
    · exact Memory.Canon.wipe _ (ht1.memory hm)
    · exact ht1.memory hm
  have ht3 : t3.Canon c := .ite (ht2.writeRecords p) ht2
  clear_value s1 t3
  have hharts : SMap.Canon c Hart.reset harts2 ∧ ∀ q ∈ harts2, q.2.Canon c := by
    refine List.foldlRecOn (motive := fun (m : SMap Hart) => SMap.Canon c Hart.reset m ∧ ∀ q ∈ m, q.2.Canon c) _ _
      ⟨h1.tables_harts.filter _, fun q hq => h1.other (List.mem_of_mem_filter hq)⟩ fun m hm g _ => ?_
    split
    · exact hm
    · exact ⟨hm.1.set .., SMap.set_all (bootHarts ..) hm.2 g⟩
  have hhart : (if mine s1.cur then t3.bootHarts p boot s1.cur else s1.hart).Canon c := by
    split
    · exact bootHarts ..
    · exact h1.hart
  have hdies := SMap.Canon.setDies (l := List.range s1.dieCount) (f := fun d => 4 * p + d)
    (g := fun d => (s1.die (4 * p + d)).restart r.nv.boot.budget warm (bitsOf s1.arg.val.toNat 32 32))
    ⟨fun ht => (h1.tables ht).dies⟩ h1.die fun _ => .nil
  have hxids : SMap.Canon c XidRec.reset (if alone then [] else s1.xids.filter fun x => s1.xidHub x.1 ≠ p) := by
    split
    · exact .nil
    · exact .filter ⟨fun ht => (h1.tables ht).xids⟩ _
  have ht4 : t4.Canon c := ht3.rebuild hhart hharts.1 hharts.2 (.filter ⟨fun ht => (h1.tables ht).cores⟩ _) (ht3.freshForms ..)
    (fun _ hq => h1.parked (List.mem_of_mem_filter hq)) hdies.1 hdies.2 hxids
  exact ht4.foldl fun _ _ ht => .ite ht (ht.setPkg _)

theorem answer (hs : s.Canon c) (p kind : Nat) (v : BitVec 256) : (s.answer p kind v).Canon c := hs.same

theorem spdmError (hs : s.Canon c) (p : Nat) : (s.spdmError p).Canon c := (hs.answer ..).raiseMsix ..

theorem spdmReply (hs : s.Canon c) (kind stage : Nat) (signed : Bool) : (s.spdmReply kind stage signed).Canon c :=
  .ite (hs.spdmError _) (.raiseMsix (.answer (hs.nextFree.setPkg _) ..) ..)

theorem freezeOn (hs : s.Canon c) (g : Nat) : (s.freezeOn g).Canon c := by
  refine hs.onHart g fun t ht => ?_
  split
  next u hu => exact ht.levelMove hu
  · split
    · split
      next f hf => exact ht.runFrontWith (fun _ hu => hu.slip 1) (HeadRes.Canon.headOf hf)
      · exact ht
    · exact ht

theorem halts (hs : s.Canon c) (kind : Sys2Proof.Instr) {go : State} (hg : go.Canon c) : (s.halts kind go).Canon c := by
  refine .ite hs ?_
  split
  · exact (hs.freezeOn _).pushOnce _
  · exact hg

theorem resumeCore (hs : s.Canon c) (core : Nat) : (s.resumeCore core).Canon c := by
  unfold State.resumeCore
  extract_lets k gs s1 s2 s3
  have h1 : s1.Canon c := hs.setCore ..
  have h2 : s2.Canon c := h1.rollHart ..
  have h3 : s3.Canon c := h2.foldl fun _ _ ht => .ite ht (ht.setHart _)
  exact .ite hs (.pokePackage (h3.foldl fun _ _ ht => .ite (ht.endTask _) ht) _)

theorem dctlWrite (hs : s.Canon c) (g : Nat) (v : Word) : (s.dctlWrite g v).Canon c := by
  unfold State.dctlWrite
  extract_lets core k s1 s2
  have h1 : s1.Canon c := hs.setCore ..
  have h2 : s2.Canon c := .ite (h1.askHalt ..) h1
  exact .ite (h2.resumeCore _) h2

theorem debugMemory (hs : s.Canon c) (g : Nat) (va : Word) (write : Option Nat) : (s.debugMemory g va write).Canon c := by
  unfold State.debugMemory
  extract_lets h a
  split
  · exact .answer (.place (hs.visit ..) ..) ..
  · exact (hs.visit ..).answer ..
  · exact hs.answer ..

theorem debugWrite (hs : s.Canon c) (g : Nat) (part : DebugPart) (v : Word) (data : List Sys2Proof.Byte) : (s.debugWrite g part v data).Canon c := by
  unfold State.debugWrite
  extract_lets h halted
  split
  · exact hs.dctlWrite ..
  · exact .ite (hs.setHart g) hs
  · exact .ite (hs.setHart g fun hh => by exact hh) hs
  · exact .ite (hs.setHart g fun hh => Hart.Canon.writeX hh ..) hs
  · exact .ite (hs.setSlot ..) hs
  · exact .ite (hs.debugMemory ..) hs
  · exact hs

theorem debugRead (hs : s.Canon c) (g : Nat) (part : DebugPart) (v : Word) : (s.debugRead g part v).Canon c := by
  unfold State.debugRead
  extract_lets h p say
  have hsay (w : Word) : (say w).Canon c := hs.answer ..
  clear_value say
  split
  · exact .ite (hsay _) (hs.answer ..)
  · exact .ite (hsay _) (hs.answer ..)
  · exact .ite (hsay _) (hs.answer ..)
  · exact .ite (hs.debugMemory ..) (hs.answer ..)
  · refine .ite (hs.answer ..) ?_
    have hp := Moved.Canon.putImage hs g h v false (h.vectorImage (if h.owner = g then h.lease else (s.getHart h.owner).lease) h.ctxWord)
    generalize s.putImage g h v false _ = r at hp
    cases hp with
    | ok ht => exact ht.answer ..
    | bad _ _ ht => exact ht.answer ..
    | wait => exact hs.answer ..

theorem opEnd (hs : s.Canon c) (dk err : Nat) : (s.opEnd dk err).Canon c := hs.setDie dk

theorem forget (hs : s.Canon c) (d : DieRec) : (s.forget d).Canon c := hs.same

theorem copyPage (new old : LeafAt) (n : Nat) (hs : s.Canon c) : (s.copyPage new old n).Canon c := by
  induction n with
  | zero => exact hs
  | succ n ih => exact ih.putUnder ..

theorem migrate (hs : s.Canon c) (dk : Nat) (d : DieRec) : (s.migrate dk d).Canon c := by
  unfold State.migrate
  split
  next l _ =>
    extract_lets new moved follow u
    have hu : u.Canon c := .putUnder (hs.copyPage ..) ..
    clear_value u
    exact hu.mapHarts (f := follow) fun _ hh => hh.withCode _
  · exact hs

end State.Canon

namespace Result.Canon

theorem corrected (hs : s.Canon c) : (execCorrected s).Canon c := .atDie (.ite (hs.rollCheck _).countRow (hs.rollCheck _))

theorem parityError (hs : s.Canon c) : (execParityError s).Canon c := .next (.ite hs (hs.kill ..))

theorem rowRepair (hs : s.Canon c) : (execRowRepair s).Canon c := .atDie (.rollCheck (hs.setPkg _) _)

theorem bootConfigWrite (hs : s.Canon c) : (execBootConfigWrite s).Canon c := .atPackage (.ite (hs.setPkg _) hs)

theorem minVersionRaise (hs : s.Canon c) : (execMinVersionRaise s).Canon c := .atPackage (.ite (hs.setPkg _) hs)

theorem loadKey (hs : s.Canon c) : (execLoad s).Canon c := .atPackage (.answer (.ite (hs.setPkg _) hs) ..)

theorem clearKey (hs : s.Canon c) : (execClear s).Canon c :=
  .atPackage (.ite (hs.pushOnce _) (.answer (.ite (State.Canon.dropLates (hs.setPkg _)) hs) ..))

theorem transportKeyWrite (hs : s.Canon c) : (execTransportKeyWrite s).Canon c := .atPackage (.ite (hs.setPkg _) hs)

theorem formQuiesce (hs : s.Canon c) : (execFormQuiesce s).Canon c := .atDie (.spareForm (hs.setForm ..) _)

theorem quiesceLimit (hs : s.Canon c) : (execQuiesceLimit s).Canon c := by
  refine .atDie (.ite (.spareForm (State.Canon.foldl (State.Canon.foldl hs ?_) ?_) _) hs)
  · exact fun _ _ ht => .ite ht (ht.kill ..)
  · exact fun _ _ ht => ht.killParked ..

theorem fwUpdate (hs : s.Canon c) : (execFwUpdate s).Canon c := .atDie (.ite (.pokePackage (.roll (hs.setDie _) ..) _) hs)

theorem spdm (hs : s.Canon c) (kind need stage : Nat) (signed small : Bool) : (s.spdm kind need stage signed small).Canon c :=
  .atPackage (.ite (hs.spdmError _) <| .ite (hs.spdmError _) (hs.spdmReply ..))

theorem powerLoss (hs : s.Canon c) : (execPowerLoss s).Canon c := .atPackage (.ite hs (hs.setPkg _))

theorem atUnit (n : Nat) (hs : s.Canon c) : (t.atUnit n s).Canon c := .ite (.next hs) (.fault _)

theorem haltComplete (hs : s.Canon c) : (execHaltComplete s).Canon c :=
  .atUnit _ (hs.halts _ (.ite (hs.haltNow ..) (.ite (hs.pushOnce _) (hs.haltNow ..))))

theorem haltQuietTimeout (hs : s.Canon c) : (execHaltQuietTimeout s).Canon c := .atUnit _ (hs.halts _ (hs.haltNow ..))

theorem debugStateAccess (hs : s.Canon c) : (execDebugStateAccess s).Canon c := .atUnit _ (.ite (hs.debugWrite ..) (hs.debugRead ..))

theorem invalidate (hs : s.Canon c) : (execInvalidate s).Canon c := .atDie (.ite (hs.pushOnce _) hs)

theorem migrate (hs : s.Canon c) : (execMigrate s).Canon c := by
  refine .atDie (.ite hs ?_)
  split
  · exact .ite (hs.opEnd ..) (.pushOnce (hs.putUnder ..) _)
  · exact hs.opEnd ..

theorem translationOpDone (hs : s.Canon c) : (execTranslationOpDone s).Canon c :=
  .atDie (.ite hs <| .ite (hs.pushOnce _) <| .ite ((hs.dropLates.forget _).opEnd ..) (((hs.dropLates.forget _).migrate ..).opEnd ..))

end Result.Canon
end

section
variable {c : Given} {s t : State} {head : QEntry → State → HeadRes}

/-! ### Every instruction and event -/

namespace Result.Canon

section
variable (hh : ∀ e t, t.Canon c → (head e t).Canon c)
include hh

theorem issueUnit (hs : s.Canon c) (i : Sys2Proof.Instr) (o : Sys2Proof.VOp) : (s.issueUnit i o head).Canon c := .issue hs _ _ _ _ _ hh

theorem issueStride (hs : s.Canon c) (i : Sys2Proof.Instr) (o : Sys2Proof.VOp) : (s.issueStride i o head).Canon c := .issue hs _ _ _ _ _ hh

theorem issueIndexed (hs : s.Canon c) (i : Sys2Proof.Instr) (o : Sys2Proof.VOp) (wb : Nat) (bad : Bool) :
    (s.issueIndexed i o wb bad head).Canon c := .issue hs _ _ _ _ _ hh

end

theorem vfcvtScaled (hs : s.Canon c) (o : Sys2Proof.VOp) (hh : ∀ e t, t.Canon c → (headVfcvtScaled o e t).Canon c) : (execVfcvtScaled o s).Canon c := by
  unfold execVfcvtScaled
  exact .issueUn hh hs ..

theorem vperm (hs : s.Canon c) (o : Sys2Proof.VOp) (hh : ∀ e t, t.Canon c → (headVperm o e t).Canon c) : (execVperm o s).Canon c := by
  unfold execVperm
  exact .issue hs _ _ _ _ _ hh

theorem vbfly (hs : s.Canon c) (o : Sys2Proof.VOp) (hh : ∀ e t, t.Canon c → (headVbfly o e t).Canon c) : (execVbfly o s).Canon c := by
  unfold execVbfly
  exact .issue hs _ _ _ _ _ hh

theorem qlds (hs : s.Canon c) (o : Sys2Proof.VOp) (hh : ∀ e t, t.Canon c → (headQlds o e t).Canon c) : (execQlds o s).Canon c := by
  unfold execQlds
  exact .issue hs _ _ _ _ _ hh

/-- An instruction that goes to the vector queue keeps what is given to be canonical. -/
theorem exec_queued (hs : s.Canon c) {i : Sys2Proof.Instr} (hq : headOf i = some head) : Result.Canon c (Machine.exec i s) := by
  have hh := HeadRes.Canon.headOf (c := c) hq
  cases i with
  | vadd o => cases hq; exact .issueBin hh hs ..
  | vsub o => cases hq; exact .issueBin hh hs ..
  | vmul o => cases hq; exact .issueBin hh hs ..
  | vmulh o => cases hq; exact .issueBin hh hs ..
  | vmin o => cases hq; exact .issueBin hh hs ..
  | vmax o => cases hq; exact .issueBin hh hs ..
  | vdiv o => cases hq; exact .issueBin hh hs ..
  | vrem o => cases hq; exact .issueBin hh hs ..
  | vand o => cases hq; exact .issueBin hh hs ..
  | vor o => cases hq; exact .issueBin hh hs ..
  | vxor o => cases hq; exact .issueBin hh hs ..
  | vsll o => cases hq; exact .issueBin hh hs ..
  | vsr o => cases hq; exact .issueBin hh hs ..
  | vsadd o => cases hq; exact .issueBin hh hs ..
  | vssub o => cases hq; exact .issueBin hh hs ..
  | vmac o => cases hq; exact .issueBin hh hs ..
  | vcmpeq o => cases hq; exact .issueCmp hh hs ..
  | vcmpne o => cases hq; exact .issueCmp hh hs ..
  | vcmplt o => cases hq; exact .issueCmp hh hs ..
  | vcmple o => cases hq; exact .issueCmp hh hs ..
  | vmerge o => cases hq; exact .issueBin hh hs ..
  | vmv o => cases hq; exact .issue hs _ _ _ _ _ hh
  | vmvx o => cases hq; exact .issue hs _ _ _ _ _ hh
  | vid o => cases hq; exact .issue hs _ _ _ _ _ hh
  | vfadd o => cases hq; exact .issueBin hh hs ..
  | vfsub o => cases hq; exact .issueBin hh hs ..
  | vfmul o => cases hq; exact .issueBin hh hs ..
  | vfdiv o => cases hq; exact .issueBin hh hs ..
  | vfma o => cases hq; exact .issueBin hh hs ..
  | vfnma o => cases hq; exact .issueBin hh hs ..
  | vfmin o => cases hq; exact .issueBin hh hs ..
  | vfmax o => cases hq; exact .issueBin hh hs ..
  | vfsqrt o => cases hq; exact .issueUn hh hs ..
  | vfrsqrt o => cases hq; exact .issueUn hh hs ..
  | vfabs o => cases hq; exact .issueUn hh hs ..
  | vfneg o => cases hq; exact .issueUn hh hs ..
  | vfcmpeq o => cases hq; exact .issueCmp hh hs ..
  | vfcmplt o => cases hq; exact .issueCmp hh hs ..
  | vfcmple o => cases hq; exact .issueCmp hh hs ..
  | vfclass o => cases hq; exact .issueUn hh hs ..
  | vfcvt o => cases hq; exact .issueUn hh hs ..
  | vfcvtScaled o => cases hq; exact .vfcvtScaled hs o hh
  | vf2i o => cases hq; exact .issueUn hh hs ..
  | vi2f o => cases hq; exact .issueUn hh hs ..
  | viext o => cases hq; exact .issueUn hh hs ..
  | vredsum o => cases hq; exact .issueRed hh hs ..
  | vredmin o => cases hq; exact .issueRed hh hs ..
  | vredmax o => cases hq; exact .issueRed hh hs ..
  | vredor o => cases hq; exact .issueRed hh hs ..
  | vfredsum o => cases hq; exact .issueRed hh hs ..
  | vfredosum o => cases hq; exact .issueRed hh hs ..
  | vfredmin o => cases hq; exact .issueRed hh hs ..
  | vfredmax o => cases hq; exact .issueRed hh hs ..
  | vscan o => cases hq; exact .issue hs _ _ _ _ _ hh
  | vperm o => cases hq; exact .vperm hs o hh
  | vslideup o => cases hq; exact .issue hs _ _ _ _ _ hh
  | vslidedn o => cases hq; exact .issue hs _ _ _ _ _ hh
  | vcompress o => cases hq; exact .issueUn hh hs ..
  | vrank o => cases hq; exact .issue hs _ _ _ _ _ hh
  | vbfly o => cases hq; exact .vbfly hs o hh
  | vsortk o => cases hq; exact .issueUn hh hs ..
  | mand o => cases hq; exact .issue hs _ _ _ _ _ hh
  | mor o => cases hq; exact .issue hs _ _ _ _ _ hh
  | mxor o => cases hq; exact .issue hs _ _ _ _ _ hh
  | mandn o => cases hq; exact .issue hs _ _ _ _ _ hh
  | mpopc o => cases hq; exact .issue hs _ _ _ _ _ hh
  | mfirst o => cases hq; exact .issue hs _ _ _ _ _ hh
  | mset o => cases hq; exact .issue hs _ _ _ _ _ hh
  | vmaxi o => cases hq; exact .issue hs _ _ _ _ _ hh
  | vmini o => cases hq; exact .issue hs _ _ _ _ _ hh
  | vbslice o => cases hq; exact .issueUn hh hs ..
  | vbunslice o => cases hq; exact .issueUn hh hs ..
  | vld o => cases hq; exact .issueUnit hh hs ..
  | vlds o => cases hq; exact .issueStride hh hs ..
  | vldav o => cases hq; exact .issueUnit hh hs ..
  | vldg o => cases hq; exact .vldg hs o
  | vldx o => cases hq; exact .issueIndexed hh hs ..
  | vldxu o => cases hq; exact .issueIndexed hh hs ..
  | vldxf o => cases hq; exact .issueIndexed hh hs ..
  | qlds o => cases hq; exact .qlds hs o hh
  | vst o => cases hq; exact .issueUnit hh hs ..
  | vsts o => cases hq; exact .issueStride hh hs ..
  | vstx o => cases hq; exact .issueIndexed hh hs ..
  | vstxu o => cases hq; exact .issueIndexed hh hs ..
  | vstxadd o => cases hq; exact .issueIndexed hh hs ..
  | vstxmax o => cases hq; exact .issueIndexed hh hs ..
  | vstxmin o => cases hq; exact .issueIndexed hh hs ..
  | mld o => cases hq; exact .issue hs _ _ _ _ _ hh
  | mst o => cases hq; exact .issue hs _ _ _ _ _ hh
  | vldxc o => cases hq; exact .issueIndexed hh hs ..
  | rsend o => cases hq; exact .issue hs _ _ _ _ _ hh
  | rrun o => cases hq; exact .issue hs _ _ _ _ _ hh
  | rend => cases hq; exact .issue hs _ _ none _ _ hh
  | xclose o => cases hq; exact .issue hs _ _ none _ _ hh
  | rrecv o => cases hq; exact .issue hs _ _ _ _ _ hh
  | matt o => cases hq; exact .issueM hs _ false none _ _ hh
  | mrel => cases hq; exact .issueM hs _ false none _ _ hh
  | mzero o => cases hq; exact .issueM hs _ _ _ _ _ hh
  | msetlen o => cases hq; exact .issueM hs _ false none _ _ hh
  | msave o => cases hq; exact .issueM hs _ false _ _ _ hh
  | mload o => cases hq; exact .issueM hs _ false _ _ _ hh
  | opadd o => cases hq; exact .issueM hs _ _ _ _ _ hh
  | opsub o => cases hq; exact .issueM hs _ _ _ _ _ hh
  | opaddSp o => cases hq; exact .issueM hs _ _ _ _ _ hh
  | opaddBs o => cases hq; exact .issueM hs _ _ _ _ _ hh
  | opaddQ o => cases hq; exact .issueM hs _ _ _ _ _ hh
  | mgrp o => cases hq; exact .issueM hs _ _ _ _ _ hh
  | mgrpQ o => cases hq; exact .issueM hs _ _ _ _ _ hh
  | mldt o => cases hq; exact .issueM hs _ _ _ _ _ hh
  | mldtFf o => cases hq; exact .issueM hs _ _ _ _ _ hh
  | mstt o => cases hq; exact .issueM hs _ _ _ _ _ hh
  | mrdv o => cases hq; exact .issueM hs _ _ _ _ _ hh
  | mwrv o => cases hq; exact .issueM hs _ _ _ _ _ hh
  | bst o => cases hq; exact .issueM hs _ _ _ _ _ hh
  | bchain o => cases hq; exact .issueM hs _ _ _ _ _ hh
  | bsset o => cases hq; exact .issueM hs _ false none _ _ hh
  | bsget o => cases hq; exact .issueM hs _ false none _ _ hh
  | setvl o => exact .boundary hs ..
  | setvli o => exact .boundary hs ..
  | setcfg o => exact .setcfg hs o
  | gsetvl o => exact .gsetvl hs o
  | _ => cases hq

/-- An agent's event keeps what is given to be canonical. -/
theorem exec_event (hs : s.Canon c) {i : Sys2Proof.Instr} (hi : encode i = none) : Result.Canon c (Machine.exec i s) := by
  cases i with
  | queueHeadExecute => exact .next (hs.onHart _ fun _ ht => ht.queueMove)
  | dispatchSlot => exact .atDie (hs.dispatchSlot _)
  | copyHandoff => exact .copyHandoff hs
  | levelAging => exact .levelAging hs
  | tailWrite => exact .tailWrite hs
  | queueEnable => exact .atDie (hs.writeEnable _)
  | queueDisable => exact .atDie (hs.writeEnable _)
  | relaunch => exact .relaunch hs
  | pipelineArm => exact .atDie (hs.winWrite ..)
  | leasewaitExpiry => exact .leasewaitExpiry hs
  | taskResume => exact .taskResume hs
  | hallPassGrant => exact .hallPassGrant hs
  | hpwaitExpiry => exact .hpwaitExpiry hs
  | tileGrant => exact .tileGrant hs
  | streamElementLanding => exact .streamElementLanding hs
  | chunkDelivered => exact .chunkDelivered hs
  | recordMerge => exact .recordMerge hs
  | recordArrival => exact .recordArrival hs
  | closeMarkerArrival => exact .closeMarkerArrival hs
  | batchDeadline => exact .batchDeadline hs
  | roundFailureNotice => exact .roundFailureNotice hs
  | linkFail => exact .linkFail hs
  | transferTimeout => exact .transferTimeout hs
  | gatherPieceResponse => exact .gatherPieceResponse hs
  | flitReceive => exact .flitReceive hs
  | portRetrain => exact .portRetrain hs
  | retrainTimeout => exact .retrainTimeout hs
  | replicaInvalidate => exact .replicaInvalidate hs
  | replicaAck => exact .replicaAck hs
  | replicaAckTimeout => exact .replicaAckTimeout hs
  | replicaCreate => exact .replicaCreate hs
  | ptpSync => exact .ptpSync hs
  | pdelay => exact .pdelay hs
  | noGm => exact .noGm hs
  | timeSet => exact .timeSet hs
  | hostRead => exact .hostRead hs
  | hostWrite => exact .hostWrite hs
  | apertureDescriptorWrite => exact .apertureDescriptorWrite hs
  | msixUnmask => exact .msixUnmask hs
  | corrected => exact .corrected hs
  | poisoned => exact .atDie (hs.poisonWord.rollCheck _)
  | parityError => exact .parityError hs
  | rowRepair => exact .rowRepair hs
  | fatalError => exact .atDie (hs.fatal ..)
  | coldReset => exact .atPackage (hs.resetPackage ..)
  | warmReset => exact .atPackage (hs.resetPackage ..)
  | bootConfigWrite => exact .bootConfigWrite hs
  | minVersionRaise => exact .minVersionRaise hs
  | load => exact .loadKey hs
  | clear => exact .clearKey hs
  | transportKeyWrite => exact .transportKeyWrite hs
  | formQuiesce => exact .formQuiesce hs
  | quiesceLimit => exact .quiesceLimit hs
  | fwUpdate => exact .fwUpdate hs
  | budgetWrite => exact .atDie (hs.winWrite ..)
  | getVersion => exact .spdm hs ..
  | getCapabilities => exact .spdm hs ..
  | negotiateAlgorithms => exact .spdm hs ..
  | getDigests => exact .spdm hs ..
  | getCertificate => exact .spdm hs ..
  | challenge => exact .spdm hs ..
  | getMeasurements => exact .spdm hs ..
  | keyExchange => exact .spdm hs ..
  | finish => exact .spdm hs ..
  | haltreq => exact .atUnit _ (hs.askHalt ..)
  | haltComplete => exact .haltComplete hs
  | haltQuietTimeout => exact .haltQuietTimeout hs
  | resume => exact .atUnit _ (hs.resumeCore _)
  | debugStateAccess => exact .debugStateAccess hs
  | invalidate => exact .invalidate hs
  | migrate => exact .migrate hs
  | translationOpDone => exact .translationOpDone hs
  | registerWrite => exact .registerWrite hs
  | illegalInstruction => exact .illegalInstruction hs
  | fetchFault => exact .fetchFault hs
  | retrainDone => exact .retrainDone hs
  | timeSlew => exact .timeSlew hs
  | powerLoss => exact .powerLoss hs
  | _ => cases hi

/-- An instruction that is executed where it is issued keeps what is given to be canonical. -/
theorem exec_unqueued (hs : s.Canon c) {i : Sys2Proof.Instr} (hi : ((headOf i).isNone && (encode i).isSome) = true) : Result.Canon c (Machine.exec i s) := by
  cases i with
  | hNop => exact .next (hs.advance _)
  | add o => exact .finishX hs ..
  | sub o => exact .finishX hs ..
  | mul o => exact .finishX hs ..
  | mulh o => exact .finishX hs ..
  | mulhu o => exact .finishX hs ..
  | div o => exact .finishX hs ..
  | divu o => exact .finishX hs ..
  | rem o => exact .finishX hs ..
  | remu o => exact .finishX hs ..
  | and o => exact .finishX hs ..
  | or o => exact .finishX hs ..
  | xor o => exact .finishX hs ..
  | sll o => exact .finishX hs ..
  | srl o => exact .finishX hs ..
  | sra o => exact .finishX hs ..
  | slt o => exact .finishX hs ..
  | sltu o => exact .finishX hs ..
  | min o => exact .finishX hs ..
  | max o => exact .finishX hs ..
  | minu o => exact .finishX hs ..
  | maxu o => exact .finishX hs ..
  | clz o => exact .finishX hs ..
  | ctz o => exact .finishX hs ..
  | popc o => exact .finishX hs ..
  | addi o => exact .finishX hs ..
  | andi o => exact .finishX hs ..
  | ori o => exact .finishX hs ..
  | xori o => exact .finishX hs ..
  | slti o => exact .finishX hs ..
  | sltiu o => exact .finishX hs ..
  | slli o => exact .finishX hs ..
  | srli o => exact .finishX hs ..
  | srai o => exact .finishX hs ..
  | ldb o => exact .load hs ..
  | ldh o => exact .load hs ..
  | ldw o => exact .load hs ..
  | ldd o => exact .load hs ..
  | ldbu o => exact .load hs ..
  | ldhu o => exact .load hs ..
  | ldwu o => exact .load hs ..
  | stb o => exact .store hs ..
  | sth o => exact .store hs ..
  | stw o => exact .store hs ..
  | std o => exact .store hs ..
  | beq o => exact .branch hs ..
  | bne o => exact .branch hs ..
  | blt o => exact .branch hs ..
  | bge o => exact .branch hs ..
  | bltu o => exact .branch hs ..
  | bgeu o => exact .branch hs ..
  | jal o => exact .jumpLink hs ..
  | jalr o => exact .jumpLink hs ..
  | lui o => exact .finishX hs ..
  | addpc o => exact .finishX hs ..
  | fadd o => exact .finishF hs ..
  | fsub o => exact .finishF hs ..
  | fmul o => exact .finishF hs ..
  | fdiv o => exact .finishF hs ..
  | fsqrt o => exact .finishF hs ..
  | fmin o => exact .finishF hs ..
  | fmax o => exact .finishF hs ..
  | feq o => exact .finishF hs ..
  | flt o => exact .finishF hs ..
  | fle o => exact .finishF hs ..
  | fclass o => exact .finishF hs ..
  | fcvt o => exact .finishF hs ..
  | fcvti o => exact .fcvti hs o
  | fcvtif o => exact .finishF hs ..
  | fsgn o => exact .finishF hs ..
  | fma o => exact .finishF hs ..
  | fnma o => exact .finishF hs ..
  | amoswap o => rw [exec_amoswap]; exact .amo hs ..
  | amoadd o => rw [exec_amoadd]; exact .amo hs ..
  | amoand o => rw [exec_amoand]; exact .amo hs ..
  | amoor o => rw [exec_amoor]; exact .amo hs ..
  | amoxor o => rw [exec_amoxor]; exact .amo hs ..
  | amomin o => rw [exec_amomin]; exact .amo hs ..
  | amomax o => rw [exec_amomax]; exact .amo hs ..
  | amominu o => rw [exec_amominu]; exact .amo hs ..
  | amomaxu o => rw [exec_amomaxu]; exact .amo hs ..
  | amocas o => rw [exec_amocas, execAmocas]; exact .atomic hs ..
  | amofadd o => rw [exec_amofadd, execAmofadd]; exact .atomic hs ..
  | fenceSv => exact .fence hs ..
  | fenceVs => exact .fence hs ..
  | fenceVv => exact .fenceVv hs
  | fenceAll => exact .fence hs ..
  | fenceI => exact .fenceI hs
  | trap a => exact .next (hs.trapIssue ..)
  | tret => exact .tret hs
  | wfe => exact .wfe hs
  | brk => exact .brk hs
  | ctlrd o => exact .ctl hs ..
  | ctlwr o => exact .ctl hs ..
  | ctlset o => exact .ctl hs ..
  | ctlclr o => exact .ctl hs ..
  | ctlwri o => exact .ctl hs ..
  | vclaim => exact .vclaim hs
  | vsave a => exact .vsave hs a
  | vrestore a => exact .vrestore hs a
  | xopen o => exact .xopen hs o
  | xsplit o => exact .xsplit hs o
  | xcap o => exact .xcap hs o
  | xdeadl o => exact .xdeadl hs o
  | xwait o => exact .xwait hs o
  | xstat o => exact .xstat hs o
  | xrebal o => exact .xrebal hs o
  | shape o => exact .shape hs o
  | stmld o => exact .stream hs ..
  | stmldShaped o => exact .stream hs ..
  | stmst o => exact .stream hs ..
  | stmstShaped o => exact .stream hs ..
  | stmcp o => exact .stream hs ..
  | stmcpShaped o => exact .stream hs ..
  | stmwait o => exact .stmwait hs o
  | stmstat o => exact .stmstat hs o
  | stmtl o => exact .stream hs ..
  | stmcancel o => exact .stmcancel hs o
  | tlaunch o => exact .tlaunch hs o
  | texit => exact .texit hs
  | tyield => exact .tyield hs
  | twait o => exact .twait hs o
  | gbar => exact .gbar hs
  | garrive o => exact .garrive hs o
  | gwait o => exact .gwait hs o
  | lease o => exact .lease hs o
  | dreg o => exact .dreg o hs
  | dpub o => exact .publish o hs _
  | dfinal o => exact .dfinal o hs
  | dstop o => exact .dstop o hs
  | dchk o => exact .dchk o hs
  | dwait o => exact .dwait o hs
  | hpass o => exact .hpass hs o
  | hdone o => exact .hdone hs o
  | hAddi o => exact .finishX hs ..
  | hLi o => exact .finishX hs ..
  | hMv o => exact .finishX hs ..
  | hAdd o => exact .finishX hs ..
  | hSub o => exact .finishX hs ..
  | hAnd o => exact .finishX hs ..
  | hOr o => exact .finishX hs ..
  | hXor o => exact .finishX hs ..
  | hSlli o => exact .finishX hs ..
  | hSrli o => exact .finishX hs ..
  | hLdd o => exact .load hs ..
  | hStd o => exact .store hs ..
  | hBeqz o => exact .branch hs ..
  | hBnez o => exact .branch hs ..
  | hJ o => exact .next (hs.jump _)
  | hJr o => exact .next (hs.jump _)
  | hSetvl o => exact .hSetvl hs o
  | _ => cases hi

/-- Every instruction and every event keeps what is given to be canonical. -/
theorem exec (i : Sys2Proof.Instr) (hs : s.Canon c) : Result.Canon c (Machine.exec i s) := by
  cases hq : headOf i with
  | some head => exact exec_queued hs hq
  | none =>
    cases hi : encode i with
    | none => exact exec_event hs hi
    | some w => exact exec_unqueued hs (by rw [hq, hi]; rfl)

end Result.Canon
end

section
variable {c : Given} {s t : State}

/-! ### Time, moves and the step -/

theorem SMap.le_of_mem {α : Type} [DecidableEq α] {d : α} {m : SMap α} {lo : Nat} (hm : SMap.wfFrom d lo m = true) {p : Nat × α}
    (hp : p ∈ m) : lo ≤ p.1 := by
  induction m generalizing lo with
  | nil => exact (List.not_mem_nil hp).elim
  | cons q m ih =>
    simp only [SMap.wfFrom, Bool.and_eq_true, decide_eq_true_eq] at hm
    obtain ⟨⟨hlo, -⟩, hm⟩ := hm
    rcases List.mem_cons.mp hp with rfl | hp
    · exact hlo
    · have hq := ih hm hp
      omega

/-- What a canonical table lists under a key is what it reads as there. -/
theorem SMap.get_of_mem {α : Type} [DecidableEq α] {d : α} {m : SMap α} {lo : Nat} (hm : SMap.wfFrom d lo m = true) {p : Nat × α}
    (hp : p ∈ m) : SMap.get d m p.1 = p.2 := by
  induction m generalizing lo with
  | nil => exact (List.not_mem_nil hp).elim
  | cons q m ih =>
    simp only [SMap.wfFrom, Bool.and_eq_true, decide_eq_true_eq] at hm
    obtain ⟨-, hm⟩ := hm
    rw [SMap.get]
    rcases List.mem_cons.mp hp with rfl | hp
    · exact if_pos rfl
    · have hlt := SMap.le_of_mem hm hp
      rw [if_neg (by omega)]
      exact ih hm hp

theorem PkgRec.Canon.slewed {r : PkgRec} (hr : r.Canon c) (ns : Nat) : (r.slewed ns).Canon c := by
  unfold PkgRec.slewed
  extract_lets n d
  split
  · exact hr
  · exact hr

namespace State.Canon

/-- Every package's clock slewed (R393). -/
theorem slewAll (hs : s.Canon c) (ns : Nat) : State.Canon c { s with pkgs := SMap.mapVals PkgRec.reset (PkgRec.slewed · ns) s.pkgs } where
  memory := hs.memory
  tables ht := by
    have hlisted : ∀ p ∈ s.pkgs, p.2.Canon c := fun p hp => SMap.get_of_mem (hs.tables ht).pkgs hp ▸ hs.pkg p.1
    have hall (p : Nat) : PkgRec.Canon c (SMap.get PkgRec.reset (SMap.mapVals PkgRec.reset (PkgRec.slewed · ns) s.pkgs) p) :=
      SMap.get_all ⟨.nil, .nil, .nil⟩ (SMap.mapVals_all (fun _ hr => hr.slewed ns) hlisted) p
    exact { (hs.tables ht) with
      pkgs := SMap.mapVals_wf (f := (PkgRec.slewed · ns)) (hs.tables ht).pkgs
      ports := fun p => (hall p).1.wf ht
      apertures := fun p => (hall p).2.1.wf ht
      holders := fun p => (hall p).2.2.wf ht }

theorem pass (hs : s.Canon c) : s.pass.Canon c := by
  unfold State.pass
  extract_lets u v
  have hu : u.Canon c := hs.same
  have hv : v.Canon c := hu.slewAll _
  clear_value v
  split
  · exact State.Canon.switch hv.same _
  · exact hv

theorem behindLoad (hs : s.Canon c) (passes : Bool) (rs : List Reg) : (s.behindLoad passes rs).Canon c := by
  unfold State.behindLoad
  split
  · exact .ite hs hs.dropLate
  · exact hs

theorem placeMove (hs : s.Canon c) (p k : Nat) : (s.placeMove p k).Canon c := by
  unfold State.placeMove
  extract_lets r
  split
  · exact .ite (.placeOne (hs.setPkg p) _) hs
  · exact hs

end State.Canon

namespace Result.Canon
variable {r : Result}

theorem putAway (hr : r.Canon c) : (Machine.putAway r).Canon c := by
  cases hr with
  | next ht => exact .next ht.same
  | fault f => exact .fault f
  | refused f => exact .refused f

theorem runIllegal (hs : s.Canon c) (bs : List Sys2Proof.Byte) : (s.runIllegal bs).Canon c :=
  .putAway (.exec _ (State.Canon.same hs))

theorem runFetchFault (hs : s.Canon c) (cause : Nat) (va : Word) : (s.runFetchFault cause va).Canon c :=
  .putAway (.exec _ (State.Canon.same hs))

theorem runInstr (hs : s.Canon c) (i : Sys2Proof.Instr) (bs : List Sys2Proof.Byte) : (s.runInstr i bs).Canon c :=
  .ite (.ite (.next hs) (.exec _ (hs.behindLoad ..))) (.runIllegal hs _)

theorem runBytes (hs : s.Canon c) (bs : List Sys2Proof.Byte) : (Machine.runBytes bs s).Canon c := by
  unfold Machine.runBytes
  split
  · exact .runInstr hs ..
  · exact .runIllegal hs _

theorem freezeFirst (hs : s.Canon c) (hr : r.Canon c) : (s.freezeFirst r).Canon c := by
  unfold State.freezeFirst
  split
  next u _ _ hu => exact .ite (.next (hs.levelMove hu)) hr
  · exact hr

theorem scalarMove (hs : s.Canon c) : s.scalarMove.Canon c := by
  refine .ite (.next hs) (.ite (.next (hs.preemptNow ..)) ?_)
  split
  next bs u hu => exact .freezeFirst hs (.runBytes (hs.fetch hu) _)
  · exact .runFetchFault hs ..
  · exact .next hs

theorem eventMove (hs : s.Canon c) (k : Nat) : (s.eventMove k).Canon c := by
  unfold State.eventMove
  split
  · exact .ite (.putAway (.exec _ (State.Canon.same hs))) (.next hs.same)
  · exact .next hs

theorem move (hs : s.Canon c) : s.move.Canon c := by
  unfold State.move
  split
  · exact .scalarMove hs
  · exact .next hs.queueMove
  · exact .eventMove hs _
  · exact .next (hs.switch _)
  · exact .next (hs.placeMove ..)
  · exact .next (.ite hs.lateRead hs)

theorem step (hs : s.Canon c) : Result.Canon c (Machine.step s) := .move hs.pass

theorem of_next (h : Result.Canon c (.next t)) : t.Canon c := by
  cases h
  assumption

end Result.Canon
end

/-- Settles O5: every function of the model keeps memory canonical, and so does the step. -/
theorem memoryInvariant : Obligations.MemoryInvariant := by
  intro s t hwf hstep
  have hs : State.Canon ⟨True, False⟩ s := ⟨fun _ => hwf, False.elim⟩
  exact (Result.Canon.of_next (hstep ▸ Result.Canon.step hs)).memory trivial

/-- Settles O6: every function of the model keeps every table canonical, and so does the step. -/
theorem tableInvariant : Obligations.TableInvariant := by
  intro s t hwf hstep
  have hs : State.Canon ⟨False, True⟩ s := ⟨False.elim, fun _ => hwf⟩
  exact (Result.Canon.of_next (hstep ▸ Result.Canon.step hs)).tables trivial

section

/-! ### The state at reset (R12, R399, R400) -/

theorem Hart.bootHart_ne_reset (b : BootCfg) (m : Memory) (p d : Nat) : bootHart b m p d ≠ Hart.reset := by
  intro h
  have hrun : Run.running = Run.idle := congrArg Hart.run h
  cases hrun

theorem FormRec.booted_ne_reset : { FormRec.reset with clusters := 15 } ≠ FormRec.reset := fun h =>
  absurd (congrArg FormRec.clusters h) (by decide)

theorem State.reset_harts_wf : SMap.wf Hart.reset State.reset.harts = true := by
  simp [State.reset, SMap.wf, SMap.wfFrom, Hart.bootHart_ne_reset]

theorem State.reset_tables : State.reset.Tables where
  harts := State.reset_harts_wf
  dies := rfl
  pkgs := rfl
  cores := rfl
  forms := by simp [State.reset, SMap.wf, SMap.wfFrom, FormRec.booted_ne_reset]
  xids := rfl
  queues _ := rfl
  ports _ := rfl
  apertures _ := rfl
  holders _ := rfl
  current := ⟨rfl, rfl⟩
  others := by
    intro p hp
    simp only [State.reset, List.append_nil, List.mem_cons, List.not_mem_nil, or_false] at hp
    rcases hp with rfl | rfl | rfl <;> exact ⟨rfl, rfl⟩

theorem Memory.reset_wf : Memory.reset.wf = true := by decide

theorem State.reset_record (d : Nat) (hd : d < 4) :
    State.reset.mem.read (Place.slate (192 * d) 786368).key 60 = BootCfg.reset.record := by
  interval_cases d
  all_goals decide

/-- A table reads as the default under a key that it does not list. -/
theorem SMap.get_unlisted {α : Type} {d : α} {m : SMap α} {k : Nat} (h : ∀ p ∈ m, p.1 ≠ k) : SMap.get d m k = d := by
  induction m with
  | nil => rfl
  | cons p m ih =>
    obtain ⟨hp, hm⟩ := List.forall_mem_cons.mp h
    rw [SMap.get, if_neg hp, ih hm]

/-- The bytes of a boot record that are not zero are among its 60. -/
theorem bootCells_place {core : Nat} {p : Nat × Sys2Proof.Byte} (hp : p ∈ bootCells core) :
    (Place.slate core 786368).key ≤ p.1 ∧ p.1 < (Place.slate core 786368).key + 60 := by
  simp only [bootCells, List.mem_cons, List.not_mem_nil, or_false] at hp
  have hoff : bootRecordOffset = 786368 := rfl
  rcases hp with rfl | rfl | rfl | rfl <;> (simp only [Place.key, hoff]; omega)

theorem Memory.reset_byte {k : Nat} (hk : ∀ d, d < 4 → ¬ ((Place.slate (192 * d) 786368).key ≤ k ∧ k < (Place.slate (192 * d) 786368).key + 60)) :
    Memory.reset.byte k = 0 := by
  refine SMap.get_unlisted fun p hp hpk => ?_
  obtain ⟨core, hcore, hp⟩ := List.mem_flatMap.mp hp
  have hplace := bootCells_place hp
  rw [hpk] at hplace
  simp only [List.mem_cons, List.not_mem_nil, or_false] at hcore
  rcases hcore with rfl | rfl | rfl | rfl
  · exact hk 0 (by decide) hplace
  · exact hk 1 (by decide) hplace
  · exact hk 2 (by decide) hplace
  · exact hk 3 (by decide) hplace

theorem Memory.reset_poisoned (k n : Nat) : Memory.reset.poisoned k n = false := by
  have hnone (w j : Nat) : poisAny Memory.reset.pois w j = false := by
    induction j generalizing w with
    | zero => rfl
    | succ j ih => exact ih (w + 1)
  unfold Memory.poisoned
  split
  · rfl
  · exact hnone ..

/-- The hart numbers of the boot tasks (R399). -/
theorem State.reset_getHart_boot {d : Nat} (hd : d < 4) : State.reset.getHart (768 * d) = bootHart BootCfg.reset Memory.reset 0 d := by
  interval_cases d <;> rfl

/-- Every hart but the first of each die is idle at reset (R20). -/
theorem State.reset_getHart_idle {g : Nat} (hg : g % 768 ≠ 0 ∨ 3072 ≤ g) : State.reset.getHart g = Hart.reset := by
  unfold State.getHart
  rw [if_neg (show ¬ g = State.reset.cur by simp only [State.reset]; omega)]
  refine SMap.get_unlisted fun p hp hpg => ?_
  simp only [State.reset, List.mem_cons, List.not_mem_nil, or_false] at hp
  rcases hp with rfl | rfl | rfl <;> (simp only at hpg; omega)

theorem Hart.bootHart_registers (d : Nat) (m : Memory) :
    let h := bootHart BootCfg.reset m 0 d
    h.run = .running ∧ h.prv = true ∧ h.pc = 0x0000004000000000 ∧ h.readX 10 = wordOf (0x7F0000000000 + 786368) ∧ h.readX 12 = 1
      ∧ h.readX 30 = 0x7F0000104000 ∧ h.ctl.vsaveptr = wordOf (4194304 * d) ∧ h.ctl.ptbase = 1 ∧ h.ctl.space = 0 := by
  refine ⟨rfl, ?_, rfl, rfl, rfl, rfl, ?_, rfl, rfl⟩
  · simp [bootHart, Hart.prv]
  · simp [bootHart, BootCfg.reset, wordOf]

theorem QueueRec.reset_enabled : QueueRec.reset.enabled = false := by decide

theorem PkgRec.reset_keys (n : Nat) : SMap.get none PkgRec.reset.keys n = if n = 0 then some 0 else none := by
  simp [PkgRec.reset, SMap.get, eq_comm]

/-- Settles O7: the tables of the reset state are short lists, read one by one. -/
theorem resetHolds : Obligations.ResetHolds := by
  refine ⟨Memory.reset_wf, State.reset_tables, rfl, rfl, rfl, rfl, State.reset_record, fun _ => Memory.reset_byte,
    Memory.reset_poisoned, rfl, rfl, rfl, fun _ _ => QueueRec.reset_enabled, fun _ => PkgRec.reset_keys, fun d hd => ?_, fun g hg => ?_⟩
  · exact State.reset_getHart_boot hd ▸ Hart.bootHart_registers d _
  · rw [State.reset_getHart_idle hg]
    rfl

end

section
variable {s t u : State}

/-! ### What an access does besides (R35, R252, R365, R389) -/

/-- `u` is `s` but for what accesses change: memory, the leaves kept, events, the packages' hubs, what is sent and the free values used. -/
def State.AccessOnly (s u : State) : Prop :=
  u = { s with mem := u.mem, tlb := u.tlb, events := u.events, pkgs := u.pkgs, outbox := u.outbox, free := u.free }

namespace State.AccessOnly

theorem refl (s : State) : s.AccessOnly s := rfl

theorem trans (h : s.AccessOnly t) (h' : t.AccessOnly u) : s.AccessOnly u := by
  unfold State.AccessOnly at *
  rw [h', h]

theorem ite {p : Prop} [Decidable p] {v : State} (h : s.AccessOnly u) (h' : s.AccessOnly v) : s.AccessOnly (if p then u else v) := by
  split
  · exact h
  · exact h'

theorem foldl {α : Type} {f : State → α → State} {l : List α} (h : s.AccessOnly t) (hf : ∀ (u : State) a, u.AccessOnly (f u a)) :
    s.AccessOnly (l.foldl f t) := List.foldlRecOn l f h fun u hu a _ => hu.trans (hf u a)

theorem setPkg (s : State) (p : Nat) (r : PkgRec) : s.AccessOnly (s.setPkg p r) := rfl

theorem drainPort (s : State) (p n m : Nat) : s.AccessOnly (s.drainPort p n m) := by
  induction m generalizing s with
  | zero => exact refl s
  | succ m ih =>
    unfold State.drainPort
    extract_lets r
    split
    · exact refl s
    · refine .ite (refl s) (trans ?_ (ih _))
      rfl

theorem sendFlit (s : State) (p n vc : Nat) : s.AccessOnly (s.sendFlit p n vc) := by
  refine trans ?_ (drainPort ..)
  rfl

theorem hopFlits (s : State) (vc p : Nat) (path : List Nat) : s.AccessOnly (s.hopFlits vc p path) := by
  induction path generalizing s p with
  | nil => exact refl s
  | cons q path ih => exact (sendFlit ..).trans (ih ..)

theorem carryAlong (s : State) (a : Nat) (path : List Nat) (b vc : Nat) : s.AccessOnly (s.carryAlong a path b vc) :=
  ((sendFlit ..).trans (hopFlits ..)).trans (sendFlit ..)

theorem carry (s : State) (a b vc : Nat) : s.AccessOnly (s.carry a b vc) := by
  unfold State.carry
  refine .ite (refl s) (.ite (sendFlit ..) ?_)
  split
  · exact carryAlong ..
  · exact refl s

theorem transfer (s : State) (a b : Nat) : s.AccessOnly (s.transfer a b) := by
  unfold State.transfer
  refine .ite (refl s) (.ite ((carry ..).trans (carry ..)) ?_)
  split
  · exact (carryAlong ..).trans (carryAlong ..)
  · exact refl s

theorem recipherLine (s : State) (k j : Nat) : s.AccessOnly (s.recipherLine k j) := .ite (refl s) rfl

theorem recipher (s : State) (n : Option Nat) (k j : Nat) : s.AccessOnly (s.recipher n k j) :=
  .ite (refl s) ((refl s).foldl fun _ _ => .ite (recipherLine ..) (refl _))

theorem putUnder (s : State) (n : Option Nat) (k j v : Nat) (bad : Bool) : s.AccessOnly (s.putUnder n k j v bad) := (recipher ..).trans rfl

theorem settle (s : State) (k n : Nat) : s.AccessOnly (s.settle k n) :=
  .ite (refl s) ((setPkg ..).foldl fun _ _ => putUnder ..)

theorem mark (s : State) (k : Kind) (l : LeafAt) : s.AccessOnly (s.mark k l) :=
  .ite (settle ..) ((settle ..).trans (putUnder ..))

theorem remember (s : State) (l : LeafAt) : s.AccessOnly (s.remember l) := .ite (refl s) rfl

theorem replicate (s : State) (k : Kind) (l : LeafAt) : s.AccessOnly (s.replicate k l) := .ite (refl s) rfl

theorem touch (s : State) (k : Kind) (leaf : Option LeafAt) : s.AccessOnly (s.touch k leaf) := by
  unfold State.touch
  split
  · exact refl s
  · exact ((mark ..).trans (remember ..)).trans (replicate ..)

theorem visit (s : State) (die : Nat) (pl : Place) (k : Kind) (leaf : Option LeafAt) : s.AccessOnly (s.visit die pl k leaf) :=
  (transfer ..).trans (touch ..)

end State.AccessOnly

/-! ### What a fetch gives (R21, R35, R84) -/

theorem State.fetchLoc_not_lost {va : Word} {p : Place} {l : Option LeafAt} {lost : Bool} (h : s.fetchLoc va = .place p l lost) : lost = false := by
  unfold State.fetchLoc at h
  split at h
  next q m lost' hq =>
    split_ifs at h with h1 h2
    cases h
    exact Bool.eq_false_of_not_eq_true h1
  · cases hl : s.locate (s.accessOf s.cur .fetch .scalar) va <;> simp_all

theorem wordOf_add_two (va : Word) (k : Nat) : va + wordOf (2 * (k + 1)) = va + 2 + wordOf (2 * k) := by
  unfold wordOf
  rw [Nat.mul_succ, BitVec.ofNat_add, BitVec.add_assoc, BitVec.add_comm (BitVec.ofNat 64 (2 * k))]
  rfl

/-- The parcels that a fetch gives: two bytes each, from where its address is, and no change but the accesses'. -/
theorem State.fetchParcels_bytes {va : Word} {n : Nat} {bs : List Sys2Proof.Byte} (h : s.fetchParcels va n = .bytes bs u) :
    bs.length = 2 * n ∧ s.AccessOnly u ∧ ∀ k, k < n → ∃ p l, s.fetchLoc (va + wordOf (2 * k)) = .place p l false
      ∧ bs[2 * k]? = some (BitVec.ofNat 8 (s.parcelAt l p.key)) ∧ bs[2 * k + 1]? = some (BitVec.ofNat 8 (s.parcelAt l p.key / 256)) := by
  induction n generalizing va bs u with
  | zero =>
    cases h
    exact ⟨rfl, .refl s, fun k hk => absurd hk (Nat.not_lt_zero k)⟩
  | succ n ih =>
    unfold State.fetchParcels at h
    split at h
    · cases h
    · cases h
    next p l lost hl =>
      obtain rfl := State.fetchLoc_not_lost hl
      split at h
      next bs' t ht =>
        cases h
        obtain ⟨hlen, honly, hbytes⟩ := ih ht
        refine ⟨by simp [hlen]; omega, honly.trans (.visit ..), fun k hk => ?_⟩
        cases k with
        | zero => exact ⟨p, l, by simpa [wordOf] using hl, rfl, rfl⟩
        | succ k =>
          obtain ⟨q, m, hq, h0, h1⟩ := hbytes k (by omega)
          exact ⟨q, m, by rw [wordOf_add_two]; exact hq, by simpa [Nat.mul_succ] using h0, by simpa [Nat.mul_succ] using h1⟩
      next hne =>
        exact absurd h (hne _ _)

theorem parcelLength_even (h : BitVec 16) : 2 * (parcelLength h / 2) = parcelLength h := by
  unfold parcelLength
  split <;> rfl

/-- What a fetch reads under its own key is memory as the hart fetches it (log 9). -/
theorem State.parcelAt_bytes {l : Option LeafAt} {k : Nat} (h : s.alien (s.leafKey l) k 2 = false) :
    BitVec.ofNat 8 (s.parcelAt l k) = s.hart.code.byte k ∧ BitVec.ofNat 8 (s.parcelAt l k / 256) = s.hart.code.byte (k + 1) := by
  have hp : s.parcelAt l k = s.hart.code.read k 2 := if_neg (by rw [Bool.not_eq_true]; exact h)
  rw [hp]
  simp only [Memory.read, cellsRead, Memory.byte]
  constructor <;> apply BitVec.eq_of_toNat_eq <;> simp <;> omega

theorem State.fetch_bytes {bs : List Sys2Proof.Byte} (h : s.fetch = .bytes bs u) :
    (∃ p l, s.fetchLoc s.hart.pc = .place p l false ∧ bs.length = parcelLength (BitVec.ofNat 16 (s.parcelAt l p.key)))
    ∧ (∀ k, 2 * k < bs.length → ∃ p l, s.fetchLoc (s.hart.pc + wordOf (2 * k)) = .place p l false
        ∧ bs[2 * k]? = some (BitVec.ofNat 8 (s.parcelAt l p.key)) ∧ bs[2 * k + 1]? = some (BitVec.ofNat 8 (s.parcelAt l p.key / 256))
        ∧ (s.alien (s.leafKey l) p.key 2 = false →
            bs[2 * k]? = some (s.hart.code.byte p.key) ∧ bs[2 * k + 1]? = some (s.hart.code.byte (p.key + 1))))
    ∧ s.AccessOnly u := by
  unfold State.fetch at h
  split at h
  · cases h
  · cases h
  next p l lost hl =>
    obtain rfl := State.fetchLoc_not_lost hl
    obtain ⟨hlen, honly, hbytes⟩ := State.fetchParcels_bytes h
    have heven := parcelLength_even (BitVec.ofNat 16 (s.parcelAt l p.key))
    refine ⟨⟨p, l, hl, by omega⟩, fun k hk => ?_, honly⟩
    obtain ⟨q, m, hq, h0, h1⟩ := hbytes k (by omega)
    refine ⟨q, m, hq, h0, h1, fun hkey => ?_⟩
    obtain ⟨hb0, hb1⟩ := State.parcelAt_bytes hkey
    exact ⟨hb0 ▸ h0, hb1 ▸ h1⟩

end

section
variable {s t u : State}

/-! ### Which move a step is (R6, R33 to R36, R108) -/

theorem State.switch_tick (s : State) (g : Nat) : (s.switch g).tick = s.tick := by
  unfold State.switch
  split
  · rfl
  · rfl

theorem State.pass_mem (s : State) : s.pass.mem = s.mem := by
  unfold State.pass
  extract_lets v w
  split
  · exact State.switch_mem ..
  · rfl

theorem State.pass_tick (s : State) : s.pass.tick = s.tick + 1 := by
  unfold State.pass
  extract_lets v w
  split
  · exact State.switch_tick ..
  · rfl

theorem State.pass_same (h : s.turns = []) : s.pass.hart = s.hart ∧ s.pass.cur = s.cur ∧ s.pass.harts = s.harts ∧ s.pass.events = s.events := by
  unfold State.pass
  extract_lets v w
  split
  next g rest hw => exact absurd (h.symm.trans hw) (List.cons_ne_nil _ _).symm
  · exact ⟨rfl, rfl, rfl, rfl⟩

/-- What the step does when its move is `m`, of the state time has passed over. -/
def State.moveBy (s : State) : Move → Result
  | .scalar => s.scalarMove
  | .queue => .next s.queueMove
  | .event k => s.eventMove k
  | .turn g => .next (s.switch g)
  | .place p k => .next (s.placeMove p k)
  | .late => .next (if s.canMove then s.lateRead else s)

theorem step_of_move {m : Move} (h : s.pass.nextMove = m) : step s = s.pass.moveBy m := by
  subst h
  unfold step State.move State.moveBy
  rfl

theorem State.scalarMove_idle (h : s.canMove = false) : s.scalarMove = .next s := by
  unfold State.scalarMove
  rw [h]
  rfl

theorem State.scalarMove_stops (h : s.canMove = true) (hs : s.stopsNow = true) :
    s.scalarMove = .next (s.preemptNow s.cur (s.hart.preempt.getD 0)) := by
  unfold State.scalarMove
  rw [h, hs]
  rfl

theorem State.scalarMove_fetched {bs : List Sys2Proof.Byte} (h : s.canMove = true) (hs : s.stopsNow = false) (hf : s.fetch = .bytes bs u) :
    s.scalarMove = s.freezeFirst (runBytes bs u) := by
  unfold State.scalarMove
  rw [h, hs, hf]
  rfl

theorem State.scalarMove_faulted {k : Nat} {va : Word} (h : s.canMove = true) (hs : s.stopsNow = false) (hf : s.fetch = .bad k va) :
    s.scalarMove = s.runFetchFault k va := by
  unfold State.scalarMove
  rw [h, hs, hf]
  rfl

theorem State.scalarMove_waits (h : s.canMove = true) (hs : s.stopsNow = false) (hf : s.fetch = .wait) : s.scalarMove = .next s := by
  unfold State.scalarMove
  rw [h, hs, hf]
  rfl

theorem runBytes_decoded {bs rest : List Sys2Proof.Byte} {i : Sys2Proof.Instr} (h : decode bs = .ok (i, rest)) : runBytes bs s = s.runInstr i bs := by
  unfold runBytes
  rw [h]

theorem runBytes_undecoded {bs : List Sys2Proof.Byte} {e : DecodeError} (h : decode bs = .error e) : runBytes bs s = s.runIllegal bs := by
  unfold runBytes
  rw [h]

theorem State.ragged_none (h : s.hart.queue.all (·.chunks.isNone) = true) : s.ragged = none := by
  unfold State.ragged
  split
  next e l he =>
    rw [he, List.all_cons, Bool.and_eq_true, Option.isNone_iff_eq_none] at h
    rw [h.1]
    cases e.instr <;> rfl
  · rfl

/-- With no VLDXC on its way nothing has first to come to where it may be frozen (R344). -/
theorem State.freezeFirst_none (h : s.hart.queue.all (·.chunks.isNone) = true) (r : Result) : s.freezeFirst r = r := by
  unfold State.freezeFirst State.levelMove
  rw [State.ragged_none h]
  rfl

theorem State.freezeFirst_next (s u : State) : s.freezeFirst (.next u) = .next u
    ∨ u.hart.frozen = true ∧ ∃ v, s.levelMove = some v ∧ s.freezeFirst (.next u) = .next v := by
  unfold State.freezeFirst
  cases hl : s.levelMove with
  | none => exact .inl rfl
  | some v =>
    by_cases hf : u.cur = s.cur ∧ u.hart.frozen = true
    · exact .inr ⟨hf.2, v, rfl, if_pos hf⟩
    · exact .inl (if_neg hf)

theorem State.behindLoad_none (h : u.hart.late = none) (b : Bool) (rs : List Reg) : u.behindLoad b rs = u := by
  unfold State.behindLoad
  rw [h]

theorem State.behindLoad_some {l : LateLoad} (h : u.hart.late = some l) (b : Bool) (rs : List Reg) :
    u.behindLoad b rs = if b && !rs.contains l.d then u else { u with hart := { u.hart with late := none } } := by
  unfold State.behindLoad
  rw [h]
  rfl

theorem State.eventMove_agent {k : Nat} {e : Event} (h : s.events[k]? = some e) (ha : agentKind e.kind = true) :
    s.eventMove k = putAway (exec e.kind { s with events := s.events.eraseIdx k, arg := e.arg }) := by
  unfold State.eventMove
  rw [h]
  exact if_pos ha

/-- Settles O4: the cases of the step, each an equation of its own. -/
theorem stepRuns : Obligations.StepRuns := by
  refine ⟨fun s => ?_, fun s bs u => State.fetch_bytes⟩
  refine ⟨⟨State.pass_mem s, State.pass_same, State.pass_tick s⟩, fun hm hc => ?_, fun hm hc hs => ?_, fun hm hc hs => ⟨?_, ?_, ?_⟩,
    State.freezeFirst_none, State.freezeFirst_next _, fun u b rs => ⟨fun h => State.behindLoad_none h b rs, fun l h => State.behindLoad_some h b rs⟩,
    fun hm => step_of_move hm, fun p k hm => step_of_move hm, fun hm => step_of_move hm, fun g hm => step_of_move hm, fun k e hm he ha => ?_⟩
  case refine_1 => exact (step_of_move hm).trans (State.scalarMove_idle hc)
  case refine_2 => exact (step_of_move hm).trans (State.scalarMove_stops hc hs)
  case refine_3 =>
    intro bs u hf
    have hstep : step s = s.pass.freezeFirst (runBytes bs u) := (step_of_move hm).trans (State.scalarMove_fetched hc hs hf)
    refine ⟨fun i rest hd => ?_, fun e hd => by rw [hstep, runBytes_undecoded hd]; rfl⟩
    rw [hstep, runBytes_decoded hd, State.runInstr]
    refine ⟨fun hw ho => ?_, fun hw ho => ?_, fun hw => ?_⟩
    · rw [if_pos hw, if_neg (by rw [ho]; decide)]
    · rw [if_pos hw, if_pos ho]
    · rw [if_neg (by rw [hw]; decide)]
      rfl
  case refine_4 => exact fun k va hf => (step_of_move hm).trans (State.scalarMove_faulted hc hs hf)
  case refine_5 => exact fun hf => (step_of_move hm).trans (State.scalarMove_waits hc hs hf)
  case refine_6 => exact (step_of_move hm).trans (State.eventMove_agent he ha)

end

section
variable {s : State}

/-! ### Traps of a plain user hart (R336, R338) -/

theorem State.plainUser_parts (h : s.plainUser = true) : s.hart.prv = false ∧ s.hart.asked = false ∧ s.hart.mat.asked = false := by
  simpa [State.plainUser, and_assoc] using h

theorem State.dropAsk_of_not_asked (h : s.hart.asked = false) : s.dropAsk = s := by
  unfold State.dropAsk
  exact if_pos (by simp [h])

theorem State.trapIssue_user (h : s.plainUser = true) (cause : Nat) (va info : Word) :
    s.trapIssue cause va info = s.trapped { cause := cause, src := 0, slot := 0, fb := s.hart.pc, va := va, info := info } s.hart.pc := by
  obtain ⟨hprv, hask, hmat⟩ := State.plainUser_parts h
  unfold State.trapIssue State.takeTrap
  rw [hprv, hmat, State.dropAsk_of_not_asked hask]
  rfl

/-! ### The control registers (R14, R15, R88, R89) -/

theorem Hart.moveFront_empty {h : Hart} (hq : h.queue = []) (n : Nat) (v : Word) : h.moveFront n v = h := by
  unfold Hart.moveFront
  rw [hq]

theorem Hart.keepFrozen_empty {h : Hart} (hq : h.queue = []) (n : Nat) (old : Word) : h.keepFrozen n old = h := by
  unfold Hart.keepFrozen
  rw [hq, List.map_nil, ← hq]
  exact ite_self h

/-- The state with the control register `n` written. -/
def State.writeCtl (s : State) (n : Nat) (v : Word) : State := { s with hart := { s.hart with ctl := s.hart.ctl.write n v } }

/-- The control-register accesses that pass the checks, of a hart with nothing queued (R14, R88, R89). -/
theorem State.ctl_of_open {n : Nat} (hn : ctlAssigned n = true) (hlow : n < 0x200) (hlevel : n < 0x100 ∨ s.hart.prv = true)
    (hq : s.hart.queue = []) (i : Instr) (d : Reg) :
    s.ctl i n d none = .next (s.finishX d (s.ctlRead n) 4)
    ∧ (ctlReadOnly n = false → ∀ f, s.ctl i n d (some f) = .next ((s.writeCtl n (f (s.ctlRead n))).finishX d (s.ctlRead n) 4)) := by
  have hnot : ¬ (0x200 ≤ n ∨ 0x100 ≤ n ∧ ¬ s.hart.prv) := by
    rintro (h | ⟨h, hp⟩)
    · omega
    · exact hlevel.elim (by omega) hp
  have hquiet : s.queueQuiet = true := by simp [State.queueQuiet, hq]
  refine ⟨?_, fun hro f => ?_⟩
  · unfold State.ctl
    rw [if_neg (by simp [hn]), if_neg hnot, if_neg (by simp), if_neg (by simp [hquiet])]
  · unfold State.ctl
    rw [if_neg (by simp [hn]), if_neg hnot, if_neg (by simp [hro]), if_neg (by simp [hquiet])]
    have hkept : ((s.writeCtl n (f (s.ctlRead n))).hart.moveFront n (f (s.ctlRead n))).keepFrozen n (s.ctlRead n) = (s.writeCtl n (f (s.ctlRead n))).hart := by
      rw [Hart.moveFront_empty (show (s.writeCtl n (f (s.ctlRead n))).hart.queue = [] from hq), Hart.keepFrozen_empty (by exact hq)]
    exact congrArg (fun h => Host.Outcome.next (State.finishX { s with hart := h } d (s.ctlRead n) 4)) hkept

theorem State.givesFrom_finishX {i : Instr} {u : State} {d : Reg} {v : Word} (h : exec i s = .next (u.finishX d v 4)) (hpc : u.hart.pc = s.hart.pc) :
    GivesFrom i s u d v (s.hart.pc + 4) := ⟨_, h, hpc ▸ State.wrote_finishX u d v 4⟩

/-- Which access to a control register traps, and why (R14, R15). -/
theorem State.ctl_traps (i : Instr) (n : Nat) (d : Reg) (new : Option (Word → Word)) :
    (ctlAssigned n = false → s.ctl i n d new = .next (s.trapBits cILLEGAL i))
    ∧ (ctlAssigned n = true → 0x100 ≤ n → s.hart.prv = false → s.ctl i n d new = .next (s.trapBits cPRIVILEGE i))
    ∧ (ctlAssigned n = true → n < 0x100 → ctlReadOnly n = true → new.isSome = true → s.ctl i n d new = .next (s.trapBits cILLEGAL i)) := by
  refine ⟨fun hn => ?_, fun hn hhigh hp => ?_, fun hn hlow hro hnew => ?_⟩
  · exact if_pos (by simp [hn])
  · unfold State.ctl
    rw [if_neg (by simp [hn]), if_pos (.inr ⟨hhigh, by simp [hp]⟩)]
  · unfold State.ctl
    rw [if_neg (by simp [hn]), if_neg (by omega), if_pos (by simp [hro, hnew])]

theorem maskWrite_bit (mask old v : Word) (b : Nat) :
    (maskWrite mask old v).getLsbD b = if mask.getLsbD b then v.getLsbD b else old.getLsbD b := by
  by_cases hb : b < 64
  · unfold maskWrite
    rw [BitVec.getLsbD_or, BitVec.getLsbD_and, BitVec.getLsbD_and, BitVec.getLsbD_not]
    cases mask.getLsbD b <;> simp [hb]
  · simp [BitVec.getLsbD_of_ge _ b (Nat.le_of_not_lt hb)]

theorem lowMask_bit {k : Nat} (hk : k ≤ 64) (b : Nat) : (BitVec.ofNat 64 (2 ^ k - 1)).getLsbD b = decide (b < k) := by
  rw [BitVec.getLsbD_ofNat, Nat.testBit_two_pow_sub_one]
  by_cases h : b < k
  · simp [h, Nat.lt_of_lt_of_le h hk]
  · simp [h]

theorem maskWrite_low {k : Nat} (hk : k ≤ 64) (old v : Word) (b : Nat) :
    (maskWrite (BitVec.ofNat 64 (2 ^ k - 1)) old v).getLsbD b = if b < k then v.getLsbD b else old.getLsbD b := by
  simp [maskWrite_bit, lowMask_bit hk]

theorem maskWrite_pprv (old v : Word) (b : Nat) : (maskWrite 2 old v).getLsbD b = if b = 1 then v.getLsbD b else old.getLsbD b := by
  rw [maskWrite_bit, show (2 : Word) = BitVec.twoPow 64 1 from rfl, BitVec.getLsbD_twoPow]
  by_cases h : b = 1
  · simp [h]
  · simp [h, Ne.symm h]

theorem Ctl.write_readOnly (c : Ctl) (v : Word) {n : Nat} (h : ctlReadOnly n = true) : c.write n v = c := by
  unfold Ctl.write
  split
  case h_21 => rfl
  all_goals exact absurd h (by decide)

/-- Settles O22: the checks one by one, then the value read and the register written. -/
theorem controlRegisters : Obligations.ControlRegisters := by
  refine ⟨fun o s hn hlow hlevel hq => ?_, fun c v b => ?_, fun o s hu => ?_⟩
  · have hopen := fun i => State.ctl_of_open hn hlow hlevel hq i o.d
    refine ⟨⟨_, (hopen _).1, State.wrote_finishX s o.d _ 4⟩, fun hro => ?_⟩
    have hwrite := fun i => (hopen i).2 hro
    exact ⟨State.givesFrom_finishX (hwrite _ _) rfl, State.givesFrom_finishX (hwrite _ _) rfl,
      State.givesFrom_finishX (hwrite _ _) rfl, State.givesFrom_finishX (hwrite _ _) rfl⟩
  · exact ⟨maskWrite_low (k := 24) (by decide) .., maskWrite_low (k := 7) (by decide) .., maskWrite_low (k := 7) (by decide) ..,
      maskWrite_pprv .., rfl, rfl, fun n h => Ctl.write_readOnly c v h⟩
  · obtain ⟨hprv, -, -⟩ := State.plainUser_parts hu
    have htraps := fun i => State.ctl_traps (s := s) i o.imm.toNat o.d
    have htrap : ∀ {i : Instr} {c : Nat}, exec i s = .next (s.trapBits c i) → exec i s = .next (s.trapped
        { cause := c, src := 0, slot := 0, fb := s.hart.pc, va := 0, info := instrBits i } s.hart.pc) :=
      fun {i c} h => by rw [h, State.trapBits, State.trapIssue_user hu]
    refine ⟨fun hn => ?_, fun hn hhigh => ?_, fun hn hlow hro => ?_⟩
    · exact ⟨htrap ((htraps _ _).1 hn), htrap ((htraps _ _).1 hn), htrap ((htraps _ _).1 hn), htrap ((htraps _ _).1 hn), htrap ((htraps _ _).1 hn)⟩
    · have hsup := fun i f => (htraps i f).2.1 hn hhigh hprv
      exact ⟨htrap (hsup _ _), htrap (hsup _ _), htrap (hsup _ _), htrap (hsup _ _), htrap (hsup _ _)⟩
    · have hill := fun i f => (htraps i (some f)).2.2 hn hlow hro rfl
      exact ⟨htrap (hill _ _), htrap (hill _ _), htrap (hill _ _), htrap (hill _ _)⟩

end

section
variable {s t : State} {g : Nat} {a : Access} {base : Word} {offs : List Nat} {h : Hart}

/-! ### Reading an area that can be reached (R341, R347) -/

theorem State.areaFault_reached (ho : ∀ off ∈ offs, ∃ p l lost, s.areaLoc g a (base + wordOf off) = .place p l lost) :
    s.areaFault g a base offs = none := by
  induction offs with
  | nil => rfl
  | cons off offs ih =>
    obtain ⟨p, l, lost, hp⟩ := ho off List.mem_cons_self
    unfold State.areaFault
    rw [hp]
    exact ih fun o hm => ho o (List.mem_cons_of_mem off hm)

/-- Words that can be reached and hold no poison are read, and nothing changes but what their accesses do. -/
theorem State.getWords_reached (carry : Nat)
    (ho : ∀ off ∈ offs, ∃ p l, s.areaLoc g (h.areaAccess g .read) (base + wordOf off) = .place p l false ∧ s.mem.poisoned p.key 8 = false) :
    ∃ t, s.getWords g h base carry offs = .ok t ∧ s.AccessOnly t := by
  have hfault : s.areaFault g (h.areaAccess g .read) base offs = none :=
    State.areaFault_reached fun off hm => (ho off hm).imp fun p hl => hl.imp fun l hp => ⟨false, hp.1⟩
  have hclean : (offs.find? fun o => decide (o < carry) && (s.areaWord g (h.areaAccess g .read) base o).2) = none := by
    refine List.find?_eq_none.2 fun off hm => ?_
    obtain ⟨p, l, hp, hgood⟩ := ho off hm
    simp [State.areaWord, hp, hgood]
  unfold State.getWords
  dsimp only
  rw [hfault, hclean]
  refine ⟨_, rfl, .foldl (.refl s) fun u off => ?_⟩
  split
  · exact .visit ..
  · exact .refl u

theorem State.dropTileAsk_of_not_asked (h : (s.getHart g).mat.asked = false) : s.dropTileAsk g = s := by
  unfold State.dropTileAsk
  exact if_pos (by simp [h])

/-! ### What loading the vector parts leaves (R347) -/

theorem Hart.setMask_lease (h : Hart) (n v : Nat) : (h.setMask n v).lease = h.lease := by
  unfold Hart.setMask
  split
  · rfl
  · rfl

theorem Hart.setMask_owner (h : Hart) (n v : Nat) : (h.setMask n v).owner = h.owner := by
  unfold Hart.setMask
  split
  · rfl
  · rfl

theorem Hart.loadVector_lease (h : Hart) (c : Nat) (words : Nat → Nat × Bool) : (h.loadVector c words).lease = h.lease :=
  List.foldlRecOn (motive := fun k : Hart => k.lease = h.lease) _ _ rfl fun _ hk _ _ => (Hart.setMask_lease ..).trans hk

theorem Hart.loadVector_owner (h : Hart) (c : Nat) (words : Nat → Nat × Bool) : (h.loadVector c words).owner = h.owner :=
  List.foldlRecOn (motive := fun k : Hart => k.owner = h.owner) _ _ rfl fun _ hk _ _ => (Hart.setMask_owner ..).trans hk

theorem Hart.putFences_lease (h : Hart) : h.putFences.lease = h.lease := by
  unfold Hart.putFences
  split
  · rfl
  · rfl

theorem Hart.putFences_owner (h : Hart) : h.putFences.owner = h.owner := by
  unfold Hart.putFences
  split
  · rfl
  · rfl

/-- A hart that holds loaded vector parts with the marks of FENCE.VV put back and VCLAIMED clear (R347). -/
def Hart.unclaimed (h : Hart) (fences : List (Option Nat)) (gsetVl : Bool) : Hart :=
  let k := Hart.putFences { h with claimFences := fences }
  { k with gsetVl := gsetVl, ctl := { k.ctl with status := k.ctl.status &&& ~~~8 } }

theorem Hart.unclaimed_lease (h : Hart) (fences : List (Option Nat)) (b : Bool) : (h.unclaimed fences b).lease = h.lease :=
  Hart.putFences_lease { h with claimFences := fences }

theorem Hart.unclaimed_owner (h : Hart) (fences : List (Option Nat)) (b : Bool) : (h.unclaimed fences b).owner = h.owner :=
  Hart.putFences_owner { h with claimFences := fences }

theorem State.lostBoundary_level (h : s.hart.lease.lanes = s.hart.lease.held) : s.lostBoundary = s := by
  unfold State.lostBoundary Hart.resizing
  exact if_neg (by simp [h])

theorem State.pushOnce_leaves (s : State) (e : Event) : s.pushOnce e = { s with events := (s.pushOnce e).events } := by
  unfold State.pushOnce
  split
  · rfl
  · rfl

theorem State.resumeLanding_leaves (s : State) (g : Nat) : s.resumeLanding g = { s with events := (s.resumeLanding g).events } :=
  List.foldlRecOn (motive := fun t : State => t = { s with events := t.events }) _ _ rfl fun t ht j _ =>
    (State.pushOnce_leaves t _).trans (by rw [ht])

/-- VRESTORE of an area whose words can be reached, by a hart that uses another's lease: the other's hart is replaced in the table. -/
theorem State.restoreVector_borrowed {va : Word}
    (ho : ∀ off ∈ fixedOffs s.hart s.lease.lanes ++ countedOffs s.hart s.lease.lanes (s.areaWord s.cur (s.hart.areaAccess s.cur .read) va 0x168).1
        (s.areaWord s.cur (s.hart.areaAccess s.cur .read) va 0x170).1,
      ∃ p l, s.areaLoc s.cur (s.hart.areaAccess s.cur .read) (va + wordOf off) = .place p l false ∧ s.mem.poisoned p.key 8 = false)
    (hask : s.hart.mat.asked = false) (hlevel : s.hart.lease.lanes = s.hart.lease.held) (hown : s.hart.owner ≠ s.cur) :
    ∃ v, s.restoreVector va = .next v ∧ v.cur = s.cur ∧ v.hart.owner = s.hart.owner
      ∧ v.harts = SMap.set Hart.reset s.harts s.hart.owner
          { s.getHart s.hart.owner with lease := s.lease.load s.hart (s.areaWord s.cur (s.hart.areaAccess s.cur .read) va) } := by
  obtain ⟨t, ht, honly⟩ := State.getWords_reached (2 ^ 64) ho
  have hhart : t.hart = s.hart := by rw [honly]
  have hcur : t.cur = s.cur := by rw [honly]
  have hharts : t.harts = s.harts := by rw [honly]
  have hlease : t.lease = s.lease := by unfold State.lease State.getHart; rw [hhart, hcur, hharts]
  have hget : t.getHart s.hart.owner = s.getHart s.hart.owner := by unfold State.getHart; rw [hhart, hcur, hharts]
  have hdrop : t.dropTileAsk s.cur = t := State.dropTileAsk_of_not_asked (by rw [← hcur, State.getHart_cur, hhart, hask])
  have hset : ∀ l, t.setLease l = { t with harts := SMap.set Hart.reset s.harts s.hart.owner { s.getHart s.hart.owner with lease := l } } := by
    intro l
    unfold State.setLease State.setHart
    rw [hhart, hcur, if_neg hown, if_neg hown, hget, hharts]
  unfold State.restoreVector
  extract_lets g a rd c offs
  rw [show s.getWords g s.hart va (2 ^ 64) offs = .ok t from ht]
  dsimp -zeta only
  extract_lets t₁ t₂ fences _ h₁ _ h₂
  have ht₂ : t₂ = { t with harts := SMap.set Hart.reset s.harts s.hart.owner { s.getHart s.hart.owner with lease := s.lease.load s.hart rd } } := by
    rw [← hset, ← hlease, ← hhart]
    exact congrArg (fun u : State => u.setLease (u.lease.load u.hart rd)) hdrop
  have hh₂ : h₂ = (t₂.hart.loadVector c rd).unclaimed fences (if t₂.hart.vclaimed then t₂.hart.claimGset else t₂.hart.gsetVl) := rfl
  generalize (if t₂.hart.vclaimed then t₂.hart.claimGset else t₂.hart.gsetVl) = b at hh₂
  clear_value h₂ t₂ fences
  subst hh₂ ht₂
  have hlevel₂ : ((t.hart.loadVector c rd).unclaimed fences b).lease = s.hart.lease := by
    rw [Hart.unclaimed_lease, Hart.loadVector_lease, hhart]
  have howner : ((t.hart.loadVector c rd).unclaimed fences b).owner = s.hart.owner := by
    rw [Hart.unclaimed_owner, Hart.loadVector_owner, hhart]
  generalize (t.hart.loadVector c rd).unclaimed fences b = k at hlevel₂ howner
  rw [State.lostBoundary_level (by rw [hlevel₂]; exact hlevel), State.resumeLanding_leaves, State.advance_eq_went]
  exact ⟨_, rfl, hcur, howner, rfl⟩

end

section

/-! ### A table of harts that lists one hart twice

ContextInstructions does not ask that the table of harts be canonical where it says what VRESTORE loads. In a table that lists
hart 1 twice, a hart that uses the lease of hart 1 loads an image that makes hart 1 the default hart: its first entry is dropped, and
the second is read from then on. -/

/-- A hart as after reset but for a MINC of 1. -/
def twinHart : Hart := { Hart.reset with lease := { Lease.none with minc := 1 } }

/-- The state after reset with hart 1 listed twice and its lease that of hart 0, whose save area stands at 32 MiB of its address space: the
table at frame 0 names itself as the table of the next level, and a page of 32 MiB as its second entry. -/
def twinned : State := { State.reset with
  hart := { State.reset.hart with owner := 1, ctl := { State.reset.hart.ctl with vsaveptr := 0x2000000, ptbaseNow := 1 } }
  harts := [(1, twinHart), (1, twinHart)]
  mem := State.reset.mem.write 0 16 (1 + 0x20007F * 2 ^ 64) }

/-- The leaf of that page. -/
def twinLeaf : LeafAt := { key := 8, cipher := some 0, pte := 0x20007F, die := 0, space := 0, page := 0, level := 3 }

/-- How hart 0 reads its area. -/
def twinAccess : Access := twinned.hart.areaAccess 0 .read

/-- The leaf passes the checks of an access, and no transfer to its home is lost. -/
theorem twinned_checkLeaf (va : Word) : twinned.checkLeaf twinAccess va twinLeaf 3
    = .place (.dram 0 (0x2000000 + field va 0 25)) (some { twinLeaf with page := va.toNat / 2 ^ 25 }) false := by
  have hheld : twinned.keyHeld (pteHome twinLeaf.pte / 4) (pteKey twinLeaf.pte) = true := by decide +kernel
  have hreaches : twinned.reaches twinAccess.die (pteHome twinLeaf.pte) = true := by decide +kernel
  have hlost (l : LeafAt) (hl : l.level = 3) (hpte : l.pte = twinLeaf.pte) : twinned.lostTo twinAccess va l = false := by
    have hrepl : twinned.replicated (twinAccess.die / 4) l = false := by simp [State.replicated, LeafAt.repl, hl]
    have htimes : twinned.timesOut twinAccess (pteHome l.pte / 4) va = false := by
      rw [State.timesOut, show twinAccess.doomed = false from rfl]
      rfl
    unfold State.lostTo
    dsimp only
    rw [hrepl, htimes, hpte, hreaches]
    rfl
  unfold State.checkLeaf
  dsimp only
  rw [hheld, hlost]
  · rfl
  · rfl
  · rfl

section
variable {va : Word} (hlow : 0x2000000 ≤ va.toNat) (hhigh : va.toNat < 0x4000000)
include hlow hhigh

theorem twinned_indices : field va 47 10 = 0 ∧ field va 36 11 = 0 ∧ field va 25 11 = 1 := by
  unfold field bitsOf
  omega

/-- Every address of the page is translated by its leaf. -/
theorem twinned_walk : twinned.walk 0 1 va = .leaf twinLeaf 3 := by
  obtain ⟨h1, h2, h3⟩ := twinned_indices hlow hhigh
  have htop : wordOf (twinned.peek (twinned.keyName (pteHome 1 / 4) (pteKey 1)) (Place.dram (pteHome 1) (pteFrame 1 * 65536 + 8 * 0)).key 8) = 1 := by
    decide +kernel
  have hleaf : wordOf (twinned.peek (twinned.keyName (pteHome 1 / 4) (pteKey 1)) (Place.dram (pteHome 1) (pteFrame 1 * 65536 + 8 * 1)).key 8) = 0x20007F := by
    decide +kernel
  have hkind : ptePointer 0x20007F = false := by decide
  simp only [State.walk, State.walkFrom, levels, h1, h2, h3, htop, hleaf, hkind, Bool.false_eq_true, if_false]
  decide +kernel

theorem twinned_locate : ∃ p l, twinned.locate twinAccess va = .place p l false := by
  have hcanonical : canonical va = true := by
    have : field va 56 8 = 0 := by
      unfold field bitsOf
      omega
    simp [canonical, this]
  have hleaf : twinned.findLeaf twinAccess va = .leaf twinLeaf 3 := twinned_walk hlow hhigh
  have hwindow : ¬ (0x7E0000000000 ≤ va.toNat ∧ va.toNat ≤ 0x7FFFFFFFFFFF) := by omega
  unfold State.locate
  dsimp only
  rw [hcanonical, if_neg (by decide), if_neg hwindow, hleaf]
  exact ⟨_, _, twinned_checkLeaf va⟩

end

theorem Memory.poisoned_of_unlisted {m : Memory} (h : m.pois = []) (k n : Nat) : m.poisoned k n = false := by
  have hany : ∀ j w, poisAny [] w j = false := fun j => by
    induction j with
    | zero => exact fun _ => rfl
    | succ j ih => exact fun w => ih (w + 1)
  unfold Memory.poisoned
  rw [h, hany]
  exact ite_self false

/-- Every word of the area can be read and holds no poison. -/
theorem twinned_reached {off : Nat} (ho : off < 0x400000) :
    ∃ p l, twinned.areaLoc 0 twinAccess (0x2000000 + wordOf off) = .place p l false ∧ twinned.mem.poisoned p.key 8 = false := by
  have hva : ((0x2000000 : Word) + wordOf off).toNat = 0x2000000 + off := by
    unfold wordOf
    rw [BitVec.toNat_add, BitVec.toNat_ofNat, show (0x2000000 : Word).toNat = 0x2000000 from rfl]
    omega
  obtain ⟨p, l, hp⟩ := twinned_locate (va := 0x2000000 + wordOf off) (by omega) (by omega)
  refine ⟨p, l, ?_, ?_⟩
  · unfold State.areaLoc
    rw [hp]
    rfl
  · exact Memory.poisoned_of_unlisted (by decide +kernel) ..

theorem twinned_area : twinned.areaOpen .read 0x2000000 := fun _ _ ho =>
  (twinned_reached ho).imp fun _ hp => hp.imp fun _ hl => ⟨hl.1, fun _ => hl.2⟩

/-- What an offset of the area reads as. -/
def twinWord (off : Nat) : Nat × Bool := twinned.areaWord 0 twinAccess 0x2000000 off

/-- The words that say which context the area holds, and of how many entries. -/
theorem twinWord_zero : twinWord 0x150 = (0, false) ∧ twinWord 0x158 = (0, false) ∧ twinWord 0x168 = (0, false) := by
  refine ⟨?_, ?_, ?_⟩ <;> decide +kernel

theorem twinned_offs : ∀ off ∈ [0x150, 0x158] ++ fixedOffs twinned.hart 0 ++ countedOffs twinned.hart 0 0 0, off < 0x400000 := by decide +kernel

theorem countedOffs_plain {h : Hart} (hm : h.mode = .plain) (c count occ : Nat) : countedOffs h c count occ = countedOffs h c count 0 := by
  simp [countedOffs, hm]

/-- A lease of no cluster, outside pipeline mode, takes of an image its MINC and PREFC alone. -/
theorem Lease.load_noCluster {l : Lease} {h : Hart} (hl : l.lanes = 0) (hm : h.mode = .plain) (rd : Nat → Nat × Bool) :
    l.load h rd = { l with minc := bitsOf (rd 0x150).1 5 5, prefc := bitsOf (rd 0x150).1 10 5 } := by
  have hpipe : (h.mode == .pipeline) = false := by rw [hm]; rfl
  have hbytes : regBytes false 0 / 8 = 0 := rfl
  unfold Lease.load
  dsimp only
  rw [hpipe, hl, hbytes]
  have hstore : (regPlacesOf false h.role).foldl (fun m r => loadStore rd r.1 r.2 0 m) l.vmem = l.vmem := List.foldl_fixed ..
  rw [hstore]
  rfl

/-- The image makes hart 1 the default hart, and the table loses but the first of its two entries. -/
theorem twinned_loaded : SMap.set Hart.reset twinned.harts 1 { twinned.getHart 1 with lease := twinned.lease.load twinned.hart twinWord } = [(1, twinHart)] := by
  have hload : twinned.lease.load twinned.hart twinWord = Lease.none := by
    rw [Lease.load_noCluster (by decide +kernel) (by decide +kernel), twinWord_zero.1]
    rfl
  rw [hload]
  decide +kernel

/-- The offsets that VRESTORE reads there. -/
theorem twinned_loadOffs : fixedOffs twinned.hart twinned.lease.lanes
      ++ countedOffs twinned.hart twinned.lease.lanes (twinWord 0x168).1 (twinWord 0x170).1
    = fixedOffs twinned.hart 0 ++ countedOffs twinned.hart 0 0 0 := by
  rw [countedOffs_plain (by decide +kernel), twinWord_zero.2.2]
  rfl

/-- VRESTORE completes there with a MINC of 1, where the image's is 0. -/
theorem twinned_restored : ∃ v, exec (.vrestore 0) twinned = .next v ∧ v.lease.minc = 1 := by
  have hreach : ∀ off ∈ [0x150, 0x158] ++ fixedOffs twinned.hart 0 ++ countedOffs twinned.hart 0 0 0,
      ∃ p l, twinned.areaLoc 0 twinAccess (0x2000000 + wordOf off) = .place p l false ∧ twinned.mem.poisoned p.key 8 = false :=
    fun off hm => twinned_reached (twinned_offs off hm)
  obtain ⟨t, hwords, -⟩ := State.getWords_reached (s := twinned) (g := 0) (h := twinned.hart) (base := 0x2000000) (offs := [0x150, 0x158]) (2 ^ 64)
    fun off hm => hreach off (List.mem_append_left _ (List.mem_append_left _ hm))
  obtain ⟨v, hv, hcur, howner, hharts⟩ := State.restoreVector_borrowed (s := twinned) (va := 0x2000000) (fun off hm => hreach off (by
      rw [List.append_assoc, ← twinned_loadOffs]
      exact List.mem_append_right _ hm)) (by decide +kernel) (by decide +kernel) (by decide +kernel)
  refine ⟨v, ?_, ?_⟩
  · rw [exec_vrestore]
    unfold execVrestore State.context
    extract_lets va
    rw [if_neg (by decide +kernel), if_neg (by decide +kernel), if_neg (by decide +kernel)]
    rw [show twinned.getWords twinned.cur twinned.hart va (2 ^ 64) [0x150, 0x158] = .ok t from hwords]
    dsimp only
    rw [if_neg (by decide +kernel)]
    exact hv
  · have htable : v.harts = [(1, twinHart)] := hharts.trans twinned_loaded
    have hone : v.hart.owner = 1 := howner
    have hzero : v.cur = 0 := hcur
    rw [State.lease, hone, hzero, if_neg (by decide), State.getHart, hzero, if_neg (by decide), htable]
    rfl

/-- Refutes O24: the table of harts need not be canonical where VRESTORE loads another hart's lease, so that its MINC is not always the
image's. -/
theorem not_contextInstructions : ¬ Obligations.ContextInstructions := by
  intro h
  obtain ⟨v, hv, hminc⟩ := twinned_restored
  obtain ⟨-, -, -, hrestore⟩ := h.1 0 twinned (by decide +kernel) (by decide +kernel) (by decide +kernel) (by decide +kernel) (by decide +kernel) (by decide +kernel)
  obtain ⟨-, hloads⟩ := hrestore (by decide +kernel) twinned_area
  obtain ⟨w, hw, -, -, -, -, -, -, -, hloaded, -⟩ := hloads (by decide +kernel)
  obtain rfl : w = v := Host.Outcome.next.inj (hw.symm.trans hv)
  have hzero : bitsOf (twinWord 0x150).1 5 5 = 0 := by rw [twinWord_zero.1]; rfl
  exact absurd (hminc.symm.trans (hloaded.trans hzero)) (by decide)

end

end Sys2Proof.Machine

/-! The codec: what encodes and what decodes are one (R21 to R32), with the obligations RoundTrip, EncodingWords and DecodingIsEncoding. -/

namespace Sys2Proof.Laws.Coding

/-- Settles O1: each instruction by its own lemma; an event has no encoding. -/
theorem roundTrip : Obligations.RoundTrip := by
  intro i
  cases i with
  | hNop => exact hNop
  | hSetvl o => exact hSetvl o
  | hAddi o => exact hAddi o
  | hLi o => exact hLi o
  | hMv o => exact hMv o
  | hAdd o => exact hAdd o
  | hSub o => exact hSub o
  | hAnd o => exact hAnd o
  | hOr o => exact hOr o
  | hXor o => exact hXor o
  | hSlli o => exact hSlli o
  | hSrli o => exact hSrli o
  | hLdd o => exact hLdd o
  | hStd o => exact hStd o
  | hBeqz o => exact hBeqz o
  | hBnez o => exact hBnez o
  | hJ o => exact hJ o
  | hJr o => exact hJr o
  | add o => exact add o
  | sub o => exact sub o
  | mul o => exact mul o
  | mulh o => exact mulh o
  | mulhu o => exact mulhu o
  | div o => exact div o
  | divu o => exact divu o
  | rem o => exact rem o
  | remu o => exact remu o
  | and o => exact and o
  | or o => exact or o
  | xor o => exact xor o
  | sll o => exact sll o
  | srl o => exact srl o
  | sra o => exact sra o
  | slt o => exact slt o
  | sltu o => exact sltu o
  | min o => exact min o
  | max o => exact max o
  | minu o => exact minu o
  | maxu o => exact maxu o
  | clz o => exact clz o
  | ctz o => exact ctz o
  | popc o => exact popc o
  | addi o => exact addi o
  | andi o => exact andi o
  | ori o => exact ori o
  | xori o => exact xori o
  | slti o => exact slti o
  | sltiu o => exact sltiu o
  | slli o => exact slli o
  | srli o => exact srli o
  | srai o => exact srai o
  | ldb o => exact ldb o
  | ldh o => exact ldh o
  | ldw o => exact ldw o
  | ldd o => exact ldd o
  | ldbu o => exact ldbu o
  | ldhu o => exact ldhu o
  | ldwu o => exact ldwu o
  | stb o => exact stb o
  | sth o => exact sth o
  | stw o => exact stw o
  | std o => exact std o
  | beq o => exact beq o
  | bne o => exact bne o
  | blt o => exact blt o
  | bge o => exact bge o
  | bltu o => exact bltu o
  | bgeu o => exact bgeu o
  | jal o => exact jal o
  | jalr o => exact jalr o
  | lui o => exact lui o
  | addpc o => exact addpc o
  | fadd o => exact fadd o
  | fsub o => exact fsub o
  | fmul o => exact fmul o
  | fdiv o => exact fdiv o
  | fsqrt o => exact fsqrt o
  | fmin o => exact fmin o
  | fmax o => exact fmax o
  | feq o => exact feq o
  | flt o => exact flt o
  | fle o => exact fle o
  | fclass o => exact fclass o
  | fcvt o => exact fcvt o
  | fcvti o => exact fcvti o
  | fcvtif o => exact fcvtif o
  | fsgn o => exact fsgn o
  | fma o => exact fma o
  | fnma o => exact fnma o
  | amoswap o => exact amoswap o
  | amoadd o => exact amoadd o
  | amoand o => exact amoand o
  | amoor o => exact amoor o
  | amoxor o => exact amoxor o
  | amomin o => exact amomin o
  | amomax o => exact amomax o
  | amominu o => exact amominu o
  | amomaxu o => exact amomaxu o
  | amocas o => exact amocas o
  | amofadd o => exact amofadd o
  | fenceSv => exact fenceSv
  | fenceVs => exact fenceVs
  | fenceVv => exact fenceVv
  | fenceAll => exact fenceAll
  | fenceI => exact fenceI
  | trap o => exact trap o
  | tret => exact tret
  | wfe => exact wfe
  | brk => exact brk
  | ctlrd o => exact ctlrd o
  | ctlwr o => exact ctlwr o
  | ctlset o => exact ctlset o
  | ctlclr o => exact ctlclr o
  | ctlwri o => exact ctlwri o
  | setvl o => exact setvl o
  | setvli o => exact setvli o
  | setcfg o => exact setcfg o
  | vclaim => exact vclaim
  | vsave o => exact vsave o
  | vrestore o => exact vrestore o
  | gsetvl o => exact gsetvl o
  | vadd o => exact vadd o
  | vsub o => exact vsub o
  | vmul o => exact vmul o
  | vmulh o => exact vmulh o
  | vmin o => exact vmin o
  | vmax o => exact vmax o
  | vdiv o => exact vdiv o
  | vrem o => exact vrem o
  | vand o => exact vand o
  | vor o => exact vor o
  | vxor o => exact vxor o
  | vsll o => exact vsll o
  | vsr o => exact vsr o
  | vsadd o => exact vsadd o
  | vssub o => exact vssub o
  | vmac o => exact vmac o
  | vcmpeq o => exact vcmpeq o
  | vcmpne o => exact vcmpne o
  | vcmplt o => exact vcmplt o
  | vcmple o => exact vcmple o
  | vmerge o => exact vmerge o
  | vmv o => exact vmv o
  | vmvx o => exact vmvx o
  | vid o => exact vid o
  | vfadd o => exact vfadd o
  | vfsub o => exact vfsub o
  | vfmul o => exact vfmul o
  | vfdiv o => exact vfdiv o
  | vfma o => exact vfma o
  | vfnma o => exact vfnma o
  | vfmin o => exact vfmin o
  | vfmax o => exact vfmax o
  | vfsqrt o => exact vfsqrt o
  | vfrsqrt o => exact vfrsqrt o
  | vfabs o => exact vfabs o
  | vfneg o => exact vfneg o
  | vfcmpeq o => exact vfcmpeq o
  | vfcmplt o => exact vfcmplt o
  | vfcmple o => exact vfcmple o
  | vfclass o => exact vfclass o
  | vfcvt o => exact vfcvt o
  | vfcvtScaled o => exact vfcvtScaled o
  | vf2i o => exact vf2i o
  | vi2f o => exact vi2f o
  | viext o => exact viext o
  | vredsum o => exact vredsum o
  | vredmin o => exact vredmin o
  | vredmax o => exact vredmax o
  | vredor o => exact vredor o
  | vfredsum o => exact vfredsum o
  | vfredosum o => exact vfredosum o
  | vfredmin o => exact vfredmin o
  | vfredmax o => exact vfredmax o
  | vscan o => exact vscan o
  | vperm o => exact vperm o
  | vslideup o => exact vslideup o
  | vslidedn o => exact vslidedn o
  | vcompress o => exact vcompress o
  | vrank o => exact vrank o
  | vbfly o => exact vbfly o
  | vsortk o => exact vsortk o
  | mand o => exact mand o
  | mor o => exact mor o
  | mxor o => exact mxor o
  | mandn o => exact mandn o
  | mpopc o => exact mpopc o
  | mfirst o => exact mfirst o
  | mset o => exact mset o
  | vmaxi o => exact vmaxi o
  | vmini o => exact vmini o
  | vbslice o => exact vbslice o
  | vbunslice o => exact vbunslice o
  | vld o => exact vld o
  | vlds o => exact vlds o
  | vldav o => exact vldav o
  | vldg o => exact vldg o
  | vldx o => exact vldx o
  | vldxu o => exact vldxu o
  | vldxf o => exact vldxf o
  | qlds o => exact qlds o
  | vst o => exact vst o
  | vsts o => exact vsts o
  | vstx o => exact vstx o
  | vstxu o => exact vstxu o
  | vstxadd o => exact vstxadd o
  | vstxmax o => exact vstxmax o
  | vstxmin o => exact vstxmin o
  | mld o => exact mld o
  | mst o => exact mst o
  | vldxc o => exact vldxc o
  | xopen o => exact xopen o
  | xsplit o => exact xsplit o
  | xcap o => exact xcap o
  | xdeadl o => exact xdeadl o
  | rsend o => exact rsend o
  | rrun o => exact rrun o
  | rend => exact rend
  | xclose o => exact xclose o
  | rrecv o => exact rrecv o
  | xwait o => exact xwait o
  | xstat o => exact xstat o
  | xrebal o => exact xrebal o
  | shape o => exact shape o
  | stmld o => exact stmld o
  | stmldShaped o => exact stmldShaped o
  | stmst o => exact stmst o
  | stmstShaped o => exact stmstShaped o
  | stmcp o => exact stmcp o
  | stmcpShaped o => exact stmcpShaped o
  | stmwait o => exact stmwait o
  | stmstat o => exact stmstat o
  | stmtl o => exact stmtl o
  | stmcancel o => exact stmcancel o
  | tlaunch o => exact tlaunch o
  | texit => exact texit
  | tyield => exact tyield
  | twait o => exact twait o
  | gbar => exact gbar
  | garrive o => exact garrive o
  | gwait o => exact gwait o
  | lease o => exact lease o
  | dreg o => exact dreg o
  | dpub o => exact dpub o
  | dfinal o => exact dfinal o
  | dstop o => exact dstop o
  | dchk o => exact dchk o
  | dwait o => exact dwait o
  | hpass o => exact hpass o
  | hdone o => exact hdone o
  | matt o => exact matt o
  | mrel => exact mrel
  | mzero o => exact mzero o
  | msetlen o => exact msetlen o
  | msave o => exact msave o
  | mload o => exact mload o
  | opadd o => exact opadd o
  | opsub o => exact opsub o
  | opaddSp o => exact opaddSp o
  | opaddBs o => exact opaddBs o
  | opaddQ o => exact opaddQ o
  | mgrp o => exact mgrp o
  | mgrpQ o => exact mgrpQ o
  | mldt o => exact mldt o
  | mldtFf o => exact mldtFf o
  | mstt o => exact mstt o
  | mrdv o => exact mrdv o
  | mwrv o => exact mwrv o
  | bst o => exact bst o
  | bchain o => exact bchain o
  | bsset o => exact bsset o
  | bsget o => exact bsget o
  | _ => exact event rfl

end Sys2Proof.Laws.Coding

namespace Sys2Proof

/-- Settles O3: the decoder reads each written word. -/
theorem encodingWords : Obligations.EncodingWords :=
  ⟨rfl, rfl, rfl, rfl, rfl, rfl, rfl, rfl, rfl, rfl, rfl, rfl, rfl, rfl, rfl, rfl, rfl, ⟨_, rfl⟩, ⟨_, rfl⟩⟩

end Sys2Proof

namespace Sys2Proof

/-! ### Decoding inverts encoding (R21 to R32) -/

/-- A word with the length marker is joined from the fields it is cut into (R25). -/
theorem joinWord_splitWord {w : BitVec 32} (h : w.extractLsb' 14 2 = 2) : joinWord (splitWord w) = w := by
  unfold joinWord splitWord
  rw [show (0b10 : BitVec 2) = w.extractLsb' 14 2 from h.symm]
  apply BitVec.eq_of_getLsbD_eq; intro i hi
  simp only [BitVec.getLsbD_extractLsb', BitVec.getLsbD_append]
  interval_cases i <;> simp

/-- A doubleword with the length marker is joined from the fields it is cut into (R28). -/
theorem joinTile_splitTile {w : BitVec 64} (h : w.extractLsb' 14 2 = 3) : joinTile (splitTile w) = w := by
  unfold joinTile splitTile
  dsimp only
  rw [show (0b11 : BitVec 2) = w.extractLsb' 14 2 from h.symm]
  apply BitVec.eq_of_getLsbD_eq; intro i hi
  simp only [BitVec.getLsbD_extractLsb', BitVec.getLsbD_append]
  interval_cases i <;> simp

/-- A parcel with bit 15 clear is joined from its cop and its two fields (R23). -/
theorem half_join {h : BitVec 16} (h0 : h[15] = false) :
    ((0 : BitVec 1) ++ h.extractLsb' 10 5 ++ h.extractLsb' 5 5 ++ h.extractLsb' 0 5 : BitVec 16) = h := by
  apply BitVec.eq_of_getLsbD_eq; intro i hi
  simp only [BitVec.getLsbD_extractLsb', BitVec.getLsbD_append]
  interval_cases i <;> simp [h0]

/-- An instruction picked from a table encodes as the table's entries do, each by its number. -/
theorem encode_of_pick {α : Type} {w : Nat} {t : List (α → Instr)} {b : BitVec w} {o : α} {i : Instr} (e : BitVec w → Option Encoded)
    (ht : t.map (fun k => encode (k o)) = (List.range t.length).map fun n => e (BitVec.ofNat w n)) (h : pick t b.toNat o = .ok i) :
    encode i = e b := by
  unfold pick at h
  split at h
  next k hk =>
    cases h
    obtain ⟨hn, hk⟩ := List.getElem?_eq_some_iff.1 hk
    have hb := congrArg (·[b.toNat]?) ht
    simpa [hn, hk] using hb
  · cases h

section
variable {p : WordFields} {i : Instr}

/-- The word of an I form from the operands cut out of it (R25). -/
theorem encI_fields (p : WordFields) : encI p.mj p.x p.i = some (.word (joinWord p)) := by
  unfold encI WordFields.i
  dsimp only
  rw [BitVec.extractLsb'_append_eq_left, BitVec.extractLsb'_append_eq_right]

theorem encS_fields (p : WordFields) : encS p.mj p.x p.s = some (.word (joinWord p)) := by
  unfold encS WordFields.s
  dsimp only
  rw [BitVec.extractLsb'_append_eq_left, BitVec.extractLsb'_append_eq_right]

theorem encU_fields (p : WordFields) : encU p.mj p.u = some (.word (joinWord p)) := by
  obtain ⟨a, b, f, mj, d, x⟩ := p
  have h : ((a ++ b ++ f ++ x : BitVec 19).extractLsb' 14 5 = a) ∧ (a ++ b ++ f ++ x : BitVec 19).extractLsb' 9 5 = b
      ∧ (a ++ b ++ f ++ x : BitVec 19).extractLsb' 3 6 = f ∧ (a ++ b ++ f ++ x : BitVec 19).extractLsb' 0 3 = x := by
    refine ⟨?_, ?_, ?_, ?_⟩ <;>
      (apply BitVec.eq_of_getLsbD_eq; intro i hi; simp only [BitVec.getLsbD_extractLsb', BitVec.getLsbD_append]; interval_cases i <;> simp)
  obtain ⟨h1, h2, h3, h4⟩ := h
  unfold encU WordFields.u
  dsimp only
  rw [h1, h2, h3, h4]

theorem encV_fields (p : WordFields) : encV p.mj p.op2 p.v = some (.word (joinWord p)) := by
  have h : p.f.extractLsb' 5 1 ++ p.f.extractLsb' 2 3 ++ p.f.extractLsb' 0 2 = p.f := by
    apply BitVec.eq_of_getLsbD_eq; intro i hi
    simp only [BitVec.getLsbD_extractLsb', BitVec.getLsbD_append]
    interval_cases i <;> simp
  unfold encV WordFields.v WordFields.op2
  dsimp only
  rw [h]

theorem encA_fields (hm : p.mj = 0x0C) (hx : p.x.extractLsb' 1 2 = 1) : encA (p.f.extractLsb' 0 4) p.amo = some (.word (joinWord p)) := by
  obtain ⟨a, b, f, mj, d, x⟩ := p
  dsimp only at hm hx
  have h1 : f.extractLsb' 4 2 ++ f.extractLsb' 0 4 = f := cut_join f rfl
  have h2 : (1 : BitVec 2) ++ x.extractLsb' 0 1 = x := by rw [← hx]; exact cut_join x rfl
  unfold encA WordFields.amo
  dsimp only
  rw [h1, h2, hm]


theorem bits_of_toNat {w n : Nat} {b : BitVec w} (h : b.toNat = n) : b = BitVec.ofNat w n := by
  rw [← h, BitVec.ofNat_toNat, BitVec.setWidth_eq]

theorem encode_of_decodeShi {o : IOp} (h : decodeShi o = .ok i) : encode i = encI 0x02 6 o := by
  have hjoin : ∀ sel : BitVec 2, o.imm.extractLsb' 9 2 = sel → encShi sel o = encI 0x02 6 o := by
    rintro sel rfl
    unfold encShi
    rw [show o.imm.extractLsb' 9 2 ++ o.imm.extractLsb' 0 9 = o.imm from cut_join o.imm rfl]
  unfold decodeShi at h
  split at h
  next hs => cases h; exact hjoin 0 hs
  next hs => cases h; exact hjoin 1 hs
  next hs => cases h; exact hjoin 2 hs
  · cases h

theorem encode_of_decodeSys (hm : p.mj = 0x0D) (h : decodeSys p = .ok i) : encode i = some (.word (joinWord p)) := by
  obtain ⟨a, b, f, mj, d, x⟩ := p
  dsimp only at hm
  subst hm
  unfold decodeSys at h
  dsimp only at h
  split_ifs at h with hz hf ha
  · obtain ⟨rfl, rfl, rfl⟩ := hz
    cases h
    subst hf
    rfl
  · obtain ⟨rfl, rfl, rfl⟩ := hz
    subst ha
    split at h <;> cases h <;> rfl

theorem encode_of_decodeVcfg (hm : p.mj = 0x10) (h : decodeVcfg p = .ok i) : encode i = some (.word (joinWord p)) := by
  obtain ⟨a, b, f, mj, d, x⟩ := p
  dsimp only at hm
  subst hm
  unfold decodeVcfg at h
  dsimp only at h
  have hi : ∀ y : BitVec 3, encI 0x10 y (WordFields.i ⟨a, b, f, 0x10, d, y⟩) = _ := fun y => encI_fields ⟨a, b, f, 0x10, d, y⟩
  split at h
  · cases h; exact hi 0
  · cases h; exact hi 1
  · cases h; exact hi 2
  · split_ifs at h with hz
    obtain ⟨rfl, rfl, rfl, rfl⟩ := hz
    cases h
    rfl
  · split_ifs at h with hz
    obtain ⟨rfl, rfl, rfl⟩ := hz
    cases h
    exact Laws.Coding.encI_zero 4 a
  · split_ifs at h with hz
    obtain ⟨rfl, rfl, rfl⟩ := hz
    cases h
    exact Laws.Coding.encI_zero 5 a
  · cases h; exact hi 6
  · cases h

/-- What a cell of the V-form map holds encodes with the cell's major and op2 (R29). -/
def VCell.Encodes (c : VCell) (mj : BitVec 6) (op2 : BitVec 2) : Prop :=
  match c with
  | .none => True
  | .one k => ∀ o, encode (k o) = encV mj op2 o
  | .byS k0 k1 => ∀ o, encode (k0 o) = encVS mj op2 0 o ∧ encode (k1 o) = encVS mj op2 1 o
  | .bare i => encode i = encV mj op2 { vd := 0, vs1 := 0, vs2 := 0, sc := 0, t := 0, m := 0 }

theorem VCell.Encodes.decoded {c : VCell} {mj : BitVec 6} {op2 : BitVec 2} {o : VOp} (hc : c.Encodes mj op2) (h : c.decode o = .ok i) :
    encode i = encV mj op2 o := by
  cases c with
  | none => cases h
  | one k => cases h; exact hc o
  | byS k0 k1 =>
    cases h
    obtain ⟨h0, h1⟩ := hc o
    have hs : ∀ b : BitVec 1, b = 0 ∨ b = 1 := by decide
    rcases hs o.sc with hs | hs
    · rw [if_pos hs]
      exact h0.trans (by rw [encVS, ← hs])
    · rw [if_neg (by rw [hs]; decide)]
      exact h1.trans (by rw [encVS, ← hs])
  | bare j =>
    change (if o = ⟨0, 0, 0, 0, 0, 0⟩ then Except.ok j else _) = _ at h
    split_ifs at h with hz
    cases h
    exact hz ▸ hc

/-- Every cell of the V-form map encodes at its place (R29). -/
theorem vTable_encodes (n : Nat) (hn : n < vTable.length) :
    vTable[n].1.Encodes (BitVec.ofNat 6 (0x11 + n)) 0 ∧ vTable[n].2.1.Encodes (BitVec.ofNat 6 (0x11 + n)) 1
      ∧ vTable[n].2.2.1.Encodes (BitVec.ofNat 6 (0x11 + n)) 2 ∧ vTable[n].2.2.2.Encodes (BitVec.ofNat 6 (0x11 + n)) 3 := by
  have hl : n < 32 := hn
  interval_cases n <;> simp [vTable, VCell.Encodes, encode]

theorem encode_of_decodeV (hlow : 0x11 ≤ p.mj.toNat) (h : decodeV p = .ok i) : encode i = some (.word (joinWord p)) := by
  rw [← encV_fields p]
  unfold decodeV at h
  split at h
  · cases h
  next c0 c1 c2 c3 hrow =>
    obtain ⟨hn, hcells⟩ := List.getElem?_eq_some_iff.1 hrow
    obtain ⟨h0, h1, h2, h3⟩ := vTable_encodes _ hn
    have hm : BitVec.ofNat 6 (0x11 + (p.mj.toNat - 0x11)) = p.mj := by
      rw [Nat.add_sub_cancel' hlow, BitVec.ofNat_toNat, BitVec.setWidth_eq]
    rw [hcells, hm] at h0 h1 h2 h3
    split at h
    next ho => rw [ho]; exact h0.decoded h
    next ho => rw [ho]; exact h1.decoded h
    next ho => rw [ho]; exact h2.decoded h
    next hne0 hne1 hne2 =>
      have ho : p.op2 = 3 := by
        generalize p.op2 = b at hne0 hne1 hne2
        revert b
        decide
      rw [ho]
      exact h3.decoded h

/-- What the fields of a word decode to encodes as the word of those fields (R25, R29). -/
theorem encode_of_decodeFields (h : decodeFields p = .ok i) : encode i = some (.word (joinWord p)) := by
  unfold decodeFields at h
  split at h
  case h_1 hm =>
    split_ifs at h with hx
    rw [encode_of_pick (fun b => encR 1 b 0 p.r) rfl h]
    unfold encR WordFields.r
    rw [← hx, ← show p.mj = 1 from bits_of_toNat hm]
  case h_2 hm =>
    rw [← encI_fields p, bits_of_toNat hm]
    split_ifs at h with hx
    · rw [hx]
      exact encode_of_decodeShi h
    · exact encode_of_pick (fun b => encI 2 b p.i) rfl h
  case h_3 hm =>
    rw [← encI_fields p, bits_of_toNat hm]
    exact encode_of_pick (fun b => encI 3 b p.i) rfl h
  case h_4 hm =>
    rw [← encS_fields p, bits_of_toNat hm]
    exact encode_of_pick (fun b => encS 4 b p.s) rfl h
  case h_5 hm =>
    rw [← encS_fields p, bits_of_toNat hm]
    exact encode_of_pick (fun b => encS 5 b p.s) rfl h
  case h_6 hm =>
    cases h
    rw [← encU_fields p, bits_of_toNat hm]
    rfl
  case h_7 hm =>
    split_ifs at h with hx
    cases h
    rw [← encI_fields p, bits_of_toNat hm, hx]
    rfl
  case h_8 hm =>
    cases h
    rw [← encU_fields p, bits_of_toNat hm]
    rfl
  case h_9 hm =>
    cases h
    rw [← encU_fields p, bits_of_toNat hm]
    rfl
  case h_10 hm =>
    rw [encode_of_pick (fun b => encF b p.fp) rfl h]
    unfold encF WordFields.fp
    rw [← show p.mj = 0x0A from bits_of_toNat hm]
  case h_11 hm =>
    split_ifs at h with hx
    rw [← encA_fields (bits_of_toNat hm) hx]
    exact encode_of_pick (fun b => encA b p.amo) rfl h
  case h_12 hm => exact encode_of_decodeSys (bits_of_toNat hm) h
  case h_13 hm =>
    rw [← encI_fields p, bits_of_toNat hm]
    exact encode_of_pick (fun b => encI 0x0E b p.i) rfl h
  case h_14 hm => exact encode_of_decodeVcfg (bits_of_toNat hm) h
  case h_15 =>
    split_ifs at h with hr
    exact encode_of_decodeV hr.1 h

theorem encode_of_decodeWord {w : BitVec 32} (hw : w.extractLsb' 14 2 = 2) (h : decodeWord w = .ok i) : encode i = some (.word w) := by
  rw [encode_of_decodeFields h, joinWord_splitWord hw]

/-- What a cell of the tile map holds encodes at its place (R30). -/
def TCell.Encodes (c : TCell) (mj f : BitVec 6) : Prop :=
  match c with
  | .one k => ∀ o, encode (k o) = encD mj f o
  | .bare i => encode i = encD mj f zeroTile

theorem tileTable_encodes (n : Nat) (hn : n < tileTable.length) (m : Nat) (hm : m < tileTable[n].length) :
    tileTable[n][m].Encodes (BitVec.ofNat 6 n) (BitVec.ofNat 6 m) := by
  have hl : n < 5 := hn
  interval_cases n
  · have hl : m < 6 := hm
    interval_cases m <;> simp [tileTable, TCell.Encodes, encode]
  · have hl : m < 5 := hm
    interval_cases m <;> simp [tileTable, TCell.Encodes, encode]
  · have hl : m < 2 := hm
    interval_cases m <;> simp [tileTable, TCell.Encodes, encode]
  · have hl : m < 5 := hm
    interval_cases m <;> simp [tileTable, TCell.Encodes, encode]
  · have hl : m < 4 := hm
    interval_cases m <;> simp [tileTable, TCell.Encodes, encode]

theorem encode_of_decodeTile {w : BitVec 64} (hw : w.extractLsb' 14 2 = 3) (h : decodeTile w = .ok i) : encode i = some (.tile w) := by
  suffices he : encode i = encD (splitTile w).mj (splitTile w).f (splitTile w).o by
    rw [he, encD, joinTile_splitTile hw]
  unfold decodeTile at h
  extract_lets p at h
  split at h
  · cases h
  next t ht =>
    obtain ⟨hn, rfl⟩ := List.getElem?_eq_some_iff.1 ht
    split at h
    · cases h
    next k hk =>
      cases h
      obtain ⟨hm, hc⟩ := List.getElem?_eq_some_iff.1 hk
      have := tileTable_encodes _ hn _ hm
      rw [hc] at this
      simpa using this p.o
    next j hk =>
      split_ifs at h with hz
      cases h
      obtain ⟨hm, hc⟩ := List.getElem?_eq_some_iff.1 hk
      have := tileTable_encodes _ hn _ hm
      rw [hc] at this
      change _ = encD p.mj p.f p.o
      rw [hz]
      simpa [TCell.Encodes] using this

theorem encode_of_decodeHalf {h : BitVec 16} (h0 : h[15] = false) (hd : decodeHalf h = .ok i) : encode i = some (.half h) := by
  suffices he : encode i = encH (h.extractLsb' 10 5) { ra := h.extractLsb' 5 5, rb := h.extractLsb' 0 5 } by
    rw [he, encH, half_join h0]
  unfold decodeHalf at hd
  extract_lets o cop at hd
  split_ifs at hd with hz hc hle hn hr hs
  · obtain ⟨c, hc'⟩ : ∃ c : BitVec 5, c = h.extractLsb' 10 5 - 1 := ⟨_, rfl⟩
    have hcop : cop - 1 = c.toNat := by
      rw [hc']
      bv_omega
    rw [hcop] at hd
    rw [encode_of_pick (fun b => encH (b + 1) o) (by simp [hTable, encode, List.range_succ]) hd, hc', BitVec.sub_add_cancel]
  · cases hd
    rw [bits_of_toNat hn]
    obtain ⟨hra, hrb⟩ := hr
    change _ = encH 17 o
    rw [show o = ⟨0, 0⟩ from congrArg₂ HOp.mk hra hrb]
    rfl
  · cases hd
    rw [bits_of_toNat hs]
    rfl

end

/-! ### The bytes -/

theorem leNat_lt (bs : List Byte) : leNat bs < 256 ^ bs.length := by
  induction bs with
  | nil => exact Nat.one_pos
  | cons b bs ih =>
    rw [leNat, List.length_cons, Nat.pow_succ]
    have := b.isLt
    omega

/-- Bytes are those of their number (R12). -/
theorem leBytes_leNat (bs : List Byte) : leBytes bs.length (leNat bs) = bs := by
  induction bs with
  | nil => rfl
  | cons b bs ih =>
    have hb := b.isLt
    rw [List.length_cons, leNat, leBytes, show (b.toNat + 256 * leNat bs) / 256 = leNat bs by omega, ih]
    congr 1
    apply BitVec.eq_of_toNat_eq
    rw [BitVec.toNat_ofNat]
    omega

/-- The length marker of a number of bytes is that of its first parcel (R21). -/
theorem marker_of_bytes {b0 b1 : Byte} {bs : List Byte} {w : Nat} (hw : 16 ≤ w) :
    (BitVec.ofNat w (leNat (b0 :: b1 :: bs))).extractLsb' 14 2 = (BitVec.ofNat 16 (leNat [b0, b1])).extractLsb' 14 2 := by
  have hpow : 2 ^ w = 65536 * 2 ^ (w - 16) := by rw [show 65536 = 2 ^ 16 from rfl, ← Nat.pow_add, Nat.add_sub_cancel' hw]
  apply BitVec.eq_of_toNat_eq
  simp only [leNat, BitVec.extractLsb'_toNat, BitVec.toNat_ofNat, Nat.shiftRight_eq_div_pow, hpow, Nat.mod_mul]
  omega

theorem marker_of_parcelLength (h : BitVec 16) :
    (parcelLength h = 2 ∧ h[15] = false) ∨ (parcelLength h = 4 ∧ h.extractLsb' 14 2 = 2) ∨ (parcelLength h = 8 ∧ h.extractLsb' 14 2 = 3) := by
  unfold parcelLength
  split
  next hm => exact .inr (.inl ⟨rfl, hm⟩)
  next hm => exact .inr (.inr ⟨rfl, hm⟩)
  next h2 h3 =>
    have htop : h[15] = (h.extractLsb' 14 2)[1] := by simp
    refine .inl ⟨rfl, htop.trans ?_⟩
    generalize h.extractLsb' 14 2 = m at h2 h3
    revert m
    decide

/-- The number of some bytes as a word of their width has those bytes. -/
theorem leBytes_ofNat (bs : List Byte) {w n : Nat} (hn : bs.length = n) (hw : 256 ^ n = 2 ^ w) :
    leBytes n (BitVec.ofNat w (leNat bs)).toNat = bs := by
  subst hn
  rw [BitVec.toNat_ofNat, ← hw, Nat.mod_eq_of_lt (leNat_lt bs), leBytes_leNat]

/-- Bytes as many as their first parcel says, whose number decodes to an instruction, are the bytes of its encoding (R21). -/
theorem encoded_of_number {b0 b1 : Byte} {bs : List Byte} {n : Nat} {i : Instr} (hn : parcelLength (BitVec.ofNat 16 (leNat [b0, b1])) = n)
    (hlen : (b0 :: b1 :: bs).length = n)
    (h : (if n = 2 then decodeHalf (BitVec.ofNat 16 (leNat (b0 :: b1 :: bs))) else if n = 4 then decodeWord (BitVec.ofNat 32 (leNat (b0 :: b1 :: bs)))
      else decodeTile (BitVec.ofNat 64 (leNat (b0 :: b1 :: bs)))) = .ok i) :
    ∃ e, encode i = some e ∧ e.bytes = b0 :: b1 :: bs := by
  rcases marker_of_parcelLength (BitVec.ofNat 16 (leNat [b0, b1])) with ⟨hp, hm⟩ | ⟨hp, hm⟩ | ⟨hp, hm⟩
  all_goals
    obtain rfl := hn.symm.trans hp
  · obtain rfl : bs = [] := List.eq_nil_of_length_eq_zero (by simpa using hlen)
    exact ⟨_, encode_of_decodeHalf hm h, leBytes_ofNat _ hlen rfl⟩
  · exact ⟨_, encode_of_decodeWord ((marker_of_bytes (by decide)).trans hm) h, leBytes_ofNat _ hlen rfl⟩
  · exact ⟨_, encode_of_decodeTile ((marker_of_bytes (by decide)).trans hm) h, leBytes_ofNat _ hlen rfl⟩

/-- Settles O2: what the number of the first bytes decodes to is encoded by that number, table by table. -/
theorem decodingIsEncoding : Obligations.DecodingIsEncoding := by
  intro bs i rest h
  unfold decode at h
  split at h
  next b0 b1 bs =>
    extract_lets n v r at h
    split_ifs at h with hlen
    obtain ⟨m, hm⟩ : ∃ m, n = m + 2 := by
      rcases marker_of_parcelLength (BitVec.ofNat 16 (leNat [b0, b1])) with h | h | h
      · exact ⟨0, h.1⟩
      · exact ⟨2, h.1⟩
      · exact ⟨6, h.1⟩
    have hr : r = .ok i ∧ rest = (b0 :: b1 :: bs).drop n := by
      cases hr : r with
      | error e => rw [hr] at h; cases h
      | ok j => rw [hr] at h; cases h; exact ⟨rfl, rfl⟩
    obtain ⟨hr, rfl⟩ := hr
    have htake : (b0 :: b1 :: bs).take n = b0 :: b1 :: bs.take m := by rw [hm]; rfl
    have hl : (b0 :: b1 :: bs.take m).length = n := by
      rw [← htake]
      exact List.length_take_of_le (Nat.le_of_not_lt hlen)
    obtain ⟨e, he, hb⟩ := encoded_of_number rfl hl (by rw [← htake]; exact hr)
    exact ⟨e, he, by rw [hb, ← htake, List.take_append_drop]⟩
  · cases h

end Sys2Proof

/-! The results of the operations on immediates and of the 16-bit register forms (R24, R26, R68, R69), and the obligation ImmediateResults. -/

namespace Sys2Proof.Machine

section
variable {s : State} {i : Instr} {f : Word → Word → Word} {d a b : Reg} {imm v : Word} {n : Nat}

/-- An instruction that only writes a register and completes gives what it writes. -/
theorem State.gives_finishX (h : exec i s = .next (s.finishX d v n)) : Gives i s d v (s.hart.pc + wordOf n) := ⟨_, h, s.wrote_finishX d v n⟩

theorem State.gives_opRI (h : exec i s = s.opRI f d a imm n) : Gives i s d (f (s.readX a) imm) (s.hart.pc + wordOf n) := State.gives_finishX h

theorem State.gives_opRR (h : exec i s = s.opRR f d a b n) : Gives i s d (f (s.readX a) (s.readX b)) (s.hart.pc + wordOf n) :=
  State.gives_finishX h

end

theorem boolW_slt (a b : Word) : boolW (a.slt b) = if a.toInt < b.toInt then 1 else 0 := by
  by_cases h : a.toInt < b.toInt
  · simp [boolW, BitVec.slt, h]
  · simp [boolW, BitVec.slt, h]

theorem boolW_ult (a b : Word) : boolW (a.ult b) = if a < b then 1 else 0 := by
  by_cases h : a < b
  · simp [boolW, BitVec.ult_iff_lt.2 h, h]
  · simp [boolW, Bool.eq_false_of_not_eq_true (h ∘ BitVec.ult_iff_lt.1), h]

theorem shiftLeft_eleven (v : Word) : v <<< 11 = v * 2 ^ 11 := BitVec.shiftLeft_eq_mul_twoPow v 11

/-- A 5-bit field is below the width of a register, so that it is its own shift amount (R24). -/
theorem shamt_uimm5 (o : HOp) : shamt (uimm5 o) = o.rb.toNat := by
  have := o.rb.isLt
  unfold shamt uimm5
  rw [BitVec.toNat_setWidth]
  omega

/-- Settles O10: each operation writes its function of a register and an immediate, or of two registers. -/
theorem immediateResults : Obligations.ImmediateResults := by
  refine ⟨fun o p s => ?_, fun o s => ?_⟩
  · refine ⟨State.gives_opRI rfl, State.gives_opRI rfl, State.gives_opRI rfl, State.gives_opRI rfl, ?_, ?_,
      State.gives_opRI (imm := 0) (f := fun a _ => a <<< shiAmount o) rfl, State.gives_opRI (imm := 0) (f := fun a _ => a >>> shiAmount o) rfl,
      State.gives_opRI (imm := 0) (f := fun a _ => a.sshiftRight (shiAmount o)) rfl, ?_, ?_⟩
    · rw [← boolW_slt]
      exact State.gives_opRI (f := fun a i => boolW (a.slt i)) rfl
    · rw [← boolW_ult]
      exact State.gives_opRI (f := fun a i => boolW (a.ult i)) rfl
    · rw [← shiftLeft_eleven]
      exact State.gives_finishX rfl
    · rw [← shiftLeft_eleven]
      exact State.gives_finishX rfl
  · refine ⟨State.gives_opRI rfl, ?_, ?_, State.gives_opRR rfl, State.gives_opRR rfl, State.gives_opRR rfl, State.gives_opRR rfl,
      State.gives_opRR rfl, ?_, ?_, congrArg _ (s.advance_eq_went 2)⟩
    · rw [← BitVec.zero_add (o.rb.signExtend 64)]
      exact State.gives_opRI (f := (· + ·)) (a := 0) rfl
    · rw [← BitVec.add_zero (s.readX o.rb)]
      exact State.gives_opRI (f := (· + ·)) (imm := 0) rfl
    · rw [← shamt_uimm5]
      exact State.gives_opRI (f := fun a i => a <<< shamt i) rfl
    · rw [← shamt_uimm5]
      exact State.gives_opRI (f := fun a i => a >>> shamt i) rfl

end Sys2Proof.Machine

/-! Scalar stores and the traps at user level (R24, R33, R36, R70, R71, R80 to R85, R334 to R338, R353), with the obligations Stores and UserTraps. -/

namespace Sys2Proof.Machine

section
variable {s t u : State} {p : Place} {l : Option LeafAt} {k : Kind} {va : Word} {n : Nat}

/-! ### Bytes and poison after a write (R12, R353) -/

/-- A word is poisoned after a write unless the write covered it whole (R353). -/
theorem poisClear_get {m : SMap Bool} {key w j : Nat} (hm : SMap.wf false m = true) (x : Nat) :
    SMap.get false (poisClear m key n w j) x
      = (SMap.get false m x && !(decide (key ≤ 8 * x) && decide (8 * x + 8 ≤ key + n) && decide (w ≤ x) && decide (x < w + j))) := by
  induction j generalizing m w with
  | zero =>
    have hnone : (decide (w ≤ x) && decide (x < w + 0)) = false := by simp
    rw [Bool.and_assoc, hnone, Bool.and_false, Bool.not_false, Bool.and_true]
    rfl
  | succ j ih =>
    unfold poisClear
    by_cases hx : x = w
    · subst hx
      split_ifs with hc
      · rw [ih (SMap.set_wf hm), SMap.get_set hm]
        simp [hc]
      · rw [ih hm]
        have : (decide (key ≤ 8 * x) && decide (8 * x + 8 ≤ key + n)) = false := by simpa using hc
        simp [this]
    · have hrange : (decide (w + 1 ≤ x) && decide (x < w + 1 + j)) = (decide (w ≤ x) && decide (x < w + (j + 1))) := by
        rw [← Bool.decide_and, ← Bool.decide_and, decide_eq_decide]
        omega
      split_ifs
      · rw [ih (SMap.set_wf hm), SMap.get_set hm, if_neg hx, Bool.and_assoc, hrange, ← Bool.and_assoc]
      · rw [ih hm, Bool.and_assoc, hrange, ← Bool.and_assoc]

theorem Memory.pois_write {m : Memory} {key v : Nat} (hm : m.wf = true) (x : Nat) :
    SMap.get false (m.write key n v).pois x
      = (SMap.get false m.pois x && !(decide (key ≤ 8 * x) && decide (8 * x + 8 ≤ key + n))) := by
  unfold Memory.write
  rw [poisClear_get (Memory.wf_iff.1 hm).2]
  by_cases h : key ≤ 8 * x ∧ 8 * x + 8 ≤ key + n
  · simp [h, show key / 8 ≤ x ∧ x < key / 8 + (n / 8 + 1) by omega]
  · have : (decide (key ≤ 8 * x) && decide (8 * x + 8 ≤ key + n)) = false := by simpa using h
    simp [this]

/-! ### Stores (R70, R353) -/

theorem State.accessed_wf (h : s.mem.wf = true) : (s.accessed k p l n).mem.wf = true :=
  State.Canon.memory (c := ⟨True, False⟩) (.closeLate (.visit ⟨fun _ => h, False.elim⟩ ..) ..) trivial

theorem State.closeLate_leaves (s : State) (key n : Nat) :
    s.closeLate key n = { s with hart := { s.hart with late := (s.closeLate key n).hart.late } } := by
  unfold State.closeLate
  split
  · split
    · rfl
    · rfl
  · rfl

/-- Of the current hart an access changes at most which load before it is still open. -/
theorem State.accessed_leaves (s : State) : (s.accessed k p l n).hart = { s.hart with late := (s.accessed k p l n).hart.late }
    ∧ (s.accessed k p l n).cur = s.cur ∧ (s.accessed k p l n).eager = s.eager := by
  have hvisit := State.AccessOnly.visit s (dieKey s.cur) p k l
  unfold State.accessed
  rw [State.closeLate_leaves, hvisit]
  exact ⟨rfl, rfl, rfl⟩

/-- A write that nothing holds, to lines under its own key, stands in memory at once (R253, R353, R409). -/
theorem State.place_free {w key v : Nat} (hold : s.holds w key n = false) (halien : s.alien (s.leafKey l) key n = false) :
    s.place w l key n v = { s with mem := s.mem.write key n v } := by
  have hkey : s.recipher (s.leafKey l) key n = s := if_pos (by rw [halien]; rfl)
  unfold State.place State.placeBad
  dsimp only
  rw [if_neg (by rw [hold]; decide), State.putUnder, hkey]
  rfl

/-- A store at a place that is free for it stores its bytes and completes. -/
theorem State.store_stored (hwf : s.mem.wf = true) (hr : Reaches s .write va n p l) (hf : (s.accessed .write p l n).freeToStore l p.key n = true)
    (bits v : Word) (len : Nat) :
    ∃ t, s.store bits n v va len = .next t
      ∧ Stored (s.accessed .write p l n) t p.key n v.toNat 0 0 (s.hart.pc + wordOf len) := by
  obtain ⟨hwindow, hloc⟩ := hr
  obtain ⟨hhart, hcur, -⟩ := s.accessed_leaves (k := .write) (p := p) (l := l) (n := n)
  have hwf' : (s.accessed .write p l n).mem.wf = true := State.accessed_wf hwf
  have hstore : s.store bits n v va len = .next (((s.accessed .write p l n).place (agentNo s.cur .scalar) l p.key n v.toNat).advance len) := by
    unfold State.store
    rw [hwindow, hloc]
    rfl
  generalize s.accessed .write p l n = u at *
  simp only [State.freeToStore, Bool.and_eq_true, Bool.not_eq_true', hcur] at hf
  rw [State.place_free hf.1 hf.2, State.advance_eq_went] at hstore
  refine ⟨_, hstore, ?_⟩
  exact {
    reg := fun j => by rw [if_neg (fun h => h.2 h.1)]; rfl
    bytes := fun a => Memory.byte_write hwf'
    pois := fun w => Memory.pois_write hwf' w
    rest := by rw [← show u.hart.pc = s.hart.pc by rw [hhart]]; rfl }

/-- Settles O13: each store is one of the low bytes of a register at its address. -/
theorem stores : Obligations.Stores := by
  intro o h s p l hwf
  refine ⟨?_, ?_, ?_, ?_, ?_⟩
  all_goals exact fun ⟨hr, hf⟩ => State.store_stored hwf hr hf ..

end

section
variable {s : State} {i : Instr} {n : Nat} {va : Word}

/-! ### Traps at user level (R33, R36, R71, R80, R82, R85) -/

/-- The state after an issue trap of a cause at user level (R336, R338). -/
def State.issueTrapped (s : State) (cause : Nat) (va info : Word) : State :=
  s.trapped { cause := cause, src := 0, slot := 0, fb := s.hart.pc, va := va, info := info } s.hart.pc

theorem State.windowAt_user (h : s.plainUser = true) (va : Word) (n : Nat) : s.windowAt va n = none := by
  obtain ⟨hprv, -, -⟩ := State.plainUser_parts h
  unfold State.windowAt
  rw [hprv]
  rfl

/-- The two checks of a scalar access come before its translation, the canonical address first (R71). -/
theorem State.scalarLoc_checks (s : State) (k : Kind) (va : Word) (n : Nat) :
    (canonical va = false → s.scalarLoc k va n = .bad cADDRESS)
    ∧ (canonical va = true → va.toNat % n ≠ 0 → s.scalarLoc k va n = .bad cMISALIGN_ISSUE) := by
  unfold State.scalarLoc
  exact ⟨fun hc => by simp [hc], fun hc hm => by simp [hc, hm]⟩

/-- What an access of `n` bytes at an address does where one of the two checks fails (R71). -/
def Checked (s : State) (va : Word) (n : Nat) (r : Result) : Prop :=
  (canonical va = false → r = .next (s.issueTrapped cADDRESS va 0))
  ∧ (canonical va = true → va.toNat % n ≠ 0 → r = .next (s.issueTrapped cMISALIGN_ISSUE va 0))

theorem Checked.of_bad {k : Kind} {r : Result} (hu : s.plainUser = true)
    (h : ∀ c, s.scalarLoc k va n = .bad c → ∃ bits, r = .next (s.trapAccess bits c va)) : Checked s va n r := by
  obtain ⟨haddr, halign⟩ := s.scalarLoc_checks k va n
  refine ⟨fun hc => ?_, fun hc hm => ?_⟩
  · obtain ⟨bits, hr⟩ := h _ (haddr hc)
    rw [hr, State.trapAccess, State.trapIssue_user hu]
    rfl
  · obtain ⟨bits, hr⟩ := h _ (halign hc hm)
    rw [hr, State.trapAccess, State.trapIssue_user hu]
    rfl

theorem State.load_checked (hu : s.plainUser = true) (bits : Word) (n : Nat) (signed : Bool) (d : Reg) (va : Word) (len : Nat) :
    Checked s va n (s.load bits n signed d va len) := .of_bad hu fun c hc => by
  refine ⟨bits, ?_⟩
  unfold State.load State.windowValue
  rw [State.windowAt_user hu, hc]
  rfl

theorem State.store_checked (hu : s.plainUser = true) (bits : Word) (n : Nat) (v va : Word) (len : Nat) :
    Checked s va n (s.store bits n v va len) := .of_bad hu fun c hc => by
  refine ⟨bits, ?_⟩
  unfold State.store
  rw [State.windowAt_user hu, hc]

/-- A release with none of its agent's writes on their way leaves the state (R82, R255). -/
theorem State.release_free (h : s.agentHeld (agentNo s.cur .scalar) = false) (level : Nat) : s.release level = some s := by
  have hw : ∀ q ∈ s.packages, ∀ w ∈ (s.pkg q).held, w.binds (agentNo s.cur .scalar) = false := by
    simpa [State.agentHeld] using h
  unfold State.release State.order
  dsimp only
  have hnone : (s.packages.any fun q => (s.pkg q).held.any fun w =>
      [agentNo s.cur .scalar].any w.binds && (decide (4 ≤ level) || s.pageHolds w.key)) = false := by
    refine List.any_eq_false.2 fun q hq => ?_
    rw [Bool.not_eq_true]
    exact List.any_eq_false.2 fun w hm => by simp [hw q hq w hm]
  rw [if_neg (by rw [hnone]; decide)]
  unfold State.makeSeen
  rw [if_neg (by simp [h])]

theorem State.atomic_checked (hu : s.plainUser = true) (bits : Word) (n : Nat) {rel : Bool}
    (hrel : rel = true → s.agentHeld (agentNo s.cur .scalar) = false) (acq : Bool) (op : Nat → Option Nat) (out : Nat → Word) (d : Reg) (va : Word) :
    Checked s va n (s.atomic bits n rel acq op out d va) := .of_bad hu fun c hc => by
  refine ⟨bits, ?_⟩
  have hfree : (if rel then s.release (vcfgLevel s.hart.ctl.vcfg) else some s) = some s := by
    split
    · exact State.release_free (hrel ‹_›) _
    · rfl
  unfold State.atomic
  rw [hfree]
  dsimp only
  rw [State.windowAt_user hu, hc]

theorem userTraps_trap_brk (a : Reg) (s : State) (hu : s.plainUser = true) :
    exec (.trap a) s = .next (s.issueTrapped cTRAP 0 (s.readX a))
    ∧ ((s.core (s.cur / 4)).armbrk.getLsbD (s.cur % 4) = false → exec .brk s = .next (s.issueTrapped cBREAK 0 0))
    ∧ ((s.core (s.cur / 4)).armbrk.getLsbD (s.cur % 4) = true →
        exec .brk s = .next (s.askHalt (s.cur / 4) 1 ((s.core (s.cur / 4)).quiet.getLsbD (s.cur % 4)))) := by
  refine ⟨congrArg _ (State.trapIssue_user hu ..), fun ha => ?_, fun ha => if_pos ha⟩
  exact (if_neg (by rw [Bool.not_eq_true]; exact ha)).trans (congrArg _ (State.trapIssue_user hu ..))

theorem State.amo_atomic (s : State) (i : Instr) (a : AOp) (f : Nat → Nat → Nat → Nat) :
    ∃ bits op out, s.amo i a f = s.atomic bits (amoBytes a) (relOf a) (acqOf a) op out a.d (s.readX a.a) := by
  unfold State.amo
  exact ⟨_, _, _, rfl⟩

/-- Each atomic is one of the shared operation, at its width, its ordering and its address (R80). -/
theorem exec_atomic (a : AOp) (s : State) : ∀ i ∈ [Instr.amoswap a, .amoadd a, .amoand a, .amoor a, .amoxor a, .amomin a, .amomax a, .amominu a,
      .amomaxu a, .amocas a, .amofadd a],
    ∃ bits op out, exec i s = s.atomic bits (amoBytes a) (relOf a) (acqOf a) op out a.d (s.readX a.a) := by
  have hamo := fun i f => s.amo_atomic i a f
  simp only [List.forall_mem_cons, exec_amoswap, exec_amoadd, exec_amoand, exec_amoor, exec_amoxor, exec_amomin, exec_amomax, exec_amominu,
    exec_amomaxu, exec_amocas, exec_amofadd]
  refine ⟨hamo .., hamo .., hamo .., hamo .., hamo .., hamo .., hamo .., hamo .., hamo .., ?_, ?_, fun _ h => absurd h List.not_mem_nil⟩
  · dsimp only [execAmocas]
    exact ⟨_, _, _, rfl⟩
  · dsimp only [execAmofadd]
    exact ⟨_, _, _, rfl⟩

/-- Settles O19: every access runs its two checks before anything else, and a trap at user level is entered at the instruction. -/
theorem userTraps : Obligations.UserTraps := by
  refine ⟨fun a s hu => userTraps_trap_brk a s hu, fun o q h a s hu => ?_, fun s hu => ?_⟩
  · have hl : ∀ bits n signed, Checked s (s.eaI o) n (s.load bits n signed o.d (s.eaI o) 4) := fun _ _ _ => State.load_checked hu ..
    have hs : ∀ bits n, Checked s (s.eaS q) n (s.store bits n (s.readX q.b) (s.eaS q) 4) := fun _ _ => State.store_checked hu ..
    refine ⟨?_, ?_, ?_, hl .., hs .., hs .., hs .., hs .., State.load_checked hu .., State.store_checked hu .., fun hrel i hi => ?_⟩
    · simp only [List.forall_mem_cons]
      exact ⟨hl .., hl .., fun _ h => absurd h List.not_mem_nil⟩
    · simp only [List.forall_mem_cons]
      exact ⟨hl .., hl .., fun _ h => absurd h List.not_mem_nil⟩
    · simp only [List.forall_mem_cons]
      exact ⟨hl .., hl .., fun _ h => absurd h List.not_mem_nil⟩
    · obtain ⟨bits, op, out, he⟩ := exec_atomic a s i hi
      have hchecked : Checked s _ _ (s.atomic _ _ (relOf a) ..) := State.atomic_checked hu bits (amoBytes a) hrel (acqOf a) op out a.d (s.readX a.a)
      exact he ▸ hchecked
  · exact ⟨congrArg _ (State.trapIssue_user hu ..), congrArg _ (State.trapIssue_user hu ..)⟩

end

end Sys2Proof.Machine

/-! The issue checks of the vector instructions and the rings of pipeline mode (R34, R95, R99, R101, R109 to R111, R155), with the obligation VectorChecks. -/

namespace Sys2Proof.Machine

section
variable {s : State} {x : VCtx} {ops : List VReg} {bad : Bool} {w g : Nat}

/-! ### Groups and VLMAX (R99 to R101, R110) -/

theorem sewBits_eq_two_pow (sew : Nat) : sewBits sew = 2 ^ (3 + sew) := by
  rw [sewBits, Nat.pow_add]

/-- A group is of one of the legal sizes where its registers count for its elements (R101). -/
theorem VCtx.group_eq_some_iff :
    x.group w = some g ↔ g * 2 ^ (3 + x.sew) = x.grp * w ∧ (g = 1 ∨ g = 2 ∨ g = 4 ∨ g = 8) := by
  have hpos : 0 < 2 ^ (3 + x.sew) := Nat.two_pow_pos _
  unfold VCtx.group
  rw [sewBits_eq_two_pow]
  dsimp only
  constructor
  · intro h
    split_ifs at h with hmod hsize
    obtain rfl := Option.some.inj h
    exact ⟨Nat.div_mul_cancel (Nat.dvd_of_mod_eq_zero (not_not.1 hmod)), hsize⟩
  · rintro ⟨hg, hsize⟩
    rw [← hg, Nat.mul_mod_left, Nat.mul_div_cancel _ hpos, if_neg (by simp), if_pos hsize]

/-- An operand is legal where its group is of a legal size and aligned to it (R101). -/
theorem VCtx.groupOk_iff (v : VReg) :
    x.groupOk v = true ↔ ∃ g, g * 2 ^ (3 + x.sew) = x.grp * v.2 ∧ (g = 1 ∨ g = 2 ∨ g = 4 ∨ g = 8) ∧ v.1.toNat % g = 0 := by
  unfold VCtx.groupOk
  constructor
  · intro h
    split at h
    case h_1 g hg =>
      obtain ⟨hmul, hsize⟩ := VCtx.group_eq_some_iff.1 hg
      exact ⟨g, hmul, hsize, of_decide_eq_true h⟩
    case h_2 => cases h
  · rintro ⟨g, hmul, hsize, hmod⟩
    rw [VCtx.group_eq_some_iff.2 ⟨hmul, hsize⟩]
    exact decide_eq_true hmod

/-- A legal operand lies in its role where each size its group has does (R110). -/
theorem VCtx.roleOk_iff {v : VReg} (hv : x.groupOk v = true) (role : Nat) :
    x.roleOk role v = true ↔ ∀ g, g * 2 ^ (3 + x.sew) = x.grp * v.2 →
      if 28 ≤ v.1.toNat then g = 1
      else if role = 0 then v.1.toNat + g ≤ 8
      else if role = 1 then 8 ≤ v.1.toNat ∧ v.1.toNat + g ≤ 24
      else 24 ≤ v.1.toNat ∧ v.1.toNat + g ≤ 28 := by
  obtain ⟨g, hmul, hsize, -⟩ := (VCtx.groupOk_iff v).1 hv
  have hgroup : x.group v.2 = some g := VCtx.group_eq_some_iff.2 ⟨hmul, hsize⟩
  have huniq : ∀ g', g' * 2 ^ (3 + x.sew) = x.grp * v.2 ↔ g' = g := fun g' =>
    ⟨fun h => Nat.eq_of_mul_eq_mul_right (Nat.two_pow_pos _) (h.trans hmul.symm), fun h => h ▸ hmul⟩
  simp only [huniq, forall_eq, VCtx.roleOk, hgroup, Option.getD_some]
  match role with
  | 0 => simp [rolePart]
  | 1 => simp [rolePart]
  | _ + 2 => simp [rolePart]

theorem vlmax_eq {grp sew reg : Nat} (h : sew < 4) : Machine.vlmax grp sew reg = grp * reg / 2 ^ sew := by
  rw [Machine.vlmax, if_pos h, sewBits, Nat.mul_comm 8, Nat.mul_div_mul_right _ _ (by decide)]

/-! ### What the issue checks find (R34) -/

/-- A configuration, operand groups and an instruction's own rule without fault (R34, step 4). -/
def State.Legal (s : State) (ops : List VReg) (bad : Bool) : Prop :=
  s.vctxNow.sew < 4 ∧ (s.vctxNow.vl ≤ s.vctxNow.vlmax ∨ s.vctxNow.c = 0) ∧ (∀ v ∈ ops, s.vctxNow.groupOk v = true) ∧ bad = false

/-- The operand groups stand in the role of the hart, where it runs in pipeline mode (R110). -/
def State.InRole (s : State) (ops : List VReg) : Prop :=
  s.hart.mode = .pipeline → ∀ v ∈ ops, s.vctxNow.roleOk s.hart.role v = true

/-- What the checks find, in their order (R34, R95, R110). -/
theorem State.vecCheck_eq [Decidable (s.Legal ops bad)] [Decidable (s.InRole ops)] :
    s.vecCheck ops bad =
      if s.Legal ops bad then
        if s.vctxNow.c = 0 then bitsTrap cNO_LEASE else if s.InRole ops then none else bitsTrap cROLE_REG
      else bitsTrap cILLEGAL := by
  have hlegal : (s.vctxNow.sew ≥ 4 ∨ s.vctxNow.vl > s.vctxNow.vlmax ∧ s.vctxNow.c ≠ 0 ∨ ¬ ops.all s.vctxNow.groupOk ∨ bad)
      ↔ ¬ s.Legal ops bad := by
    rw [List.all_eq_true, State.Legal]
    grind
  have hrole : (s.vctxNow.pipe && !ops.all (s.vctxNow.roleOk s.hart.role)) = true ↔ ¬ s.InRole ops := by
    simp [State.InRole, State.vctxNow, State.vctxOf]
  unfold State.vecCheck
  simp only [hlegal, hrole, ite_not]

end

section
variable {s : State} {i : Instr} {o : VOp} {ops : List (Reg × Nat)} {bad strided : Bool} {len w : Nat} {xa xb : Word}
  {head : QEntry → State → HeadRes}

/-! ### Issues that trap (R34, R336) -/

/-- The operand registers of a second operand that S may broadcast, at a width in bytes (R121). -/
def pairAt (o : VOp) (w : Nat) : List (Reg × Nat) := if o.sc = 1 then [(o.vs1, w)] else [(o.vs1, w), (o.vs2, w)]

/-- An instruction that traps where the issue checks over its operand groups, at their bytes an element, find something (R34, R336). -/
def Checks (s : State) (i : Instr) (ops : List (Reg × Nat)) (bad : Bool) : Prop :=
  ∀ t, s.vecCheck (ops.map fun v => (v.1, 8 * v.2)) bad = some t →
    exec i s = .next (s.issueTrapped t.cause t.va (if t.bits then instrBits i else 0))

/-- One that traps also where its base, or its stride where it has one, is no multiple of its width (R155). -/
def MemChecks (s : State) (i : Instr) (o : VOp) (ops : List (Reg × Nat)) (bad : Bool) (w : Nat) (strided : Bool) : Prop :=
  Checks s i ops bad
  ∧ (s.vecCheck (ops.map fun v => (v.1, 8 * v.2)) bad = none → s.hart.ctl.vl ≠ 0 →
      (s.readX o.vs1).toNat % w ≠ 0 ∨ (strided = true ∧ (s.readX o.vs2).toNat % w ≠ 0) →
      exec i s = .next (s.issueTrapped cMISALIGN_ISSUE (s.readX o.vs1) 0))

theorem State.issue_trap (hu : s.plainUser = true) (t : IssueTrap) :
    s.issue i len (some t) xa xb head = .next (s.issueTrapped t.cause t.va (if t.bits then instrBits i else 0)) :=
  congrArg _ (State.trapIssue_user hu ..)

theorem Checks.of_issue (hu : s.plainUser = true)
    (h : exec i s = s.issue i 4 (s.vecCheck (ops.map fun v => (v.1, 8 * v.2)) bad) xa xb head) : Checks s i ops bad :=
  fun t ht => by rw [h, ht, State.issue_trap hu]

theorem binSrcs_map (o : VOp) (w : Nat) : (binSrcs o).map (fun r => (r, 8 * w)) = (pairAt o w).map fun v => (v.1, 8 * v.2) := by
  unfold binSrcs pairAt
  split <;> rfl

theorem Checks.bin (hu : s.plainUser = true) (h : exec i s = s.issueBin i o w head) : Checks s i ((o.vd, w) :: pairAt o w) false :=
  .of_issue hu <| h.trans <| by
    unfold State.issueBin
    rw [List.map_cons, binSrcs_map]
    rfl

theorem Checks.cmp (hu : s.plainUser = true) (h : exec i s = s.issueCmp i o w head) : Checks s i (pairAt o w) false :=
  .of_issue hu <| h.trans <| by
    unfold State.issueCmp
    rw [binSrcs_map]

theorem MemChecks.of_issue {stride : Word} (hu : s.plainUser = true) (hstride : strided = true → stride = s.readX o.vs2)
    (h : exec i s = s.issue i 4 (s.memCheck (ops.map fun v => (v.1, 8 * v.2)) bad w (s.readX o.vs1) stride) xa xb head) :
    MemChecks s i o ops bad w strided := by
  unfold State.memCheck at h
  refine ⟨fun t ht => ?_, fun hnone hvl hmis => ?_⟩
  · rw [h, ht, State.issue_trap hu]
  · have hbad : (s.readX o.vs1).toNat % w ≠ 0 ∨ stride.toNat % w ≠ 0 :=
      hmis.imp_right fun ⟨hs, hm⟩ => hstride hs ▸ hm
    rw [h, hnone]
    dsimp only
    rw [if_pos ⟨hvl, hbad⟩, State.issue_trap hu]
    rfl

theorem MemChecks.unit (hu : s.plainUser = true) (h : exec i s = s.issueUnit i o head) :
    MemChecks s i o [(o.vd, intBytes o.t)] false (intBytes o.t) false := .of_issue (stride := 0) hu (fun h => nomatch h) h

theorem MemChecks.stride (hu : s.plainUser = true) (h : exec i s = s.issueStride i o head) :
    MemChecks s i o [(o.vd, intBytes o.t)] false (intBytes o.t) true := .of_issue hu (fun _ => rfl) h

/-- VLDG outside a cohort is a unit-stride load (R246). -/
theorem MemChecks.vldg (hu : s.plainUser = true) (hm : s.hart.mode ≠ .cohort) :
    MemChecks s (.vldg o) o [(o.vd, intBytes o.t)] false (intBytes o.t) false :=
  .of_issue (stride := 0) hu (fun h => nomatch h) <| by
    have hoff : (s.hart.mode == .cohort) = false := beq_eq_false_iff_ne.2 hm
    rw [exec_vldg, execVldg]
    simp only [hoff, Bool.false_and, Bool.false_eq_true, if_false]
    rfl

end

/-- A load takes more scales than a scale register has entries where its last element's scale lies past them (R165). -/
theorem qldsCount_over (x : VCtx) :
    decide (qldsCount x > 512) = (decide (x.vl > 0) && decide ((x.vl - 1) / 2 ^ x.blk > 511)) := by
  unfold qldsCount
  split
  · simp [*]
  · have : (x.vl - 1) / 2 ^ x.blk + 1 > 512 ↔ (x.vl - 1) / 2 ^ x.blk > 511 := by omega
    simp [Nat.pos_of_ne_zero, *]

section
variable {s : State} (hu : s.plainUser = true) (o : VOp)
include hu

/-! ### The operand groups of each vector instruction (R121 to R166, R300 to R303) -/

theorem checks_binary : ∀ i ∈ [Instr.vadd o, .vsub o, .vmul o, .vmulh o, .vmin o, .vmax o, .vdiv o, .vrem o, .vand o, .vor o, .vxor o, .vsll o,
      .vsr o, .vsadd o, .vssub o, .vmac o, .vmerge o], Checks s i ((o.vd, intBytes o.t) :: pairAt o (intBytes o.t)) false := by
  simp only [List.forall_mem_cons]
  exact ⟨.bin hu (exec_vadd o s), .bin hu (exec_vsub o s), .bin hu (exec_vmul o s), .bin hu (exec_vmulh o s), .bin hu (exec_vmin o s),
    .bin hu (exec_vmax o s), .bin hu (exec_vdiv o s), .bin hu (exec_vrem o s), .bin hu (exec_vand o s), .bin hu (exec_vor o s),
    .bin hu (exec_vxor o s), .bin hu (exec_vsll o s), .bin hu (exec_vsr o s), .bin hu (exec_vsadd o s), .bin hu (exec_vssub o s),
    .bin hu (exec_vmac o s), .bin hu (exec_vmerge o s), fun _ h => absurd h List.not_mem_nil⟩

theorem checks_floatBinary : ∀ i ∈ [Instr.vfadd o, .vfsub o, .vfmul o, .vfdiv o, .vfmin o, .vfmax o, .vfma o, .vfnma o],
    Checks s i ((o.vd, fpBytes o.t) :: pairAt o (fpBytes o.t)) false := by
  simp only [List.forall_mem_cons]
  exact ⟨.bin hu (exec_vfadd o s), .bin hu (exec_vfsub o s), .bin hu (exec_vfmul o s), .bin hu (exec_vfdiv o s), .bin hu (exec_vfmin o s),
    .bin hu (exec_vfmax o s), .bin hu (exec_vfma o s), .bin hu (exec_vfnma o s), fun _ h => absurd h List.not_mem_nil⟩

theorem checks_floatUnary : ∀ i ∈ [Instr.vfsqrt o, .vfrsqrt o, .vfabs o, .vfneg o],
    Checks s i [(o.vd, fpBytes o.t), (o.vs1, fpBytes o.t)] false := by
  simp only [List.forall_mem_cons]
  exact ⟨.of_issue hu (exec_vfsqrt o s), .of_issue hu (exec_vfrsqrt o s), .of_issue hu (exec_vfabs o s), .of_issue hu (exec_vfneg o s),
    fun _ h => absurd h List.not_mem_nil⟩

theorem checks_compare : ∀ i ∈ [Instr.vcmpeq o, .vcmpne o, .vcmplt o, .vcmple o], Checks s i (pairAt o (intBytes o.t)) false := by
  simp only [List.forall_mem_cons]
  exact ⟨.cmp hu (exec_vcmpeq o s), .cmp hu (exec_vcmpne o s), .cmp hu (exec_vcmplt o s), .cmp hu (exec_vcmple o s),
    fun _ h => absurd h List.not_mem_nil⟩

theorem checks_floatCompare : ∀ i ∈ [Instr.vfcmpeq o, .vfcmplt o, .vfcmple o], Checks s i (pairAt o (fpBytes o.t)) false := by
  simp only [List.forall_mem_cons]
  exact ⟨.cmp hu (exec_vfcmpeq o s), .cmp hu (exec_vfcmplt o s), .cmp hu (exec_vfcmple o s), fun _ h => absurd h List.not_mem_nil⟩

theorem checks_vmv : Checks s (.vmv o) ((o.vd, intBytes o.t) :: if o.sc = 1 then [] else [(o.vs1, intBytes o.t)]) false :=
  .of_issue hu (xa := if o.sc = 1 then s.readX o.vs2 else 0) <| (exec_vmv o s).trans <| by
    unfold execVmv vmvSrcs
    split <;> rfl

theorem checks_index : ∀ i ∈ [Instr.vid o, .vrank o], Checks s i [(o.vd, intBytes o.t)] false := by
  simp only [List.forall_mem_cons]
  exact ⟨.of_issue hu (exec_vid o s), .of_issue hu (exec_vrank o s), fun _ h => absurd h List.not_mem_nil⟩

theorem checks_reduction : ∀ i ∈ [Instr.vmvx o, .vredsum o, .vredor o, .vredmin o, .vredmax o], Checks s i [(o.vs1, intBytes o.t)] false := by
  simp only [List.forall_mem_cons]
  exact ⟨.of_issue hu (exec_vmvx o s), .of_issue hu (exec_vredsum o s), .of_issue hu (exec_vredor o s), .of_issue hu (exec_vredmin o s),
    .of_issue hu (exec_vredmax o s), fun _ h => absurd h List.not_mem_nil⟩

theorem checks_floatReduction : ∀ i ∈ [Instr.vfredsum o, .vfredosum o, .vfredmin o, .vfredmax o], Checks s i [(o.vs1, fpBytes o.t)] false := by
  simp only [List.forall_mem_cons]
  exact ⟨.of_issue hu (exec_vfredsum o s), .of_issue hu (exec_vfredosum o s), .of_issue hu (exec_vfredmin o s), .of_issue hu (exec_vfredmax o s),
    fun _ h => absurd h List.not_mem_nil⟩

theorem checks_selection : ∀ i ∈ [Instr.vmaxi o, .vmini o], Checks s i [(o.vs1, clsBytes o)] false := by
  simp only [List.forall_mem_cons]
  exact ⟨.of_issue hu (exec_vmaxi o s), .of_issue hu (exec_vmini o s), fun _ h => absurd h List.not_mem_nil⟩

theorem checks_mask : ∀ i ∈ [Instr.mand o, .mor o, .mxor o, .mandn o, .mset o, .mpopc o, .mfirst o, .mld o, .mst o], Checks s i [] false := by
  simp only [List.forall_mem_cons]
  exact ⟨.of_issue hu (exec_mand o s), .of_issue hu (exec_mor o s), .of_issue hu (exec_mxor o s), .of_issue hu (exec_mandn o s),
    .of_issue hu (exec_mset o s), .of_issue hu (exec_mpopc o s), .of_issue hu (exec_mfirst o s), .of_issue hu (exec_mld o s),
    .of_issue hu (exec_mst o s), fun _ h => absurd h List.not_mem_nil⟩

theorem checks_vperm : Checks s (.vperm o) ([(o.vd, intBytes o.t), (o.vs1, intBytes o.t)] ++ if o.sc = 1 then [] else [(o.vs2, 4)]) false :=
  .of_issue hu (xa := if o.sc = 1 then s.readX o.vs2 else 0) <| (exec_vperm o s).trans <| by
    unfold execVperm
    split <;> rfl

theorem checks_slide : ∀ i ∈ [Instr.vslideup o, .vslidedn o, .vcompress o],
    Checks s i [(o.vd, intBytes o.t), (o.vs1, intBytes o.t)] false := by
  simp only [List.forall_mem_cons]
  exact ⟨.of_issue hu (exec_vslideup o s), .of_issue hu (exec_vslidedn o s), .of_issue hu (exec_vcompress o s),
    fun _ h => absurd h List.not_mem_nil⟩

/-- The weights of a butterfly stage are two elements to each datum (R150). -/
theorem checks_vbfly : Checks s (.vbfly o) [(o.vd, fpBytes o.t), (o.vs1, 2 * fpBytes o.t)]
    (match s.vctxNow.group (8 * fpBytes o.t) with
      | some g => decide (2 * g > 8)
      | none => true) :=
  .of_issue hu <| (exec_vbfly o s).trans <|
    congrArg (fun w => s.issue (.vbfly o) 4 (s.vecCheck [(o.vd, 8 * fpBytes o.t), (o.vs1, w)] _) (s.readX o.vs2) 0 (headVbfly o))
      (Nat.mul_left_comm 2 8 (fpBytes o.t))

theorem checks_gather : ∀ i ∈ [Instr.vldx o, .vldxu o, .vldxf o, .vldxc o],
    Checks s i [(o.vd, intBytes o.t), (o.vs2, 4)] (s.overlaps o) := by
  simp only [List.forall_mem_cons]
  exact ⟨.of_issue hu (exec_vldx o s), .of_issue hu (exec_vldxu o s), .of_issue hu (exec_vldxf o s), .of_issue hu (exec_vldxc o s),
    fun _ h => absurd h List.not_mem_nil⟩

theorem checks_scatter : ∀ i ∈ [Instr.vstx o, .vstxu o], Checks s i [(o.vd, intBytes o.t), (o.vs2, 4)] false := by
  simp only [List.forall_mem_cons]
  exact ⟨.of_issue hu (exec_vstx o s), .of_issue hu (exec_vstxu o s), fun _ h => absurd h List.not_mem_nil⟩

theorem checks_combining : ∀ i ∈ [Instr.vstxadd o, .vstxmax o, .vstxmin o], Checks s i [(o.vd, clsBytes o), (o.vs2, 4)] false := by
  simp only [List.forall_mem_cons]
  exact ⟨.of_issue hu (exec_vstxadd o s), .of_issue hu (exec_vstxmax o s), .of_issue hu (exec_vstxmin o s),
    fun _ h => absurd h List.not_mem_nil⟩

theorem checks_sending : ∀ i ∈ [Instr.rsend o, .rrun o], Checks s i [(o.vd, intBytes o.t), (o.vs1, 4)] false := by
  simp only [List.forall_mem_cons]
  exact ⟨.of_issue hu (exec_rsend o s), .of_issue hu (exec_rrun o s), fun _ h => absurd h List.not_mem_nil⟩

theorem memChecks_unit : ∀ i ∈ [Instr.vld o, .vldav o, .vst o], MemChecks s i o [(o.vd, intBytes o.t)] false (intBytes o.t) false := by
  simp only [List.forall_mem_cons]
  exact ⟨.unit hu (exec_vld o s), .unit hu (exec_vldav o s), .unit hu (exec_vst o s), fun _ h => absurd h List.not_mem_nil⟩

theorem memChecks_strided : ∀ i ∈ [Instr.vlds o, .vsts o], MemChecks s i o [(o.vd, intBytes o.t)] false (intBytes o.t) true := by
  simp only [List.forall_mem_cons]
  exact ⟨.stride hu (exec_vlds o s), .stride hu (exec_vsts o s), fun _ h => absurd h List.not_mem_nil⟩

theorem memChecks_qlds : MemChecks s (.qlds o) o []
    (decide (s.vctxNow.blk > 10) || (decide (s.vctxNow.vl > 0) && decide ((s.vctxNow.vl - 1) / 2 ^ s.vctxNow.blk > 511))) (qldsBytes o) true :=
  .of_issue hu (fun _ => rfl) <| (exec_qlds o s).trans <| by
    dsimp only [execQlds]
    rw [qldsCount_over]
    rfl

end

section
variable {m e : Memory} {a b j k n w : Nat}

/-! ### The register store: clearing, cutting out and pasting (R102, R111) -/

/-- A table whose entries are kept by a test on the key answers for the keys that pass. -/
theorem SMap.get_filter {α : Type} {d : α} (p : Nat → Bool) (m : SMap α) (k : Nat) :
    SMap.get d (m.filter fun c => p c.1) k = if p k then SMap.get d m k else d := by
  induction m with
  | nil => simp [SMap.get]
  | cons c m ih =>
    obtain ⟨i, v⟩ := c
    by_cases hi : i = k
    · subst hi
      cases hp : p i <;> simp [SMap.get, hp, ih]
    · cases hp : p i <;> simp [SMap.get, hp, ih, hi]

/-- A table from a bound, its keys lowered by that bound, answers as before at the keys lowered. -/
theorem SMap.get_lowered {α : Type} {d : α} {b : Nat} {m : SMap α} (hb : ∀ c ∈ m, b ≤ c.1) (k : Nat) :
    SMap.get d (m.map fun c => (c.1 - b, c.2)) k = SMap.get d m (b + k) := by
  induction m with
  | nil => rfl
  | cons c m ih =>
    have hc : b ≤ c.1 := hb c List.mem_cons_self
    simp only [List.map_cons, SMap.get, show c.1 - b = k ↔ c.1 = b + k by omega, ih fun c h => hb c (List.mem_cons_of_mem _ h)]

/-- Entries set at their keys raised by a base answer there; the others stay. -/
theorem SMap.get_foldl_set {α : Type} [DecidableEq α] {d : α} {b lo : Nat} {l m : SMap α} (hl : SMap.wfFrom d lo l = true) (hm : SMap.wf d m = true) (k : Nat) :
    SMap.get d (l.foldl (fun c p => SMap.set d c (b + p.1) p.2) m) (b + k) =
      if SMap.get d l k = d then SMap.get d m (b + k) else SMap.get d l k := by
  induction l generalizing m lo with
  | nil => simp [SMap.get]
  | cons p l ih =>
    obtain ⟨i, v⟩ := p
    simp only [SMap.wfFrom, Bool.and_eq_true, decide_eq_true_eq] at hl
    obtain ⟨⟨-, hv⟩, hl⟩ := hl
    rw [List.foldl_cons, ih hl (SMap.set_wf hm), SMap.get_set hm, SMap.get]
    by_cases hi : i = k
    · subst hi
      have : SMap.get d l i = d := SMap.get_below (Nat.lt_succ_self i) hl
      simp [this, hv]
    · simp [hi, Ne.symm hi]

theorem Memory.byte_clear (m : Memory) (k n a : Nat) : (m.clear k n).byte a = if k ≤ a ∧ a < k + n then 0 else m.byte a := by
  have := SMap.get_filter (d := (0 : Byte)) (fun a => !(decide (k ≤ a) && decide (a < k + n))) m.cells a
  unfold Memory.byte Memory.clear
  rw [this]
  by_cases h : k ≤ a ∧ a < k + n <;> simp [h]

theorem Memory.byte_cut (m : Memory) (b n a : Nat) : (m.cut b n).byte a = if a < n then m.byte (b + a) else 0 := by
  unfold Memory.byte Memory.cut
  rw [SMap.get_lowered fun c hc => by simpa using (List.of_mem_filter hc |> fun h => (by simpa using h : b ≤ c.1 ∧ _).1),
    SMap.get_filter (fun a => decide (b ≤ a) && decide (a < b + n))]
  simp

theorem Memory.byte_paste (hm : m.wf = true) (he : e.wf = true) (b a : Nat) :
    (m.paste b e).byte (b + a) = if e.byte a = 0 then m.byte (b + a) else e.byte a :=
  SMap.get_foldl_set (Memory.wf_iff.1 he).1 (Memory.wf_iff.1 hm).1 a

/-- Reading depends on the bytes read alone (R12). -/
theorem Memory.read_congr (h : ∀ i, i < n → m.byte (a + i) = e.byte (b + i)) : m.read a n = e.read b n := by
  unfold Memory.read
  unfold Memory.byte at h
  induction n generalizing a b with
  | zero => rfl
  | succ n ih =>
    simp only [cellsRead]
    rw [show SMap.get (0 : Byte) m.cells a = SMap.get (0 : Byte) e.cells b from h 0 (by omega),
      ih fun i hi => by have := h (i + 1) (by omega); rwa [Nat.add_comm i, ← Nat.add_assoc, ← Nat.add_assoc] at this]

theorem Memory.read_clear_other (hd : a + j ≤ k ∨ k + n ≤ a) : (m.clear k n).read a j = m.read a j :=
  Memory.read_congr fun i hi => by rw [Memory.byte_clear, if_neg (by omega)]

theorem Memory.read_cut (hj : a + j ≤ n) : (m.cut b n).read a j = m.read (b + a) j :=
  Memory.read_congr fun i hi => by rw [Memory.byte_cut, if_pos (by omega), Nat.add_assoc]

/-- A store pasted into a cleared stretch is read there (R111). -/
theorem Memory.read_clear_paste (hm : m.wf = true) (he : e.wf = true) (hj : a + j ≤ n) :
    ((m.clear b n).paste b e).read (b + a) j = e.read a j :=
  Memory.read_congr fun i hi => by
    have hin : b ≤ b + (a + i) ∧ b + (a + i) < b + n := by omega
    rw [Nat.add_assoc, Memory.byte_paste (Memory.clear_wf hm) he, Memory.byte_clear, if_pos hin, ite_eq_right_iff]
    exact Eq.symm

/-- No word of a stretch is poisoned that was cleared, on word boundaries, and filled from a store free of poison (R111, R353). -/
theorem Memory.poisoned_clear_paste (he : e.pois = []) (hb : b % 8 = 0) (hn : n % 8 = 0) (hj : a + j ≤ n) :
    ((m.clear b n).paste b e).poisoned (b + a) j = false := by
  have hword : ∀ x, b ≤ 8 * x → 8 * x + 8 ≤ b + n → SMap.get false ((m.clear b n).paste b e).pois x = false := by
    intro x hlo hhi
    have := SMap.get_filter (d := false) (fun a => !(decide (b ≤ 8 * a) && decide (8 * a + 8 ≤ b + n))) m.pois x
    simpa [Memory.paste, he, Memory.clear, hlo, hhi] using this
  have hany : ∀ c x, b ≤ 8 * x → 8 * (x + c) ≤ b + n → poisAny ((m.clear b n).paste b e).pois x c = false := by
    intro c
    induction c with
    | zero => exact fun _ _ _ => rfl
    | succ c ih => exact fun x hlo hhi => by rw [poisAny, hword x hlo (by omega), ih (x + 1) (by omega) (by omega)]; rfl
  unfold Memory.poisoned
  split
  · rfl
  · exact hany _ _ (by omega) (by omega)

/-- Clearing poisons nothing (R353). -/
theorem Memory.poisoned_clear (h : m.poisoned a j = false) : (m.clear k n).poisoned a j = false := by
  have hword : ∀ x, SMap.get false m.pois x = false → SMap.get false (m.clear k n).pois x = false := by
    intro x hx
    have := SMap.get_filter (d := false) (fun a => !(decide (k ≤ 8 * a) && decide (8 * a + 8 ≤ k + n))) m.pois x
    rw [hx, ite_self] at this
    exact this
  have hany : ∀ c x, poisAny m.pois x c = false → poisAny (m.clear k n).pois x c = false := by
    intro c
    induction c with
    | zero => exact fun _ _ => rfl
    | succ c ih =>
      intro x hx
      rw [poisAny, Bool.or_eq_false_iff] at hx ⊢
      exact ⟨hword x hx.1, ih (x + 1) hx.2⟩
  unfold Memory.poisoned at h ⊢
  split_ifs at h ⊢
  · rfl
  · exact hany _ _ h

end

section
variable {m : Memory} {x : VCtx} {d w : Nat} {act : Nat → Bool} {f : Nat → EOut}

/-! ### The elements of a group of one register (R102, R104, R122) -/

/-- A byte below the size of a register lies in the register itself (R102). -/
theorem vkey_of_lt {reg n b : Nat} (h : b < reg) : vkey reg n b = n * Config.regStride + b := by
  rw [vkey, Nat.div_eq_of_lt h, Nat.mod_eq_of_lt h, Nat.add_zero]

/-- A byte from an offset in the register on lies at that offset or behind it (R102). -/
theorem le_vkey {reg n lo b : Nat} (hpos : 0 < reg) (hreg : reg ≤ Config.regStride) (hlo : lo ≤ reg) (hb : lo ≤ b) :
    n * Config.regStride + lo ≤ vkey reg n b := by
  rcases Nat.lt_or_ge b reg with h | h
  · rw [vkey_of_lt h]
    omega
  · have hnext : (n + 1) * Config.regStride ≤ (n + b / reg) * Config.regStride :=
      Nat.mul_le_mul_right _ (Nat.add_le_add_left (Nat.div_pos h hpos) n)
    rw [Nat.add_mul, Nat.one_mul] at hnext
    unfold vkey
    omega

/-- What a clearing of a group from a byte on leaves: the bytes of its first register before that one (R102, R104). -/
theorem read_vclear_below {reg n lo hi k len : Nat} (hpos : 0 < reg) (hreg : reg ≤ Config.regStride) (hlo : lo ≤ reg) (hk : k + len ≤ lo) (j : Nat) :
    (vclear m reg n lo hi j).read (n * Config.regStride + k) len = m.read (n * Config.regStride + k) len := by
  induction j with
  | zero => rfl
  | succ j ih =>
    have hkey := le_vkey (n := n) hpos hreg hlo (Nat.le_max_left lo (j * reg))
    unfold vclear
    dsimp only
    split
    · rw [Memory.read_clear_other (by omega), ih]
    · exact ih

theorem VCtx.read_tailZero_below {n k len : Nat} (hpos : 0 < x.reg) (hreg : x.reg ≤ Config.regStride) {from_ : Nat} (hlo : from_ * w ≤ x.reg)
    (hk : k + len ≤ from_ * w) :
    (x.tailZero m n w from_).read (n * Config.regStride + k) len = m.read (n * Config.regStride + k) len := by
  unfold VCtx.tailZero
  split
  · exact read_vclear_below hpos hreg hlo hk 8
  · rfl

/-- The elements from `i` on of a group of one register hold what was written, those before as they were (R102, R122). -/
theorem read_writeElems (hw : 0 < w) (hact : ∀ k, act k = true) {n i k : Nat} {st : Word} (hm : m.wf = true) (hn : (i + n) * w ≤ x.reg) (hk : k < i + n) :
    (writeElems x d w act f n i (m, st)).1.read (d * Config.regStride + k * w) w =
      if i ≤ k then (f k).val % 256 ^ w else m.read (d * Config.regStride + k * w) w := by
  induction n generalizing i m st with
  | zero => rw [if_neg (by omega)]; rfl
  | succ n ih =>
    have hkey : vkey x.reg d (i * w) = d * Config.regStride + i * w := vkey_of_lt (lt_of_lt_of_le (Nat.mul_lt_mul_of_pos_right (by omega) hw) hn)
    unfold writeElems
    rw [hact, if_pos rfl]
    dsimp only
    rw [vset, ih (Memory.write_wf hm) (by rwa [Nat.add_right_comm]) (by omega), hkey]
    rcases Nat.lt_trichotomy k i with h | rfl | h
    · have hmul : (k + 1) * w ≤ i * w := Nat.mul_le_mul_right w h
      rw [Nat.add_mul, Nat.one_mul] at hmul
      rw [if_neg (by omega), if_neg (by omega), Memory.read_write_other hm (by omega)]
    · rw [if_neg (by omega), if_pos le_rfl, Memory.read_write hm]
    · rw [if_pos (Nat.succ_le_of_lt h), if_pos h.le]

/-- The register store after an element-wise instruction wrote every element below VL of the group at register `d`, from `m` (R104, R122). -/
def VCtx.wrote (x : VCtx) (d w : Nat) (act : Nat → Bool) (f : Nat → EOut) (m : Memory) : Memory :=
  x.tailZero (writeElems x d w act f x.vl 0 (m, 0)).1 d w x.vl

theorem VCtx.read_wrote (hw : 0 < w) (hact : ∀ k, act k = true) (hm : m.wf = true) (hpos : 0 < x.reg) (hreg : x.reg ≤ Config.regStride)
    (hvl : x.vl * w ≤ x.reg) {k : Nat} (hk : k < x.vl) :
    (x.wrote d w act f m).read (d * Config.regStride + k * w) w = (f k).val % 256 ^ w := by
  have hmul : (k + 1) * w ≤ x.vl * w := Nat.mul_le_mul_right w hk
  rw [Nat.add_mul, Nat.one_mul] at hmul
  unfold VCtx.wrote
  rw [VCtx.read_tailZero_below hpos hreg hvl hmul, read_writeElems hw hact hm (by rwa [Nat.zero_add]) (by omega), if_pos (Nat.zero_le k)]

end

section
variable {l : Lease} {tag n k : Nat} {es rest : List RingEntry} {e : RingEntry}

/-! ### The rings of a lease (R111) -/

theorem Lease.ring_setRing (hn : n < 4) (hk : k < 4) : (l.setRing n es).ring k = if k = n then es else l.ring k := by
  unfold Lease.setRing Lease.ring
  rw [Vector.getElem_set, Nat.mod_eq_of_lt hn]
  simp [Nat.mod_eq_of_lt hk, eq_comm]

/-- No entry is one that the instruction known by a tag has popped or opened (R111). -/
def Untagged (tag : Nat) (es : List RingEntry) : Prop := ∀ e ∈ es, e.reader ≠ some tag ∧ e.writer ≠ some tag

/-- The first byte of a place of the register store (R102). -/
def slotBase (slot : Nat) : Nat := slot * Config.regStride

/-- The register store with the bytes of an entry in a place of its own (R111). -/
def Memory.laid (m : Memory) (slot : Nat) (d : Memory) : Memory := (m.clear (slotBase slot) Config.regStride).paste (slotBase slot) d

/-- The entry that an instruction fills (R111). -/
def freshEntry (tag : Nat) : RingEntry := { data := Memory.empty, reader := .none, writer := some tag }

/-- An open entry takes what stands in its place of the register store (R111). -/
def RingEntry.filled (tag n : Nat) (m : Memory) (e : RingEntry) : RingEntry :=
  if e.writer = some tag then { e with data := m.cut (slotBase (36 + n)) Config.regStride } else e

/-- The entries that stay when an instruction completes, each free for the next (R111). -/
def closeEntries (tag : Nat) (es : List RingEntry) : List RingEntry :=
  (es.filter fun e => e.reader ≠ some tag).map fun e => if e.writer = some tag then { e with writer := .none } else e

/-- The entry that an instruction has pushed (R111). -/
def pushedEntry (n : Nat) (m : Memory) : RingEntry := { data := m.cut (slotBase (36 + n)) Config.regStride, reader := .none, writer := .none }

theorem Lease.ring_closeRings (k : Nat) : (l.closeRings tag).ring k = closeEntries tag (l.ring k) := Vector.getElem_map _ _

theorem closeEntries_append (tag : Nat) (es rest : List RingEntry) :
    closeEntries tag (es ++ rest) = closeEntries tag es ++ closeEntries tag rest := by
  simp [closeEntries]

theorem Untagged.close (h : Untagged tag es) : closeEntries tag es = es := by
  unfold closeEntries
  rw [List.filter_eq_self.2 fun e he => decide_eq_true (h e he).1]
  exact (List.map_congr_left fun e he => if_neg (h e he).2).trans (List.map_id' es)

theorem Untagged.filled (h : Untagged tag es) (m : Memory) : es.map (RingEntry.filled tag n m) = es :=
  (List.map_congr_left fun e he => if_neg (h e he).2).trans (List.map_id' es)

theorem Untagged.find_writer (h : Untagged tag es) : es.find? (fun e => e.writer == some tag) = .none :=
  List.find?_eq_none.2 fun e he => by simpa using (h e he).2

/-- An entry opened and filled joins the ring when its instruction completes (R111). -/
theorem closeEntries_filled_fresh (m : Memory) : closeEntries tag ([freshEntry tag].map (RingEntry.filled tag n m)) = [pushedEntry n m] := by
  simp [closeEntries, RingEntry.filled, freshEntry, pushedEntry]

/-- An entry popped is gone when its instruction completes (R111). -/
theorem closeEntries_popped (e : RingEntry) (es : List RingEntry) : closeEntries tag ({ e with reader := some tag } :: es) = closeEntries tag es := by
  simp [closeEntries]

theorem Lease.showEntry_eq {slot j : Nat} {p : RingEntry → Bool} (h : (l.ring j).find? p = some e) :
    l.showEntry slot j p = { l with vmem := l.vmem.laid slot e.data } := by
  unfold Lease.showEntry
  rw [h]
  rfl

/-- The lease in which an instruction works, its ring entries popped and opened and laid into the register store (R111). -/
def Lease.shown (l : Lease) (tag : Nat) (pops push : List Nat) : Lease :=
  (push.foldl (Lease.openRing tag) (pops.foldl (Lease.popRing tag) l)).showRings tag pops push

/-- The lease after an instruction whose work on the register store is `f`: what it filled has gone back into its entries, and it is
complete (R111). -/
def Lease.ran (l : Lease) (tag : Nat) (pops push : List Nat) (f : Memory → Memory) : Lease :=
  let t := l.shown tag pops push
  ({ t with vmem := f t.vmem }.hideRings tag pops push).closeRings tag

theorem Lease.foldl_lanes {f : Lease → Nat → Lease} (hf : ∀ l j, (f l j).lanes = l.lanes) (js : List Nat) (l : Lease) :
    (js.foldl f l).lanes = l.lanes := by
  induction js generalizing l with
  | nil => rfl
  | cons j js ih => exact (ih _).trans (hf l j)

theorem Lease.shown_lanes (l : Lease) (tag : Nat) (pops push : List Nat) : (l.shown tag pops push).lanes = l.lanes := by
  have hshow : ∀ slot p (l : Lease) j, (l.showEntry (slot + j) j p).lanes = l.lanes := fun slot p l j => by
    unfold Lease.showEntry
    split <;> rfl
  have hopen : ∀ l j, (Lease.openRing tag l j).lanes = l.lanes := fun _ _ => rfl
  have hpop : ∀ l j, (Lease.popRing tag l j).lanes = l.lanes := fun _ _ => rfl
  unfold Lease.shown Lease.showRings
  rw [Lease.foldl_lanes (hshow 36 _), Lease.foldl_lanes (hshow 28 _), Lease.foldl_lanes hopen, Lease.foldl_lanes hpop]

/-- What an instruction has filled goes back into its entries, and those alone of its ring stay that it has not popped (R111). -/
theorem Lease.ring_hidden (pops : List Nat) (m : Memory) (hn : n < 4) (hk : k < 4) :
    (({ l with vmem := m }.hideRings tag pops [n]).closeRings tag).ring k =
      closeEntries tag (if k = n then (l.ring n).map (RingEntry.filled tag n m) else l.ring k) := by
  have hpops : ∀ (ps : List Nat) (t : Lease),
      (ps.foldl (fun t j => { t with vmem := t.vmem.clear ((28 + j) * Config.regStride) Config.regStride }) t).ring = t.ring := by
    intro ps
    induction ps with
    | nil => exact fun _ => rfl
    | cons j ps ih => exact fun t => ih _
  rw [Lease.ring_closeRings, ← Lease.ring_setRing hn hk]
  exact congrArg (closeEntries tag) (congrFun (hpops ..) k)

theorem Lease.ring_openRing (hn : n < 4) (hk : k < 4) : (l.openRing tag n).ring k = if k = n then l.ring n ++ [freshEntry tag] else l.ring k :=
  Lease.ring_setRing hn hk

theorem Lease.ring_popRing (hn : n < 4) (hk : k < 4) (hring : l.ring n = e :: rest) (hr : e.reader = .none) :
    (l.popRing tag n).ring k = if k = n then { e with reader := some tag } :: rest else l.ring k := by
  rw [Lease.popRing, Lease.ring_setRing hn hk, hring, takeFirst, hr]
  rfl

theorem Lease.ring_popRing_openRing (hn : n < 4) (hk : k < 4) (hring : l.ring n = e :: rest) (hr : e.reader = .none) :
    ((l.popRing tag n).openRing tag n).ring k =
      if k = n then { e with reader := some tag } :: rest ++ [freshEntry tag] else l.ring k := by
  rw [Lease.ring_openRing hn hk, Lease.ring_popRing hn hk hring hr, Lease.ring_popRing hn hn hring hr, if_pos rfl]
  split <;> rfl

theorem find_fresh (hu : Untagged tag es) : (es ++ [freshEntry tag]).find? (fun e => e.writer == some tag) = some (freshEntry tag) := by
  rw [List.find?_append, hu.find_writer]
  simp [freshEntry]

theorem Lease.shown_push (hn : n < 4) (hu : Untagged tag (l.ring n)) :
    l.shown tag [] [n] = { l.openRing tag n with vmem := l.vmem.laid (36 + n) Memory.empty } :=
  Lease.showEntry_eq (e := freshEntry tag) <| (congrArg _ (Lease.ring_openRing (l := l) hn hn)).trans <| by rw [if_pos rfl, find_fresh hu]

theorem Lease.shown_pop (hn : n < 4) (hring : l.ring n = e :: rest) (hr : e.reader = .none) :
    l.shown tag [n] [] = { l.popRing tag n with vmem := l.vmem.laid (28 + n) e.data } :=
  Lease.showEntry_eq (e := { e with reader := some tag }) <| (congrArg _ (Lease.ring_popRing hn hn hring hr)).trans <| by rw [if_pos rfl]; simp

/-- An entry popped and one opened beside it stand in places of their own (R111). -/
theorem Lease.shown_both (hn : n < 4) (hu : Untagged tag (l.ring n)) (hring : l.ring n = e :: rest) (hr : e.reader = .none) :
    l.shown tag [n] [n] =
      { (l.popRing tag n).openRing tag n with vmem := (l.vmem.laid (28 + n) e.data).laid (36 + n) Memory.empty } := by
  have hopen := Lease.ring_popRing_openRing (tag := tag) hn hn hring hr
  rw [if_pos rfl] at hopen
  have hpop : ((l.popRing tag n).openRing tag n).showEntry (28 + n) n (fun e => e.reader == some tag)
      = { (l.popRing tag n).openRing tag n with vmem := l.vmem.laid (28 + n) e.data } :=
    Lease.showEntry_eq (e := { e with reader := some tag }) (by rw [hopen]; simp)
  have hrest : Untagged tag rest := fun e he => hu e (hring ▸ List.mem_cons_of_mem _ he)
  have he : e.writer ≠ some tag := (hu e (hring ▸ List.mem_cons_self)).2
  unfold Lease.shown Lease.showRings
  simp only [List.foldl_cons, List.foldl_nil, hpop]
  refine Lease.showEntry_eq (e := freshEntry tag) ((congrArg _ hopen).trans ?_)
  rw [List.cons_append, List.find?_cons_of_neg (by simpa using he), find_fresh hrest]

/-- Naming a ring as a destination pushes one entry (R111). -/
theorem Lease.ring_ran_push (hn : n < 4) (hu : ∀ k, k < 4 → Untagged tag (l.ring k)) (f : Memory → Memory) (hk : k < 4) :
    (l.ran tag [] [n] f).ring k = if k = n then l.ring n ++ [pushedEntry n (f (l.vmem.laid (36 + n) Memory.empty))] else l.ring k := by
  unfold Lease.ran
  rw [Lease.shown_push hn (hu n hn), Lease.ring_hidden (l := l.openRing tag n) [] _ hn hk, Lease.ring_openRing hn hk, Lease.ring_openRing hn hn,
    if_pos rfl]
  split
  · rw [List.map_append, (hu n hn).filled, closeEntries_append, (hu n hn).close, closeEntries_filled_fresh]
  · exact (hu k hk).close

/-- Naming a ring as a source pops its oldest entry, which stands in the register store meanwhile (R111). -/
theorem Lease.ran_pop (hn : n < 4) (hu : ∀ k, k < 4 → Untagged tag (l.ring k)) (f : Memory → Memory) (hring : l.ring n = e :: rest)
    (hr : e.reader = .none) :
    (∀ k, k < 4 → (l.ran tag [n] [] f).ring k = if k = n then rest else l.ring k)
    ∧ (l.ran tag [n] [] f).vmem = (f (l.vmem.laid (28 + n) e.data)).clear (slotBase (28 + n)) Config.regStride
    ∧ (l.ran tag [n] [] f).held = l.held ∧ (l.ran tag [n] [] f).lanes = l.lanes := by
  unfold Lease.ran
  rw [Lease.shown_pop hn hring hr]
  refine ⟨fun k hk => ?_, rfl, rfl, rfl⟩
  refine (Lease.ring_closeRings k).trans ((congrArg (closeEntries tag) (Lease.ring_popRing hn hk hring hr)).trans ?_)
  split
  · have hrest : Untagged tag rest := fun e he => hu n hn e (hring ▸ List.mem_cons_of_mem _ he)
    rw [closeEntries_popped, hrest.close]
  · exact (hu k hk).close

/-- An instruction that names a ring both ways pops before it pushes (R111). -/
theorem Lease.ring_ran_both (hn : n < 4) (hu : ∀ k, k < 4 → Untagged tag (l.ring k)) (f : Memory → Memory) (hring : l.ring n = e :: rest)
    (hr : e.reader = .none) (hk : k < 4) :
    (l.ran tag [n] [n] f).ring k =
      if k = n then rest ++ [pushedEntry n (f ((l.vmem.laid (28 + n) e.data).laid (36 + n) Memory.empty))] else l.ring k := by
  have hrest : Untagged tag rest := fun e he => hu n hn e (hring ▸ List.mem_cons_of_mem _ he)
  have he : e.writer ≠ some tag := (hu n hn e (hring ▸ List.mem_cons_self)).2
  unfold Lease.ran
  rw [Lease.shown_both hn (hu n hn) hring hr, Lease.ring_hidden (l := (l.popRing tag n).openRing tag n) [n] _ hn hk,
    Lease.ring_popRing_openRing hn hk hring hr, Lease.ring_popRing_openRing hn hn hring hr, if_pos rfl]
  split
  · have hfilled : ∀ m, RingEntry.filled tag n m { e with reader := some tag } = { e with reader := some tag } := fun _ => if_neg he
    rw [List.cons_append, List.map_cons, hfilled, closeEntries_popped, List.map_append, hrest.filled, closeEntries_append, hrest.close,
      closeEntries_filled_fresh]
  · exact (hu k hk).close

end

section
variable {s p t : State} {l : Lease} {i : Instr} {e : QEntry} {len : Nat} {xa xb : Word} {head : QEntry → State → HeadRes}

/-! ### An instruction with nothing before it (R107) -/

/-- The vector side takes an instruction up as it issues: the schedule is eager, the queue empty and not frozen, no stream owes a mask, no
FENCE.VV has gone before and no mask is poisoned (logs 4 and 5). -/
structure State.AtOnce (s : State) : Prop where
  eager : s.eager = true
  queue : s.hart.queue = []
  unfrozen : s.hart.frozen = false
  owed : ∀ sl ∈ s.hart.slots.toList, sl.pendingMask = 0
  unfenced : s.hart.vvFence = none
  clean : s.hart.maskPois = []

theorem State.AtOnce.issue (h : s.AtOnce) : s.issue i len none xa xb head = .next ((s.placed i len xa xb).runFront head) := by
  have hdepth : ¬ s.hart.queue.length ≥ Config.queueDepth := by simp [h.queue, Config.queueDepth]
  have hplaced : s.placed i len xa xb = (let t := s.went (s.hart.pc + wordOf len)
      { t with hart := { t.hart with queue := t.hart.queue ++ [s.entryOf i xa xb], vvFence := none } }) := by
    simp only [State.placed, State.went, h.queue, List.nil_append, ← h.unfenced]
  have hnow : (true && s.eager && s.hart.queue.isEmpty && !s.hart.frozen) = true := by simp [h.eager, h.queue, h.unfrozen]
  unfold State.issue State.issueNow
  rw [hplaced, ← State.advance_eq_went]
  simp only [if_neg hdepth, if_pos hnow]

/-- The front entry of its queue stands alone there and nothing keeps it from its work. -/
theorem State.AtOnce.runFront (h : s.AtOnce) : (s.placed i len xa xb).runFront head =
    match head (s.entryOf i xa xb) (s.placed i len xa xb) with
    | .done t => t.popFront
    | .trap t ti => t.takeTrap ti t.hart.pc
    | .wait t => t := by
  have howed : (s.placed i len xa xb).hart.maskOwed (s.entryOf i xa xb) = false := by
    unfold Hart.maskOwed
    rw [List.any_eq_false.2 fun sl hsl => by simp [h.owed sl hsl], Bool.and_false]
  have hfence : (s.placed i len xa xb).behindFence (s.entryOf i xa xb) = some (s.placed i len xa xb) := by
    unfold State.behindFence
    rw [show (s.entryOf i xa xb).fenced = none from h.unfenced]
  have hpois : (s.placed i len xa xb).hart.maskPois.isEmpty = true := List.isEmpty_iff.2 h.clean
  have hhead : (s.placed i len xa xb).headRes (s.entryOf i xa xb) head = head (s.entryOf i xa xb) (s.placed i len xa xb) := by
    unfold State.headRes State.overMasks Hart.maskBad
    rw [if_pos hpois]
    exact ite_self _
  have hheal : ∀ t : State, t.healMask (s.entryOf i xa xb) (s.placed i len xa xb).hart.maskPois = t := fun t => if_pos hpois
  unfold State.runFront State.runFrontWith
  simp only [show (s.placed i len xa xb).hart.queue = [s.entryOf i xa xb] from rfl, howed, hfence, Bool.false_eq_true, if_false]
  rw [show (s.placed i len xa xb).withMlen (s.entryOf i xa xb) = s.placed i len xa xb from rfl, hhead]
  cases head (s.entryOf i xa xb) (s.placed i len xa xb) with
  | done t => exact congrArg State.popFront (hheal _)
  | trap t ti => rfl
  | wait t => rfl

theorem State.AtOnce.issue_wait (h : s.AtOnce) (hh : head (s.entryOf i xa xb) (s.placed i len xa xb) = .wait (s.placed i len xa xb)) :
    s.issue i len none xa xb head = .next (s.placed i len xa xb) := by
  rw [h.issue, h.runFront, hh]

theorem State.AtOnce.issue_done (h : s.AtOnce) (hh : head (s.entryOf i xa xb) (s.placed i len xa xb) = .done t) :
    s.issue i len none xa xb head = .next t.popFront := by
  rw [h.issue, h.runFront, hh]

/-! ### What the work on a lease leaves (R90, R109) -/

/-- `t` is `s` but for the lease that its hart uses, which is `l`, the front of its queue, and what the instruction there raises or clears of
VSTAT and ESTART. -/
structure State.Holds (s t : State) (l : Lease) : Prop where
  lease : t.lease = l
  harts : SMap.wf Hart.reset t.harts = true
  cur : t.cur = s.cur
  mem : t.mem = s.mem
  owner : t.hart.owner = s.hart.owner
  mode : t.hart.mode = s.hart.mode
  vclaimed : t.hart.vclaimed = s.hart.vclaimed
  pc : t.hart.pc = s.hart.pc
  x : t.hart.x = s.hart.x
  behind : t.hart.queue.tail = s.hart.queue.tail

theorem State.Holds.refl (h : SMap.wf Hart.reset s.harts = true) : s.Holds s s.lease := ⟨rfl, h, rfl, rfl, rfl, rfl, rfl, rfl, rfl, rfl⟩

theorem State.lease_setLease (h : SMap.wf Hart.reset s.harts = true) (l : Lease) : (s.setLease l).lease = l := by
  unfold State.setLease
  split
  · rename_i ho
    exact if_pos ho
  · rename_i ho
    unfold State.setHart State.lease State.getHart
    rw [if_neg ho]
    simp only [if_neg ho]
    rw [SMap.get_set h, if_pos rfl]

theorem State.Holds.setLease (h : s.Holds t l) (l' : Lease) : s.Holds (t.setLease l') l' := by
  have hlease := State.lease_setLease h.harts l'
  unfold State.setLease State.setHart at hlease ⊢
  split_ifs at hlease ⊢
  · exact { h with lease := hlease }
  · exact { h with lease := hlease, harts := SMap.set_wf h.harts }

theorem State.Holds.setVmem (h : s.Holds t l) (m : Memory) : s.Holds (t.setVmem m) { l with vmem := m } := by
  unfold State.setVmem
  rw [h.lease]
  exact h.setLease _

theorem State.lease_congr (hl : t.hart.lease = s.hart.lease) (ho : t.hart.owner = s.hart.owner) (hc : t.cur = s.cur) (hh : t.harts = s.harts) :
    t.lease = s.lease := by
  unfold State.lease State.getHart
  rw [ho, hc, hh, hl]
  split_ifs <;> rfl

theorem State.Holds.setFront (h : s.Holds t l) (e : QEntry) : s.Holds (t.setFront e) l :=
  { h with lease := (State.lease_congr (s := t) (t := t.setFront e) rfl rfl rfl rfl).trans h.lease }

theorem State.Holds.orVstat (h : s.Holds t l) (v : Word) : s.Holds (t.orVstat v) l :=
  { h with lease := (State.lease_congr (s := t) (t := t.orVstat v) rfl rfl rfl rfl).trans h.lease }

theorem State.Holds.noEstart (h : s.Holds t l) : s.Holds t.noEstart l :=
  { h with lease := (State.lease_congr (s := t) (t := t.noEstart) rfl rfl rfl rfl).trans h.lease }

theorem State.Holds.ringTag (h : s.Holds t l) : t.ringTag = s.ringTag := by
  unfold State.ringTag
  rw [h.cur, h.vclaimed]

theorem State.Holds.vctx (h : s.Holds t l) (hl : l.lanes = s.lease.lanes) (e : QEntry) : t.vctx e = s.vctx e := by
  unfold State.vctx State.vctxOf
  rw [h.lease, hl, h.mode]

/-- An element-wise instruction over elements free of poison leaves what the register store then is (R122). -/
theorem State.Holds.elementwise (h : s.Holds t l) {vd : Reg} {wb mask : Nat} {srcs : List (Nat × Nat)} {f : Memory → Nat → EOut} {x : VCtx}
    (hx : t.vctx e = x) (hp : e.p = 0) (hmask : mask = 0) (hsrcs : ∀ r ∈ srcs, ∀ k, k < x.vl → vpoisoned l.vmem x.reg r.1 r.2 k = false) :
    ∃ u, t.elementwise e vd wb mask srcs f = .done u
      ∧ s.Holds u { l with vmem := x.wrote (x.dreg vd) wb (fun _ => true) (f l.vmem) l.vmem } := by
  have hmem : t.vmem = l.vmem := congrArg Lease.vmem h.lease
  have hact : t.hart.maskBit mask = fun _ => true := by
    subst hmask
    rfl
  have hnone : firstIdx (fun i => t.hart.maskBit mask i && srcs.any fun r => vpoisoned t.vmem (t.vctx e).reg r.1 r.2 i)
      ((t.vctx e).vl - e.p) e.p = none := by
    rw [hx, hp, hmem]
    refine firstIdx_none _ _ fun k hk => ?_
    rw [List.any_eq_false.2 fun r hr => by simpa using hsrcs r hr (0 + k) (by omega), Bool.and_false]
  refine ⟨_, State.elementwise_done hnone, ?_⟩
  rw [hx, hp, hmem, hact]
  exact ((h.setVmem _).orVstat _).noEstart

/-! ### An instruction that names rings (R111) -/

theorem State.withRings_stalls {srcs : List Reg} {dst : Option Reg} {body : QEntry → State → HeadRes} (hm : t.hart.mode = .pipeline)
    (he : e.ringed = false) (hname : ((ringsOf srcs).isEmpty && (ringsOf dst.toList).isEmpty) = false)
    (hstall : t.lease.ringStalls (ringsOf srcs) (ringsOf dst.toList) = true) : t.withRings e srcs dst body = .wait t := by
  unfold State.withRings State.withRingsAll
  simp only [hm, ne_eq, not_true_eq_false, if_false, he, hname, hstall, Bool.false_eq_true, if_true]

/-- Where the work of an instruction that holds its ring entries completes, so does the instruction (R111). -/
theorem State.Holds.inRings (h : s.Holds t l) {pops push : List Nat} {body : QEntry → State → HeadRes} {l' : Lease}
    (hbody : ∃ u, body e (t.setLease (l.showRings s.ringTag pops push)) = .done u ∧ s.Holds u l') :
    ∃ u, t.inRings e pops push body = .done u ∧ s.Holds u ((l'.hideRings s.ringTag pops push).closeRings s.ringTag) := by
  obtain ⟨u, hu, hran⟩ := hbody
  refine ⟨_, ?_, hran.setLease _⟩
  unfold State.inRings
  rw [h.lease, h.ringTag]
  dsimp only
  rw [hu, ← hran.lease]

/-- An element-wise instruction that does not wait at its rings completes over the entries it names, which are free of poison (R111, R122). -/
theorem State.withRings_runs {srcs : List Reg} {vd : Reg} {body : QEntry → State → HeadRes} {pops push : List Nat} {wb mask : Nat}
    {reads : List (Nat × Nat)} {f : Memory → Nat → EOut} {x : VCtx} (hh : SMap.wf Hart.reset t.harts = true) (hm : t.hart.mode = .pipeline)
    (he : e.ringed = false) (hp : e.p = 0) (hmask : mask = 0) (hpops : ringsOf srcs = pops) (hpush : ringsOf [vd] = push)
    (hname : (pops.isEmpty && push.isEmpty) = false) (hgo : t.lease.ringStalls pops push = false) (hx : t.vctx e = x)
    (hbody : ∀ u, u.vctx { e with ringed := true } = x →
      body { e with ringed := true } u = u.elementwise { e with ringed := true } vd wb mask reads f)
    (hreads : ∀ r ∈ reads, ∀ k, k < x.vl → vpoisoned (t.lease.shown t.ringTag pops push).vmem x.reg r.1 r.2 k = false) :
    ∃ u, t.withRings e srcs (some vd) body = .done u
      ∧ t.Holds u (t.lease.ran t.ringTag pops push fun m => x.wrote (x.dreg vd) wb (fun _ => true) (f m) m) := by
  subst hpops hpush
  have hopen := ((State.Holds.refl hh).setLease ((ringsOf [vd]).foldl (Lease.openRing t.ringTag) ((ringsOf srcs).foldl (Lease.popRing t.ringTag) t.lease))).setFront
    { e with ringed := true }
  have hshow := hopen.setLease (t.lease.shown t.ringTag (ringsOf srcs) (ringsOf [vd]))
  have hvctx := (hshow.vctx (Lease.shown_lanes ..) { e with ringed := true }).trans hx
  obtain ⟨u, hu, hran⟩ := hshow.elementwise (vd := vd) (wb := wb) (f := f) hvctx hp hmask hreads
  unfold State.withRings State.withRingsAll
  simp only [hm, ne_eq, not_true_eq_false, if_false, he, hname, hgo, Bool.false_eq_true, Option.toList]
  exact hopen.inRings ⟨u, (hbody _ hvctx).trans hu, hran⟩

end

section
variable {s u : State} {l : Lease} {i : Instr} {o : VOp} {n k w : Nat} {xa : Word} {x : VCtx} {ops : List VReg} {bad : Bool}

/-! ### The rings that a list of registers names (R109, R111) -/

theorem ringsOf_of_ring {rs : List Reg} (hn : n < 4) (hne : rs ≠ []) (h : ∀ r ∈ rs, r.toNat = 28 + n) : ringsOf rs = [n] := by
  have hany : ∀ j, (rs.any fun r => decide (r.toNat = 28 + j)) = decide (j = n) := by
    intro j
    obtain ⟨r, hr⟩ := List.exists_mem_of_ne_nil rs hne
    rw [Bool.eq_iff_iff, List.any_eq_true, decide_eq_true_iff]
    constructor
    · rintro ⟨q, hq, hj⟩
      have := h q hq
      have := of_decide_eq_true hj
      omega
    · rintro rfl
      exact ⟨r, hr, decide_eq_true (h r hr)⟩
  unfold ringsOf
  simp only [hany]
  interval_cases n <;> rfl

theorem ringsOf_one {r : Reg} (hn : n < 4) (hr : r.toNat = 28 + n) : ringsOf [r] = [n] :=
  ringsOf_of_ring hn (by simp) fun _ hq => List.mem_singleton.1 hq ▸ hr

theorem ringsOf_of_plain {rs : List Reg} (h : ∀ r ∈ rs, r.toNat < 28) : ringsOf rs = [] :=
  List.filter_eq_nil_iff.2 fun j _ => by
    rw [Bool.not_eq_true]
    exact List.any_eq_false.2 fun r hr => by simpa using (by have := h r hr; omega : r.toNat ≠ 28 + j)

theorem ringsOf_below {r : Reg} (hr : r.toNat < 28) : ringsOf [r] = [] := ringsOf_of_plain fun _ hq => List.mem_singleton.1 hq ▸ hr

/-! ### A configuration whose groups are single registers (R101, R110) -/

/-- The elements of `w` bytes below VL lie in one register (R100, R102). -/
structure VCtx.Single (x : VCtx) (w : Nat) : Prop where
  width : 0 < w
  room : 0 < x.reg
  stride : x.reg ≤ Config.regStride
  fits : x.vl * w ≤ x.reg

/-- Element `k` lies in the register. -/
theorem VCtx.Single.within (h : x.Single w) (hk : k < x.vl) : k * w + w ≤ x.reg := by
  have : (k + 1) * w ≤ x.vl * w := Nat.mul_le_mul_right w hk
  rw [Nat.add_mul, Nat.one_mul] at this
  exact this.trans h.fits

theorem VCtx.Single.vkey_elem (h : x.Single w) (hk : k < x.vl) (r : Nat) : vkey x.reg r (k * w) = slotBase r + k * w :=
  vkey_of_lt (by have := h.within hk; have := h.width; omega)

theorem VCtx.Single.read_wrote (h : x.Single w) (d : Nat) (f : Nat → EOut) {m : Memory} (hm : m.wf = true) (hk : k < x.vl) :
    (x.wrote d w (fun _ => true) f m).read (slotBase d + k * w) w = (f k).val % 2 ^ (8 * w) := by
  rw [slotBase, VCtx.read_wrote h.width (fun _ => rfl) hm h.room h.stride h.fits hk, Nat.pow_mul]

/-- The elements of the entry pushed are those written beside the popped one (R111). -/
theorem VCtx.Single.read_pushed (h : x.Single w) (f : Nat → EOut) {m : Memory} (hm : m.wf = true) (hk : k < x.vl) :
    (pushedEntry n (x.wrote (36 + n) w (fun _ => true) f m)).data.read (k * w) w = (f k).val % 2 ^ (8 * w) := by
  rw [pushedEntry, Memory.read_cut ((h.within hk).trans h.stride), h.read_wrote _ f hm hk]

/-- The elements of a popped entry are those of its bytes (R111). -/
theorem VCtx.Single.velem_laid (h : x.Single w) {m d : Memory} (hm : m.wf = true) (hd : d.wf = true) (hk : k < x.vl) (r : Nat) :
    velem (m.laid r d) x.reg r w k = d.read (k * w) w := by
  rw [velem, h.vkey_elem hk]
  exact Memory.read_clear_paste hm hd ((h.within hk).trans h.stride)

theorem Memory.laid_wf {m d : Memory} (r : Nat) (h : m.wf = true) : (m.laid r d).wf = true := Memory.paste_wf (Memory.clear_wf h)

theorem slotBase_mod (r : Nat) : slotBase r % 8 = 0 := by
  unfold slotBase Config.regStride
  omega

theorem VCtx.Single.vpoisoned_laid (h : x.Single w) {m d : Memory} (hd : d.pois = []) (hk : k < x.vl) (r : Nat) :
    vpoisoned (m.laid r d) x.reg r w k = false := by
  rw [vpoisoned, h.vkey_elem hk]
  exact Memory.poisoned_clear_paste hd (slotBase_mod r) rfl ((h.within hk).trans h.stride)

/-- An entry opened in a place of its own leaves the elements of another place, and their freedom from poison (R111). -/
theorem VCtx.Single.velem_opened (h : x.Single w) (m : Memory) (hk : k < x.vl) {r q : Nat} (hr : r < q) :
    velem (m.laid q Memory.empty) x.reg r w k = velem m x.reg r w k := by
  have hin := (h.within hk).trans h.stride
  have hnext : (r + 1) * Config.regStride ≤ q * Config.regStride := Nat.mul_le_mul_right _ hr
  rw [Nat.add_mul, Nat.one_mul] at hnext
  unfold velem
  rw [h.vkey_elem hk]
  exact Memory.read_clear_other (.inl (by unfold slotBase; omega))

theorem vpoisoned_opened {m : Memory} {reg r wb i : Nat} (q : Nat) (h : vpoisoned m reg r wb i = false) :
    vpoisoned (m.laid q Memory.empty) reg r wb i = false := Memory.poisoned_clear h

theorem State.vecCheck_none (h : s.vecCheck ops bad = none) : s.Legal ops bad ∧ s.vctxNow.c ≠ 0 ∧ s.InRole ops := by
  classical
  rw [State.vecCheck_eq] at h
  unfold bitsTrap at h
  split_ifs at h with hlegal hc hrole
  exact ⟨hlegal, hc, hrole⟩

/-- An operand that names a ring, where the checks pass, has a group of one register (R110). -/
theorem State.group_of_ring (h : s.vecCheck ops bad = none) (hm : s.hart.mode = .pipeline) {v : VReg} (hv : v ∈ ops) (hr : 28 ≤ v.1.toNat) :
    2 ^ (3 + s.vctxNow.sew) = s.vctxNow.grp * v.2 := by
  obtain ⟨⟨-, -, hgroups, -⟩, -, hrole⟩ := State.vecCheck_none h
  obtain ⟨g, hg, -, -⟩ := (VCtx.groupOk_iff v).1 (hgroups v hv)
  have hone := (VCtx.roleOk_iff (hgroups v hv) _).1 (hrole hm v hv) g hg
  rw [if_pos hr] at hone
  rw [← hg, hone, Nat.one_mul]

/-- VL elements of a width whose groups are single registers fit in one (R100). -/
theorem VCtx.vl_mul_le (hsew : x.sew < 4) (hvl : x.vl ≤ x.vlmax) (hgroup : 2 ^ (3 + x.sew) = x.grp * (8 * w)) (hw : 0 < w) : x.vl * w ≤ x.reg := by
  have hgrp : 2 ^ x.sew = x.grp * w := by
    rw [Nat.pow_add, Nat.mul_left_comm] at hgroup
    omega
  have hpos : 0 < x.grp := Nat.pos_of_mul_pos_right (hgrp ▸ Nat.two_pow_pos x.sew)
  rw [VCtx.vlmax, vlmax_eq hsew, hgrp, Nat.mul_div_mul_left _ _ hpos] at hvl
  exact (Nat.le_div_iff_mul_le hw).1 hvl

/-! ### A hart in pipeline mode with nothing before its instruction (R109 to R112) -/

/-- The vector side takes an instruction up as it issues, in pipeline mode, over a lease laid out for the at most 16 clusters it holds, no ring
entry of which is in use. -/
structure State.Piped (s : State) : Prop extends s.AtOnce where
  mode : s.hart.mode = .pipeline
  laidOut : s.lease.lanes = s.lease.held
  few : s.lease.held ≤ 16
  harts : SMap.wf Hart.reset s.harts = true
  store : s.lease.vmem.wf = true
  unused : ∀ k, k < 4 → Untagged s.ringTag (s.lease.ring k)

theorem State.Piped.clusters (h : s.Piped) : s.clusters = s.lease.lanes := by
  unfold State.clusters
  rw [h.laidOut, ite_self]

theorem State.Piped.pipe (h : s.Piped) : s.vctxNow.pipe = true := beq_iff_eq.2 h.mode

theorem State.Piped.reg (h : s.Piped) : s.vctxNow.reg = 4096 * s.vctxNow.c := by
  show regBytes s.vctxNow.pipe _ = _
  rw [h.pipe]
  rfl

theorem State.Piped.single (h : s.Piped) (hc : s.vecCheck ops bad = none) {r : Reg} (hv : (r, 8 * w) ∈ ops) (hr : 28 ≤ r.toNat) (hw : 0 < w) :
    s.vctxNow.Single w := by
  obtain ⟨⟨hsew, hvl, -, -⟩, hlease, -⟩ := State.vecCheck_none hc
  have hfew : s.vctxNow.c ≤ 16 := by
    show s.clusters ≤ 16
    rw [h.clusters, h.laidOut]
    exact h.few
  have hreg := h.reg
  refine ⟨hw, by omega, by unfold Config.regStride; omega, ?_⟩
  exact VCtx.vl_mul_le hsew (hvl.resolve_right hlease) (State.group_of_ring hc h.mode hv hr) hw

theorem State.Piped.placed_vctx (h : s.Piped) : (s.placed i 4 xa 0).vctx (s.entryOf i xa 0) = s.vctxNow := by
  unfold State.vctx State.vctxNow State.vctxOf
  rw [State.placed_lease, h.clusters]
  rfl

/-- The entry of an instruction that holds its ring entries (R111). -/
def State.ringedEntry (s : State) (i : Instr) (xa : Word) : QEntry := { s.entryOf i xa 0 with ringed := true }

/-- An element-wise instruction that does not wait at its rings completes at its issue. -/
theorem State.Piped.issue_runs (h : s.Piped) {head : QEntry → State → HeadRes} {srcs : List Reg} {vd : Reg} {body : QEntry → State → HeadRes}
    {pops push : List Nat} {mask : Nat} {reads : List (Nat × Nat)} {f : Memory → Nat → EOut}
    (hhead : head (s.entryOf i xa 0) (s.placed i 4 xa 0) = (s.placed i 4 xa 0).withRings (s.entryOf i xa 0) srcs (some vd) body)
    (hmask : mask = 0) (hpops : ringsOf srcs = pops) (hpush : ringsOf [vd] = push) (hname : (pops.isEmpty && push.isEmpty) = false)
    (hgo : s.lease.ringStalls pops push = false)
    (hbody : ∀ u, u.vctx (s.ringedEntry i xa) = s.vctxNow →
      body (s.ringedEntry i xa) u = u.elementwise (s.ringedEntry i xa) vd w mask reads f)
    (hreads : ∀ r ∈ reads, ∀ k, k < s.vctxNow.vl → vpoisoned (s.lease.shown s.ringTag pops push).vmem s.vctxNow.reg r.1 r.2 k = false) :
    ∃ u, s.issue i 4 none xa 0 head = .next u.popFront ∧ (s.placed i 4 xa 0).Holds u
      (s.lease.ran s.ringTag pops push fun m => s.vctxNow.wrote (s.vctxNow.dreg vd) w (fun _ => true) (f m) m) := by
  have hlease : (s.placed i 4 xa 0).lease = s.lease := State.placed_lease
  have htag : (s.placed i 4 xa 0).ringTag = s.ringTag := rfl
  rw [← hlease] at hgo
  rw [← hlease, ← htag] at hreads
  obtain ⟨u, hu, hran⟩ := State.withRings_runs (t := s.placed i 4 xa 0) (e := s.entryOf i xa 0) h.harts h.mode rfl rfl hmask hpops hpush hname
    hgo h.placed_vctx hbody hreads
  rw [hlease, htag] at hran
  exact ⟨u, h.toAtOnce.issue_done (hhead.trans hu), hran⟩

/-- One that waits stays in the queue. -/
theorem State.Piped.issue_waits (h : s.Piped) {head : QEntry → State → HeadRes} {srcs : List Reg} {vd : Reg} {body : QEntry → State → HeadRes}
    {pops push : List Nat}
    (hhead : head (s.entryOf i xa 0) (s.placed i 4 xa 0) = (s.placed i 4 xa 0).withRings (s.entryOf i xa 0) srcs (some vd) body)
    (hpops : ringsOf srcs = pops) (hpush : ringsOf [vd] = push) (hname : (pops.isEmpty && push.isEmpty) = false)
    (hstall : s.lease.ringStalls pops push = true) :
    s.issue i 4 none xa 0 head = .next (s.placed i 4 xa 0) := by
  subst hpops hpush
  rw [← State.placed_lease (i := i) (len := 4) (xa := xa) (xb := 0)] at hstall
  exact h.toAtOnce.issue_wait (hhead.trans (State.withRings_stalls h.mode rfl hname hstall))

theorem State.Holds.completed_reg (h : (s.placed i 4 xa 0).Holds u l) (hlanes : l.lanes = s.lease.lanes) (hheld : l.held = s.lease.held) :
    u.popFront.vctxNow.reg = s.vctxNow.reg := by
  have hlease : u.popFront.lease = l := (State.lease_congr (s := u) (t := u.popFront) rfl rfl rfl rfl).trans h.lease
  have hmode : u.popFront.hart.mode = s.hart.mode := h.mode
  have hclaimed : u.popFront.hart.vclaimed = s.hart.vclaimed := h.vclaimed
  unfold State.vctxNow State.vctxOf State.clusters
  rw [hlease, hlanes, hheld, hmode, hclaimed]

/-- What an instruction that has completed leaves besides its lease (R6, R107). -/
theorem State.Holds.completed (h : (s.placed i 4 xa 0).Holds u l) :
    u.popFront.hart.pc = s.hart.pc + 4 ∧ u.popFront.hart.queue = [] ∧ u.popFront.hart.x = s.hart.x ∧ u.popFront.mem = s.mem
    ∧ u.popFront.lease = l :=
  ⟨h.pc, h.behind, h.x, h.mem, (State.lease_congr (s := u) (t := u.popFront) rfl rfl rfl rfl).trans h.lease⟩

end

section
variable {s : State} {o : VOp} {n k : Nat} {l : Lease} {e : RingEntry} {rest : List RingEntry}

/-! ### Waiting at a ring (R111) -/

theorem ringStalls_push : l.ringStalls [] [n] = decide (4 ≤ (l.ring n).length) := by simp [Lease.ringStalls, bit]

theorem ringStalls_pop_empty (h : l.ring n = []) : l.ringStalls [n] [] = true := by
  simp [Lease.ringStalls, h, canPop]

theorem canPop_cons (hr : e.reader = none) (hw : e.writer = none) : canPop (e :: rest) = true := by
  simp [canPop, hr, hw]

theorem ringStalls_pop (h : l.ring n = e :: rest) (hr : e.reader = none) (hw : e.writer = none) : l.ringStalls [n] [] = false := by
  simp [Lease.ringStalls, h, canPop_cons hr hw]

theorem ringStalls_both (h : l.ring n = e :: rest) (hr : e.reader = none) (hw : e.writer = none) (hroom : rest.length ≤ 3) :
    l.ringStalls [n] [n] = false := by
  simp [Lease.ringStalls, h, canPop_cons hr hw, bit]
  omega

/-! ### Elements (R12, R42, R124) -/

theorem cellsRead_lt (c : List Host.Cell) (k n : Nat) : cellsRead c k n < 256 ^ n := by
  induction n generalizing k with
  | zero => exact Nat.one_pos
  | succ n ih =>
    have hbyte := (SMap.get (0 : Byte) c k).isLt
    have hrest := ih (k + 1)
    rw [cellsRead, Nat.pow_succ]
    omega

theorem Memory.read_lt (m : Memory) (k n : Nat) : m.read k n < 2 ^ (8 * n) := by
  rw [Nat.pow_mul]
  exact cellsRead_lt ..

theorem intWidth_eq (t : BitVec 3) : intWidth t.toNat = 8 * intBytes t := by
  have := t.isLt
  unfold intWidth intBytes
  rw [Nat.mod_eq_of_lt (by omega)]

/-- An integer element is congruent to its pattern (R42). -/
theorem intOf_emod (w : Nat) (sg : Bool) (v : Nat) : intOf w sg v % ((2 ^ w : Nat) : Int) = (v : Int) % ((2 ^ w : Nat) : Int) := by
  have hlow : ((low w v : Nat) : Int) % ((2 ^ w : Nat) : Int) = (v : Int) % ((2 ^ w : Nat) : Int) := by
    unfold low
    rw [Int.natCast_mod, Int.emod_emod]
  unfold intOf toSigned
  dsimp only
  split_ifs
  · exact hlow
  · rw [Int.sub_emod_right, hlow]
  · exact hlow

theorem ofInt_add_self (w : Nat) (sg : Bool) (v : Nat) : ofInt w (intOf w sg v + intOf w sg v) = 2 * v % 2 ^ w := by
  unfold ofInt
  rw [Int.add_emod, intOf_emod, ← Int.add_emod, ← Nat.cast_add, ← Int.natCast_mod, Int.toNat_natCast, Nat.two_mul]

/-! ### VMV and VADD over rings (R111, R124, R139) -/

theorem intBytes_pos (t : BitVec 3) : 0 < intBytes t := Nat.two_pow_pos _

/-- What VMV writes from the register store `m`, a register of `xa` broadcast for S = 1 (R139). -/
def vmvElem (x : VCtx) (o : VOp) (xa : Word) (m : Memory) (k : Nat) : EOut :=
  EOut.plain (if o.sc = 1 then low (8 * intBytes o.t) xa.toNat else velem m x.reg o.vs1.toNat (intBytes o.t) k)

/-- What VMV does to its elements, its ring entries in hand (R139). -/
def vmvBody (o : VOp) (e : QEntry) (s : State) : HeadRes :=
  s.elementwise e o.vd (intBytes o.t) o.m.toNat (srcsAt (vmvSrcs o) (intBytes o.t)) (vmvElem (s.vctx e) o e.xa)

theorem headVmv_eq (o : VOp) (e : QEntry) (s : State) : headVmv o e s = s.withRings e (vmvSrcs o) (some o.vd) (vmvBody o) := rfl

theorem exec_vmv_eq (o : VOp) (s : State) : exec (.vmv o) s =
    s.issue (.vmv o) 4 (s.vecCheck ((o.vd :: vmvSrcs o).map fun r => (r, 8 * intBytes o.t)) false) (if o.sc = 1 then s.readX o.vs2 else 0) 0 (headVmv o) :=
  exec_vmv o s

/-- What VADD writes from the register store `m` (R124). -/
def vaddElem (x : VCtx) (o : VOp) (e : QEntry) (m : Memory) (k : Nat) : EOut :=
  wrapOut (intWidth o.t.toNat) (intOf (intWidth o.t.toNat) (intSigned o.t.toNat) (velem m x.reg o.vs1.toNat (intBytes o.t) k)
    + intOf (intWidth o.t.toNat) (intSigned o.t.toNat) (secondOp x o e (intBytes o.t) m k))

/-- What VADD does to its elements, its ring entries in hand (R124). -/
def vaddBody (o : VOp) (e : QEntry) (s : State) : HeadRes :=
  s.elementwise e o.vd (intBytes o.t) o.m.toNat (srcsAt (binSrcs o) (intBytes o.t) ++ []) (vaddElem (s.vctx e) o e)

theorem headVadd_eq (o : VOp) (e : QEntry) (s : State) : headVadd o e s = s.withRings e (binSrcs o) (some o.vd) (vaddBody o) := rfl

theorem exec_vadd_eq (o : VOp) (s : State) : exec (.vadd o) s =
    s.issue (.vadd o) 4 (s.vecCheck ((o.vd :: binSrcs o).map fun r => (r, 8 * intBytes o.t)) false) (if o.sc = 1 then s.readX o.vs2 else 0) 0 (headVadd o) :=
  exec_vadd o s

theorem ring_name_le {r : Reg} (h : r.toNat = 28 + n) : 28 ≤ r.toNat := h ▸ Nat.le_add_right 28 n

/-- An open entry stands beside the popped one (R111). -/
theorem State.Piped.dreg_ring (h : s.Piped) {r : Reg} (hr : r.toNat = 28 + n) : s.vctxNow.dreg r = 36 + n := by
  unfold VCtx.dreg
  rw [if_pos ⟨h.pipe, ring_name_le hr⟩, hr]
  omega

theorem State.dreg_below {r : Reg} (hr : r.toNat < 28) : s.vctxNow.dreg r = r.toNat :=
  if_neg fun hd => absurd hd.2 (Nat.not_le.2 hr)

section
variable {pops push : List Nat} {xa : Word}

theorem State.Piped.vmv_runs (h : s.Piped) (hm : o.m = 0) (hx : exec (.vmv o) s = s.issue (.vmv o) 4 none xa 0 (headVmv o))
    (hpops : ringsOf (vmvSrcs o) = pops) (hpush : ringsOf [o.vd] = push) (hname : (pops.isEmpty && push.isEmpty) = false)
    (hgo : s.lease.ringStalls pops push = false)
    (hreads : ∀ r ∈ srcsAt (vmvSrcs o) (intBytes o.t), ∀ k, k < s.vctxNow.vl →
      vpoisoned (s.lease.shown s.ringTag pops push).vmem s.vctxNow.reg r.1 r.2 k = false) :
    ∃ u, exec (.vmv o) s = .next u.popFront ∧ (s.placed (.vmv o) 4 xa 0).Holds u (s.lease.ran s.ringTag pops push fun m =>
      s.vctxNow.wrote (s.vctxNow.dreg o.vd) (intBytes o.t) (fun _ => true) (vmvElem s.vctxNow o xa m) m) := by
  have hmask : o.m.toNat = 0 := congrArg BitVec.toNat hm
  rw [hx]
  refine h.issue_runs (headVmv_eq ..) hmask hpops hpush hname hgo (fun u hu => ?_) hreads
  unfold vmvBody
  rw [hu]
  rfl

theorem State.Piped.vadd_runs (h : s.Piped) (hm : o.m = 0) (hx : exec (.vadd o) s = s.issue (.vadd o) 4 none xa 0 (headVadd o))
    (hpops : ringsOf (binSrcs o) = pops) (hpush : ringsOf [o.vd] = push) (hname : (pops.isEmpty && push.isEmpty) = false)
    (hgo : s.lease.ringStalls pops push = false)
    (hreads : ∀ r ∈ srcsAt (binSrcs o) (intBytes o.t) ++ [], ∀ k, k < s.vctxNow.vl →
      vpoisoned (s.lease.shown s.ringTag pops push).vmem s.vctxNow.reg r.1 r.2 k = false) :
    ∃ u, exec (.vadd o) s = .next u.popFront ∧ (s.placed (.vadd o) 4 xa 0).Holds u (s.lease.ran s.ringTag pops push fun m =>
      s.vctxNow.wrote (s.vctxNow.dreg o.vd) (intBytes o.t) (fun _ => true) (vaddElem s.vctxNow o (s.ringedEntry (.vadd o) xa) m) m) := by
  have hmask : o.m.toNat = 0 := congrArg BitVec.toNat hm
  rw [hx]
  refine h.issue_runs (headVadd_eq ..) hmask hpops hpush hname hgo (fun u hu => ?_) hreads
  unfold vaddBody
  rw [hu]

end

/-- An instruction completes and leaves every ring but one (R111). -/
def RingsDone (s : State) (i : Instr) (n : Nat) (t : State) : Prop :=
  exec i s = .next t ∧ t.hart.pc = s.hart.pc + 4 ∧ t.hart.queue = [] ∧ t.hart.x = s.hart.x ∧ t.mem = s.mem
  ∧ ∀ k, k < 4 → k ≠ n → t.lease.ring k = s.lease.ring k

theorem RingsDone.of_holds {i : Instr} {xa : Word} {u : State} {es : List RingEntry} (hu : exec i s = .next u.popFront)
    (hh : (s.placed i 4 xa 0).Holds u l) (hrings : ∀ k, k < 4 → l.ring k = if k = n then es else s.lease.ring k) (hn : n < 4) :
    RingsDone s i n u.popFront ∧ u.popFront.lease.ring n = es := by
  obtain ⟨hpc, hqueue, hx, hmem, hlease⟩ := hh.completed
  refine ⟨⟨hu, hpc, hqueue, hx, hmem, fun k hk hne => ?_⟩, ?_⟩
  · rw [hlease, hrings k hk, if_neg hne]
  · rw [hlease, hrings n hn, if_pos rfl]

/-- The entry pushed holds the elements, and no instruction holds it (R111). -/
def EntryHolds (x : VCtx) (w : Nat) (e : RingEntry) (f : Nat → Nat) : Prop :=
  e.reader = none ∧ e.writer = none ∧ ∀ k, k < x.vl → e.data.read (k * w) w = f k

section
variable (h : s.Piped) (hn : n < 4) (hm : o.m = 0)

/-! #### A broadcast register into a ring -/

theorem exec_vmv_broadcast (hsc : o.sc = 1) (hc : s.vecCheck [(o.vd, 8 * intBytes o.t)] false = none) :
    exec (.vmv o) s = s.issue (.vmv o) 4 none (s.readX o.vs2) 0 (headVmv o) := by
  rw [exec_vmv_eq, show vmvSrcs o = [] from if_pos hsc, if_pos hsc]
  exact congrArg (fun c => s.issue (.vmv o) 4 c (s.readX o.vs2) 0 (headVmv o)) hc

include h hn hm in
theorem vmv_pushes (hsc : o.sc = 1) (hvd : o.vd.toNat = 28 + n) (hc : s.vecCheck [(o.vd, 8 * intBytes o.t)] false = none)
    (hroom : (s.lease.ring n).length < 4) :
    ∃ t e, RingsDone s (.vmv o) n t ∧ t.lease.ring n = s.lease.ring n ++ [e]
      ∧ EntryHolds s.vctxNow (intBytes o.t) e fun _ => (s.readX o.vs2).toNat % 2 ^ (8 * intBytes o.t) := by
  have hsrcs : vmvSrcs o = [] := if_pos hsc
  have hsingle := h.single hc List.mem_cons_self (ring_name_le hvd) (intBytes_pos o.t)
  obtain ⟨u, hu, hh⟩ := h.vmv_runs (pops := []) hm (exec_vmv_broadcast hsc hc) (hsrcs ▸ rfl) (ringsOf_one hn hvd) rfl
    (by rw [ringStalls_push]; simpa using hroom) (by rw [hsrcs]; exact fun _ hr => absurd hr List.not_mem_nil)
  obtain ⟨hdone, hring⟩ := RingsDone.of_holds hu hh (fun k hk => Lease.ring_ran_push hn h.unused _ hk) hn
  refine ⟨_, _, hdone, hring, rfl, rfl, fun k hk => ?_⟩
  rw [h.dreg_ring hvd, hsingle.read_pushed _ (Memory.laid_wf _ h.store) hk]
  show (if o.sc = 1 then _ else _) % _ = _
  rw [if_pos hsc, low, Nat.mod_mod]

include h hn in
theorem vmv_waits_to_push (hsc : o.sc = 1) (hvd : o.vd.toNat = 28 + n) (hc : s.vecCheck [(o.vd, 8 * intBytes o.t)] false = none)
    (hfull : 4 ≤ (s.lease.ring n).length) : exec (.vmv o) s = .next (s.placed (.vmv o) 4 (s.readX o.vs2) 0) := by
  rw [exec_vmv_broadcast hsc hc]
  exact h.issue_waits (pops := []) (headVmv_eq ..) (by rw [show vmvSrcs o = [] from if_pos hsc]; rfl) (ringsOf_one hn hvd) rfl
    (by rw [ringStalls_push]; exact decide_eq_true hfull)

/-! #### A ring into a register -/

theorem exec_vmv_move (hsc : o.sc = 0) (hc : s.vecCheck [(o.vd, 8 * intBytes o.t), (o.vs1, 8 * intBytes o.t)] false = none) :
    exec (.vmv o) s = s.issue (.vmv o) 4 none 0 0 (headVmv o) := by
  have hne : ¬ o.sc = 1 := by simp [hsc]
  rw [exec_vmv_eq, show vmvSrcs o = [o.vs1] from if_neg hne, if_neg hne]
  exact congrArg (fun c => s.issue (.vmv o) 4 c 0 0 (headVmv o)) hc

theorem ringsOf_vmvSrcs (hn : n < 4) (hsc : o.sc = 0) (hvs1 : o.vs1.toNat = 28 + n) : ringsOf (vmvSrcs o) = [n] := by
  rw [show vmvSrcs o = [o.vs1] from if_neg (by simp [hsc])]
  exact ringsOf_one hn hvs1

include h hn in
theorem vmv_waits_to_pop (hsc : o.sc = 0) (hvs1 : o.vs1.toNat = 28 + n) (hvd : o.vd.toNat < 28)
    (hc : s.vecCheck [(o.vd, 8 * intBytes o.t), (o.vs1, 8 * intBytes o.t)] false = none) (hempty : s.lease.ring n = []) :
    exec (.vmv o) s = .next (s.placed (.vmv o) 4 0 0) := by
  rw [exec_vmv_move hsc hc]
  exact h.issue_waits (headVmv_eq ..) (ringsOf_vmvSrcs hn hsc hvs1) (ringsOf_below hvd) rfl (ringStalls_pop_empty hempty)

include h hn hm in
theorem vmv_pops (hsc : o.sc = 0) (hvs1 : o.vs1.toNat = 28 + n) (hvd : o.vd.toNat < 28)
    (hc : s.vecCheck [(o.vd, 8 * intBytes o.t), (o.vs1, 8 * intBytes o.t)] false = none) (hring : s.lease.ring n = e :: rest)
    (hr : e.reader = none) (hw : e.writer = none) (hwf : e.data.wf = true) (hpois : e.data.pois = []) :
    ∃ t, RingsDone s (.vmv o) n t ∧ t.lease.ring n = rest
      ∧ ∀ k, k < s.vctxNow.vl → t.elem o.vd (intBytes o.t) k = e.data.read (k * intBytes o.t) (intBytes o.t) := by
  have hne : ¬ o.sc = 1 := by simp [hsc]
  have hsrcs : vmvSrcs o = [o.vs1] := if_neg hne
  have hsingle := h.single hc (List.mem_cons_of_mem _ List.mem_cons_self) (ring_name_le hvs1) (intBytes_pos o.t)
  obtain ⟨u, hu, hh⟩ := h.vmv_runs hm (exec_vmv_move hsc hc) (ringsOf_vmvSrcs hn hsc hvs1) (ringsOf_below hvd) rfl
    (ringStalls_pop hring hr hw) (by
      rw [hsrcs, Lease.shown_pop hn hring hr]
      intro r hr k hk
      obtain rfl := List.mem_singleton.1 hr
      exact hvs1.symm ▸ hsingle.vpoisoned_laid hpois hk _)
  obtain ⟨hrings, hmem, hheld, hlanes⟩ := Lease.ran_pop (tag := s.ringTag) hn h.unused (fun m =>
    s.vctxNow.wrote (s.vctxNow.dreg o.vd) (intBytes o.t) (fun _ => true) (vmvElem s.vctxNow o 0 m) m) hring hr
  obtain ⟨hdone, hleft⟩ := RingsDone.of_holds hu hh hrings hn
  have hlaid : (s.lease.vmem.laid (28 + n) e.data).wf = true := Memory.laid_wf _ h.store
  refine ⟨_, hdone, hleft, fun k hk => ?_⟩
  have hin := (hsingle.within hk).trans hsingle.stride
  have hbelow : slotBase o.vd.toNat + k * intBytes o.t + intBytes o.t ≤ slotBase (28 + n) := by
    have : (o.vd.toNat + 1) * Config.regStride ≤ (28 + n) * Config.regStride := Nat.mul_le_mul_right _ (by omega)
    rw [Nat.add_mul, Nat.one_mul] at this
    unfold slotBase
    omega
  calc u.popFront.elem o.vd (intBytes o.t) k
    _ = velem (s.lease.ran s.ringTag [n] [] _).vmem s.vctxNow.reg o.vd.toNat (intBytes o.t) k := by
      obtain ⟨-, -, -, -, hlease⟩ := hh.completed
      rw [State.elem, State.vmem, hlease, hh.completed_reg hlanes hheld]
    _ = (vmvElem s.vctxNow o 0 (s.lease.vmem.laid (28 + n) e.data) k).val % 2 ^ (8 * intBytes o.t) := by
      rw [hmem, velem, hsingle.vkey_elem hk, Memory.read_clear_other (.inl hbelow), State.dreg_below hvd, hsingle.read_wrote _ _ hlaid hk]
    _ = e.data.read (k * intBytes o.t) (intBytes o.t) := by
      rw [vmvElem, EOut.plain, if_neg hne, hvs1, hsingle.velem_laid h.store hwf hk, Nat.mod_eq_of_lt (Memory.read_lt ..)]

/-! #### A ring into itself -/

theorem exec_vadd_elems (hsc : o.sc = 0)
    (hc : s.vecCheck [(o.vd, 8 * intBytes o.t), (o.vs1, 8 * intBytes o.t), (o.vs2, 8 * intBytes o.t)] false = none) :
    exec (.vadd o) s = s.issue (.vadd o) 4 none 0 0 (headVadd o) := by
  have hne : ¬ o.sc = 1 := by simp [hsc]
  rw [exec_vadd_eq, show binSrcs o = [o.vs1, o.vs2] from if_neg hne, if_neg hne]
  exact congrArg (fun c => s.issue (.vadd o) 4 c 0 0 (headVadd o)) hc

include h hn hm in
theorem vadd_pops_and_pushes (hsc : o.sc = 0) (hvs1 : o.vs1.toNat = 28 + n) (hvs2 : o.vs2.toNat = 28 + n) (hvd : o.vd.toNat = 28 + n)
    (hc : s.vecCheck [(o.vd, 8 * intBytes o.t), (o.vs1, 8 * intBytes o.t), (o.vs2, 8 * intBytes o.t)] false = none)
    (hring : s.lease.ring n = e :: rest) (hr : e.reader = none) (hw : e.writer = none) (hwf : e.data.wf = true) (hpois : e.data.pois = [])
    (hroom : rest.length ≤ 3) :
    ∃ t f, RingsDone s (.vadd o) n t ∧ t.lease.ring n = rest ++ [f]
      ∧ EntryHolds s.vctxNow (intBytes o.t) f fun k => 2 * e.data.read (k * intBytes o.t) (intBytes o.t) % 2 ^ (8 * intBytes o.t) := by
  have hne : ¬ o.sc = 1 := by simp [hsc]
  have hsrcs : binSrcs o = [o.vs1, o.vs2] := if_neg hne
  have hnames : ∀ r ∈ [o.vs1, o.vs2], r.toNat = 28 + n := by simp [hvs1, hvs2]
  have hsingle := h.single hc List.mem_cons_self (ring_name_le hvd) (intBytes_pos o.t)
  obtain ⟨u, hu, hh⟩ := h.vadd_runs hm (exec_vadd_elems hsc hc) (hsrcs ▸ ringsOf_of_ring hn (by simp) hnames) (ringsOf_one hn hvd) rfl
    (ringStalls_both hring hr hw hroom) (by
      rw [hsrcs, Lease.shown_both hn (h.unused n hn) hring hr, List.append_nil]
      intro r hr k hk
      obtain ⟨q, hq, rfl⟩ := List.mem_map.1 hr
      exact vpoisoned_opened _ ((hnames q hq).symm ▸ hsingle.vpoisoned_laid hpois hk _))
  obtain ⟨hdone, hleft⟩ := RingsDone.of_holds hu hh (fun k hk => Lease.ring_ran_both hn h.unused _ hring hr hk) hn
  refine ⟨_, _, hdone, hleft, rfl, rfl, fun k hk => ?_⟩
  have helem : ∀ r : Reg, r.toNat = 28 + n → velem ((s.lease.vmem.laid (28 + n) e.data).laid (36 + n) Memory.empty) s.vctxNow.reg r.toNat (intBytes o.t) k
      = e.data.read (k * intBytes o.t) (intBytes o.t) := fun r hr => by
    rw [hr, hsingle.velem_opened _ hk (by omega), hsingle.velem_laid h.store hwf hk]
  rw [h.dreg_ring hvd, hsingle.read_pushed _ (Memory.laid_wf _ (Memory.laid_wf _ h.store)) hk, vaddElem, secondOp, if_neg hne, helem _ hvs1,
    helem _ hvs2, intWidth_eq, wrapOut, EOut.plain, ofInt_add_self, Nat.mod_mod]

end

end

/-- The clauses on an operand that a check reads say that it is legal and in its role (R101, R110). -/
theorem State.legal_iff (s : State) (ops : List VReg) (bad : Bool) :
    s.Legal ops bad ↔ s.vctxNow.sew < 4 ∧ (s.vctxNow.vl ≤ s.vctxNow.grp * s.vctxNow.reg / 2 ^ s.vctxNow.sew ∨ s.vctxNow.c = 0)
      ∧ (∀ v ∈ ops, ∃ g, g * 2 ^ (3 + s.vctxNow.sew) = s.vctxNow.grp * v.2 ∧ (g = 1 ∨ g = 2 ∨ g = 4 ∨ g = 8) ∧ v.1.toNat % g = 0) ∧ bad = false := by
  unfold State.Legal
  refine and_congr_right fun hsew => ?_
  rw [VCtx.vlmax, vlmax_eq hsew]
  exact and_congr_right fun _ => and_congr_left fun _ => forall₂_congr fun v _ => VCtx.groupOk_iff v

theorem State.inRole_iff {s : State} {ops : List VReg} (h : ∀ v ∈ ops, s.vctxNow.groupOk v = true) :
    s.InRole ops ↔ (s.hart.mode = .pipeline → ∀ v ∈ ops, ∀ g, g * 2 ^ (3 + s.vctxNow.sew) = s.vctxNow.grp * v.2 →
      if 28 ≤ v.1.toNat then g = 1
      else if s.hart.role = 0 then v.1.toNat + g ≤ 8
      else if s.hart.role = 1 then 8 ≤ v.1.toNat ∧ v.1.toNat + g ≤ 24
      else 24 ≤ v.1.toNat ∧ v.1.toNat + g ≤ 28) :=
  forall_congr' fun _ => forall₂_congr fun v hv => VCtx.roleOk_iff (h v hv) s.hart.role

/-- Settles O25: the checks find the first thing amiss in their order, every vector instruction issues through them over its own operand groups, and an
instruction that names a ring works on its entries as registers between the pop and the push. -/
theorem vectorChecks : Obligations.VectorChecks := by
  refine ⟨fun s ops bad => ?_, fun o s hu => ?_, fun o s n heager hqueue hfrozen hmode hslots hfence hpois hlanes hfew htables hstore hn hm hunused => ?_⟩
  · classical
    simp only [← State.legal_iff, State.vecCheck_eq]
    have hrole := fun h : s.Legal ops bad => State.inRole_iff h.2.2.1
    refine ⟨fun h => if_neg h, fun h hc => ?_, fun h hc hr => ?_, fun h hc hr => ?_⟩
    · rw [if_pos h, if_pos hc]
      rfl
    · rw [if_pos h, if_neg hc, if_neg fun hs => hr ((hrole h).1 hs)]
      rfl
    · rw [if_pos h, if_neg hc, if_pos ((hrole h).2 hr)]
  · exact ⟨checks_binary hu o, checks_floatBinary hu o, checks_floatUnary hu o, Checks.of_issue hu (exec_vfclass o s),
      Checks.of_issue hu (exec_vfcvt o s), Checks.of_issue hu (exec_vf2i o s), Checks.of_issue hu (exec_vi2f o s),
      Checks.of_issue hu (exec_viext o s), Checks.of_issue hu (exec_vfcvtScaled o s), checks_compare hu o, checks_floatCompare hu o,
      checks_vmv hu o, checks_index hu o, checks_reduction hu o, checks_floatReduction hu o, checks_selection hu o, checks_mask hu o,
      checks_vperm hu o, checks_slide hu o, Checks.of_issue hu (exec_vscan o s), Checks.of_issue hu (exec_vsortk o s), checks_vbfly hu o,
      Checks.of_issue hu (exec_vbslice o s), Checks.of_issue hu (exec_vbunslice o s), memChecks_unit hu o, MemChecks.vldg hu,
      memChecks_strided hu o, memChecks_qlds hu o, checks_gather hu o, checks_scatter hu o, checks_combining hu o, checks_sending hu o,
      Checks.of_issue hu (exec_rrecv o s)⟩
  · have h : s.Piped := ⟨⟨heager, hqueue, hfrozen, hslots, hfence, hpois⟩, hmode, hlanes, hfew, htables.harts, hstore, hunused⟩
    refine ⟨fun hsc hvd hc => ⟨fun hroom => ?_, vmv_waits_to_push h hn hsc hvd hc⟩,
      fun hsc hvs1 hvd hc => ⟨vmv_waits_to_pop h hn hsc hvs1 hvd hc, fun e rest hring hr hw ⟨hwf, hunpois, _⟩ =>
        vmv_pops h hn hm hsc hvs1 hvd hc hring hr hw hwf hunpois⟩,
      fun hsc hvs1 hvs2 hvd hc e rest hring hr hw ⟨hwf, hunpois, _⟩ hroom => ?_⟩
    · obtain ⟨t, e, hdone, hleft, hentry⟩ := vmv_pushes h hn hm hsc hvd hc hroom
      exact ⟨t, e, hdone, hleft, ⟨_, hleft⟩, hentry⟩
    · obtain ⟨t, f, hdone, hleft, hentry⟩ := vadd_pops_and_pushes h hn hm hsc hvs1 hvs2 hvd hc hring hr hw hwf hunpois hroom
      exact ⟨t, f, hdone, hleft, ⟨_, hleft⟩, hentry⟩

end Sys2Proof.Machine

/-! Rounding of a real number to a multiple of a unit: what it is for a number to be one, and that the model's integer arithmetic does so (R48). -/

namespace Sys2Proof.Machine

/-! ### Exact magnitudes as real numbers -/

/-- An exact magnitude is the real number `x`: it compares with every fraction as `x` does. -/
def Magnitude.Is (c : Magnitude) (x : ℝ) : Prop := ∀ n d : ℕ, 0 < d → c n d = compare (n : ℝ) (x * d)

section
variable {c : Magnitude} {x : ℝ} {n d : ℕ}

theorem Magnitude.Is.gt_iff (hc : c.Is x) (hd : 0 < d) : c n d = .gt ↔ x * d < n := by rw [hc n d hd, compare_gt_iff_gt]

theorem Magnitude.Is.eq_iff (hc : c.Is x) (hd : 0 < d) : c n d = .eq ↔ (n : ℝ) = x * d := by rw [hc n d hd, compare_eq_iff_eq]

theorem Magnitude.Is.lt_iff (hc : c.Is x) (hd : 0 < d) : c n d = .lt ↔ (n : ℝ) < x * d := by rw [hc n d hd, compare_lt_iff_lt]

theorem Magnitude.Is.ne_gt_iff (hc : c.Is x) (hd : 0 < d) : c n d ≠ .gt ↔ (n : ℝ) ≤ x * d := by rw [hc n d hd, compare_le_iff_le]

theorem Magnitude.Is.ne_lt_iff (hc : c.Is x) (hd : 0 < d) : c n d ≠ .lt ↔ x * d ≤ n := by rw [hc n d hd, compare_ge_iff_ge]

/-- Two comparisons that order their operands alike give the same outcome. -/
theorem compare_congr {α β : Type} [LinearOrder α] [LinearOrder β] {a b : α} {a' b' : β} (hlt : a < b ↔ a' < b') (hgt : b < a ↔ b' < a') :
    compare a b = compare a' b' := by
  rcases lt_trichotomy a b with h | h | h
  · rw [compare_lt_iff_lt.2 h, compare_lt_iff_lt.2 (hlt.1 h)]
  · rw [compare_eq_iff_eq.2 h, compare_eq_iff_eq.2 (le_antisymm (le_of_not_gt fun h' => h.not_gt (hgt.2 h')) (le_of_not_gt fun h' => h.not_lt (hlt.2 h')))]
  · rw [compare_gt_iff_gt.2 h, compare_gt_iff_gt.2 (hgt.1 h)]

theorem ratio_is {a b : ℕ} (hb : 0 < b) : (ratio a b).Is (a / b) := fun n d _ => by
  have hb' : (0 : ℝ) < b := by exact_mod_cast hb
  rw [ratio, div_mul_eq_mul_div]
  apply compare_congr
  · rw [lt_div_iff₀ hb']
    exact_mod_cast Iff.rfl
  · rw [div_lt_iff₀ hb']
    exact_mod_cast Iff.rfl

theorem root_is {a b : ℕ} (hb : 0 < b) : (root a b).Is √(a / b) := fun n d _ => by
  have hb' : (0 : ℝ) < b := by exact_mod_cast hb
  have hsq : (√(a / b : ℝ) * d) ^ 2 = a * d * d / b := by
    rw [mul_pow, Real.sq_sqrt (by positivity)]
    ring
  have hroot : 0 ≤ √(a / b : ℝ) * d := by positivity
  rw [root]
  apply compare_congr
  · rw [← sq_lt_sq₀ (a := (n : ℝ)) n.cast_nonneg hroot, hsq, lt_div_iff₀ hb', sq]
    exact_mod_cast Iff.rfl
  · rw [← sq_lt_sq₀ (b := (n : ℝ)) hroot n.cast_nonneg, hsq, div_lt_iff₀ hb', sq]
    exact_mod_cast Iff.rfl

/-- The same number in units of u ⁄ d. -/
theorem Magnitude.Is.scaled {u : ℕ} (hc : c.Is x) (hu : 0 < u) (hd : 0 < d) : Magnitude.Is (fun n e => c (n * u) (e * d)) (x * d / u) := fun n e he => by
  have hu' : (0 : ℝ) < u := by exact_mod_cast hu
  have hunit : x * d / u * e * u = x * ((e * d : ℕ) : ℝ) := by
    push_cast
    field_simp
  refine (hc _ _ (Nat.mul_pos he hd)).trans ?_
  rw [← hunit, Nat.cast_mul]
  exact compare_congr (mul_lt_mul_iff_left₀ hu') (mul_lt_mul_iff_left₀ hu')

end

/-! ### Rounding a real number to an integer -/

/-- Where a mode moves a magnitude of a sign: to the nearest integer, away from zero, or towards it (R48). -/
inductive Direction where
  | nearest
  | away
  | toward

/-- The direction of a mode for a sign (R48). -/
def Rm.direction (rm : Rm) (neg : Bool) : Direction :=
  match rm, neg with
  | .rne, _ => .nearest
  | .rdn, true | .rup, false => .away
  | _, _ => .toward

/-- The magnitude `y` rounds to `N`: the even neighbour on a tie (R48). -/
def Rounds (dir : Direction) (y : ℝ) (N : ℕ) : Prop :=
  match dir with
  | .nearest => y ≤ N + 1 / 2 ∧ N - 1 / 2 ≤ y ∧ (y = N + 1 / 2 ∨ y = N - 1 / 2 → N % 2 = 0)
  | .away => y ≤ N ∧ N < y + 1
  | .toward => N ≤ y ∧ y < N + 1

section
variable {dir : Direction} {c : Magnitude} {x y : ℝ} {n N : ℕ}

theorem Rounds.natCast (dir : Direction) (N : ℕ) : Rounds dir N N := by
  cases dir
  case nearest => exact ⟨by linarith, by linarith, by rintro (h | h) <;> linarith⟩
  case away => exact ⟨le_rfl, by linarith⟩
  case toward => exact ⟨le_rfl, by linarith⟩

theorem Rounds.le_of_lt {K : ℕ} (h : Rounds dir y N) (hy : y < K) : N ≤ K := by
  have hN : (N : ℝ) < K + 1 := by
    cases dir
    case nearest =>
      obtain ⟨-, hle, -⟩ := h
      linarith
    case away => linarith [h.2]
    case toward => linarith [h.1]
  exact Nat.lt_succ_iff.1 (by exact_mod_cast hN)

theorem Rounds.ge_of_le {K : ℕ} (h : Rounds dir y N) (hy : K ≤ y) : K ≤ N := by
  have hN : (K : ℝ) < N + 1 := by
    cases dir
    case nearest => linarith [h.1]
    case away => linarith [h.1]
    case toward => linarith [h.2]
  exact Nat.lt_succ_iff.1 (by exact_mod_cast hN)

/-- Two integers that a number rounds to are no more than 1 apart, and a tie has one even side. -/
theorem Rounds.unique {M : ℕ} (hN : Rounds dir y N) (hM : Rounds dir y M) : N = M := by
  wlog hlt : N < M generalizing N M
  · rcases Nat.lt_trichotomy N M with h | h | h
    · exact this hN hM h
    · exact h
    · exact (this hM hN h).symm
  have hlt' : (N : ℝ) + 1 ≤ M := by exact_mod_cast hlt
  cases dir
  case nearest =>
    obtain ⟨hle, -, heven⟩ := hN
    obtain ⟨-, hge, heven'⟩ := hM
    have hN0 := heven (.inl (by linarith))
    have hM0 := heven' (.inr (by linarith))
    have hsucc : (M : ℝ) ≤ N + 1 := by linarith
    have hsucc' : M ≤ N + 1 := by exact_mod_cast hsucc
    omega
  case away => linarith [hN.1, hM.2]
  case toward => linarith [hN.2, hM.1]

/-- Whether a magnitude n + φ with 0 ≤ φ < 1 rounds to n + 1 (R48). -/
def Direction.up (dir : Direction) (n : ℕ) (φ : ℝ) : Prop :=
  match dir with
  | .nearest => 1 / 2 < φ ∨ φ = 1 / 2 ∧ n % 2 = 1
  | .away => φ ≠ 0
  | .toward => False

theorem Rounds.of_fraction {φ : ℝ} {up : Bool} (h0 : 0 ≤ φ) (h1 : φ < 1) (hup : up = true ↔ dir.up n φ) :
    Rounds dir (n + φ) (if up then n + 1 else n) := by
  cases up
  case true =>
    have h := hup.1 rfl
    rw [if_pos rfl]
    cases dir
    case nearest =>
      refine ⟨by push_cast; linarith, ?_, ?_⟩
      · rcases h with h | h <;> push_cast <;> linarith
      · rintro (htie | htie)
        · push_cast at htie
          linarith
        · push_cast at htie
          rcases h with h | ⟨-, hodd⟩
          · linarith
          · omega
    case away => exact ⟨by push_cast; linarith, by push_cast; linarith [lt_of_le_of_ne h0 (Ne.symm h)]⟩
    case toward => exact h.elim
  case false =>
    have h := mt hup.2 Bool.false_ne_true
    rw [if_neg Bool.false_ne_true]
    cases dir
    case nearest =>
      obtain ⟨hle, htie⟩ := not_or.1 h
      refine ⟨by linarith [not_lt.1 hle], by linarith, ?_⟩
      rintro (heq | heq)
      · exact Nat.mod_two_ne_one.1 fun hodd => htie ⟨by linarith, hodd⟩
      · linarith
    case away => exact ⟨by simp [not_not.1 h], by linarith⟩
    case toward => exact ⟨by linarith, by linarith⟩

theorem Direction.not_up_zero (dir : Direction) (n : ℕ) : ¬ dir.up n 0 := by
  cases dir
  case nearest => exact not_or.2 ⟨by norm_num, fun h => by norm_num at h⟩
  case away => exact fun h => h rfl
  case toward => exact id

/-- Rounding keeps a number only where it is an integer. -/
theorem exact_iff_fraction_zero {φ : ℝ} {up : Bool} (h1 : φ < 1) (hup : up = true ↔ dir.up n φ) :
    ((if up then n + 1 else n : ℕ) : ℝ) = n + φ ↔ φ = 0 := by
  cases up
  case true =>
    have hφ : φ ≠ 0 := fun h => dir.not_up_zero n (h ▸ hup.1 rfl)
    exact iff_of_false (by rw [if_pos rfl]; push_cast; linarith) hφ
  case false => simp

/-- Rounding to an integer, as a comparison of an exact magnitude with the halves around it. -/
theorem Magnitude.Is.roundsTo_one_iff (hc : c.Is x) (hx : 0 ≤ x) (rm : Rm) (neg : Bool) :
    c.roundsTo rm neg 1 1 N ↔ Rounds (rm.direction neg) x N := by
  have hnearest : c.roundsTo .rne neg 1 1 N ↔ Rounds .nearest x N := by
    unfold Magnitude.roundsTo Rounds
    simp only [mul_one, hc.ne_lt_iff Nat.two_pos, hc.ne_gt_iff Nat.two_pos, hc.eq_iff Nat.two_pos]
    rcases N with _ | N
    · refine and_congr ⟨fun h => ?_, fun h => ?_⟩ (and_congr ⟨fun _ => ?_, fun _ => .inl rfl⟩ ⟨fun _ _ => rfl, fun _ _ => rfl⟩)
      all_goals push_cast at *; linarith
    · have hpred : 2 * (N + 1) - 1 = 2 * N + 1 := rfl
      rw [hpred, or_iff_right N.succ_ne_zero, and_iff_right N.succ_ne_zero]
      push_cast
      refine and_congr ⟨fun h => by linarith, fun h => by linarith⟩ (and_congr ⟨fun h => by linarith, fun h => by linarith⟩
        (imp_congr_left (or_congr ⟨fun h => by linarith, fun h => by linarith⟩ ⟨fun h => by linarith, fun h => by linarith⟩)))
  have haway : (c N 1 ≠ .lt ∧ (N = 0 ∨ c (N - 1) 1 = .lt)) ↔ Rounds .away x N := by
    unfold Rounds
    simp only [hc.ne_lt_iff Nat.one_pos, hc.lt_iff Nat.one_pos, Nat.cast_one, mul_one]
    refine and_congr_right fun _ => ?_
    rcases N with _ | N
    · exact ⟨fun _ => by push_cast; linarith, fun _ => .inl rfl⟩
    · simp
  have htoward : (c N 1 ≠ .gt ∧ c (N + 1) 1 = .gt) ↔ Rounds .toward x N := by
    unfold Rounds
    simp only [hc.ne_gt_iff Nat.one_pos, hc.gt_iff Nat.one_pos, Nat.cast_one, mul_one, Nat.cast_add]
  cases rm
  case rne => exact hnearest
  case rtz => simpa [Magnitude.roundsTo, Rm.direction] using htoward
  case rdn =>
    cases neg
    · simpa [Magnitude.roundsTo, Rm.direction] using htoward
    · simpa [Magnitude.roundsTo, Rm.direction] using haway
  case rup =>
    cases neg
    · simpa [Magnitude.roundsTo, Rm.direction] using haway
    · simpa [Magnitude.roundsTo, Rm.direction] using htoward

theorem Magnitude.Is.roundsTo_iff {u d : ℕ} (hc : c.Is x) (hx : 0 ≤ x) (hu : 0 < u) (hd : 0 < d) (rm : Rm) (neg : Bool) :
    c.roundsTo rm neg u d N ↔ Rounds (rm.direction neg) (x * d / u) N := by
  rw [← (hc.scaled hu hd).roundsTo_one_iff (by positivity)]
  unfold Magnitude.roundsTo
  simp only [mul_one, one_mul]

end

/-! ### The model's rounding of a truncated magnitude -/

/-- The real number `z` is the integer `m`, or a little more where `sticky`. -/
def Truncated (m : ℕ) (sticky : Bool) (z : ℝ) : Prop := if sticky then (m : ℝ) < z ∧ z < m + 1 else z = m

section
variable {m r k : ℕ} {sticky : Bool} {z w : ℝ}

theorem Truncated.le (h : Truncated m sticky z) : (m : ℝ) ≤ z := by
  cases sticky
  · exact ge_of_eq h
  · exact h.1.le

theorem Truncated.lt (h : Truncated m sticky z) : z < m + 1 := by
  cases sticky
  · exact (le_of_eq h).trans_lt (by linarith)
  · exact h.2

theorem Truncated.eq_iff (h : Truncated m sticky z) : z = m ↔ sticky = false := by
  cases sticky
  · exact iff_of_true h rfl
  · exact iff_of_false h.1.ne' Bool.noConfusion

/-- The part of a truncated number below 2 to the `k`. -/
theorem Truncated.mod (h : Truncated m sticky z) (k : ℕ) : Truncated (m % 2 ^ k) sticky (z - (2 ^ k * (m / 2 ^ k) : ℕ)) := by
  have hm : ((2 ^ k * (m / 2 ^ k) : ℕ) : ℝ) + (m % 2 ^ k : ℕ) = m := by exact_mod_cast Nat.div_add_mod m (2 ^ k)
  cases sticky
  · exact show z - _ = _ by rw [show z = m from h]; linarith
  · exact ⟨by linarith [h.1], by linarith [h.2]⟩

theorem Truncated.eq_zero_iff (h : Truncated r sticky w) : w = 0 ↔ (decide (r ≠ 0) || sticky) = false := by
  constructor
  · rintro rfl
    have hr : r = 0 := by exact_mod_cast le_antisymm h.le r.cast_nonneg
    simp [hr, h.eq_iff.1 (by simp [hr])]
  · intro hz
    obtain ⟨hr, hs⟩ : r = 0 ∧ sticky = false := by simpa using hz
    simpa [hr] using h.eq_iff.2 hs

theorem Truncated.lt_two_pow (h : Truncated r sticky w) (hr : r < 2 ^ k) : w < 2 ^ k := by
  have : (r : ℝ) + 1 ≤ 2 ^ k := by exact_mod_cast hr
  linarith [h.lt]

/-- A half of an even power of two, and no integer, stands between a truncated number and what was cut off it. -/
theorem Truncated.half_lt_iff (h : Truncated r sticky w) (k : ℕ) : (2 ^ k : ℝ) < w ↔ 2 ^ k < r ∨ r = 2 ^ k ∧ sticky = true := by
  have hlt := h.lt
  rcases Nat.lt_trichotomy r (2 ^ k) with hr | rfl | hr
  · have : (r : ℝ) + 1 ≤ 2 ^ k := by exact_mod_cast hr
    exact iff_of_false (by linarith) (by omega)
  · cases sticky
    · exact iff_of_false (by rw [show w = _ from h]; simp) (by simp)
    · exact iff_of_true (by simpa using h.1) (.inr ⟨rfl, rfl⟩)
  · have : (2 ^ k : ℝ) < r := by exact_mod_cast hr
    exact iff_of_true (this.trans_le h.le) (.inl hr)

theorem Truncated.half_eq_iff (h : Truncated r sticky w) (k : ℕ) : w = 2 ^ k ↔ r = 2 ^ k ∧ sticky = false := by
  rw [← h.eq_iff]
  constructor
  · intro hw
    have hle : r ≤ 2 ^ k := by exact_mod_cast hw ▸ h.le
    have hlt : 2 ^ k < r + 1 := by exact_mod_cast hw ▸ h.lt
    have hr : r = 2 ^ k := by omega
    exact ⟨hr, by rw [hw, hr]; norm_cast⟩
  · rintro ⟨rfl, hw⟩
    rw [hw]
    norm_cast

/-- What the model moves away from zero is what R48 does, where a bit at least is cut off. -/
theorem roundsUp_iff (h : Truncated r sticky w) (rm : Rm) (neg : Bool) (n : ℕ) :
    roundsUp rm neg n r (k + 1) sticky = true ↔ (rm.direction neg).up n (w / 2 ^ (k + 1)) := by
  have hpow : (0 : ℝ) < 2 ^ (k + 1) := by positivity
  have hnearest : roundsUp .rne neg n r (k + 1) sticky = true ↔ Direction.nearest.up n (w / 2 ^ (k + 1)) := by
    have hhalf : (1 / 2 : ℝ) = 2 ^ k / 2 ^ (k + 1) := by rw [pow_succ]; field_simp
    unfold Direction.up
    dsimp only
    rw [hhalf, div_lt_div_iff_of_pos_right hpow, div_left_inj' hpow.ne', h.half_lt_iff, h.half_eq_iff]
    simp only [roundsUp, pow_succ', Bool.or_eq_true, Bool.and_eq_true, decide_eq_true_eq, Nat.mul_left_cancel_iff Nat.two_pos,
      gt_iff_lt, Nat.mul_lt_mul_left Nat.two_pos]
    cases sticky <;> simp
  have haway : (decide (r ≠ 0) || sticky) = true ↔ Direction.away.up n (w / 2 ^ (k + 1)) := by
    unfold Direction.up
    dsimp only
    rw [← not_iff_not, not_not, Bool.not_eq_true, div_eq_zero_iff, or_iff_left hpow.ne', h.eq_zero_iff]
  cases rm
  case rne => exact hnearest
  case rtz => simp [roundsUp, Rm.direction, Direction.up]
  case rdn =>
    cases neg
    · simp [roundsUp, Rm.direction, Direction.up]
    · simpa [roundsUp, Rm.direction] using haway
  case rup =>
    cases neg
    · simpa [roundsUp, Rm.direction] using haway
    · simp [roundsUp, Rm.direction, Direction.up]

/-- The model's rounding at an exponent: what it gives is the number rounded, and it tells whether that changed it (R48). -/
theorem roundAt_rounds {e q : ℤ} (h : Truncated m sticky z) (hq : sticky = true → e < q) (rm : Rm) (neg : Bool) :
    Rounds (rm.direction neg) (z * 2 ^ (e - q)) (roundAt rm neg m e q sticky).1
    ∧ ((roundAt rm neg m e q sticky).2 = false ↔ ((roundAt rm neg m e q sticky).1 : ℝ) = z * 2 ^ (e - q)) := by
  by_cases hle : q ≤ e
  · have hs : sticky = false := Bool.eq_false_of_not_eq_true fun hs => (hq hs).not_ge hle
    have hz : z * 2 ^ (e - q) = ((m * 2 ^ (e - q).toNat : ℕ) : ℝ) := by
      rw [h.eq_iff.2 hs, Nat.cast_mul, Nat.cast_pow, Nat.cast_ofNat, ← zpow_natCast, Int.toNat_of_nonneg (by omega)]
    rw [roundAt, if_pos hle, hz]
    exact ⟨Rounds.natCast _ _, iff_of_true hs rfl⟩
  · obtain ⟨k, hk⟩ : ∃ k : ℕ, q - e = (k + 1 : ℕ) := ⟨(q - e).toNat - 1, by omega⟩
    have hpow : (0 : ℝ) < 2 ^ (k + 1) := by positivity
    set w := z - (2 ^ (k + 1) * (m / 2 ^ (k + 1)) : ℕ)
    have hw : Truncated (m % 2 ^ (k + 1)) sticky w := h.mod (k + 1)
    have hz : z * 2 ^ (e - q) = (m / 2 ^ (k + 1) : ℕ) + w / 2 ^ (k + 1) := by
      rw [show e - q = -((k + 1 : ℕ) : ℤ) by omega, zpow_neg, zpow_natCast, show z = (2 ^ (k + 1) * (m / 2 ^ (k + 1)) : ℕ) + w by simp [w],
        Nat.cast_mul, Nat.cast_pow, Nat.cast_ofNat]
      field_simp
    have h0 : 0 ≤ w / 2 ^ (k + 1) := div_nonneg (hw.le.trans' (Nat.cast_nonneg _)) hpow.le
    have h1 : w / 2 ^ (k + 1) < 1 := (div_lt_one hpow).2 (hw.lt_two_pow (Nat.mod_lt _ (by positivity)))
    have hup := roundsUp_iff (k := k) hw rm neg (m / 2 ^ (k + 1))
    rw [roundAt, if_neg hle, show (q - e).toNat = k + 1 by omega, hz]
    refine ⟨Rounds.of_fraction h0 h1 hup, ?_⟩
    rw [exact_iff_fraction_zero h1 hup, div_eq_zero_iff, or_iff_left hpow.ne', hw.eq_zero_iff]

end

end Sys2Proof.Machine

/-! Rounding into a format: its patterns as multiples of its smallest subnormal number, and what rounding a number into it delivers (R44, R48, R50, R53). -/

namespace Sys2Proof.Machine

/-! ### Patterns by their magnitude -/

/-- The number of units that the magnitude bits `g` of a pattern stand for, were the exponent field unbounded (R44). -/
def gridUnits (p g : ℕ) : ℕ := if g / 2 ^ p = 0 then g % 2 ^ p else (2 ^ p + g % 2 ^ p) * 2 ^ (g / 2 ^ p - 1)

section
variable {p g h j N : ℕ}

/-- The pattern `j` binades up at `N` units of the last place stands for N · 2^j units. -/
theorem gridUnits_eq (hN : N ≤ 2 ^ (p + 1)) (hj : j = 0 ∨ 2 ^ p ≤ N) : gridUnits p (j * 2 ^ p + N) = N * 2 ^ j := by
  have hpos : 0 < 2 ^ p := Nat.two_pow_pos p
  rw [pow_succ] at hN
  unfold gridUnits
  rcases Nat.lt_or_ge N (2 ^ p) with hlt | hge
  · have hj0 : j = 0 := hj.resolve_right hlt.not_ge
    simp [hj0, Nat.div_eq_of_lt hlt, Nat.mod_eq_of_lt hlt]
  rcases Nat.lt_or_eq_of_le hN with hlt | rfl
  · have hdiv : (j * 2 ^ p + N) / 2 ^ p = j + 1 := by
      rw [Nat.mul_comm, Nat.mul_add_div hpos, Nat.div_eq_of_lt_le (k := 1) (by omega) (by omega)]
    have hmod : (j * 2 ^ p + N) % 2 ^ p = N - 2 ^ p := by
      rw [Nat.mul_comm, Nat.mul_add_mod, Nat.mod_eq_sub_mod hge, Nat.mod_eq_of_lt (by omega)]
    rw [hdiv, hmod, if_neg j.succ_ne_zero, Nat.add_sub_cancel, Nat.add_sub_cancel' hge]
  · have hdiv : (j * 2 ^ p + 2 ^ p * 2) / 2 ^ p = j + 2 := by
      rw [Nat.mul_comm j, Nat.mul_add_div hpos, Nat.mul_div_cancel_left _ hpos]
    have hmod : (j * 2 ^ p + 2 ^ p * 2) % 2 ^ p = 0 := by
      rw [Nat.mul_comm j, Nat.mul_add_mod, Nat.mul_mod_right]
    rw [hdiv, hmod, if_neg (by omega), Nat.add_zero, show j + 2 - 1 = j + 1 by omega, pow_succ]
    ring

theorem gridUnits_zero (p : ℕ) : gridUnits p 0 = 0 := by simp [gridUnits]

theorem exists_binade (p g : ℕ) : ∃ j N, g = j * 2 ^ p + N ∧ N < 2 ^ (p + 1) ∧ (j = 0 ∨ 2 ^ p ≤ N) := by
  have hmod := Nat.mod_lt g (Nat.two_pow_pos p)
  have hg := Nat.div_add_mod' g (2 ^ p)
  rw [pow_succ]
  rcases hd : g / 2 ^ p with _ | j
  · exact ⟨0, g, by simp, by rw [hd] at hg; omega, .inl rfl⟩
  · refine ⟨j, 2 ^ p + g % 2 ^ p, ?_, by omega, .inr (by omega)⟩
    rw [hd, Nat.succ_mul] at hg
    omega

theorem gridUnits_strictMono (p : ℕ) : StrictMono (gridUnits p) := strictMono_nat_of_lt_succ fun g => by
  obtain ⟨j, N, rfl, hN, hj⟩ := exists_binade p g
  rw [Nat.add_assoc, gridUnits_eq hN.le hj, gridUnits_eq hN (hj.imp_right Nat.le_succ_of_le)]
  exact Nat.mul_lt_mul_of_pos_right N.lt_succ_self (Nat.two_pow_pos j)

end

/-! ### Formats -/

/-- What the formats have in common: a fraction and a bias, and the largest finite pattern and the canonical NaN where R44 to R46 have them. -/
structure Fmt.Sound (f : Fmt) : Prop where
  fbits_pos : 0 < f.fbits
  bias_pos : 0 < f.bias
  ebits_pos : 0 < f.ebits
  top : (if f.finiteOnly then f.canonical - 1 else f.canonical - 2 ^ (f.fbits - 1) - 1) = f.maxMag
  nan : f.nan = f.canonical
  maxMag_lt : f.maxMag < 2 ^ (f.ebits + f.fbits)
  infMag : f.finiteOnly = false → f.infMag = f.maxMag + 1

theorem Fmt.sound_ofCode {t : ℕ} (ht : t ≤ 5) : (Fmt.ofCode t).Sound := by
  interval_cases t <;> constructor <;> decide

section
variable {f : Fmt} {v g : ℕ}

theorem Fmt.width_pred (f : Fmt) : f.width - 1 = f.ebits + f.fbits := by
  unfold Fmt.width
  omega

theorem Fmt.withSign_eq (f : Fmt) (neg : Bool) (mag : ℕ) : f.withSign neg mag = (if neg then 2 ^ (f.width - 1) else 0) + mag := by
  rw [Fmt.width_pred]
  rfl

/-- The units of a pattern are those of its magnitude bits. -/
theorem Fmt.units_eq (f : Fmt) (v : ℕ) : f.units v = gridUnits f.fbits (f.mag v) := by
  unfold Fmt.units Fmt.exponent Fmt.fraction Fmt.mag low gridUnits
  rw [Nat.add_comm f.ebits, pow_add, Nat.mod_mul_right_div_self, Nat.mod_mul_right_mod]

theorem Fmt.units_of_lt (hg : g < 2 ^ (f.ebits + f.fbits)) : f.units g = gridUnits f.fbits g := by
  rw [f.units_eq, Fmt.mag, low, Nat.mod_eq_of_lt hg]

end

/-! ### The binade of a number -/

section
variable {p : ℕ} {y z : ℝ} {t : ℤ}

/-- A power of two that keeps a number in its binade is 1. -/
theorem shift_eq_zero (hlo : (2 : ℝ) ^ p ≤ y) (hhi : y < 2 ^ (p + 1)) (hlo' : 2 ^ p ≤ y * 2 ^ t) (hhi' : y * 2 ^ t < 2 ^ (p + 1)) : t = 0 := by
  have hy : 0 < y := hlo.trans_lt' (by positivity)
  rw [pow_succ] at hhi hhi'
  rcases lt_trichotomy t 0 with h | h | h
  · have : (2 : ℝ) ^ t ≤ 2 ^ (-1 : ℤ) := zpow_le_zpow_right₀ one_le_two (by omega)
    norm_num at this
    nlinarith
  · exact h
  · have : (2 : ℝ) ^ (1 : ℤ) ≤ 2 ^ t := zpow_le_zpow_right₀ one_le_two (by omega)
    norm_num at this
    nlinarith

/-- A number of a binade, shifted, is below the binade just where it is shifted down. -/
theorem shifted_lt_iff (hlo : (2 : ℝ) ^ p ≤ y) (hhi : y < 2 ^ (p + 1)) : y * 2 ^ t < 2 ^ p ↔ t < 0 := by
  have hy : 0 < y := hlo.trans_lt' (by positivity)
  rw [pow_succ] at hhi
  constructor
  · intro h
    by_contra ht
    have : (1 : ℝ) ≤ 2 ^ t := one_le_zpow₀ one_le_two (by omega)
    nlinarith
  · intro h
    have : (2 : ℝ) ^ t ≤ 2 ^ (-1 : ℤ) := zpow_le_zpow_right₀ one_le_two (by omega)
    norm_num at this
    nlinarith

end

/-! ### What the model delivers -/

/-- The exponent of the last place of m · 2^e at `fbits + 1` bits, whatever the exponent range (R50). -/
def Fmt.freeExp (f : Fmt) (m : ℕ) (e : ℤ) : ℤ := e + Nat.log2 m - f.fbits

/-- The exponent of the last place of m · 2^e in the format: no less than that of the smallest subnormal number (R48). -/
def Fmt.lastExp (f : Fmt) (m : ℕ) (e : ℤ) : ℤ := if f.freeExp m e < -(f.scale : ℤ) then -(f.scale : ℤ) else f.freeExp m e

/-- The model's test of R50 that a number is tiny, at the exponent of its last place whatever the exponent range. -/
def Fmt.tinyAt (f : Fmt) (rm : Rm) (neg : Bool) (m : ℕ) (e : ℤ) (sticky : Bool) : Bool :=
  decide (f.freeExp m e < -(f.scale : ℤ))
    && !(decide (f.freeExp m e = -(f.scale : ℤ) - 1) && decide ((roundAt rm neg m e (f.freeExp m e) sticky).1 = 2 ^ (f.fbits + 1)))

section
variable {f : Fmt} {c : Magnitude} {m : ℕ} {e : ℤ} {sticky : Bool} {x z : ℝ}

theorem Fmt.Sound.scale_eq (hf : f.Sound) : 1 - (f.bias : ℤ) - f.fbits = -(f.scale : ℤ) := by
  have := hf.bias_pos
  unfold Fmt.scale
  omega

theorem Fmt.Sound.roundMag_eq (hf : f.Sound) (rm : Rm) (sat neg : Bool) (m : ℕ) (e : ℤ) (sticky : Bool) :
    roundMag f rm sat neg m e sticky =
      let r := roundAt rm neg m e (f.lastExp m e) sticky
      let mag := (f.lastExp m e + f.scale).toNat * 2 ^ f.fbits + r.1
      if f.maxMag < mag then { bits := overflowBits f rm sat neg, flags := 5 }
      else { bits := f.withSign neg mag, flags := flagIf r.2 1 ||| flagIf (f.tinyAt rm neg m e sticky && r.2) 2 } := by
  unfold roundMag
  rw [hf.scale_eq]
  simp only [sub_neg_eq_add]
  rfl

/-- A number at an exponent of its own, and its units. -/
theorem zpow_through (z : ℝ) (e q k : ℤ) : z * 2 ^ (e - q) * 2 ^ (q + k) = z * 2 ^ (e + k) := by
  rw [mul_assoc, ← zpow_add₀ two_ne_zero]
  congr 2
  ring

/-- A truncated number at the exponent of its last place has `fbits + 1` bits. -/
theorem Truncated.binade (h : Truncated m sticky z) (hm : m ≠ 0) (f : Fmt) (e : ℤ) :
    2 ^ f.fbits ≤ z * 2 ^ (e - f.freeExp m e) ∧ z * 2 ^ (e - f.freeExp m e) < 2 ^ (f.fbits + 1) := by
  have hlo : (2 : ℝ) ^ Nat.log2 m ≤ z := le_trans (by exact_mod_cast Nat.log2_self_le hm) h.le
  have hhi : z < 2 ^ (Nat.log2 m + 1) := h.lt_two_pow Nat.lt_log2_self
  have hpow : (2 : ℝ) ^ (e - f.freeExp m e) * 2 ^ Nat.log2 m = 2 ^ f.fbits := by
    rw [← zpow_natCast, ← zpow_add₀ two_ne_zero, ← zpow_natCast]
    congr 1
    unfold Fmt.freeExp
    ring
  have hpos : (0 : ℝ) < 2 ^ (e - f.freeExp m e) := by positivity
  rw [pow_succ] at hhi ⊢
  constructor <;> nlinarith

/-- A truncated number at the exponent of its last place in the format has `fbits + 1` bits, or fewer where that place is the smallest
subnormal number. -/
theorem Truncated.lastBinade (h : Truncated m sticky z) (hm : m ≠ 0) (f : Fmt) (e : ℤ) :
    (f.lastExp m e = -(f.scale : ℤ) ∨ 2 ^ f.fbits ≤ z * 2 ^ (e - f.lastExp m e)) ∧ z * 2 ^ (e - f.lastExp m e) < 2 ^ (f.fbits + 1) := by
  obtain ⟨hlo, hhi⟩ := h.binade hm f e
  unfold Fmt.lastExp
  split
  case isTrue hlt =>
    refine ⟨.inl rfl, ?_⟩
    rw [sub_neg_eq_add, ← zpow_through z e (f.freeExp m e)]
    exact ((shifted_lt_iff hlo hhi).2 (by omega)).trans_le (pow_le_pow_right₀ one_le_two (Nat.le_succ _))
  case isFalse => exact ⟨.inr hlo, hhi⟩

/-- A number of a binade, shifted, is tiny where it is shifted down and what it rounds to unshifted stays below the smallest normal number. -/
theorem Magnitude.Is.tiny_iff {y : ℝ} {t : ℤ} {rm : Rm} {neg : Bool} {n : ℕ} (hc : c.Is (y * 2 ^ t)) (hlo : (2 : ℝ) ^ f.fbits ≤ y)
    (hhi : y < 2 ^ (f.fbits + 1)) (hround : Rounds (rm.direction neg) y n) :
    c.tiny f rm neg ↔ t < 0 ∧ ∀ i : ℕ, t + i = 0 → n < 2 ^ (f.fbits + i) := by
  have hshift : ∀ i : ℕ, y * 2 ^ t * 2 ^ i = y * 2 ^ (t + i) := fun i => by rw [mul_assoc, ← zpow_natCast, ← zpow_add₀ two_ne_zero]
  have hbelow : c (2 ^ f.fbits) 1 = .gt ↔ t < 0 := by
    rw [hc.gt_iff Nat.one_pos, Nat.cast_one, mul_one, Nat.cast_pow, Nat.cast_ofNat, shifted_lt_iff hlo hhi]
  have hplace : ∀ i : ℕ, c (2 ^ f.fbits) (2 ^ i) ≠ .gt ∧ c (2 ^ (f.fbits + 1)) (2 ^ i) = .gt ↔ t + i = 0 := fun i => by
    rw [hc.ne_gt_iff (by positivity), hc.gt_iff (by positivity)]
    push_cast
    rw [hshift]
    exact ⟨fun h => shift_eq_zero hlo hhi h.1 h.2, fun h => by rw [h, zpow_zero, mul_one]; exact ⟨hlo, hhi⟩⟩
  have hunique : ∀ i N : ℕ, t + i = 0 → (c.roundsTo rm neg 1 (2 ^ i) N ↔ N = n) := fun i N hi => by
    have hy : y * 2 ^ t * ((2 ^ i : ℕ) : ℝ) / (1 : ℕ) = y := by
      push_cast
      rw [hshift, hi, zpow_zero, mul_one, div_one]
    rw [hc.roundsTo_iff (mul_nonneg (hlo.trans' (by positivity)) (by positivity)) Nat.one_pos (by positivity), hy]
    exact ⟨fun h => h.unique hround, fun h => h ▸ hround⟩
  unfold Magnitude.tiny
  rw [hbelow]
  refine and_congr_right fun _ => ⟨fun h i hi => ?_, fun h i N hle hgt hN => ?_⟩
  · obtain ⟨hle, hgt⟩ := (hplace i).2 hi
    exact h i n hle hgt ((hunique i n hi).2 rfl)
  · have hi := (hplace i).1 ⟨hle, hgt⟩
    exact (hunique i N hi).1 hN ▸ h i hi

/-- The model tells a tiny number as R50 does. -/
theorem tiny_iff_tinyAt (hc : c.Is x) (hz : Truncated m sticky z) (hm : m ≠ 0) (hs : sticky = true → f.fbits < Nat.log2 m)
    (hx : x = z * 2 ^ (e + f.scale)) (rm : Rm) (neg : Bool) : c.tiny f rm neg ↔ f.tinyAt rm neg m e sticky = true := by
  obtain ⟨hlo, hhi⟩ := hz.binade hm f e
  obtain ⟨hround, -⟩ := roundAt_rounds (e := e) (q := f.freeExp m e) hz (fun h => by have := hs h; unfold Fmt.freeExp; omega) rm neg
  rw [hx, ← zpow_through z e (f.freeExp m e)] at hc
  rw [hc.tiny_iff hlo hhi hround]
  simp only [Fmt.tinyAt, Bool.and_eq_true, Bool.not_eq_true', Bool.and_eq_false_imp, decide_eq_true_eq, decide_eq_false_iff_not]
  have hn := hround.le_of_lt (K := 2 ^ (f.fbits + 1)) (by exact_mod_cast hhi)
  have hdown : f.freeExp m e + f.scale < 0 ↔ f.freeExp m e < -(f.scale : ℤ) := by omega
  rw [hdown]
  refine and_congr_right fun hlt => ⟨fun h hone hn2 => ?_, fun h i hi => ?_⟩
  · exact (h 1 (by omega)).ne hn2
  · rcases Nat.lt_or_ge i 2 with hi2 | hi2
    · obtain rfl : i = 1 := by omega
      exact lt_of_le_of_ne hn (h (by omega))
    · exact hn.trans_lt (Nat.pow_lt_pow_right Nat.one_lt_two (by omega))

theorem overflowBits_eq (hf : f.Sound) (rm : Rm) (sat neg : Bool) :
    overflowBits f rm sat neg =
      if sat ∨ rm = .rtz ∨ rm = .rdn ∧ neg = false ∨ rm = .rup ∧ neg = true then (if neg then 2 ^ (f.width - 1) else 0) + f.maxMag
      else if f.finiteOnly then f.canonical else (if neg then 2 ^ (f.width - 1) else 0) + f.maxMag + 1 := by
  have hmode : (sat || !overflowToInf rm neg) = true ↔ sat ∨ rm = .rtz ∨ rm = .rdn ∧ neg = false ∨ rm = .rup ∧ neg = true := by
    cases rm <;> simp [overflowToInf]
  unfold overflowBits
  simp only [hmode, f.withSign_eq, hf.nan]
  cases hfin : f.finiteOnly
  case true => simp
  case false => simp [hf.infMag hfin, Nat.add_assoc]

theorem Magnitude.Is.binade {j : ℕ} (hc : c.Is x) (hlo : j = 0 ∨ (2 : ℝ) ^ f.fbits ≤ x / 2 ^ j) (hhi : x / 2 ^ j < 2 ^ (f.fbits + 1)) :
    c.binade f j := by
  have hpow : (0 : ℝ) < 2 ^ j := by positivity
  refine ⟨hlo.imp_right fun h => ?_, ?_⟩
  · rw [hc.ne_gt_iff Nat.one_pos, Nat.cast_one, mul_one]
    push_cast
    rwa [pow_add, ← le_div_iff₀ hpow]
  · rw [hc.gt_iff Nat.one_pos, Nat.cast_one, mul_one]
    push_cast
    rwa [pow_add _ (f.fbits + 1), ← div_lt_iff₀ hpow]

/-- A number of units of a last place is no greater than the largest finite number just where its pattern is. -/
theorem Fmt.Sound.le_top_iff {j N : ℕ} (hf : f.Sound) (hunits : gridUnits f.fbits (j * 2 ^ f.fbits + N) = N * 2 ^ j) :
    N * 2 ^ j ≤ f.units f.maxMag ↔ j * 2 ^ f.fbits + N ≤ f.maxMag := by
  rw [← hunits, Fmt.units_of_lt hf.maxMag_lt, (gridUnits_strictMono _).le_iff_le]

/-- Rounding into a format delivers what R48, R50 and R53 say of the exact number. -/
theorem roundMag_delivers (hf : f.Sound) (hc : c.Is x) (hz : Truncated m sticky z) (hm : m ≠ 0) (hs : sticky = true → f.fbits < Nat.log2 m)
    (hx : x = z * 2 ^ (e + f.scale)) (rm : Rm) (sat neg : Bool) : c.delivers f rm sat neg (roundMag f rm sat neg m e sticky) := by
  have hfree : f.freeExp m e ≤ f.lastExp m e := by unfold Fmt.lastExp; split <;> omega
  obtain ⟨j, hj⟩ : ∃ j : ℕ, f.lastExp m e + f.scale = j := ⟨(f.lastExp m e + f.scale).toNat, by unfold Fmt.lastExp; split <;> omega⟩
  obtain ⟨hround, hexact⟩ := roundAt_rounds (e := e) (q := f.lastExp m e) hz (fun h => by have := hs h; unfold Fmt.freeExp at hfree; omega) rm neg
  obtain ⟨hlo, hhi⟩ := hz.lastBinade hm f e
  have hpow : (0 : ℝ) < 2 ^ j := by positivity
  have hy : z * 2 ^ (e - f.lastExp m e) = x / 2 ^ j := by
    rw [eq_div_iff hpow.ne', ← zpow_natCast, ← hj, zpow_through, hx]
  have hx0 : 0 ≤ x := hx ▸ mul_nonneg (hz.le.trans' m.cast_nonneg) (by positivity)
  rw [hy] at hround hexact hlo hhi
  set N := (roundAt rm neg m e (f.lastExp m e) sticky).1
  have hlo' : j = 0 ∨ (2 : ℝ) ^ f.fbits ≤ x / 2 ^ j := hlo.imp_left fun h => by omega
  have hroundsTo : c.roundsTo rm neg (2 ^ j) 1 N := by
    rw [hc.roundsTo_iff hx0 (by positivity) Nat.one_pos]
    simpa using hround
  have hunits : gridUnits f.fbits (j * 2 ^ f.fbits + N) = N * 2 ^ j :=
    gridUnits_eq (hround.le_of_lt (by exact_mod_cast hhi)) (hlo'.imp_right fun h => hround.ge_of_le (by exact_mod_cast h))
  have hsame : c (N * 2 ^ j) 1 = .eq ↔ (roundAt rm neg m e (f.lastExp m e) sticky).2 = false := by
    rw [hexact, hc.eq_iff Nat.one_pos, eq_div_iff hpow.ne']
    simp
  unfold Magnitude.delivers
  rw [hf.top]
  refine ⟨j, N, hc.binade hlo' hhi, hroundsTo, ?_⟩
  rw [hf.roundMag_eq, hj, Int.toNat_natCast]
  dsimp only
  by_cases hle : j * 2 ^ f.fbits + N ≤ f.maxMag
  · rw [if_pos ((hf.le_top_iff hunits).2 hle), if_neg (not_lt.2 hle)]
    refine ⟨_, hle, (Fmt.units_of_lt (hle.trans_lt hf.maxMag_lt)).trans hunits, f.withSign_eq neg _, ?_⟩
    rw [tiny_iff_tinyAt hc hz hm hs hx rm neg]
    simp only [hsame]
    cases (roundAt rm neg m e (f.lastExp m e) sticky).2 <;> cases f.tinyAt rm neg m e sticky <;> simp [flagIf]
  · rw [if_neg (mt (hf.le_top_iff hunits).1 hle), if_pos (not_le.1 hle)]
    exact ⟨rfl, overflowBits_eq hf rm sat neg⟩

end

end Sys2Proof.Machine

/-! Values and what the operations on finite numbers give: products, sums, quotients and roots, exact and rounded once (R44, R49 to R53, R55). -/

namespace Sys2Proof.Machine

/-! ### The value of a pattern by its fields -/

/-- The integer significand of a finite pattern (R44). -/
def Fmt.significand (f : Fmt) (v : ℕ) : ℕ := if f.exponent v = 0 then f.fraction v else 2 ^ f.fbits + f.fraction v

/-- How many binades above the lowest a finite pattern lies (R44). -/
def Fmt.place (f : Fmt) (v : ℕ) : ℕ := f.exponent v - 1

section
variable {f : Fmt} {v : ℕ}

theorem Fmt.sign_eq (f : Fmt) (v : ℕ) : f.sign v = f.negative v := by
  rw [Fmt.sign, Fmt.negative, f.width_pred, bitsOf, pow_one]
  rfl

theorem Fmt.units_eq_significand (f : Fmt) (v : ℕ) : f.units v = f.significand v * 2 ^ f.place v := by
  unfold Fmt.units Fmt.significand Fmt.place
  split
  case isTrue h => rw [h, pow_zero, mul_one]
  case isFalse => rfl

/-- What a pattern stands for, by the predicates on its fields (R44, R45). -/
theorem Fmt.Sound.value_eq (hf : f.Sound) (v : ℕ) : f.value v =
    if f.isNaN v then .nan (f.isSignalling v) else if f.isInf v then .inf (f.negative v)
    else .fin (f.negative v) (f.significand v) (f.place v - f.scale) := by
  have hplace : f.exponent v = 0 ∨ (f.exponent v : ℤ) - f.bias - f.fbits = f.place v - f.scale := by
    have := hf.scale_eq
    unfold Fmt.place
    omega
  have hplace0 : f.exponent v = 0 → f.place v = 0 := fun h => by rw [Fmt.place, h]
  have hvalue : f.value v = if f.finiteOnly ∧ f.exponent v = 2 ^ f.ebits - 1 ∧ f.fraction v = 2 ^ f.fbits - 1 then .nan false
      else if ¬ f.finiteOnly ∧ f.exponent v = 2 ^ f.ebits - 1 then
        (if f.fraction v = 0 then .inf (f.sign v) else .nan (f.fraction v < 2 ^ (f.fbits - 1)))
      else if f.exponent v = 0 then .fin (f.sign v) (f.fraction v) (1 - (f.bias : Int) - f.fbits)
      else .fin (f.sign v) (2 ^ f.fbits + f.fraction v) ((f.exponent v : Int) - f.bias - f.fbits) := rfl
  have hfinite : (if f.exponent v = 0 then FVal.fin (f.sign v) (f.fraction v) (1 - (f.bias : Int) - f.fbits)
      else .fin (f.sign v) (2 ^ f.fbits + f.fraction v) ((f.exponent v : Int) - f.bias - f.fbits))
      = .fin (f.negative v) (f.significand v) (f.place v - f.scale) := by
    unfold Fmt.significand
    split
    case isTrue h => rw [f.sign_eq, hf.scale_eq, hplace0 h, Nat.cast_zero, zero_sub]
    case isFalse h => rw [f.sign_eq, hplace.resolve_left h]
  rw [hvalue, hfinite]
  unfold Fmt.isSignalling Fmt.isNaN Fmt.isInf
  cases f.finiteOnly
  case true => simp
  case false =>
    by_cases he : f.exponent v = 2 ^ f.ebits - 1
    · by_cases hm : f.fraction v = 0 <;> simp [he, hm, f.sign_eq]
    · simp [he]

theorem Fmt.Sound.value_of_isNaN (hf : f.Sound) (h : f.isNaN v = true) : f.value v = .nan (f.isSignalling v) := by
  rw [hf.value_eq, if_pos h]

theorem Fmt.isNaN_of_isInf (h : f.isInf v = true) : f.isNaN v = false := by
  unfold Fmt.isInf at h
  unfold Fmt.isNaN
  simp_all

theorem Fmt.Sound.value_of_isInf (hf : f.Sound) (h : f.isInf v = true) : f.value v = .inf (f.negative v) := by
  rw [hf.value_eq, if_neg (by simp [Fmt.isNaN_of_isInf h]), if_pos h]

theorem Fmt.Sound.value_of_isFinite (hf : f.Sound) (h : f.isFinite v = true) :
    f.value v = .fin (f.negative v) (f.significand v) (f.place v - f.scale) := by
  obtain ⟨hnan, hinf⟩ : f.isNaN v = false ∧ f.isInf v = false := by simpa [Fmt.isFinite] using h
  rw [hf.value_eq, hnan, hinf]
  rfl

end

/-! ### Finite values as real numbers -/

/-- A magnitude with a sign. -/
def negIf (neg : Bool) (x : ℝ) : ℝ := if neg then -x else x

/-- The value is the finite number `x`, of the sign `neg` even where it is zero. -/
def FVal.Is (v : FVal) (neg : Bool) (x : ℝ) : Prop := ∃ (m : ℕ) (e : ℤ), v = .fin neg m e ∧ x = negIf neg (m * 2 ^ e)

section
variable {f : Fmt} {a b : FVal} {p q neg : Bool} {x y : ℝ} {v : ℕ}

theorem two_zpow_mul (i j : ℤ) : (2 : ℝ) ^ i * 2 ^ j = 2 ^ (i + j) := (zpow_add₀ two_ne_zero i j).symm

theorem signed_mul (p q : Bool) (x y : ℝ) : negIf p x * negIf q y = negIf (p != q) (x * y) := by
  cases p <;> cases q <;> simp [negIf]

theorem signed_eq_zero : negIf p x = 0 ↔ x = 0 := by
  cases p <;> simp [negIf]

theorem Fmt.number_cast (f : Fmt) (v : ℕ) : (f.number v : ℝ) = negIf (f.negative v) (f.units v) := by
  unfold Fmt.number negIf
  split <;> simp

/-- A finite pattern's value is its number of units of the smallest subnormal number. -/
theorem Fmt.Sound.value_is (hf : f.Sound) (h : f.isFinite v = true) : (f.value v).Is (f.negative v) (f.number v / 2 ^ f.scale) := by
  refine ⟨_, _, hf.value_of_isFinite h, ?_⟩
  rw [f.number_cast, f.units_eq_significand, zpow_sub₀ two_ne_zero, zpow_natCast, zpow_natCast]
  cases f.negative v <;> simp [negIf, mul_div_assoc, neg_div]

theorem FVal.Is.mul (ha : a.Is p x) (hb : b.Is q y) : (mulVal a b).Is (p != q) (x * y) := by
  obtain ⟨m, e, rfl, rfl⟩ := ha
  obtain ⟨n, k, rfl, rfl⟩ := hb
  refine ⟨m * n, e + k, rfl, ?_⟩
  rw [signed_mul, ← two_zpow_mul, Nat.cast_mul]
  congr 1
  ring

theorem FVal.Is.negate (ha : a.Is p x) : a.negate.Is (!p) (-x) := by
  obtain ⟨m, e, rfl, rfl⟩ := ha
  exact ⟨m, e, rfl, by cases p <;> simp [negIf]⟩

/-- The sign of an exact sum of two numbers (R51). -/
noncomputable def sumSign (rm : Rm) (p q : Bool) (x : ℝ) : Bool :=
  if x = 0 then (if p = q then p else rm == .rdn) else decide (x < 0)

/-- The term of a sum, in units of 2^k. -/
theorem term_cast {e k : ℤ} (h : k ≤ e) (p : Bool) (m : ℕ) :
    (((if p then -((m * 2 ^ (e - k).toNat : ℕ) : ℤ) else ((m * 2 ^ (e - k).toNat : ℕ) : ℤ)) : ℤ) : ℝ) * 2 ^ k = negIf p (m * 2 ^ e) := by
  have hpow : ((m * 2 ^ (e - k).toNat : ℕ) : ℝ) * 2 ^ k = m * 2 ^ e := by
    rw [Nat.cast_mul, Nat.cast_pow, Nat.cast_ofNat, ← zpow_natCast, Int.toNat_of_nonneg (by omega), mul_assoc, two_zpow_mul, sub_add_cancel]
  cases p
  · simpa [negIf] using hpow
  · simpa [negIf] using hpow

/-- The model's exact sum of two finite terms. -/
theorem sumVal_fin (rm : Rm) (p q : Bool) (m n : ℕ) (e k : ℤ) :
    let t : List FVal := [.fin p m e, .fin q n k]
    sumVal rm t = if sumAt (minExp t 0) t = 0 then .fin (allZeros true t || (rm == .rdn && !allZeros false t)) 0 0
      else .fin (decide (sumAt (minExp t 0) t < 0)) (sumAt (minExp t 0) t).natAbs (minExp t 0) := by
  simp [sumVal, FVal.isNan]

theorem minExp_le (p q : Bool) (m n : ℕ) (e k : ℤ) : minExp [.fin p m e, .fin q n k] 0 ≤ e ∧ minExp [.fin p m e, .fin q n k] 0 ≤ k := by
  simp only [minExp]
  omega

theorem negIf_natAbs (z : ℤ) (u : ℝ) : negIf (decide (z < 0)) (z.natAbs * u) = z * u := by
  rw [Nat.cast_natAbs, Int.cast_abs]
  rcases lt_or_ge z 0 with h | h
  · simp [negIf, h, abs_of_neg (Int.cast_lt_zero.2 h)]
  · simp [negIf, h.not_gt, abs_of_nonneg (Int.cast_nonneg h)]

/-- The model gives a sum of nothing the sign that R51 gives. -/
theorem zeroSign_eq {m n : ℕ} {e k : ℤ} (rm : Rm) (h : negIf p (m * 2 ^ e) + negIf q (n * 2 ^ k) = 0) :
    let t : List FVal := [.fin p m e, .fin q n k]
    (allZeros true t || (rm == .rdn && !allZeros false t)) = if p = q then p else rm == .rdn := by
  by_cases hpq : p = q
  · subst hpq
    have h0 : m = 0 ∧ n = 0 := by
      have hsum : (m * 2 ^ e + n * 2 ^ k : ℝ) = 0 := by
        cases p <;> simp only [negIf, if_true, if_false, Bool.false_eq_true] at h <;> linarith
      have hm : (0 : ℝ) ≤ m * 2 ^ e := by positivity
      have hn : (0 : ℝ) ≤ n * 2 ^ k := by positivity
      obtain ⟨hm0, hn0⟩ := (add_eq_zero_iff_of_nonneg hm hn).1 hsum
      simpa [zpow_ne_zero] using And.intro hm0 hn0
    cases p <;> simp [allZeros, h0]
  · cases p <;> cases q <;> simp_all [allZeros]

theorem FVal.Is.sum (ha : a.Is p x) (hb : b.Is q y) (rm : Rm) : (sumVal rm [a, b]).Is (sumSign rm p q (x + y)) (x + y) := by
  obtain ⟨m, e, rfl, rfl⟩ := ha
  obtain ⟨n, k, rfl, rfl⟩ := hb
  obtain ⟨he, hk⟩ := minExp_le p q m n e k
  rw [sumVal_fin]
  set K := minExp [.fin p m e, .fin q n k] 0
  set z := sumAt K [.fin p m e, .fin q n k]
  have hpow : (0 : ℝ) < 2 ^ K := by positivity
  have hz : negIf p (m * 2 ^ e) + negIf q (n * 2 ^ k) = (z : ℝ) * 2 ^ K := by
    rw [← term_cast he, ← term_cast hk, ← add_mul]
    simp only [z, sumAt, add_zero, Int.cast_add]
  have hzero : (z : ℝ) * 2 ^ K = 0 ↔ z = 0 := by rw [mul_eq_zero, or_iff_left hpow.ne', Int.cast_eq_zero]
  have hneg : (z : ℝ) * 2 ^ K < 0 ↔ z < 0 := by
    rw [← Int.cast_lt_zero (R := ℝ)]
    exact ⟨fun h => neg_of_mul_neg_left h hpow.le, fun h => mul_neg_of_neg_of_pos h hpow⟩
  rw [sumSign, hz]
  by_cases h : z = 0
  · rw [if_pos h, if_pos (hzero.2 h), hzero.2 h]
    exact ⟨0, 0, by rw [zeroSign_eq rm (hz.trans (hzero.2 h))], by simp [negIf]⟩
  · rw [if_neg h, if_neg (mt hzero.1 h)]
    simp only [hneg]
    exact ⟨z.natAbs, K, rfl, (negIf_natAbs z _).symm⟩

/-! ### Rounding a value -/

/-- What a rounded magnitude delivers is what its number with its sign does. -/
theorem isNumber_of_delivers {r : FRes} {rm : Rm} {sat zero : Bool} {X : ℝ} {n : ℤ} {d : ℕ} (hd : 0 < d) (hX : 0 < X) (hn : (n : ℝ) / d = negIf neg X)
    (h : ∀ c : Magnitude, c.Is X → c.delivers f rm sat neg r) : r.isNumber f rm sat n d zero := by
  have hd' : (0 : ℝ) < d := by exact_mod_cast hd
  have hn' : (n : ℝ) = negIf neg X * d := by rw [← hn, div_mul_cancel₀ _ hd'.ne']
  have hn0 : n ≠ 0 := fun h0 => by
    rw [h0, Int.cast_zero, zero_div] at hn
    exact hX.ne' (signed_eq_zero.1 hn.symm)
  have hlt : n < 0 ↔ neg = true := by
    rw [← Int.cast_lt_zero (R := ℝ), hn']
    cases neg
    · simpa [negIf] using (mul_pos hX hd').le
    · simpa [negIf] using mul_pos hX hd'
  have hsign : decide (n < 0) = neg := Bool.eq_iff_iff.2 (decide_eq_true_iff.trans hlt)
  have habs : ((n.natAbs : ℕ) : ℝ) / d = X := by
    rw [Nat.cast_natAbs, Int.cast_abs, hn', abs_mul, abs_of_pos hd', mul_div_cancel_right₀ _ hd'.ne']
    cases neg <;> simp [negIf, abs_of_pos hX]
  rw [FRes.isNumber, if_neg hn0, hsign]
  exact h _ (habs ▸ ratio_is hd)

/-- A finite value rounds as its number of units does. -/
theorem FVal.Is.roundVal_isNumber (ha : a.Is neg x) (hf : f.Sound) (rm : Rm) (sat : Bool) {zero : Bool} {n : ℤ} {d : ℕ} (hd : 0 < d)
    (hx : x * 2 ^ f.scale = n / d) (hzero : n = 0 → neg = zero) : (roundVal f rm sat a).isNumber f rm sat n d zero := by
  obtain ⟨m, e, rfl, rfl⟩ := ha
  have hd' : (d : ℝ) ≠ 0 := by exact_mod_cast hd.ne'
  have hscaled : (n : ℝ) / d = negIf neg (m * 2 ^ (e + f.scale)) := by
    rw [← hx, ← two_zpow_mul, zpow_natCast]
    cases neg <;> simp [negIf, mul_assoc]
  by_cases hm : m = 0
  · have hn0 : n = 0 := by
      rw [hm, Nat.cast_zero, zero_mul, signed_eq_zero.2 rfl, div_eq_zero_iff, or_iff_left hd'] at hscaled
      exact_mod_cast hscaled
    rw [roundVal, if_pos hm, FRes.isNumber, if_pos hn0, f.withSign_eq, hzero hn0]
    exact ⟨rfl, rfl⟩
  · have hX : (0 : ℝ) < m * 2 ^ (e + f.scale) := mul_pos (by exact_mod_cast Nat.pos_of_ne_zero hm) (by positivity)
    rw [roundVal, if_neg hm]
    exact isNumber_of_delivers hd hX hscaled fun c hc =>
      roundMag_delivers hf hc (show Truncated m false m from rfl) hm Bool.noConfusion rfl rm sat neg

end

/-! ### Quotients -/

section
variable {f : Fmt} {a b : ℕ} {p q : Bool} {x y : ℝ}

theorem Truncated.div {m n : ℕ} (hn : 0 < n) : Truncated (m / n) (decide (m % n ≠ 0)) (m / n : ℝ) := by
  have hn' : (0 : ℝ) < n := by exact_mod_cast hn
  have hm : (n : ℝ) * (m / n : ℕ) + (m % n : ℕ) = m := by exact_mod_cast Nat.div_add_mod m n
  have hr : ((m % n : ℕ) : ℝ) < n := by exact_mod_cast Nat.mod_lt m hn
  unfold Truncated
  by_cases h : m % n = 0
  · rw [if_neg (by simpa using h), div_eq_iff hn'.ne', ← hm, h]
    push_cast
    ring
  · have hpos : (0 : ℝ) < (m % n : ℕ) := by exact_mod_cast Nat.pos_of_ne_zero h
    rw [if_pos (by simpa using h), lt_div_iff₀ hn', div_lt_iff₀ hn']
    constructor <;> linarith

/-- A quotient of two numbers is rounded once (R50, R75). -/
theorem divF_isNumber (hf : f.Sound) (ha : (f.value a).Is p x) (hb : (f.value b).Is q y) (hy : y ≠ 0) (rm : Rm) {n : ℤ} {d : ℕ} (hd : 0 < d)
    (hx : x / y * 2 ^ f.scale = n / d) : (divF f rm a b).isNumber f rm false n d (p != q) := by
  obtain ⟨m, e, hva, rfl⟩ := ha
  obtain ⟨l, k, hvb, rfl⟩ := hb
  have hl : l ≠ 0 := fun h => hy (by simp [negIf, h])
  have hquot : negIf (p != q) (m * 2 ^ e / (l * 2 ^ k) * 2 ^ f.scale) = n / d := by
    rw [← hx]
    cases p <;> cases q <;> simp [negIf, neg_div, div_neg]
  unfold divF
  rw [hva, hvb]
  dsimp only
  rw [if_neg hl]
  by_cases hm : m = 0
  · have hn0 : n = 0 := by
      have hd' : (d : ℝ) ≠ 0 := by exact_mod_cast hd.ne'
      have h0 : (n : ℝ) / d = 0 := by rw [← hquot, hm]; simp [negIf]
      exact_mod_cast (div_eq_zero_iff.1 h0).resolve_right hd'
    rw [if_pos hm, FRes.isNumber, if_pos hn0, f.withSign_eq]
    exact ⟨rfl, rfl⟩
  · have hm' : (0 : ℝ) < m := by exact_mod_cast Nat.pos_of_ne_zero hm
    have hl' : (0 : ℝ) < l := by exact_mod_cast Nat.pos_of_ne_zero hl
    rw [if_neg hm]
    refine isNumber_of_delivers hd (by positivity) hquot.symm fun c hc => ?_
    set j := f.fbits + 4 + Nat.log2 l
    have hlong : 2 ^ (f.fbits + 1) ≤ m * 2 ^ j / l := by
      rw [Nat.le_div_iff_mul_le (Nat.pos_of_ne_zero hl)]
      calc 2 ^ (f.fbits + 1) * l
        _ ≤ 2 ^ (f.fbits + 1) * 2 ^ (Nat.log2 l + 1) := Nat.mul_le_mul_left _ Nat.lt_log2_self.le
        _ = 2 ^ (f.fbits + 1 + (Nat.log2 l + 1)) := (pow_add ..).symm
        _ ≤ 2 ^ j := Nat.pow_le_pow_right Nat.two_pos (by omega)
        _ ≤ m * 2 ^ j := Nat.le_mul_of_pos_left _ (Nat.pos_of_ne_zero hm)
    have hne : m * 2 ^ j / l ≠ 0 := (Nat.two_pow_pos _).trans_le hlong |>.ne'
    refine roundMag_delivers hf hc (Truncated.div (Nat.pos_of_ne_zero hl)) hne (fun _ => (Nat.le_log2 hne).2 hlong) ?_ rm false _
    have hscale : (2 : ℝ) ^ (e - k - j + f.scale) = 2 ^ e / 2 ^ k / 2 ^ j * 2 ^ f.scale := by
      rw [zpow_add₀ two_ne_zero, zpow_sub₀ two_ne_zero, zpow_sub₀ two_ne_zero, zpow_natCast, zpow_natCast]
    rw [hscale]
    push_cast
    field_simp

end

/-! ### Roots -/

/-- The bits found from the top are those of the root. -/
theorem isqrtFrom_eq (n : ℕ) : ∀ b r, r * r ≤ n → n < (r + 2 ^ b) * (r + 2 ^ b) → isqrtFrom n b r = Nat.sqrt n
  | 0, _, hle, hlt => Nat.eq_sqrt.2 ⟨hle, hlt⟩
  | b + 1, r, hle, hlt => by
    rw [isqrtFrom]
    by_cases h : (r + 2 ^ b) * (r + 2 ^ b) ≤ n
    · rw [if_pos h]
      exact isqrtFrom_eq n b _ h (by rwa [Nat.add_assoc, ← Nat.two_mul, ← pow_succ'])
    · rw [if_neg h]
      exact isqrtFrom_eq n b _ hle (Nat.not_le.1 h)

theorem isqrt_eq_sqrt (n : ℕ) : isqrt n = Nat.sqrt n := by
  refine isqrtFrom_eq n _ 0 (Nat.zero_le n) ?_
  calc n
    _ < 2 ^ (Nat.log2 n + 1) := Nat.lt_log2_self
    _ ≤ 2 ^ (Nat.log2 n / 2 + 1 + (Nat.log2 n / 2 + 1)) := Nat.pow_le_pow_right Nat.two_pos (by omega)
    _ = _ := by rw [pow_add, Nat.zero_add]

section
variable {f : Fmt} {a : ℕ} {x : ℝ} {c : Magnitude}

/-- The integer root of a quotient is the root cut off, exactly where its square is the quotient. -/
theorem Truncated.sqrt_div (n : ℕ) {m : ℕ} (hm : 0 < m) :
    Truncated (Nat.sqrt (n / m)) (decide (Nat.sqrt (n / m) * Nat.sqrt (n / m) * m ≠ n)) √(n / m : ℝ) := by
  set r := Nat.sqrt (n / m)
  have hm' : (0 : ℝ) < m := by exact_mod_cast hm
  have hle : r * r * m ≤ n := (Nat.le_div_iff_mul_le hm).1 (Nat.sqrt_le _)
  have hlt : n < (r + 1) * (r + 1) * m := (Nat.div_lt_iff_lt_mul hm).1 (Nat.lt_succ_sqrt _)
  have hr : (r : ℝ) = √(r * r) := (Real.sqrt_mul_self r.cast_nonneg).symm
  unfold Truncated
  by_cases h : r * r * m = n
  · rw [if_neg (by simpa using h), hr, ← h]
    push_cast
    rw [mul_div_cancel_right₀ _ hm'.ne']
  · rw [if_pos (by simpa using h), Real.sqrt_lt' (by positivity), Real.lt_sqrt r.cast_nonneg, lt_div_iff₀ hm', div_lt_iff₀ hm', sq, sq]
    exact ⟨by exact_mod_cast lt_of_le_of_ne hle h, by exact_mod_cast hlt⟩

/-- A root with more bits than a format's significand. -/
theorem lt_log2_sqrt {p n : ℕ} (h : 2 ^ (2 * (p + 1)) ≤ n) : Nat.sqrt n ≠ 0 ∧ p < Nat.log2 (Nat.sqrt n) := by
  have hle : 2 ^ (p + 1) ≤ Nat.sqrt n := Nat.le_sqrt.2 (by rwa [← pow_add, ← Nat.two_mul])
  have hne : Nat.sqrt n ≠ 0 := ((Nat.two_pow_pos _).trans_le hle).ne'
  exact ⟨hne, (Nat.le_log2 hne).2 hle⟩

/-- A power of four comes out of a root. -/
theorem sqrt_mul_zpow {y : ℝ} {i h : ℤ} (hi : i = h + h) : √(y * 2 ^ i) = √y * 2 ^ h := by
  rw [Real.sqrt_mul' _ (by positivity), hi, ← two_zpow_mul, Real.sqrt_mul_self (by positivity)]

/-- A root is rounded once (R50, R75). -/
theorem sqrtF_delivers (hf : f.Sound) (ha : (f.value a).Is false x) (hx : 0 < x) (hc : c.Is (√x * 2 ^ f.scale)) (rm : Rm) :
    c.delivers f rm false false (sqrtF f rm a) := by
  obtain ⟨m, e, hva, rfl⟩ := ha
  have hm : m ≠ 0 := fun h => by simp [negIf, h] at hx
  unfold sqrtF
  rw [hva]
  simp only [hm, if_false, Bool.false_eq_true, isqrt_eq_sqrt]
  obtain ⟨j, hj, hlong, heven⟩ : ∃ j : ℕ, (if (e - (2 * (f.fbits + 4) : ℕ)) % 2 = 0 then 2 * (f.fbits + 4) else 2 * (f.fbits + 4) + 1) = j
      ∧ 2 * (f.fbits + 1) ≤ j ∧ e - j = (e - j) / 2 + (e - j) / 2 := ⟨_, rfl, by split <;> omega, by split <;> omega⟩
  rw [hj]
  have hbits : 2 ^ (2 * (f.fbits + 1)) ≤ m * 2 ^ j :=
    (Nat.pow_le_pow_right Nat.two_pos hlong).trans (Nat.le_mul_of_pos_left _ (Nat.pos_of_ne_zero hm))
  obtain ⟨hr0, hr⟩ := lt_log2_sqrt hbits
  have hcut := Truncated.sqrt_div (m * 2 ^ j) Nat.one_pos
  rw [Nat.div_one, Nat.mul_one, Nat.cast_one, div_one] at hcut
  refine roundMag_delivers hf hc hcut hr0 (fun _ => hr) ?_ rm false false
  have hsplit : negIf false ((m : ℝ) * 2 ^ e) = (m * 2 ^ j : ℕ) * 2 ^ (e - j) := by
    rw [Nat.cast_mul, Nat.cast_pow, Nat.cast_ofNat, ← zpow_natCast, mul_assoc, two_zpow_mul, add_sub_cancel]
    rfl
  rw [hsplit, sqrt_mul_zpow heven, ← two_zpow_mul, zpow_natCast, mul_assoc]

/-- A reciprocal root is rounded once (R50, R128). -/
theorem rsqrtF_delivers (hf : f.Sound) (ha : (f.value a).Is false x) (hx : 0 < x) (hc : c.Is (√x⁻¹ * 2 ^ f.scale)) (rm : Rm) :
    c.delivers f rm false false (rsqrtF f rm a) := by
  obtain ⟨m, e, hva, rfl⟩ := ha
  have hm : m ≠ 0 := fun h => by simp [negIf, h] at hx
  have hm' : 0 < m := Nat.pos_of_ne_zero hm
  unfold rsqrtF
  rw [hva]
  simp only [hm, if_false, Bool.false_eq_true, isqrt_eq_sqrt]
  obtain ⟨j, hj, hlong, heven⟩ : ∃ j : ℕ, (if (e + (Nat.log2 m + 2 * (f.fbits + 4) : ℕ)) % 2 = 0 then Nat.log2 m + 2 * (f.fbits + 4)
      else Nat.log2 m + 2 * (f.fbits + 4) + 1) = j ∧ 2 * (f.fbits + 1) + (Nat.log2 m + 1) ≤ j
      ∧ -(e + j) = -((e + j) / 2) + -((e + j) / 2) := ⟨_, rfl, by split <;> omega, by split <;> omega⟩
  rw [hj]
  have hbits : 2 ^ (2 * (f.fbits + 1)) ≤ 2 ^ j / m := by
    rw [Nat.le_div_iff_mul_le hm']
    calc 2 ^ (2 * (f.fbits + 1)) * m
      _ ≤ 2 ^ (2 * (f.fbits + 1)) * 2 ^ (Nat.log2 m + 1) := Nat.mul_le_mul_left _ Nat.lt_log2_self.le
      _ = 2 ^ (2 * (f.fbits + 1) + (Nat.log2 m + 1)) := (pow_add ..).symm
      _ ≤ 2 ^ j := Nat.pow_le_pow_right Nat.two_pos hlong
  obtain ⟨hr0, hr⟩ := lt_log2_sqrt hbits
  refine roundMag_delivers hf hc (Truncated.sqrt_div (2 ^ j) hm') hr0 (fun _ => hr) ?_ rm false false
  have hsplit : (negIf false ((m : ℝ) * 2 ^ e))⁻¹ = (2 ^ j : ℕ) / m * 2 ^ (-(e + j)) := by
    rw [negIf, if_neg Bool.false_ne_true, neg_add, ← two_zpow_mul, zpow_neg, zpow_neg, zpow_natCast]
    push_cast
    field_simp
  rw [hsplit, sqrt_mul_zpow heven, ← two_zpow_mul, zpow_natCast, mul_assoc]

end

end Sys2Proof.Machine

/-! What the operations give on finite numbers, in units of the smallest subnormal number (R49 to R53, R55), and on NaNs and infinities (R53, R56). -/

namespace Sys2Proof.Machine

/-! ### Finite operands -/

section
variable {f : Fmt} {a b d : ℕ} {u v : FVal} {p q : Bool} {x y : ℝ} (rm : Rm)

/-- An exact sum of two numbers is rounded once, with the zero's sign of R51. -/
theorem FVal.Is.roundSum (hf : f.Sound) (hu : u.Is p x) (hv : v.Is q y) {n : ℤ} {k : ℕ} (hk : 0 < k) (hn : (x + y) * 2 ^ f.scale = n / k) :
    (roundVal f rm false (sumVal rm [u, v])).isNumber f rm false n k (if p = q then p else rm == .rdn) := by
  refine (hu.sum hv rm).roundVal_isNumber hf rm false hk hn fun hn0 => ?_
  have hsum : x + y = 0 := by
    rw [hn0, Int.cast_zero, zero_div] at hn
    exact (mul_eq_zero.1 hn).resolve_right (by positivity)
  rw [sumSign, if_pos hsum]

theorem value_is_pos (hf : f.Sound) (ha : f.isFinite a = true) (hpos : 0 < f.number a) : (f.value a).Is false (f.number a / 2 ^ f.scale) := by
  have hneg : f.negative a = false := by
    by_contra h
    rw [Fmt.number, if_pos (Bool.eq_true_of_not_eq_false h)] at hpos
    omega
  exact hneg ▸ hf.value_is ha

section
variable (hf : f.Sound) (ha : f.isFinite a = true)
include hf ha

theorem addF_isNumber (hb : f.isFinite b = true) : (addF f rm a b).isNumber f rm false (f.number a + f.number b) 1
    (if f.negative a = f.negative b then f.negative a else rm == .rdn) :=
  (hf.value_is ha).roundSum rm hf (hf.value_is hb) Nat.one_pos (by push_cast; field_simp)

theorem subF_isNumber (hb : f.isFinite b = true) : (subF f rm a b).isNumber f rm false (f.number a - f.number b) 1
    (if f.negative a = !f.negative b then f.negative a else rm == .rdn) :=
  (hf.value_is ha).roundSum rm hf (hf.value_is hb).negate Nat.one_pos (by push_cast; field_simp; ring)

theorem mulF_isNumber (hb : f.isFinite b = true) : (mulF f rm a b).isNumber f rm false (f.number a * f.number b) (2 ^ f.scale)
    (f.negative a != f.negative b) :=
  ((hf.value_is ha).mul (hf.value_is hb)).roundVal_isNumber hf rm false (by positivity) (by push_cast; field_simp) fun _ => rfl

theorem fmaF_isNumber (hb : f.isFinite b = true) (hd : f.isFinite d = true) : (fmaF f rm a b d).isNumber f rm false
    (f.number a * f.number b + f.number d * (2 ^ f.scale : ℕ)) (2 ^ f.scale)
    (if (f.negative a != f.negative b) = f.negative d then f.negative a != f.negative b else rm == .rdn) :=
  ((hf.value_is ha).mul (hf.value_is hb)).roundSum rm hf (hf.value_is hd) (by positivity) (by push_cast; field_simp)

theorem fnmaF_isNumber (hb : f.isFinite b = true) (hd : f.isFinite d = true) : (fnmaF f rm a b d).isNumber f rm false
    (f.number d * (2 ^ f.scale : ℕ) - f.number a * f.number b) (2 ^ f.scale)
    (if (!(f.negative a != f.negative b)) = f.negative d then !(f.negative a != f.negative b) else rm == .rdn) :=
  ((hf.value_is ha).mul (hf.value_is hb)).negate.roundSum rm hf (hf.value_is hd) (by positivity) (by push_cast; field_simp; ring)

theorem divF_number_isNumber (hb : f.isFinite b = true) (hb0 : f.number b ≠ 0) : (divF f rm a b).isNumber f rm false
    (f.number a * (f.number b).sign * (2 ^ f.scale : ℕ)) (f.number b).natAbs (f.negative a != f.negative b) := by
  have hb0' : (f.number b : ℝ) ≠ 0 := by exact_mod_cast hb0
  refine divF_isNumber hf (hf.value_is ha) (hf.value_is hb) (div_ne_zero hb0' (by positivity)) rm (Int.natAbs_pos.2 hb0) ?_
  have habs : ((f.number b).natAbs : ℝ) = (f.number b).sign * f.number b := by
    rw [Nat.cast_natAbs, ← Int.sign_mul_self_eq_abs]
    push_cast
    rfl
  have hsign : ((f.number b).sign : ℝ) ≠ 0 := by exact_mod_cast mt Int.sign_eq_zero_iff_zero.1 hb0
  rw [habs]
  push_cast
  field_simp

theorem root_delivers (hpos : 0 < f.number a) : (root ((f.number a).natAbs * 2 ^ f.scale) 1).delivers f rm false false (sqrtF f rm a) := by
  have habs : ((f.number a).natAbs : ℝ) = f.number a := by rw [Nat.cast_natAbs, abs_of_pos hpos]
  have hpos' : (0 : ℝ) < f.number a := by exact_mod_cast hpos
  refine sqrtF_delivers hf (value_is_pos hf ha hpos) (by positivity) ?_ rm
  have hroot : √(f.number a / 2 ^ f.scale) * 2 ^ f.scale = √(((f.number a).natAbs * 2 ^ f.scale : ℕ) / (1 : ℕ)) := by
    rw [← Real.sqrt_mul_self (show (0 : ℝ) ≤ 2 ^ f.scale by positivity), ← Real.sqrt_mul (by positivity), Real.sqrt_mul_self (by positivity)]
    push_cast
    rw [habs]
    congr 1
    field_simp
  exact hroot ▸ root_is Nat.one_pos

theorem rsqrt_delivers (hpos : 0 < f.number a) :
    (root (2 ^ f.scale * 2 ^ f.scale * 2 ^ f.scale) (f.number a).natAbs).delivers f rm false false (rsqrtF f rm a) := by
  have habs : ((f.number a).natAbs : ℝ) = f.number a := by rw [Nat.cast_natAbs, abs_of_pos hpos]
  have hpos' : (0 : ℝ) < f.number a := by exact_mod_cast hpos
  refine rsqrtF_delivers hf (value_is_pos hf ha hpos) (by positivity) ?_ rm
  have hroot : √(f.number a / 2 ^ f.scale)⁻¹ * 2 ^ f.scale = √((2 ^ f.scale * 2 ^ f.scale * 2 ^ f.scale : ℕ) / ((f.number a).natAbs : ℕ)) := by
    rw [← Real.sqrt_mul_self (show (0 : ℝ) ≤ 2 ^ f.scale by positivity), ← Real.sqrt_mul (by positivity), Real.sqrt_mul_self (by positivity)]
    push_cast
    rw [habs]
    congr 1
    field_simp
  exact hroot ▸ root_is (Int.natAbs_pos.2 hpos.ne')

end

end

end Sys2Proof.Machine

/-! What the operations give on zeros, NaNs and infinities (R51, R53, R56). -/

namespace Sys2Proof.Machine

/-! ### Kinds of values -/

/-- Whether a value is an infinity. -/
def FVal.isInf : FVal → Bool
  | .inf _ => true
  | _ => false

/-- Whether a value is a zero. -/
def FVal.isZero : FVal → Bool
  | .fin _ m _ => m = 0
  | _ => false

/-- An infinity of a format as a result that raises nothing (R44). -/
def Fmt.infRes (f : Fmt) (neg : Bool) : FRes := { bits := f.withSign neg f.infMag, flags := 0 }

section
variable {f : Fmt} {v : ℕ} {a b : FVal} {p : Bool}

@[simp] theorem FVal.isNan_negate (a : FVal) : a.negate.isNan = a.isNan := by cases a <;> rfl
@[simp] theorem FVal.isSnan_negate (a : FVal) : a.negate.isSnan = a.isSnan := by cases a <;> rfl
@[simp] theorem FVal.isInf_negate (a : FVal) : a.negate.isInf = a.isInf := by cases a <;> rfl

theorem FVal.neg_negate (h : a.isNan = false) : a.negate.neg = !a.neg := by
  cases a
  case nan => cases h
  all_goals rfl

theorem FVal.isSnan_of_not_isNan (h : a.isNan = false) : a.isSnan = false := by
  cases a
  case nan => cases h
  all_goals rfl

/-- A pattern's value is of the kind that its fields tell. -/
theorem Fmt.Sound.value_kind (hf : f.Sound) (v : ℕ) : (f.value v).isNan = f.isNaN v ∧ (f.value v).isSnan = f.isSignalling v
    ∧ (f.value v).isInf = f.isInf v ∧ (f.isNaN v = false → (f.value v).neg = f.negative v) := by
  rw [hf.value_eq]
  cases hnan : f.isNaN v
  case true =>
    have hinf : f.isInf v = false := Bool.eq_false_of_not_eq_true fun h => by simp [Fmt.isNaN_of_isInf h] at hnan
    exact ⟨rfl, rfl, hinf.symm, Bool.noConfusion⟩
  case false =>
    have hsig : f.isSignalling v = false := by rw [Fmt.isSignalling, hnan]; rfl
    cases f.isInf v <;> exact ⟨rfl, hsig.symm, rfl, fun _ => rfl⟩

theorem Fmt.Sound.isNan_value (hf : f.Sound) (v : ℕ) : (f.value v).isNan = f.isNaN v := (hf.value_kind v).1
theorem Fmt.Sound.isSnan_value (hf : f.Sound) (v : ℕ) : (f.value v).isSnan = f.isSignalling v := (hf.value_kind v).2.1
theorem Fmt.Sound.isInf_value (hf : f.Sound) (v : ℕ) : (f.value v).isInf = f.isInf v := (hf.value_kind v).2.2.1
theorem Fmt.Sound.neg_value (hf : f.Sound) (h : f.isNaN v = false) : (f.value v).neg = f.negative v := (hf.value_kind v).2.2.2 h

theorem Fmt.units_eq_zero_iff (f : Fmt) (v : ℕ) : f.units v = 0 ↔ f.significand v = 0 := by
  rw [f.units_eq_significand, Nat.mul_eq_zero, or_iff_left (Nat.two_pow_pos _).ne']

/-- The zeros are the patterns of no units: a NaN or an infinity has its exponent field set. -/
theorem Fmt.Sound.isZero_value (hf : f.Sound) (v : ℕ) : (f.value v).isZero = decide (f.units v = 0) := by
  have hpos : 0 < 2 ^ f.ebits - 1 := Nat.sub_pos_of_lt (Nat.one_lt_two_pow hf.ebits_pos.ne')
  have hset : f.exponent v = 2 ^ f.ebits - 1 → f.units v ≠ 0 := fun h => by
    rw [Ne, f.units_eq_zero_iff, Fmt.significand, if_neg (by omega)]
    exact (Nat.add_pos_left (Nat.two_pow_pos _) _).ne'
  rw [hf.value_eq]
  cases hnan : f.isNaN v
  case true =>
    have he : f.exponent v = 2 ^ f.ebits - 1 := by
      rw [Fmt.isNaN, Bool.and_eq_true, beq_iff_eq] at hnan
      exact hnan.1
    simp [FVal.isZero, hset he]
  case false =>
    cases hinf : f.isInf v
    case true =>
      have he : f.exponent v = 2 ^ f.ebits - 1 := by
        rw [Fmt.isInf, Bool.and_eq_true, Bool.and_eq_true, beq_iff_eq] at hinf
        exact hinf.1.1
      simp [FVal.isZero, hset he]
    case false => simp [FVal.isZero, f.units_eq_zero_iff]

theorem Fmt.number_eq_zero_iff (f : Fmt) (v : ℕ) : f.number v = 0 ↔ f.units v = 0 := by
  unfold Fmt.number
  split <;> omega

/-- A pattern is its sign and its magnitude bits. -/
theorem Fmt.withSign_negative_mag (hv : v < 2 ^ f.width) : f.withSign (f.negative v) (f.mag v) = v := by
  have hw : f.width = f.ebits + f.fbits + 1 := by
    unfold Fmt.width
    omega
  have hsign : v / 2 ^ (f.ebits + f.fbits) < 2 := by
    rw [Nat.div_lt_iff_lt_mul (Nat.two_pow_pos _), ← pow_succ', ← hw]
    exact hv
  have hdiv := Nat.div_add_mod v (2 ^ (f.ebits + f.fbits))
  unfold Fmt.withSign Fmt.negative Fmt.mag low
  rw [f.width_pred]
  rcases Nat.lt_or_ge (v / 2 ^ (f.ebits + f.fbits)) 1 with h | h
  · have h0 : v / 2 ^ (f.ebits + f.fbits) = 0 := Nat.lt_one_iff.1 h
    rw [h0] at hdiv ⊢
    simpa using hdiv
  · have h1 : v / 2 ^ (f.ebits + f.fbits) = 1 := Nat.le_antisymm (Nat.lt_succ_iff.1 hsign) h
    rw [h1] at hdiv ⊢
    simpa using hdiv

/-- A zero is its sign bit alone. -/
theorem Fmt.withSign_zero (hv : v < 2 ^ f.width) (h : f.units v = 0) : f.withSign (f.negative v) 0 = v := by
  have hmag : f.mag v = 0 := by
    rw [f.units_eq] at h
    exact (gridUnits_strictMono f.fbits).injective (h.trans (gridUnits_zero _).symm)
  rw [← hmag, Fmt.withSign_negative_mag hv]

/-! ### Results -/

theorem Fmt.Sound.nanRes_eq (hf : f.Sound) (sig : Bool) : nanRes f sig = { bits := f.canonical, flags := if sig then 16 else 0 } := by
  rw [nanRes, hf.nan]
  rfl

theorem roundVal_nan (f : Fmt) (rm : Rm) (sat sig : Bool) : roundVal f rm sat (.nan sig) = nanRes f sig := rfl

theorem roundVal_inf (hfin : f.finiteOnly = false) (rm : Rm) (neg : Bool) : roundVal f rm false (.inf neg) = f.infRes neg := by
  simp [roundVal, hfin, Fmt.infRes]

/-- The pattern of an infinity, as the canonical NaN has it (R44, R46). -/
theorem Fmt.withSign_infMag (hfin : f.finiteOnly = false) (neg : Bool) :
    f.withSign neg f.infMag = (if neg then 2 ^ (f.width - 1) else 0) + f.canonical - 2 ^ (f.fbits - 1) := by
  rw [f.withSign_eq, Fmt.canonical, hfin, if_neg Bool.false_ne_true, ← Nat.add_assoc, Nat.add_sub_cancel]
  rfl

/-- What rounding delivers of an infinity (R52, R53). -/
theorem roundVal_inf_eq (hf : f.Sound) (rm : Rm) (sat neg : Bool) :
    let sign := if neg then 2 ^ (f.width - 1) else 0
    let top := if f.finiteOnly then f.canonical - 1 else f.canonical - 2 ^ (f.fbits - 1) - 1
    roundVal f rm sat (.inf neg) = if sat then { bits := sign + top, flags := 1 }
      else if f.finiteOnly then { bits := f.canonical, flags := 16 } else { bits := sign + top + 1, flags := 0 } := by
  intro sign top
  rw [show top = f.maxMag from hf.top]
  cases hfin : f.finiteOnly
  case true => simp [sign, roundVal, hfin, f.withSign_eq, hf.nan, fNX, fNV]
  case false => simp [sign, roundVal, hfin, f.withSign_eq, hf.infMag hfin, fNX, Nat.add_assoc]

/-! ### Sums and products of values -/

theorem sumVal_of_nan (rm : Rm) (h : (a.isNan || b.isNan) = true) : sumVal rm [a, b] = .nan (a.isSnan || b.isSnan) := by
  simp [sumVal, h]

/-- A sum with an infinity is that infinity, or invalid with the other one (R56). -/
theorem sumVal_inf_left (rm : Rm) (hb : b.isNan = false) :
    sumVal rm [.inf p, b] = if b.isInf && p != b.neg then .nan true else .inf p := by
  cases b
  case nan => cases hb
  case inf q => cases p <;> cases q <;> rfl
  case fin => cases p <;> rfl

theorem sumVal_inf_right (rm : Rm) (ha : a.isNan = false) (ha' : a.isInf = false) : sumVal rm [a, .inf p] = .inf p := by
  cases a
  case nan => cases ha
  case inf => cases ha'
  case fin => cases p <;> rfl

theorem mulVal_of_nan (h : (a.isNan || b.isNan) = true) : mulVal a b = .nan (a.isSnan || b.isSnan) := by
  cases a
  case nan =>
    cases b
    case nan => rfl
    all_goals exact congrArg FVal.nan (Bool.or_false _).symm
  all_goals
    cases b
    case nan => rfl
    all_goals cases h

/-- A product with an infinity is an infinity, or invalid with a zero (R56). -/
theorem mulVal_of_inf (ha : a.isNan = false) (hb : b.isNan = false) (h : (a.isInf || b.isInf) = true) :
    mulVal a b = if a.isInf && b.isZero || b.isInf && a.isZero then .nan true else .inf (a.neg != b.neg) := by
  cases a
  case nan => cases ha
  case inf =>
    cases b
    case nan => cases hb
    case inf => rfl
    case fin => simp [mulVal, FVal.isInf, FVal.isZero, FVal.neg]
  case fin =>
    cases b
    case nan => cases hb
    case inf => simp [mulVal, FVal.isInf, FVal.isZero, FVal.neg]
    case fin => cases h

theorem mulVal_finite (ha : a.isNan = false) (hb : b.isNan = false) (h : (a.isInf || b.isInf) = false) :
    (mulVal a b).isNan = false ∧ (mulVal a b).isInf = false := by
  obtain ⟨ha', hb'⟩ := Bool.or_eq_false_iff.1 h
  cases a
  case nan => cases ha
  case inf => cases ha'
  case fin =>
    cases b
    case nan => cases hb
    case inf => cases hb'
    case fin => exact ⟨rfl, rfl⟩

end

end Sys2Proof.Machine

/-! Arithmetic on zeros, NaNs and infinities, operation by operation (R51, R56). -/

namespace Sys2Proof.Machine

section
variable {f : Fmt} {a b d : ℕ} {p q : Bool} (rm : Rm)

/-! ### Division and roots by the kinds of their operands -/

theorem divF_of_nan_value (h : ((f.value a).isNan || (f.value b).isNan) = true) :
    divF f rm a b = nanRes f ((f.value a).isSnan || (f.value b).isSnan) := by
  unfold divF
  generalize f.value a = u at h ⊢
  generalize f.value b = v at h ⊢
  cases u
  case nan =>
    cases v
    case nan => rfl
    all_goals exact congrArg (nanRes f) (Bool.or_false _).symm
  all_goals
    cases v
    case nan => rfl
    all_goals cases h

theorem divF_inf_left_value (ha : f.value a = .inf p) (hb : (f.value b).isNan = false) :
    divF f rm a b = if (f.value b).isInf then nanRes f true else f.infRes (p != (f.value b).neg) := by
  unfold divF
  rw [ha]
  cases h : f.value b
  case nan => rw [h] at hb; cases hb
  all_goals rfl

theorem divF_inf_right_value (ha : (f.value a).isNan = false) (ha' : (f.value a).isInf = false) (hb : f.value b = .inf q) :
    divF f rm a b = { bits := f.withSign ((f.value a).neg != q) 0, flags := 0 } := by
  unfold divF
  rw [hb]
  cases h : f.value a
  case nan => rw [h] at ha; cases ha
  case inf => rw [h] at ha'; cases ha'
  case fin => rfl

/-- Division of a finite number by zero (R56). -/
theorem divF_zero (hf : f.Sound) (ha : f.isFinite a = true) (hb : f.isFinite b = true) (hb0 : f.number b = 0) :
    divF f rm a b = if f.number a = 0 then nanRes f true
      else { bits := f.withSign (f.negative a != f.negative b) f.infMag, flags := 8 } := by
  rw [f.number_eq_zero_iff, f.units_eq_zero_iff] at hb0
  simp only [f.number_eq_zero_iff a, f.units_eq_zero_iff a]
  unfold divF
  rw [hf.value_of_isFinite ha, hf.value_of_isFinite hb, hb0]
  rfl

section
variable (hf : f.Sound) (ha : f.isFinite a = true)
include hf ha

/-- The root of a zero is that zero, and its reciprocal an infinity of its sign (R51, R56). -/
theorem sqrtF_zero (hwidth : a < 2 ^ f.width) (h : f.number a = 0) :
    sqrtF f rm a = { bits := a, flags := 0 } ∧ rsqrtF f rm a = { bits := f.withSign (f.negative a) f.infMag, flags := 8 } := by
  rw [f.number_eq_zero_iff] at h
  have hsig := (f.units_eq_zero_iff a).1 h
  unfold sqrtF rsqrtF
  rw [hf.value_of_isFinite ha, hsig]
  exact ⟨congrArg (fun v => ({ bits := v, flags := 0 } : FRes)) (Fmt.withSign_zero hwidth h), rfl⟩

theorem sqrtF_negative (h : f.number a < 0) : sqrtF f rm a = nanRes f true ∧ rsqrtF f rm a = nanRes f true := by
  have hsig : f.significand a ≠ 0 := by
    rw [Ne, ← f.units_eq_zero_iff, ← f.number_eq_zero_iff]
    exact h.ne
  have hneg : f.negative a = true := by
    by_contra hn
    rw [Fmt.number, if_neg hn] at h
    omega
  unfold sqrtF rsqrtF
  rw [hf.value_of_isFinite ha, hneg]
  simp only [if_neg hsig, if_true, and_self]

end

/-- An integer is rounded once (R55). -/
theorem i2f_isNumber (hf : f.Sound) (sat : Bool) (z : ℤ) : (i2f f rm sat z).isNumber f rm sat (z * (2 ^ f.scale : ℕ)) 1 false := by
  have hz : FVal.Is (.fin (decide (z < 0)) z.natAbs 0) (decide (z < 0)) z := by
    refine ⟨_, _, rfl, ?_⟩
    rw [negIf_natAbs, zpow_zero, mul_one]
  refine hz.roundVal_isNumber hf rm sat Nat.one_pos (by push_cast; field_simp) fun h => ?_
  have hz0 : z = 0 := (Int.mul_eq_zero.1 h).resolve_right (by positivity)
  simp [hz0]

/-! ### NaN operands -/

section
variable (hf : f.Sound)
include hf

theorem nan_values (h : f.isNaN a = true ∨ f.isNaN b = true) : ((f.value a).isNan || (f.value b).isNan) = true := by
  rwa [hf.isNan_value, hf.isNan_value, Bool.or_eq_true]

theorem addF_of_nan (h : f.isNaN a = true ∨ f.isNaN b = true) : addF f rm a b = nanRes f (f.isSignalling a || f.isSignalling b) := by
  rw [addF, sumVal_of_nan rm (nan_values hf h), roundVal_nan, hf.isSnan_value, hf.isSnan_value]

theorem subF_of_nan (h : f.isNaN a = true ∨ f.isNaN b = true) : subF f rm a b = nanRes f (f.isSignalling a || f.isSignalling b) := by
  rw [subF, sumVal_of_nan rm (by rw [FVal.isNan_negate, nan_values hf h]), roundVal_nan, FVal.isSnan_negate, hf.isSnan_value, hf.isSnan_value]

theorem mulVal_of_isNaN (h : f.isNaN a = true ∨ f.isNaN b = true) :
    mulVal (f.value a) (f.value b) = .nan (f.isSignalling a || f.isSignalling b) := by
  rw [mulVal_of_nan (nan_values hf h), hf.isSnan_value, hf.isSnan_value]

theorem mulF_of_nan (h : f.isNaN a = true ∨ f.isNaN b = true) : mulF f rm a b = nanRes f (f.isSignalling a || f.isSignalling b) := by
  rw [mulF, mulVal_of_isNaN hf h, roundVal_nan]

theorem divF_of_nan (h : f.isNaN a = true ∨ f.isNaN b = true) : divF f rm a b = nanRes f (f.isSignalling a || f.isSignalling b) := by
  rw [divF_of_nan_value rm (nan_values hf h), hf.isSnan_value, hf.isSnan_value]

/-- A fused operation whose product is a NaN (R56). -/
theorem fma_of_nan_product {sig : Bool} (h : mulVal (f.value a) (f.value b) = .nan sig) :
    fmaF f rm a b d = nanRes f (sig || f.isSignalling d) ∧ fnmaF f rm a b d = nanRes f (sig || f.isSignalling d) := by
  have hsum : sumVal rm [.nan sig, f.value d] = .nan (sig || f.isSignalling d) := by
    rw [sumVal_of_nan rm rfl, hf.isSnan_value]
    rfl
  unfold fmaF fnmaF
  rw [h, FVal.negate, hsum]
  exact ⟨rfl, rfl⟩

/-- A fused operation whose addend is a NaN and whose product is none (R56). -/
theorem fma_of_nan_addend (h : (mulVal (f.value a) (f.value b)).isNan = false) (hd : f.isNaN d = true) :
    fmaF f rm a b d = nanRes f (f.isSignalling d) ∧ fnmaF f rm a b d = nanRes f (f.isSignalling d) := by
  have hd' : (f.value d).isNan = true := by rw [hf.isNan_value, hd]
  unfold fmaF fnmaF
  rw [sumVal_of_nan rm (by rw [hd', Bool.or_true]), sumVal_of_nan rm (by rw [hd', Bool.or_true]), FVal.isSnan_negate, FVal.isSnan_of_not_isNan h,
    Bool.false_or, hf.isSnan_value]
  exact ⟨rfl, rfl⟩

theorem sqrtF_of_nan (h : f.isNaN a = true) : sqrtF f rm a = nanRes f (f.isSignalling a) ∧ rsqrtF f rm a = nanRes f (f.isSignalling a) := by
  unfold sqrtF rsqrtF
  rw [hf.value_of_isNaN h]
  exact ⟨rfl, rfl⟩

end

/-! ### Infinite operands -/

theorem sqrtF_inf (hf : f.Sound) (ha : f.isInf a = true) : sqrtF f rm a = (if f.negative a then nanRes f true else f.infRes false)
    ∧ rsqrtF f rm a = (if f.negative a then nanRes f true else { bits := 0, flags := 0 }) := by
  unfold sqrtF rsqrtF
  rw [hf.value_of_isInf ha]
  exact ⟨by simp [Fmt.infRes, Fmt.withSign], rfl⟩

theorem divF_inf_left (hf : f.Sound) (ha : f.isInf a = true) (hb : f.isNaN b = false) :
    divF f rm a b = if f.isInf b then nanRes f true else f.infRes (f.negative a != f.negative b) := by
  rw [divF_inf_left_value rm (hf.value_of_isInf ha) (by rw [hf.isNan_value, hb]), hf.isInf_value, hf.neg_value hb]

/-- A product with an infinity, by the fields of its factors. -/
theorem mulVal_of_isInf (hf : f.Sound) (ha : f.isNaN a = false) (hb : f.isNaN b = false) (h : (f.isInf a || f.isInf b) = true) :
    mulVal (f.value a) (f.value b) =
      if f.isInf a && decide (f.units b = 0) || f.isInf b && decide (f.units a = 0) then .nan true else .inf (f.negative a != f.negative b) := by
  rw [mulVal_of_inf (by rw [hf.isNan_value, ha]) (by rw [hf.isNan_value, hb]) (by rwa [hf.isInf_value, hf.isInf_value]), hf.isInf_value, hf.isInf_value,
    hf.isZero_value, hf.isZero_value, hf.neg_value ha, hf.neg_value hb]

theorem mulVal_of_not_isInf (hf : f.Sound) (ha : f.isNaN a = false) (hb : f.isNaN b = false) (h : (f.isInf a || f.isInf b) = false) :
    (mulVal (f.value a) (f.value b)).isNan = false ∧ (mulVal (f.value a) (f.value b)).isInf = false :=
  mulVal_finite (by rw [hf.isNan_value, ha]) (by rw [hf.isNan_value, hb]) (by rwa [hf.isInf_value, hf.isInf_value])

/-- A product of no NaNs is a NaN only of an infinity and a zero (R56). -/
theorem isNan_mulVal (hf : f.Sound) (ha : f.isNaN a = false) (hb : f.isNaN b = false)
    (h : (f.isInf a && decide (f.units b = 0) || f.isInf b && decide (f.units a = 0)) = false) : (mulVal (f.value a) (f.value b)).isNan = false := by
  cases hi : f.isInf a || f.isInf b
  case true =>
    rw [mulVal_of_isInf hf ha hb hi, h]
    rfl
  case false => exact (mulVal_of_not_isInf hf ha hb hi).1

/-- A sum whose left term is an infinity. -/
theorem roundVal_sum_inf (hfin : f.finiteOnly = false) {v : FVal} (hv : v.isNan = false) :
    roundVal f rm false (sumVal rm [.inf p, v]) = if v.isInf && p != v.neg then nanRes f true else f.infRes p := by
  rw [sumVal_inf_left rm hv]
  split
  · rfl
  · exact roundVal_inf hfin rm p

section
variable (hf : f.Sound) (hfin : f.finiteOnly = false)
include hf hfin

theorem addF_inf_left (ha : f.isInf a = true) (hb : f.isNaN b = false) :
    addF f rm a b = if f.isInf b && (f.negative a != f.negative b) then nanRes f true else f.infRes (f.negative a) := by
  rw [addF, hf.value_of_isInf ha, roundVal_sum_inf rm hfin (by rw [hf.isNan_value, hb]), hf.isInf_value, hf.neg_value hb]

theorem subF_inf_left (ha : f.isInf a = true) (hb : f.isNaN b = false) :
    subF f rm a b = if f.isInf b && !(f.negative a != f.negative b) then nanRes f true else f.infRes (f.negative a) := by
  have hsign : (f.negative a != !f.negative b) = !(f.negative a != f.negative b) := Bool.bne_not _ _
  rw [subF, hf.value_of_isInf ha, roundVal_sum_inf rm hfin (by rw [FVal.isNan_negate, hf.isNan_value, hb]), FVal.isInf_negate, hf.isInf_value,
    FVal.neg_negate (by rw [hf.isNan_value, hb]), hf.neg_value hb, hsign]

theorem inf_right (hb : f.isInf b = true) (ha : f.isNaN a = false) (ha' : f.isInf a = false) :
    addF f rm a b = f.infRes (f.negative b) ∧ subF f rm a b = f.infRes (!f.negative b)
    ∧ divF f rm a b = { bits := f.withSign (f.negative a != f.negative b) 0, flags := 0 } := by
  have hna : (f.value a).isNan = false := by rw [hf.isNan_value, ha]
  have hia : (f.value a).isInf = false := by rw [hf.isInf_value, ha']
  refine ⟨?_, ?_, ?_⟩
  · rw [addF, hf.value_of_isInf hb, sumVal_inf_right rm hna hia, roundVal_inf hfin]
  · rw [subF, hf.value_of_isInf hb, FVal.negate, sumVal_inf_right rm hna hia, roundVal_inf hfin]
  · rw [divF_inf_right_value rm hna hia (hf.value_of_isInf hb), hf.neg_value ha]

/-- A fused operation whose product is an infinity (R56). -/
theorem fma_of_inf_product (h : mulVal (f.value a) (f.value b) = .inf p) (hd : f.isNaN d = false) :
    fmaF f rm a b d = (if f.isInf d && f.negative d != p then nanRes f true else f.infRes p)
    ∧ fnmaF f rm a b d = if f.isInf d && f.negative d == p then nanRes f true else f.infRes (!p) := by
  have hnd : (f.value d).isNan = false := by rw [hf.isNan_value, hd]
  have hsum : ∀ q, roundVal f rm false (sumVal rm [.inf q, f.value d]) = if f.isInf d && f.negative d != q then nanRes f true else f.infRes q :=
    fun q => by rw [roundVal_sum_inf rm hfin hnd, hf.isInf_value, hf.neg_value hd, bne_comm]
  unfold fmaF fnmaF
  rw [h, FVal.negate, hsum, hsum, Bool.bne_not, bne, Bool.not_not]
  exact ⟨rfl, rfl⟩

/-- A fused operation whose addend is an infinity and whose product is finite (R56). -/
theorem fma_of_inf_addend (h : (mulVal (f.value a) (f.value b)).isNan = false) (h' : (mulVal (f.value a) (f.value b)).isInf = false)
    (hd : f.isInf d = true) : fmaF f rm a b d = f.infRes (f.negative d) ∧ fnmaF f rm a b d = f.infRes (f.negative d) := by
  unfold fmaF fnmaF
  rw [hf.value_of_isInf hd, sumVal_inf_right rm h h', sumVal_inf_right rm (by rwa [FVal.isNan_negate]) (by rwa [FVal.isInf_negate]), roundVal_inf hfin]
  exact ⟨rfl, rfl⟩

end

end

end Sys2Proof.Machine

/-! Order of patterns, minimum and maximum, comparisons, and conversion to an integer (R54, R56). -/

namespace Sys2Proof.Machine

section
variable {f : Fmt} {a b : ℕ}

/-! ### The order of patterns -/

theorem Fmt.cmpKey_eq (f : Fmt) (v : ℕ) : f.cmpKey v = if f.negative v then -(f.mag v : ℤ) else f.mag v := by
  rw [Fmt.cmpKey, f.sign_eq]

theorem Fmt.key_eq (f : Fmt) (v : ℕ) : f.key v = f.cmpKey v - if f.negative v then 1 else 0 := by
  rw [Fmt.key, f.cmpKey_eq, f.sign_eq]
  split <;> omega

/-- Numbers are ordered as their signs and magnitude bits are (R44, R56). -/
theorem Fmt.number_lt_iff (f : Fmt) (a b : ℕ) : f.number a < f.number b ↔ f.cmpKey a < f.cmpKey b := by
  have hlt : ∀ g h : ℕ, gridUnits f.fbits g < gridUnits f.fbits h ↔ g < h := fun g h => (gridUnits_strictMono f.fbits).lt_iff_lt
  have hzero := gridUnits_zero f.fbits
  have hposa := hlt 0 (f.mag a)
  have hposb := hlt 0 (f.mag b)
  have hab := hlt (f.mag a) (f.mag b)
  have hba := hlt (f.mag b) (f.mag a)
  rw [f.cmpKey_eq, f.cmpKey_eq, Fmt.number, Fmt.number, f.units_eq, f.units_eq]
  cases f.negative a <;> cases f.negative b <;> simp only [if_true, if_false, Bool.false_eq_true] <;> omega

theorem Fmt.number_le_iff (f : Fmt) (a b : ℕ) : f.number a ≤ f.number b ↔ f.cmpKey a ≤ f.cmpKey b := by
  rw [← not_lt, ← not_lt, f.number_lt_iff]

theorem Fmt.number_eq_iff (f : Fmt) (a b : ℕ) : f.number a = f.number b ↔ f.cmpKey a = f.cmpKey b := by
  rw [le_antisymm_iff, le_antisymm_iff, f.number_le_iff, f.number_le_iff]

/-- Patterns of one sign and one number are one pattern. -/
theorem Fmt.eq_of_cmpKey_eq (ha : a < 2 ^ f.width) (hb : b < 2 ^ f.width) (hs : f.negative a = f.negative b) (h : f.cmpKey a = f.cmpKey b) : a = b := by
  rw [← Fmt.withSign_negative_mag ha, ← Fmt.withSign_negative_mag hb, hs]
  rw [f.cmpKey_eq, f.cmpKey_eq, hs] at h
  congr 1
  split at h <;> omega

/-- Of two patterns of unlike signs or numbers, the one below by R56: −0 is below +0. -/
theorem Fmt.key_le_iff (h : f.cmpKey a = f.cmpKey b → f.negative a ≠ f.negative b) :
    f.key a ≤ f.key b ↔ f.number a < f.number b ∨ f.number a = f.number b ∧ f.negative a = true := by
  rw [f.number_lt_iff, f.number_eq_iff, f.key_eq, f.key_eq]
  rw [f.cmpKey_eq, f.cmpKey_eq] at h ⊢
  cases ha : f.negative a <;> cases hb : f.negative b <;> simp [ha, hb] at h ⊢ <;> omega

/-- The smaller of two patterns, −0 below +0 (R56). -/
theorem Fmt.smaller_eq (ha : a < 2 ^ f.width) (hb : b < 2 ^ f.width) :
    (if f.key a ≤ f.key b then a else b) = if f.number a < f.number b ∨ f.number a = f.number b ∧ f.negative a = true then a else b := by
  by_cases hsame : f.cmpKey a = f.cmpKey b ∧ f.negative a = f.negative b
  · rw [Fmt.eq_of_cmpKey_eq ha hb hsame.2 hsame.1, ite_self, ite_self]
  · exact if_congr (Fmt.key_le_iff (not_and.1 hsame)) rfl rfl

/-- The larger of two patterns, −0 below +0 (R56). -/
theorem Fmt.larger_eq (ha : a < 2 ^ f.width) (hb : b < 2 ^ f.width) :
    (if f.key a ≥ f.key b then a else b) = if f.number b < f.number a ∨ f.number a = f.number b ∧ f.negative a = false then a else b := by
  by_cases hsame : f.cmpKey a = f.cmpKey b ∧ f.negative a = f.negative b
  · rw [Fmt.eq_of_cmpKey_eq ha hb hsame.2 hsame.1, ite_self, ite_self]
  · refine if_congr ((Fmt.key_le_iff fun h hs => hsame ⟨h.symm, hs.symm⟩).trans (or_congr_right ?_)) rfl rfl
    rw [eq_comm, f.number_eq_iff]
    refine and_congr_right fun h => ?_
    have hne := not_and.1 hsame h
    revert hne
    cases f.negative a <;> cases f.negative b <;> decide

/-! ### Minimum, maximum and comparisons -/

section
variable (hf : f.Sound)
include hf

theorem minmaxF_of_two_nans (ha : f.isNaN a = true) (hb : f.isNaN b = true) (big : Bool) :
    minmaxF f big a b = { bits := f.canonical, flags := if f.isSignalling a || f.isSignalling b then 16 else 0 } := by
  simp [minmaxF, hf.isNan_value, hf.isSnan_value, ha, hb, hf.nan, flagIf, fNV]

theorem minmaxF_of_one_nan (ha : f.isNaN a = true) (hb : f.isNaN b = false) (hwb : b < 2 ^ f.width) (big : Bool) :
    minmaxF f big a b = { bits := b, flags := if f.isSignalling a || f.isSignalling b then 16 else 0 }
    ∧ minmaxF f big b a = { bits := b, flags := if f.isSignalling a || f.isSignalling b then 16 else 0 } := by
  have hlow : low f.width b = b := Nat.mod_eq_of_lt hwb
  simp [minmaxF, hf.isNan_value, hf.isSnan_value, ha, hb, hlow, flagIf, fNV, Bool.or_comm]

theorem minmaxF_of_numbers (ha : f.isNaN a = false) (hb : f.isNaN b = false) (hwa : a < 2 ^ f.width) (hwb : b < 2 ^ f.width) :
    minmaxF f false a b = { bits := if f.number a < f.number b ∨ f.number a = f.number b ∧ f.negative a = true then a else b, flags := 0 }
    ∧ minmaxF f true a b = { bits := if f.number b < f.number a ∨ f.number a = f.number b ∧ f.negative a = false then a else b, flags := 0 } := by
  have hna : (f.value a).isNan = false := by rw [hf.isNan_value, ha]
  have hnb : (f.value b).isNan = false := by rw [hf.isNan_value, hb]
  have hlow : ∀ c : Prop, [Decidable c] → low f.width (if c then a else b) = if c then a else b := fun c _ => by
    split
    · exact Nat.mod_eq_of_lt hwa
    · exact Nat.mod_eq_of_lt hwb
  rw [← Fmt.smaller_eq hwa hwb, ← Fmt.larger_eq hwa hwb]
  simp [minmaxF, hna, hnb, FVal.isSnan_of_not_isNan, hlow, flagIf]

theorem cmpF_of_nan (h : f.isNaN a = true ∨ f.isNaN b = true) :
    cmpF f .eq a b = (false, if f.isSignalling a || f.isSignalling b then 16 else 0) ∧ cmpF f .lt a b = (false, 16) ∧ cmpF f .le a b = (false, 16) := by
  have hnan := nan_values hf h
  unfold cmpF
  dsimp only
  rw [if_pos hnan, if_pos hnan, if_pos hnan, hf.isSnan_value, hf.isSnan_value]
  exact ⟨rfl, rfl, rfl⟩

theorem cmpF_of_numbers (ha : f.isNaN a = false) (hb : f.isNaN b = false) :
    cmpF f .eq a b = (decide (f.number a = f.number b), 0) ∧ cmpF f .lt a b = (decide (f.number a < f.number b), 0)
    ∧ cmpF f .le a b = (decide (f.number a ≤ f.number b), 0) := by
  have hnan : ¬ ((f.value a).isNan || (f.value b).isNan) = true := by simp [hf.isNan_value, ha, hb]
  unfold cmpF
  dsimp only
  rw [if_neg hnan, if_neg hnan, if_neg hnan]
  simp only [f.number_eq_iff, f.number_lt_iff, f.number_le_iff, and_self]

end

/-! ### To an integer -/

/-- The range of an integer type (R42). -/
theorem intRange {w : ℕ} (signed : Bool) : intMin w signed = (if signed then -2 ^ (w - 1) else 0)
    ∧ intMax w signed = (if signed then 2 ^ (w - 1) - 1 else 2 ^ w - 1) ∧ intMin w signed ≤ intMax w signed := by
  have h1 : (0 : ℤ) < 2 ^ (w - 1) := by positivity
  have h2 : (0 : ℤ) < 2 ^ w := by positivity
  unfold intMin intMax
  push_cast
  cases signed
  · exact ⟨rfl, rfl, by simp only [if_false, Bool.false_eq_true]; omega⟩
  · exact ⟨rfl, rfl, by simp only [if_true]; omega⟩

theorem clampInt_eq (w : ℕ) (signed : Bool) (z : ℤ) : clampInt w signed z =
    (max (intMin w signed) (min (intMax w signed) z), decide (z < intMin w signed ∨ intMax w signed < z)) := by
  obtain ⟨-, -, hle⟩ := intRange (w := w) signed
  unfold clampInt
  split
  case isTrue h => exact Prod.ext (by dsimp only; omega) (by simp [h])
  case isFalse h =>
    split
    case isTrue h' => exact Prod.ext (by dsimp only; omega) (by simp [show intMax w signed < z from h'])
    case isFalse h' => exact Prod.ext (by dsimp only; omega) (by simp; omega)

/-- A finite number is rounded to an integer and then clamped (R54). -/
theorem f2i_of_finite (hf : f.Sound) (ha : f.isFinite a = true) (rm : Rm) (w : ℕ) (signed : Bool) :
    ∃ N : ℕ, (ratio (f.units a) (2 ^ f.scale)).roundsTo rm (f.negative a) 1 1 N ∧
      let z : ℤ := if f.negative a then -(N : ℤ) else N
      f2i f rm w signed a = (max (intMin w signed) (min (intMax w signed) z),
        if z < intMin w signed ∨ intMax w signed < z then 16 else if N * 2 ^ f.scale = f.units a then 0 else 1) := by
  have hcut : Truncated (f.significand a) false (f.significand a) := rfl
  obtain ⟨hround, hexact⟩ := roundAt_rounds (e := f.place a - f.scale) (q := 0) hcut Bool.noConfusion rm (f.negative a)
  have hpow : (0 : ℝ) < 2 ^ f.scale := by positivity
  have hunits : (f.significand a : ℝ) * 2 ^ ((f.place a : ℤ) - f.scale - 0) = f.units a / (2 ^ f.scale : ℕ) := by
    rw [f.units_eq_significand, sub_zero, zpow_sub₀ two_ne_zero, zpow_natCast, zpow_natCast]
    push_cast
    rw [mul_div_assoc]
  rw [hunits] at hround hexact
  refine ⟨_, ((ratio_is (Nat.two_pow_pos _)).roundsTo_one_iff (by positivity) rm _).2 hround, ?_⟩
  dsimp only
  set N := (roundAt rm (f.negative a) (f.significand a) (f.place a - f.scale) 0 false).1
  have hsame : (roundAt rm (f.negative a) (f.significand a) (f.place a - f.scale) 0 false).2 = false ↔ N * 2 ^ f.scale = f.units a := by
    rw [hexact, Nat.cast_pow, Nat.cast_ofNat, eq_div_iff hpow.ne']
    exact_mod_cast Iff.rfl
  unfold f2i
  rw [hf.value_of_isFinite ha]
  dsimp only
  rw [clampInt_eq]
  refine Prod.ext rfl ?_
  simp only [decide_eq_true_eq, ← hsame]
  cases (roundAt rm (f.negative a) (f.significand a) (f.place a - f.scale) 0 false).2 <;> rfl

end

end Sys2Proof.Machine

/-! The obligation FloatResults: the scalar instructions deliver what the operations give, and these give what R48 to R56 say. -/

namespace Sys2Proof.Machine

section
variable {f : Fmt} {s : State} {i : Instr} {d : Reg} {t : ℕ}

/-! ### The scalar instructions -/

/-- A floating instruction writes its result zero-extended, and its flags go to FSTAT (R74). -/
theorem State.givesFrom_finishF {r : FRes} (h : exec i s = s.finishF d r) :
    GivesFrom i s { s with hart := s.hart.raise r.flags } d (BitVec.ofNat 64 r.bits) (s.hart.pc + 4) := State.givesFrom_finishX h rfl

/-- A comparison writes 1 or 0 (R76). -/
theorem State.givesFrom_fcmp {c : Cmp} {o : FOp} (h : exec i s = s.fcmp c o) :
    let r := cmpF (Fmt.ofCode o.t.toNat) c (s.readFp o.a o.t.toNat) (s.readFp o.b o.t.toNat)
    GivesFrom i s { s with hart := s.hart.raise r.2 } o.d (if r.1 then 1 else 0) (s.hart.pc + 4) := by
  intro r
  have hbit : wordOf (bit r.1) = if r.1 then 1 else 0 := by cases r.1 <;> rfl
  exact hbit ▸ State.givesFrom_finishX h rfl

/-! ### The formats with infinities -/

theorem Fmt.finiteOnly_of_le (h2 : 2 ≤ t) (h5 : t ≤ 5) : (Fmt.ofCode t).finiteOnly = false := by
  interval_cases t <;> rfl

/-- The codes 0 to 5 name different formats (R31). -/
theorem Fmt.ofCode_bne {q : ℕ} (ht : t ≤ 5) (hq : q ≤ 5) : (Fmt.ofCode t != Fmt.ofCode q) = (t != q) := by
  interval_cases t <;> interval_cases q <;> rfl

theorem Fmt.infRes_eq (hfin : f.finiteOnly = false) (neg : Bool) :
    f.infRes neg = { bits := (if neg then 2 ^ (f.width - 1) else 0) + f.canonical - 2 ^ (f.fbits - 1), flags := 0 } := by
  rw [Fmt.infRes, Fmt.withSign_infMag hfin]

theorem Fmt.withSign_zero_eq (f : Fmt) (neg : Bool) : f.withSign neg 0 = if neg then 2 ^ (f.width - 1) else 0 := by
  rw [f.withSign_eq, Nat.add_zero]

end

/-! ### Rounding and conversion between formats -/

section
variable {f g : Fmt} {v : ℕ} (rm : Rm) (sat : Bool)

/-- A number m · 2^e in units of the format's smallest subnormal number (R48, R50, R53). -/
theorem roundVal_fin_isNumber (hf : f.Sound) (neg : Bool) (m : ℕ) (e : ℤ) :
    (roundVal f rm sat (.fin neg m e)).isNumber f rm sat
      (if neg then -((m * 2 ^ (e + f.scale).toNat : ℕ) : ℤ) else (m * 2 ^ (e + f.scale).toNat : ℕ)) (2 ^ (-(e + f.scale)).toNat) neg := by
  have hv : FVal.Is (.fin neg m e) neg (negIf neg (m * 2 ^ e)) := ⟨m, e, rfl, rfl⟩
  refine hv.roundVal_isNumber hf rm sat (Nat.two_pow_pos _) ?_ fun _ => rfl
  have hpow : (2 : ℝ) ^ e * 2 ^ f.scale = 2 ^ (e + f.scale).toNat / 2 ^ (-(e + f.scale)).toNat := by
    rw [← zpow_natCast, ← zpow_natCast, ← zpow_natCast, two_zpow_mul, ← zpow_sub₀ two_ne_zero]
    congr 1
    omega
  cases neg
  · simp only [negIf, Bool.false_eq_true, if_false]
    push_cast
    rw [mul_assoc, hpow, mul_div_assoc]
  · simp only [negIf, if_true]
    push_cast
    rw [neg_mul, mul_assoc, hpow, neg_div, mul_div_assoc]

/-- A conversion of a finite number (R52). -/
theorem cvtF_isNumber (hf : f.Sound) (hg : g.Sound) (hv : g.isFinite v = true) :
    (cvtF f g rm sat v).isNumber f rm (sat && f != g) (g.number v * (2 ^ f.scale : ℕ)) (2 ^ g.scale) (g.negative v) :=
  (hg.value_is hv).roundVal_isNumber hf rm _ (Nat.two_pow_pos _) (by push_cast; ring) fun _ => rfl

/-- What a finite pattern stands for is its number of units (R44). -/
theorem Fmt.Sound.value_units (hf : f.Sound) (h : f.isFinite v = true) :
    ∃ n d : ℕ, f.value v = .fin (f.negative v) n ((d : ℤ) - f.scale) ∧ n * 2 ^ d = f.units v :=
  ⟨_, _, hf.value_of_isFinite h, (f.units_eq_significand v).symm⟩

end

/-- Settles O17: each operation is exact and rounded once, or the NaN, infinity or zero that its operands' kinds give. -/
theorem floatResults : Obligations.FloatResults := by
  refine ⟨fun o s => ?scalar, fun t q v m e rm sat neg ht hq => ?rounding, fun t a b d rm sat z h2 h5 => ?finite,
    fun t a b d rm h2 h5 => ?special, fun t w a b rm sg ht hw => ?choice⟩
  case scalar =>
    have hf {i : Instr} {r : FRes} := State.givesFrom_finishF (s := s) (i := i) (d := o.d) (r := r)
    exact ⟨hf rfl, hf rfl, hf rfl, hf rfl, hf rfl, hf rfl, hf rfl, State.givesFrom_fcmp rfl, State.givesFrom_fcmp rfl, State.givesFrom_fcmp rfl,
      hf rfl, hf rfl, hf rfl, State.givesFrom_finishX rfl rfl, hf rfl⟩
  case rounding =>
    have hf := Fmt.sound_ofCode ht
    have hg := Fmt.sound_ofCode hq
    refine ⟨fun _ => ⟨hf.value_of_isNaN, hf.value_of_isInf, hf.value_units⟩, roundVal_fin_isNumber rm sat hf neg m e, roundVal_inf_eq hf rm sat neg,
      hf.nanRes_eq neg, fun _ => ⟨fun h => ?_, fun h => ?_, fun h => ?_⟩⟩
    · rw [cvtF, hg.value_of_isNaN h]
      exact hf.nanRes_eq _
    · rw [cvtF, hg.value_of_isInf h, Fmt.ofCode_bne ht hq]
      exact roundVal_inf_eq hf rm _ _
    · exact Fmt.ofCode_bne ht hq ▸ cvtF_isNumber rm sat hf hg h
  case finite =>
    have hf := Fmt.sound_ofCode h5
    have hfin := Fmt.finiteOnly_of_le h2 h5
    refine fun ha _ _ hfa hfb hfd => ⟨addF_isNumber rm hf hfa hfb, subF_isNumber rm hf hfa hfb, mulF_isNumber rm hf hfa hfb,
      fmaF_isNumber rm hf hfa hfb hfd, fnmaF_isNumber rm hf hfa hfb hfd, divF_number_isNumber rm hf hfa hfb, fun h0 => ?_,
      fun hpos => ⟨root_delivers rm hf hfa hpos, rsqrt_delivers rm hf hfa hpos⟩, fun h0 => ?_, fun hneg => ?_, i2f_isNumber rm hf sat z⟩
    · rw [divF_zero rm hf hfa hfb h0, hf.nanRes_eq, Fmt.withSign_infMag hfin]
      rfl
    · obtain ⟨hroot, hrecip⟩ := sqrtF_zero rm hf hfa ha h0
      rw [Fmt.withSign_infMag hfin] at hrecip
      exact ⟨hroot, hrecip⟩
    · obtain ⟨hroot, hrecip⟩ := sqrtF_negative rm hf hfa hneg
      rw [hf.nanRes_eq] at hroot hrecip
      exact ⟨hroot, hrecip⟩
  case special =>
    have hf := Fmt.sound_ofCode h5
    have hfin := Fmt.finiteOnly_of_le h2 h5
    intro f s inf nothing nan signals lost prodInf _ _ _
    have hnan : nan = nanRes f := funext fun sig => (hf.nanRes_eq sig).symm
    have hinf : inf = f.infRes := funext fun neg => (Fmt.infRes_eq hfin neg).symm
    have hnothing : nothing = fun neg => { bits := f.withSign neg 0, flags := 0 } :=
      funext fun neg => congrArg (FRes.mk · 0) (f.withSign_zero_eq neg).symm
    rw [hnan, hinf, hnothing]
    refine ⟨fun h => ⟨addF_of_nan rm hf h, subF_of_nan rm hf h, mulF_of_nan rm hf h, divF_of_nan rm hf h,
        fma_of_nan_product rm hf (mulVal_of_isNaN hf h)⟩, sqrtF_of_nan rm hf,
      fun ha hb => ⟨fun hia => ⟨addF_inf_left rm hf hfin hia hb, subF_inf_left rm hf hfin hia hb, divF_inf_left rm hf hia hb, sqrtF_inf rm hf hia⟩,
        fun hib hia => inf_right rm hf hfin hib ha hia, fun hprod => ?_,
        fun hprod hlost _ => fma_of_nan_product rm hf ((mulVal_of_isInf hf ha hb hprod).trans (if_pos hlost)),
        fun hlost hd => fma_of_nan_addend rm hf (isNan_mulVal hf ha hb hlost) hd,
        fun hprod hlost hd => fma_of_inf_product rm hf hfin ((mulVal_of_isInf hf ha hb hprod).trans (if_neg (Bool.eq_false_iff.1 hlost))) hd,
        fun hprod hd => ?_⟩⟩
    · rw [mulF, mulVal_of_isInf hf ha hb hprod, apply_ite (roundVal f rm false), roundVal_inf hfin]
      rfl
    · obtain ⟨hnanP, hinfP⟩ := mulVal_of_not_isInf hf ha hb hprod
      exact fma_of_inf_addend rm hf hfin hnanP hinfP hd
  case choice =>
    have hf := Fmt.sound_ofCode ht
    obtain ⟨hlo, hhi, -⟩ := intRange (w := w) sg
    intro f A B sig lo hi ha hb
    refine ⟨fun hna hnb => minmaxF_of_two_nans hf hna hnb, fun hna hnb => minmaxF_of_one_nan hf hna hnb hb, fun hna hnb => ?_, cmpF_of_nan hf,
      fun h => ?_, fun h => ?_, fun h => ?_⟩
    · exact ⟨(minmaxF_of_numbers hf hna hnb ha hb).1, (minmaxF_of_numbers hf hna hnb ha hb).2, cmpF_of_numbers hf hna hnb⟩
    · rw [f2i, hf.value_of_isNaN h]
      rfl
    · rw [f2i, hf.value_of_isInf h, hlo, hhi]
      rfl
    · have hint := f2i_of_finite hf h rm w sg
      rw [hlo, hhi] at hint
      exact hint

end Sys2Proof.Machine

/-! The register operations, divisions, branches and jumps (R6, R24, R66, R67, R72, R73), with the obligations IntegerResults, Division and
ControlTransfers. -/

namespace Sys2Proof.Machine

/-! ### Choices by order -/

/-- Where neither of two things is below the other they are one, so that a choice between them may decide either way. -/
theorem ite_lt_eq_ite_le {α β : Type} [LinearOrder β] {x y : α} {p q : β} (h : p = q → x = y) :
    (if p < q then x else y) = if p ≤ q then x else y := by
  rcases lt_trichotomy p q with hlt | heq | hgt
  · rw [if_pos hlt, if_pos hlt.le]
  · rw [if_neg heq.not_lt, if_pos heq.le, h heq]
  · rw [if_neg hgt.not_gt, if_neg hgt.not_ge]

theorem ite_slt {a b x y : Word} (h : a = b → x = y) : (if a.slt b then x else y) = if a.toInt ≤ b.toInt then x else y := by
  simp only [BitVec.slt_iff_toInt_lt]
  exact ite_lt_eq_ite_le fun e => h (BitVec.eq_of_toInt_eq e)

theorem ite_ult {a b x y : Word} (h : a = b → x = y) : (if a.ult b then x else y) = if a ≤ b then x else y := by
  simp only [BitVec.ult_iff_lt, BitVec.lt_def, BitVec.le_def]
  exact ite_lt_eq_ite_le fun e => h (BitVec.eq_of_toNat_eq e)

/-! ### Shift amounts and counts of bits -/

/-- The low six bits of a register are its shift amount (R66). -/
theorem shamt_eq (b : Word) : shamt b = (b &&& 63).toNat := by
  rw [BitVec.toNat_and]
  exact (Nat.and_two_pow_sub_one_eq_mod b.toNat 6).symm

theorem findIdx_range_succ (p : ℕ → Bool) (n : ℕ) :
    (List.range (n + 1)).findIdx p = if p 0 then 0 else 1 + (List.range n).findIdx fun i => p (i + 1) := by
  rw [List.range_succ_eq_map, List.findIdx_cons, List.findIdx_map, Nat.add_comm 1]
  cases p 0 <;> rfl

theorem clzFrom_eq (a : Word) (n : ℕ) : clzFrom a n = (List.range n).findIdx fun i => a.getLsbD (n - 1 - i) := by
  induction n with
  | zero => rfl
  | succ n ih =>
    have hnext : ∀ i, n + 1 - 1 - (i + 1) = n - 1 - i := by omega
    simp only [findIdx_range_succ, hnext, ← ih]
    rfl

theorem ctzFrom_eq (a : Word) {n : ℕ} (hn : n ≤ 64) : ctzFrom a n = (List.range n).findIdx fun i => a.getLsbD (64 - n + i) := by
  induction n with
  | zero => rfl
  | succ n ih =>
    have hnext : ∀ i, 64 - (n + 1) + (i + 1) = 64 - n + i := by omega
    simp only [findIdx_range_succ, hnext, ← ih (by omega)]
    rw [ctzFrom, show 64 - (n + 1) + 0 = 63 - n by omega]

theorem popcFrom_eq (a : Word) (n : ℕ) : popcFrom a n = (List.range n).countP fun i => a.getLsbD i := by
  induction n with
  | zero => rfl
  | succ n ih =>
    rw [popcFrom, ih, List.range_succ, List.countP_append, List.countP_singleton, Nat.add_comm]
    rfl

section
variable {s : State} {i : Instr} {f : Word → Word → Word} {d a b : Reg} {v : Word}

/-! ### The register operations (R66, R67) -/

theorem State.gives_of_opRR (h : exec i s = s.opRR f d a b 4) (hv : f (s.readX a) (s.readX b) = v) : Gives i s d v (s.hart.pc + 4) :=
  hv ▸ State.gives_opRR h

/-- Settles O8: each operation writes its function of two registers. -/
theorem integerResults : Obligations.IntegerResults := by
  intro o s
  refine ⟨State.gives_of_opRR (exec_add o s) rfl, State.gives_of_opRR (exec_sub o s) rfl, State.gives_of_opRR (exec_mul o s) rfl,
    State.gives_of_opRR (exec_mulh o s) rfl, State.gives_of_opRR (exec_mulhu o s) rfl, State.gives_of_opRR (exec_and o s) rfl,
    State.gives_of_opRR (exec_or o s) rfl, State.gives_of_opRR (exec_xor o s) rfl, State.gives_of_opRR (exec_sll o s) ?_,
    State.gives_of_opRR (exec_srl o s) ?_, State.gives_of_opRR (exec_sra o s) ?_, State.gives_of_opRR (exec_slt o s) (boolW_slt ..),
    State.gives_of_opRR (exec_sltu o s) (boolW_ult ..), State.gives_of_opRR (exec_min o s) (ite_slt id),
    State.gives_of_opRR (exec_max o s) (ite_slt Eq.symm), State.gives_of_opRR (exec_minu o s) (ite_ult id),
    State.gives_of_opRR (exec_maxu o s) (ite_ult Eq.symm), State.gives_of_opRR (exec_clz o s) (congrArg wordOf (clzFrom_eq _ 64)),
    State.gives_of_opRR (exec_ctz o s) (congrArg wordOf ?_), State.gives_of_opRR (exec_popc o s) (congrArg wordOf (popcFrom_eq _ 64))⟩
  · exact congrArg (s.readX o.a <<< ·) (shamt_eq _)
  · exact congrArg (s.readX o.a >>> ·) (shamt_eq _)
  · exact congrArg (s.readX o.a).sshiftRight (shamt_eq _)
  · simpa using ctzFrom_eq (s.readX o.a) le_rfl

/-! ### Division (R67) -/

/-- A remainder is what the truncated quotient leaves (R67). -/
theorem ofInt_tmod (a b : Word) : BitVec.ofInt 64 (a.toInt.tmod b.toInt) = a - b * BitVec.ofInt 64 (a.toInt.tdiv b.toInt) := by
  rw [eq_sub_iff_add_eq]
  calc BitVec.ofInt 64 (a.toInt.tmod b.toInt) + b * BitVec.ofInt 64 (a.toInt.tdiv b.toInt)
      = BitVec.ofInt 64 (a.toInt.tmod b.toInt + b.toInt * a.toInt.tdiv b.toInt) := by
        rw [BitVec.ofInt_add, BitVec.ofInt_mul, BitVec.ofInt_toInt]
    _ = a := by rw [Int.tmod_add_mul_tdiv, BitVec.ofInt_toInt]

theorem ofNat_mod (a b : Word) : BitVec.ofNat 64 (a.toNat % b.toNat) = a - b * BitVec.ofNat 64 (a.toNat / b.toNat) := by
  rw [eq_sub_iff_add_eq]
  calc BitVec.ofNat 64 (a.toNat % b.toNat) + b * BitVec.ofNat 64 (a.toNat / b.toNat)
      = BitVec.ofNat 64 (a.toNat % b.toNat + b.toNat * (a.toNat / b.toNat)) := by
        rw [BitVec.ofNat_add, BitVec.ofNat_mul, BitVec.ofNat_toNat, BitVec.setWidth_eq]
    _ = a := by rw [Nat.mod_add_div, BitVec.ofNat_toNat, BitVec.setWidth_eq]

theorem remS_eq (a b : Word) :
    remS a b = if b = 0 then a else if a = BitVec.intMin 64 ∧ b = -1 then 0 else a - b * divS a b := by
  unfold remS divS
  split_ifs
  · rfl
  · rfl
  · exact ofInt_tmod a b

theorem remU_eq (a b : Word) : remU a b = if b = 0 then a else a - b * divU a b := by
  unfold remU divU
  split_ifs
  · rfl
  · exact ofNat_mod a b

/-- Settles O9: each division writes its function of two registers, and the remainder is what the quotient leaves. -/
theorem division : Obligations.Division := fun o s =>
  ⟨State.gives_of_opRR (exec_div o s) rfl, State.gives_of_opRR (exec_divu o s) rfl, State.gives_of_opRR (exec_rem o s) (remS_eq ..),
    State.gives_of_opRR (exec_remu o s) (remU_eq ..)⟩

/-! ### Branches and jumps (R72, R73) -/

/-- A branch goes to its target, bit 0 cleared, or past itself, and writes no register (R72). -/
theorem State.branch_eq_went {taken c : Bool} (h : taken = c) (offset : Word) (len : ℕ) :
    s.branch taken offset len = .next (s.went (if c then (s.hart.pc + offset) &&& ~~~1 else s.hart.pc + wordOf len)) := by
  subst h
  unfold State.branch
  rw [s.jump_eq_went, s.advance_eq_went]
  cases taken <;> rfl

theorem State.wrote_jumpLink (s : State) (d : Reg) (target link : Word) :
    Wrote s ((s.writeX d link).jump target) d link (target &&& ~~~1) where
  reg k := by rw [State.readX_jump, State.readX_writeX]
  rest := by
    rw [State.jump_eq_went, State.went, State.writeX, Hart.writeX]
    split <;> rfl

/-- Settles O11: a branch is one of its relation, and a jump writes its link before it goes. -/
theorem controlTransfers : Obligations.ControlTransfers := by
  refine ⟨fun o h s => ?_, fun p o h s => ?_⟩
  · have hbne : ∀ x y : Word, (x != y) = decide (x ≠ y) := fun x y => (decide_not (p := x = y)).symm
    refine ⟨State.branch_eq_went rfl .., State.branch_eq_went (hbne ..) .., State.branch_eq_went rfl .., State.branch_eq_went ?_ ..,
      State.branch_eq_went rfl .., State.branch_eq_went ?_ .., ?_, ?_⟩
    · exact decide_not.symm.trans (decide_eq_decide.2 not_lt)
    · exact decide_not.symm.trans (decide_eq_decide.2 Nat.not_lt)
    · exact (State.branch_eq_went (c := decide (s.readX h.ra = 0)) rfl ..).trans (by simp only [decide_eq_true_eq]; rfl)
    · exact (State.branch_eq_went (hbne ..) ..).trans (by simp only [decide_eq_true_eq]; rfl)
  · exact ⟨⟨_, rfl, s.wrote_jumpLink ..⟩, ⟨_, rfl, s.wrote_jumpLink ..⟩, congrArg _ (s.jump_eq_went _), congrArg _ (s.jump_eq_went _)⟩

end

end Sys2Proof.Machine

/-! The sign of a scalar floating pattern and its class (R77, R78), with the obligations SignInjection and Classes. -/

namespace Sys2Proof.Machine

section
variable {s : State} {i : Instr} {d : Reg} {f : Fmt} {a b : ℕ}

/-- A floating instruction that raises no flag writes its register alone (R74). -/
theorem State.gives_finishF {bits : ℕ} (h : exec i s = s.finishF d { bits := bits, flags := 0 }) :
    Gives i s d (BitVec.ofNat 64 bits) (s.hart.pc + 4) := by
  have hquiet : s.hart.raise 0 = s.hart := by
    have hflags : orFlags s.hart.ctl.fstat 0 = s.hart.ctl.fstat := BitVec.or_zero
    unfold Hart.raise
    rw [hflags]
  have hgives := State.givesFrom_finishF h
  rwa [hquiet] at hgives

theorem State.readFp_lt (s : State) (n : Reg) (code : ℕ) : s.readFp n code < 2 ^ (Fmt.ofCode code).width :=
  Nat.mod_lt _ (Nat.two_pow_pos _)

/-! ### Signs (R78) -/

/-- The sign bit of a pattern as a number. -/
theorem Fmt.sign_bit (hb : b < 2 ^ f.width) : b / 2 ^ (f.width - 1) = bit (f.sign b) := by
  have hlt : b / 2 ^ (f.width - 1) < 2 := by
    rw [Nat.div_lt_iff_lt_mul (Nat.two_pow_pos _), ← pow_succ', show f.width - 1 + 1 = f.width by unfold Fmt.width; omega]
    exact hb
  rw [f.sign_eq, Fmt.negative]
  generalize b / 2 ^ (f.width - 1) = q at hlt ⊢
  interval_cases q <;> rfl

/-- The exclusive-or of the signs, over the magnitude of the first pattern, flips its sign by that of the second (R78). -/
theorem Fmt.withSign_bne (ha : a < 2 ^ f.width) (hb : b < 2 ^ f.width) :
    f.withSign (f.sign a != f.sign b) (f.mag a) = Nat.xor a (b / 2 ^ (f.width - 1) * 2 ^ (f.width - 1)) := by
  have hdiv : Nat.xor a (b / 2 ^ (f.width - 1) * 2 ^ (f.width - 1)) / 2 ^ (f.width - 1) = bit (f.sign a != f.sign b) := by
    refine Nat.xor_div_two_pow.trans ?_
    rw [Nat.mul_div_cancel _ (Nat.two_pow_pos _), Fmt.sign_bit ha, Fmt.sign_bit hb]
    cases f.sign a <;> cases f.sign b <;> rfl
  have hmod : Nat.xor a (b / 2 ^ (f.width - 1) * 2 ^ (f.width - 1)) % 2 ^ (f.width - 1) = f.mag a := by
    refine Nat.xor_mod_two_pow.trans ?_
    rw [Nat.mul_mod_left, Nat.xor_zero, f.width_pred]
    rfl
  rw [← Nat.div_add_mod (Nat.xor a _) (2 ^ (f.width - 1)), hdiv, hmod, f.withSign_eq]
  cases f.sign a != f.sign b <;> simp [bit]

/-- Settles O15: the sign bit of the one pattern is flipped by that of the other. -/
theorem signInjection : Obligations.SignInjection := by
  intro o s h2 h5
  have hw : (if o.t.toNat ≤ 3 then 16 else if o.t.toNat = 4 then 32 else 64) = (Fmt.ofCode o.t.toNat).width := by
    generalize o.t.toNat = t at *
    interval_cases t <;> rfl
  rw [hw]
  have hgives := State.gives_finishF (exec_fsgn o s)
  rwa [Fmt.withSign_bne (State.readFp_lt ..) (State.readFp_lt ..)] at hgives

/-! ### Classes (R77) -/

/-- The class mask of a pattern, by its fields (R77). -/
theorem classF_eq (hf : f.Sound) (hfin : f.finiteOnly = false) (v : ℕ) : classF f v = 2 ^
    (if f.exponent v = 2 ^ f.ebits - 1 then
        (if f.fraction v = 0 then (if f.negative v then 0 else 7) else if 2 ^ (f.fbits - 1) ≤ f.fraction v then 9 else 8)
      else if f.exponent v = 0 then (if f.fraction v = 0 then (if f.negative v then 3 else 4) else if f.negative v then 2 else 5)
      else if f.negative v then 1 else 6) := by
  unfold classF
  by_cases he : f.exponent v = 2 ^ f.ebits - 1
  · rw [if_pos he]
    by_cases hm : f.fraction v = 0
    · rw [if_pos hm, hf.value_of_isInf (by simp [Fmt.isInf, he, hm, hfin])]
      cases f.negative v <;> rfl
    · rw [if_neg hm, hf.value_of_isNaN (by simp [Fmt.isNaN, he, hm, hfin])]
      by_cases hq : 2 ^ (f.fbits - 1) ≤ f.fraction v
      · rw [if_pos hq, show f.isSignalling v = false by simp [Fmt.isSignalling, hq]]
        rfl
      · rw [if_neg hq, show f.isSignalling v = true by simp [Fmt.isSignalling, Fmt.isNaN, he, hm, hfin, Nat.lt_of_not_ge hq]]
        rfl
  · have hfrac : f.fraction v < 2 ^ f.fbits := Nat.mod_lt _ (Nat.two_pow_pos _)
    rw [if_neg he, hf.value_of_isFinite (by simp [Fmt.isFinite, Fmt.isNaN, Fmt.isInf, he])]
    dsimp only
    by_cases h0 : f.exponent v = 0
    · have hplace : ((f.place v : ℕ) : ℤ) - f.scale = 1 - f.bias - f.fbits := by
        have := hf.scale_eq
        unfold Fmt.place
        omega
      rw [if_pos h0, show f.significand v = f.fraction v from if_pos h0]
      by_cases hm : f.fraction v = 0
      · rw [if_pos hm, if_pos hm]
        cases f.negative v <;> rfl
      · rw [if_neg hm, if_neg hm, if_pos ⟨hfrac, hplace⟩]
        cases f.negative v <;> rfl
    · rw [if_neg h0, show f.significand v = 2 ^ f.fbits + f.fraction v from if_neg h0, if_neg (by have := Nat.two_pow_pos f.fbits; omega),
        if_neg (by omega)]
      cases f.negative v <;> rfl

/-- The fields of a pattern as its remainders and quotients by powers of two (R44). -/
theorem Fmt.fields_eq {w p : ℕ} (hw : f.width = w) (hp : f.fbits = p) {v : ℕ} (hv : v < 2 ^ w) :
    f.exponent v = v % 2 ^ (w - 1) / 2 ^ p ∧ f.fraction v = v % 2 ^ p ∧ f.negative v = decide (2 ^ (w - 1) ≤ v) ∧ f.ebits = w - 1 - p := by
  subst hw hp
  refine ⟨?_, rfl, ?_, by rw [f.width_pred]; omega⟩
  · rw [Fmt.exponent, f.width_pred, Nat.add_comm, pow_add, Nat.mod_mul_right_div_self]
  · have hbit := Fmt.sign_bit hv
    rw [f.sign_eq] at hbit
    have hle : 2 ^ (f.width - 1) ≤ v ↔ 1 ≤ v / 2 ^ (f.width - 1) := by
      rw [Nat.le_div_iff_mul_le (Nat.two_pow_pos _), Nat.one_mul]
    rw [Bool.eq_iff_iff, decide_eq_true_iff, hle, hbit]
    cases f.negative v <;> simp [bit]

/-- Settles O16: the class of a value follows from the fields of its pattern. -/
theorem classes : Obligations.Classes := by
  intro o s w p ht
  have htype : ∃ t, o.t.toNat = t ∧ 2 ≤ t ∧ t ≤ 5 ∧ (Fmt.ofCode t).width = w ∧ (Fmt.ofCode t).fbits = p := by
    rcases ht with ⟨h, rfl, rfl⟩ | ⟨h, rfl, rfl⟩ | ⟨h, rfl, rfl⟩ | ⟨h, rfl, rfl⟩
    · exact ⟨2, by rw [h]; rfl, by decide⟩
    · exact ⟨3, by rw [h]; rfl, by decide⟩
    · exact ⟨4, by rw [h]; rfl, by decide⟩
    · exact ⟨5, by rw [h]; rfl, by decide⟩
  obtain ⟨t, rfl, h2, h5, hw, hp⟩ := htype
  obtain ⟨he, hm, hneg, hebits⟩ := Fmt.fields_eq hw hp (hw ▸ s.readFp_lt o.a o.t.toNat)
  have hgives := State.gives_finishF (exec_fclass o s)
  rw [classF_eq (Fmt.sound_ofCode h5) (Fmt.finiteOnly_of_le h2 h5), he, hm, hneg, hebits, hp] at hgives
  have hread : s.readFp o.a o.t.toNat = (s.readX o.a).toNat % 2 ^ w := hw ▸ rfl
  rwa [hread] at hgives

end

end Sys2Proof.Machine

/-! The atomics (R80 to R82), with the obligation Atomics. -/

namespace Sys2Proof.Machine

/-! ### Patterns of a width -/

section
variable {w : ℕ}

theorem low_toNat (x : BitVec w) : low w x.toNat = x.toNat := Nat.mod_eq_of_lt x.isLt

theorem low_eq_setWidth {m : ℕ} (w : ℕ) (x : BitVec m) : low w x.toNat = (x.setWidth w).toNat := (BitVec.toNat_setWidth ..).symm

theorem toSigned_toNat (x : BitVec w) : toSigned w x.toNat = x.toInt := by
  unfold toSigned BitVec.toInt
  rw [low_toNat]

theorem sextBytes_toNat {n : ℕ} (x : BitVec (8 * n)) : sextBytes n x.toNat = x.signExtend 64 := congrArg (BitVec.ofInt 64) (toSigned_toNat x)

theorem pickBy_smaller (x y : BitVec w) :
    pickBy (toSigned w) false x.toNat y.toNat = (if x.toInt ≤ y.toInt then x else y).toNat := by
  rw [apply_ite BitVec.toNat]
  simp only [pickBy, toSigned_toNat, ← not_le, ite_not]
  rfl

theorem pickBy_larger (x y : BitVec w) :
    pickBy (toSigned w) true x.toNat y.toNat = (if x.toInt ≤ y.toInt then y else x).toNat := by
  rw [apply_ite BitVec.toNat, ← ite_lt_eq_ite_le fun h => congrArg BitVec.toNat (BitVec.eq_of_toInt_eq h).symm]
  simp only [pickBy, toSigned_toNat]
  rfl

theorem min_toNat (x y : BitVec w) : min x.toNat y.toNat = (if x ≤ y then x else y).toNat := by
  rw [apply_ite BitVec.toNat]
  exact Nat.min_def ..

theorem max_toNat (x y : BitVec w) : max x.toNat y.toNat = (if x ≤ y then y else x).toNat := by
  rw [apply_ite BitVec.toNat]
  exact Nat.max_def ..

end

section
variable {s u : State} {p : Place} {l : Option LeafAt} {i : Instr} {o : AOp} {d : Reg} {va r : Word} {key n v : ℕ}

/-! ### What an atomic does at its place (R80, R81) -/

/-- The state with bytes written to memory at once. -/
def State.storeAt (u : State) (key n v : ℕ) : State := { u with mem := u.mem.write key n v }

/-- An instruction that stores bytes and writes a register has done both and nothing else. -/
theorem State.stored_finishX (hwf : u.mem.wf = true) (key n v : ℕ) (d : Reg) (r : Word) :
    Stored u ((u.storeAt key n v).finishX d r 4) key n v d r (u.hart.pc + 4) where
  reg k := State.readX_finishX (u.storeAt key n v) d k r 4
  bytes _ := Memory.byte_write hwf
  pois w := Memory.pois_write hwf w
  rest := (State.wrote_finishX (u.storeAt key n v) d r 4).rest

theorem State.freeToStore_parts (h : u.freeToStore l key n = true) :
    u.atomicOnWay key n = false ∧ u.delays (agentNo u.cur .scalar) key = false ∧ u.alien (u.leafKey l) key n = false := by
  simp only [State.freeToStore, State.holds, Bool.and_eq_true, Bool.not_eq_true', Bool.or_eq_false_iff] at h
  obtain ⟨⟨⟨-, honway⟩, hdelays⟩, halien⟩ := h
  exact ⟨honway, hdelays, halien⟩

/-- The write of an atomic that nothing delays, to lines under its own key, stands in memory at once (R81, R409). -/
theorem State.update_free {w : ℕ} (hdelays : u.delays w key = false) (halien : u.alien (u.leafKey l) key n = false) (acq : Bool) (v : ℕ) :
    u.update w acq l key n v = u.storeAt key n v := by
  have hkey : u.recipher (u.leafKey l) key n = u := if_pos (by rw [halien]; rfl)
  unfold State.update
  dsimp only
  rw [if_neg (by simp [hdelays]), State.putUnder, hkey]
  rfl

theorem State.readAt_lt (h : u.alien (u.leafKey l) key n = false) : u.readAt l key n < 2 ^ (8 * n) := by
  unfold State.readAt State.peek
  rw [h]
  exact Memory.read_lt ..

/-- What lets an atomic be performed at once at a place: the address leads there, no byte is poisoned, the page has no replica, nothing
delays the write, and one that releases has none of its hart's scalar writes to wait for (R80 to R82, R255, R389). -/
structure State.AmoFree (s : State) (o : AOp) (p : Place) (l : Option LeafAt) : Prop where
  wf : s.mem.wf = true
  reaches : Reaches s .write (s.readX o.a) (amoBytes o) p l
  clean : s.mem.poisoned p.key (amoBytes o) = false
  alone : s.pageHolds p.key = false
  free : (s.accessed .write p l (amoBytes o)).freeToStore l p.key (amoBytes o) = true
  released : relOf o = true → s.agentHeld (agentNo s.cur .scalar) = false

/-- The state in which an atomic reads its old value. -/
def State.amoReads (s : State) (o : AOp) (p : Place) (l : Option LeafAt) : State := s.accessed .write p l (amoBytes o)

/-- The old value of an atomic (R80). -/
def State.amoOld (s : State) (o : AOp) (p : Place) (l : Option LeafAt) : BitVec (8 * amoBytes o) :=
  BitVec.ofNat _ ((s.amoReads o p l).readAt l p.key (amoBytes o))

/-- An atomic at a place free for it stores what its operation gives and delivers the old value (R80). -/
theorem State.AmoFree.atomic (h : s.AmoFree o p l) (bits : Word) (op : ℕ → Option ℕ) (out : ℕ → Word) :
    s.atomic bits (amoBytes o) (relOf o) (acqOf o) op out o.d (s.readX o.a)
      = .next (((op (s.amoOld o p l).toNat).elim (s.amoReads o p l) ((s.amoReads o p l).storeAt p.key (amoBytes o))).finishX o.d
          (out (s.amoOld o p l).toNat) 4) := by
  obtain ⟨hwindow, hloc⟩ := h.reaches
  obtain ⟨-, hcur, -⟩ := s.accessed_leaves (k := .write) (p := p) (l := l) (n := amoBytes o)
  obtain ⟨honway, hdelays, halien⟩ := State.freeToStore_parts h.free
  have hrelease : (if relOf o then s.release (vcfgLevel s.hart.ctl.vcfg) else some s) = some s := by
    split
    · exact State.release_free (h.released ‹_›) _
    · rfl
  have hsettle : ((s.visit (dieKey s.cur) p .write l).closeLate p.key (amoBytes o)).settle p.key (amoBytes o) = s.amoReads o p l :=
    if_pos (by rw [← State.accessed, honway]; rfl)
  have hold : (s.amoReads o p l).readAt l p.key (amoBytes o) = (s.amoOld o p l).toNat := by
    exact (Nat.mod_eq_of_lt (State.readAt_lt halien)).symm
  rw [hcur] at hdelays
  unfold State.atomic
  rw [hrelease]
  dsimp only
  rw [hwindow, hloc]
  dsimp only
  rw [h.clean, h.alone, hsettle, hold]
  cases op (s.amoOld o p l).toNat with
  | none => rfl
  | some v => exact congrArg (fun t : State => Host.Outcome.next (t.finishX o.d (out (s.amoOld o p l).toNat) 4)) (State.update_free hdelays halien (acqOf o) v)

theorem State.AmoFree.reads_pc (_ : s.AmoFree o p l) : (s.amoReads o p l).hart.pc = s.hart.pc := by
  obtain ⟨hhart, -, -⟩ := s.accessed_leaves (k := .write) (p := p) (l := l) (n := amoBytes o)
  rw [State.amoReads, hhart]

theorem State.AmoFree.stored (h : s.AmoFree o p l) (v : ℕ) (r : Word) :
    Stored (s.amoReads o p l) (((s.amoReads o p l).storeAt p.key (amoBytes o) v).finishX o.d r 4) p.key (amoBytes o) v o.d r (s.hart.pc + 4) :=
  h.reads_pc ▸ State.stored_finishX (State.accessed_wf h.wf) ..

/-- An atomic stores its function of the old value and its operand, and delivers the old value sign-extended (R80). -/
theorem State.AmoFree.amo (h : s.AmoFree o p l) {f : ℕ → ℕ → ℕ → ℕ} {v : BitVec (8 * amoBytes o)} (hi : exec i s = s.amo i o f)
    (hv : low (8 * amoBytes o) (f (8 * amoBytes o) (s.amoOld o p l).toNat ((s.readX o.b).setWidth (8 * amoBytes o)).toNat) = v.toNat) :
    ∃ t, exec i s = .next t ∧ Stored (s.amoReads o p l) t p.key (amoBytes o) v.toNat o.d ((s.amoOld o p l).signExtend 64) (s.hart.pc + 4) := by
  dsimp only [State.amo] at hi
  rw [h.atomic, low_eq_setWidth _ (s.readX o.b), hv, sextBytes_toNat] at hi
  exact ⟨_, hi, h.stored ..⟩

theorem exec_amocas_of_eq (h : s.AmoFree o p l) (heq : s.amoOld o p l = (s.readX o.d).setWidth (8 * amoBytes o)) :
    ∃ t, exec (.amocas o) s = .next t ∧ Stored (s.amoReads o p l) t p.key (amoBytes o) ((s.readX o.b).setWidth (8 * amoBytes o)).toNat o.d
      ((s.amoOld o p l).signExtend 64) (s.hart.pc + 4) := by
  have hgo := exec_amocas o s
  dsimp only [execAmocas] at hgo
  rw [h.atomic, low_eq_setWidth, low_eq_setWidth, if_pos (congrArg _ heq), sextBytes_toNat] at hgo
  exact ⟨_, hgo, h.stored ..⟩

theorem exec_amocas_of_ne (h : s.AmoFree o p l) (hne : s.amoOld o p l ≠ (s.readX o.d).setWidth (8 * amoBytes o)) :
    GivesFrom (.amocas o) s (s.amoReads o p l) o.d ((s.amoOld o p l).signExtend 64) (s.hart.pc + 4) := by
  have hgo := exec_amocas o s
  dsimp only [execAmocas] at hgo
  rw [h.atomic, low_eq_setWidth, if_neg fun e => hne (BitVec.eq_of_toNat_eq e), sextBytes_toNat] at hgo
  exact State.givesFrom_finishX hgo h.reads_pc

theorem exec_amofadd_of_free (h : s.AmoFree o p l) :
    ∃ t, exec (.amofadd o) s = .next t ∧ Stored (s.amoReads o p l) t p.key (amoBytes o)
      (addF (if amoBytes o = 4 then fp32 else fp64) .rne (s.amoOld o p l).toNat ((s.readX o.b).setWidth (8 * amoBytes o)).toNat).bits o.d
      ((s.amoOld o p l).zeroExtend 64) (s.hart.pc + 4) := by
  have hgo := exec_amofadd o s
  dsimp only [execAmofadd] at hgo
  rw [h.atomic, low_eq_setWidth, show wordOf (s.amoOld o p l).toNat = (s.amoOld o p l).zeroExtend 64 from BitVec.ofNat_toNat ..] at hgo
  exact ⟨_, hgo, h.stored ..⟩

end

/-- Settles O14: each atomic runs the shared operation at its place, where it stores its function of the old value and the operand. -/
theorem atomics : Obligations.Atomics := by
  intro o s p l hwf n w u old b hr hp hpage hf hrel does
  have h : s.AmoFree o p l := ⟨hwf, hr, hp, hpage, hf, hrel⟩
  have hpick {x : ℕ} {y : BitVec (8 * amoBytes o)} (hx : x = y.toNat) : low (8 * amoBytes o) x = y.toNat := hx ▸ low_toNat y
  refine ⟨h.amo (exec_amoswap o s) (low_toNat _), h.amo (exec_amoadd o s) (BitVec.toNat_add ..).symm, h.amo (exec_amoand o s) (hpick rfl),
    h.amo (exec_amoor o s) (hpick rfl), h.amo (exec_amoxor o s) (hpick rfl),
    h.amo (exec_amomin o s) (hpick (pickBy_smaller ..)), h.amo (exec_amomax o s) (hpick (pickBy_larger ..)),
    h.amo (exec_amominu o s) (hpick (min_toNat ..)), h.amo (exec_amomaxu o s) (hpick (max_toNat ..)), ?_, exec_amofadd_of_free h⟩
  split
  case isTrue heq => exact exec_amocas_of_eq h heq
  case isFalse hne => exact exec_amocas_of_ne h hne

end Sys2Proof.Machine

/-! The return from a trap, fences, what they order, and WFE (R83 to R87, R250 to R258, R362, R389, R421), with the obligations TrapReturn and
FencesAndEvents. -/

namespace Sys2Proof.Machine

section
variable {s t : State} {i : Instr}

/-! ### TRET (R86, R279) -/

theorem State.resumeStreams_of_none (h : ∀ j, j < 8 → (s.hart.slot j).state ≠ .retry) : s.resumeStreams = s := by
  refine List.foldlRecOn (motive := (· = s)) _ _ rfl fun t ht j hj => ?_
  subst ht
  exact if_neg (h j (List.mem_range.1 hj))

/-- Settles O21: the three checks of TRET in their order, and no stream left to resume. -/
theorem trapReturn : Obligations.TrapReturn := by
  intro s
  rw [exec_tret]
  unfold execTret
  refine ⟨fun hprv hclaim hretry => ?_, fun hu => ?_⟩
  · rw [hprv, hclaim]
    exact congrArg Host.Outcome.next (State.resumeStreams_of_none (s := { s with hart := s.hart.returnFromTrap }) hretry)
  · obtain ⟨hprv, -, -⟩ := State.plainUser_parts hu
    rw [hprv]
    exact congrArg _ (State.trapIssue_user hu cPRIVILEGE 0 0x68D00)

/-! ### The writes that an agent must order (R250, R253, R258) -/

theorem HeldWrite.binds_iff (w : HeldWrite) (a : ℕ) : w.binds a = true ↔ w.writer = a ∨ a < 2 ^ 32 ∧
    (w.seen = 1 ∧ w.writer / 8 = a / 8 ∨ w.seen = 2 ∧ w.writer / 8 / 4 = a / 8 / 4
      ∨ 3 ≤ w.seen ∧ formKey (w.writer / 8) = formKey (a / 8)) := by
  have hinstance : sameInstance w.seen (w.writer / 8) (a / 8) = true ↔
      (w.seen = 1 ∧ w.writer / 8 = a / 8 ∨ w.seen = 2 ∧ w.writer / 8 / 4 = a / 8 / 4
        ∨ 3 ≤ w.seen ∧ formKey (w.writer / 8) = formKey (a / 8)) := by
    match w.seen with
    | 0 => simp [sameInstance]
    | 1 => simp [sameInstance]
    | 2 => simp [sameInstance, coreKey]
    | n + 3 => simp [sameInstance]
  unfold HeldWrite.binds
  rw [Bool.or_eq_true, Bool.and_eq_true, beq_iff_eq, decide_eq_true_iff, hinstance]

/-- A write as a release or fence of a level by some writers leaves it: one that binds them is visible at the level from then on (R258). -/
def HeldWrite.seenBy (ws : List ℕ) (level : ℕ) (w : HeldWrite) : HeldWrite :=
  if ws.any w.binds then { w with seen := max w.seen level } else w

/-- A package's record after such a release or fence. -/
def PkgRec.seenBy (ws : List ℕ) (level : ℕ) (r : PkgRec) : PkgRec := { r with held := r.held.map (HeldWrite.seenBy ws level) }

section
variable {ws : List ℕ} {level : ℕ}

theorem HeldWrite.seenBy_twice (w : HeldWrite) : (w.seenBy ws level).seenBy ws level = w.seenBy ws level := by
  by_cases h : ws.any w.binds = true
  · have hseen : w.seenBy ws level = { w with seen := max w.seen level } := if_pos h
    rw [hseen, HeldWrite.seenBy]
    dsimp only
    rw [max_assoc, max_self, ite_self]
  · rw [show w.seenBy ws level = w from if_neg h]
    exact if_neg h

theorem PkgRec.seenBy_twice (r : PkgRec) : (r.seenBy ws level).seenBy ws level = r.seenBy ws level := by
  unfold PkgRec.seenBy
  simp only [List.map_map]
  congr 2
  exact funext HeldWrite.seenBy_twice

theorem PkgRec.seenBy_of_unbound {r : PkgRec} (h : ∀ w ∈ r.held, ws.any w.binds = false) : r.seenBy ws level = r := by
  have hheld : r.held.map (HeldWrite.seenBy ws level) = r.held :=
    (List.map_congr_left fun w hw => if_neg (by rw [h w hw]; decide)).trans (List.map_id _)
  unfold PkgRec.seenBy
  rw [hheld]

theorem State.pkg_setPkg (hs : SMap.wf PkgRec.reset s.pkgs = true) (q : ℕ) (r : PkgRec) (p : ℕ) :
    (s.setPkg q r).pkg p = if p = q then r else s.pkg p := SMap.get_set hs

/-- What making writes visible, package by package, leaves: each package of the list with them visible, every other as it was. -/
theorem State.foldl_seenBy (hs : SMap.wf PkgRec.reset s.pkgs = true) (ps : List ℕ) :
    let t := ps.foldl (fun t p => t.setPkg p ((t.pkg p).seenBy ws level)) s
    t = { s with pkgs := t.pkgs } ∧ ∀ p, t.pkg p = if p ∈ ps then (s.pkg p).seenBy ws level else s.pkg p := by
  induction ps generalizing s with
  | nil => exact ⟨rfl, fun p => (if_neg List.not_mem_nil).symm⟩
  | cons q ps ih =>
    obtain ⟨hrest, hpkg⟩ := ih (s := s.setPkg q ((s.pkg q).seenBy ws level)) (SMap.set_wf hs)
    refine ⟨hrest, fun p => (hpkg p).trans ?_⟩
    rw [State.pkg_setPkg hs]
    by_cases hq : p = q
    · subst hq
      rw [if_pos rfl, PkgRec.seenBy_twice, ite_self, if_pos List.mem_cons_self]
    · rw [if_neg hq]
      simp only [List.mem_cons, hq, false_or]

theorem State.any_agentHeld_iff : ws.any s.agentHeld = true ↔ ∃ p ∈ s.packages, ∃ w ∈ (s.pkg p).held, ws.any w.binds = true := by
  simp only [State.agentHeld, List.any_eq_true]
  constructor
  · rintro ⟨a, ha, p, hp, w, hw, hbinds⟩
    exact ⟨p, hp, w, hw, a, ha, hbinds⟩
  · rintro ⟨p, hp, w, hw, a, ha, hbinds⟩
    exact ⟨a, ha, p, hp, w, hw, hbinds⟩

theorem State.makeSeen_of_unbound (h : ¬ ws.any s.agentHeld = true) (level : ℕ) : s.makeSeen ws level = s := if_neg h

/-- A release or fence makes the writes that bind its writers visible, and changes nothing else (R258). -/
theorem State.makeSeen_spec (hs : SMap.wf PkgRec.reset s.pkgs = true) :
    s.makeSeen ws level = { s with pkgs := (s.makeSeen ws level).pkgs }
    ∧ ∀ p, (s.makeSeen ws level).pkg p = if p ∈ s.packages then (s.pkg p).seenBy ws level else s.pkg p := by
  by_cases h : ws.any s.agentHeld = true
  · rw [show s.makeSeen ws level = s.packages.foldl (fun t p => t.setPkg p ((t.pkg p).seenBy ws level)) s from if_pos h]
    exact State.foldl_seenBy hs s.packages
  · rw [State.makeSeen_of_unbound h]
    refine ⟨rfl, fun p => ?_⟩
    split
    case isTrue hp =>
      refine (PkgRec.seenBy_of_unbound fun w hw => ?_).symm
      rw [Bool.eq_false_iff]
      exact fun hb => h (State.any_agentHeld_iff.2 ⟨p, hp, w, hw, hb⟩)
    case isFalse => rfl

theorem State.order_eq_none_iff : s.order ws level = none ↔
    ∃ p ∈ s.packages, ∃ w ∈ (s.pkg p).held, ws.any w.binds = true ∧ (4 ≤ level ∨ s.pageHolds w.key = true) := by
  simp only [State.order, ite_eq_left_iff, reduceCtorEq, imp_false, not_not, List.any_eq_true, Bool.and_eq_true, Bool.or_eq_true, decide_eq_true_eq]

theorem State.order_eq_some (h : s.order ws level = some t) : t = s.makeSeen ws level := by
  unfold State.order at h
  dsimp only at h
  split at h
  · cases h
  · exact (Option.some.inj h).symm

/-- At a scope of DIE or larger nothing is left to make visible once the order is kept (R250). -/
theorem State.order_of_large (hl : 4 ≤ level) (h : s.order ws level = some t) : t = s := by
  rw [State.order_eq_some h]
  refine State.makeSeen_of_unbound (fun hheld => ?_) level
  obtain ⟨p, hp, w, hw, hb⟩ := State.any_agentHeld_iff.1 hheld
  rw [State.order_eq_none_iff.2 ⟨p, hp, w, hw, hb, .inl hl⟩] at h
  cases h

/-! ### Fences (R83, R84, R421) -/

theorem State.makeSeen_hart (s : State) (ws : List ℕ) (level : ℕ) : (s.makeSeen ws level).hart = s.hart := by
  unfold State.makeSeen
  split
  · exact List.foldlRecOn (motive := fun t : State => t.hart = s.hart) _ _ rfl fun t ht p _ => ht
  · rfl

/-- A fence completes once it is ready and its order is kept, and else waits. -/
theorem State.fence_cases (ready : Bool) (as : List Agent) (h : exec i s = s.fence ready as) :
    (ready = false ∨ s.order (as.map (agentNo s.cur)) (vcfgLevel s.hart.ctl.vcfg) = none → exec i s = .next s)
    ∧ ∀ t, ready = true → s.order (as.map (agentNo s.cur)) (vcfgLevel s.hart.ctl.vcfg) = some t → exec i s = .next (t.went (s.hart.pc + 4)) := by
  rw [h]
  unfold State.fence
  refine ⟨?_, fun t hready hsome => ?_⟩
  · rintro (hwait | hwait)
    · rw [hwait]
      rfl
    · rw [hwait, ite_self]
  · have hpc : t.hart.pc = s.hart.pc := by rw [State.order_eq_some hsome, State.makeSeen_hart]
    rw [hready, if_pos rfl, hsome, ← hpc]
    exact congrArg _ (t.advance_eq_went 4)

theorem fenceMax_some (a : Option ℕ) (level : ℕ) : fenceMax a (some level) = some (max (a.getD 0) level) := by
  cases a with
  | none => exact congrArg some (Nat.zero_max level).symm
  | some n => rfl

theorem mapIdx_first {α : Type} (f : α → α) (a : α) (l : List α) : (a :: l).mapIdx (fun i e => if i = 0 then f e else e) = f a :: l := by
  rw [List.mapIdx_eq_iff]
  rintro (_ | n) <;> simp

/-- FENCE.VV marks what comes after it in the queue, and of a frozen queue the entry it stands at (R83, R421). -/
theorem Hart.markFence_eq (h : Hart) (level : ℕ) : h.markFence level = { h with
    vvFence := some (max (h.vvFence.getD 0) level)
    queue := if h.frozen then h.queue.mapIdx (fun i e => if i = 0 then { e with fenced := some (max (e.fenced.getD 0) level) } else e)
      else h.queue } := by
  unfold Hart.markFence
  rw [fenceMax_some]
  cases hq : h.queue with
  | nil => simp
  | cons e q =>
    rw [mapIdx_first]
    dsimp only
    rw [fenceMax_some]

end

end

theorem exec_fenceI_eq (s : State) : exec .fenceI s = .next (if s.queueQuiet && !s.ownHeld [.scalar, .vector]
    then State.went { s with hart := { s.hart with code := s.mem } } (s.hart.pc + 4) else s) := by
  rw [exec_fenceI]
  unfold execFenceI
  rw [State.advance_eq_went]
  rfl

theorem exec_fenceVv_eq (s : State) :
    exec .fenceVv s = .next (State.went { s with hart := s.hart.markFence (vcfgLevel s.hart.ctl.vcfg) } (s.hart.pc + 4)) := by
  rw [exec_fenceVv]
  unfold execFenceVv
  rw [State.advance_eq_went]
  rfl

theorem exec_wfe_eq (s : State) :
    (s.hart.event = true → exec .wfe s = .next (State.went { s with hart := { s.hart with event := false } } (s.hart.pc + 4)))
    ∧ (s.hart.event = false → s.hart.stop = false → exec .wfe s = .next s) := by
  rw [exec_wfe]
  unfold execWfe
  refine ⟨fun hevent => ?_, fun hevent hstop => ?_⟩
  · rw [if_pos hevent, State.advance_eq_went]
    rfl
  · unfold State.stall
    rw [hevent, hstop]
    rfl

/-- Settles O18: a fence is its wait and its order, and an order makes the writes visible that bind its writers. -/
theorem fencesAndEvents : Obligations.FencesAndEvents := by
  refine ⟨fun s => ?_, fun s ws level hwf => ?_, exec_wfe_eq⟩
  · refine ⟨State.fence_cases _ _ (exec_fenceSv s), State.fence_cases _ _ (exec_fenceVs s), State.fence_cases _ _ (exec_fenceAll s), exec_fenceI_eq s, ?_⟩
    rw [exec_fenceVv_eq, Hart.markFence_eq]
    rfl
  · intro own on
    have hown (w : HeldWrite) : ws.any w.binds = true ↔ own w := by simp only [List.any_eq_true, HeldWrite.binds_iff, own]
    refine ⟨?_, fun hl t => State.order_of_large hl, fun t ht => ?_⟩
    · rw [State.order_eq_none_iff]
      constructor
      · rintro ⟨p, hp, w, hw, hb, hwait⟩
        exact ⟨w, ⟨p, hp, hw⟩, (hown w).1 hb, hwait⟩
      · rintro ⟨w, ⟨p, hp, hw⟩, ho, hwait⟩
        exact ⟨p, hp, w, hw, (hown w).2 ho, hwait⟩
    · obtain ⟨hrest, hpkg⟩ := State.makeSeen_spec (ws := ws) (level := level) hwf
      rw [← State.order_eq_some ht] at hrest hpkg
      refine ⟨hrest, fun p => ?_⟩
      rw [hpkg p]
      by_cases hp : p ∈ s.packages
      · rw [if_pos hp]
        refine ⟨rfl, List.length_map .., fun k v w hv hw => ?_⟩
        obtain rfl : v.seenBy ws level = w := by simpa [PkgRec.seenBy, hv] using hw
        exact ⟨fun ho _ => if_pos ((hown v).2 ho), fun hno => if_neg fun hb => hno.elim (· ((hown v).1 hb)) (· hp)⟩
      · rw [if_neg hp]
        refine ⟨rfl, rfl, fun k v w hv hw => ?_⟩
        obtain rfl : v = w := Option.some.inj (hv.symm.trans hw)
        exact ⟨fun _ h => absurd h hp, fun _ => rfl⟩

end Sys2Proof.Machine

/-! The forms of a stream and its issue (R160, R265 to R271), with the obligation StreamIssue. -/

namespace Sys2Proof.Machine

section
variable {s u : State} {i : Instr} {o : VOp} {va : Word} {n v : ℕ}

/-! ### The forms of a stream (R266, R267) -/

/-- A slot's instruction is cut back into the fields it was encoded from (R25). -/
theorem State.slotOf_fields {q : WordFields} (h : encode i = some (.word (joinWord q))) (rec_ : BitVec 512) : (s.slotOf i o rec_).fields = q := by
  have hbits : (instrBits i).setWidth 32 = joinWord q := by
    unfold instrBits
    rw [h]
    exact BitVec.setWidth_setWidth_of_le _ (by decide)
  unfold Slot.fields
  rw [show (s.slotOf i o rec_).bits = instrBits i from rfl, hbits, splitWord_joinWord]

/-- S, T and op2 are cut back out of the field they stand in (R25). -/
theorem vFields_extract (sc : BitVec 1) (t : BitVec 3) (op2 : BitVec 2) :
    (sc ++ t ++ op2).extractLsb' 5 1 = sc ∧ (sc ++ t ++ op2).extractLsb' 2 3 = t ∧ (sc ++ t ++ op2).extractLsb' 0 2 = op2 := by
  refine ⟨?_, ?_, BitVec.extractLsb'_append_eq_right⟩ <;>
    (apply BitVec.eq_of_getLsbD_eq; intro k hk; simp only [BitVec.getLsbD_extractLsb', BitVec.getLsbD_append]; interval_cases k <;> simp)

/-- What a slot's instruction does, whether it is shaped, and the width of its elements, by the fields it was encoded from (R266, R267). -/
theorem State.slotOf_form {mj : BitVec 6} {op2 : BitVec 2} {o' : VOp} (h : encode i = encV mj op2 o') (rec_ : BitVec 512) :
    let sl := s.slotOf i o rec_
    sl.op = (if mj = 0x2C then .tile else if op2 = 2 then .store else if op2 = 3 then .copy else .load)
    ∧ sl.shaped = decide (o'.sc = 1) ∧ (o'.sc = 0 → sl.width = intBytes o'.t) := by
  intro sl
  obtain ⟨hsc, ht, hop2⟩ := vFields_extract o'.sc o'.t op2
  have hfields : sl.fields = _ := State.slotOf_fields h rec_
  have hshaped : sl.shaped = decide (o'.sc = 1) := by
    rw [Slot.shaped, hfields]
    exact congrArg (fun c : BitVec 1 => decide (c = 1)) hsc
  refine ⟨?_, hshaped, fun h0 => ?_⟩
  · rw [Slot.op, hfields]
    exact congrArg (fun c : BitVec 2 => if mj = 0x2C then StreamOp.tile else if c = 2 then .store else if c = 3 then .copy else .load) hop2
  · rw [Slot.width, hshaped, h0, hfields]
    exact congrArg intBytes ht

/-- An instruction that issues a stream: what its slot does, and whether it is shaped. -/
structure IssuesStream (i : Instr) (o : VOp) (op : StreamOp) (shaped : Bool) : Prop where
  exec_eq : ∀ s, exec i s = s.stream i o
  op_eq : ∀ (s : State) rec_, (s.slotOf i o rec_).op = op
  shaped_eq : ∀ (s : State) rec_, (s.slotOf i o rec_).shaped = shaped

theorem IssuesStream.of_encode {mj : BitVec 6} {op2 : BitVec 2} {o' : VOp} {op : StreamOp} {shaped : Bool} (hexec : ∀ s, exec i s = s.stream i o)
    (h : encode i = encV mj op2 o') (hop : (if mj = 0x2C then .tile else if op2 = 2 then .store else if op2 = 3 then .copy else .load) = op)
    (hshaped : decide (o'.sc = 1) = shaped) : IssuesStream i o op shaped :=
  ⟨hexec, fun _ r => (State.slotOf_form h r).1.trans hop, fun _ r => (State.slotOf_form h r).2.1.trans hshaped⟩

theorem streams_stmld (o : VOp) : IssuesStream (.stmld o) o .load false := .of_encode (exec_stmld o) rfl rfl rfl
theorem streams_stmst (o : VOp) : IssuesStream (.stmst o) o .store false := .of_encode (exec_stmst o) rfl rfl rfl
theorem streams_stmcp (o : VOp) : IssuesStream (.stmcp o) o .copy false := .of_encode (exec_stmcp o) rfl rfl rfl
theorem streams_stmldShaped (o : VOp) : IssuesStream (.stmldShaped o) o .load true := .of_encode (exec_stmldShaped o) rfl rfl rfl
theorem streams_stmstShaped (o : VOp) : IssuesStream (.stmstShaped o) o .store true := .of_encode (exec_stmstShaped o) rfl rfl rfl
theorem streams_stmcpShaped (o : VOp) : IssuesStream (.stmcpShaped o) o .copy true := .of_encode (exec_stmcpShaped o) rfl rfl rfl
theorem streams_stmtl (h : o.sc = 1) : IssuesStream (.stmtl o) o .tile true := .of_encode (exec_stmtl o) rfl rfl (decide_eq_true h)

theorem Slot.elements_plain {sl : Slot} (hop : sl.op ≠ .tile) (hshaped : sl.shaped = false) (vl : ℕ) : sl.elements vl = vl := by
  rw [Slot.elements, if_neg hop, hshaped]
  rfl

theorem Slot.elements_shaped {sl : Slot} (hop : sl.op ≠ .tile) (hshaped : sl.shaped = true) (vl : ℕ) :
    sl.elements vl = min vl (shapeTiles sl.shape 0) := by
  rw [Slot.elements, if_neg hop, hshaped]
  rfl

theorem Slot.elements_tile {sl : Slot} (hop : sl.op = .tile) (vl : ℕ) : sl.elements vl = sl.rows * sl.rowCount vl := if_pos hop

/-! ### The read of a record (R71, R265) -/

theorem State.readRecord_of_not_canonical (h : canonical va = false) (n : ℕ) : s.readRecord va n = .bad cADDRESS := if_pos (by rw [h]; rfl)

theorem State.AccessOnly.readRecord (h : s.readRecord va n = .ok v u) : s.AccessOnly u := by
  unfold State.readRecord at h
  dsimp only at h
  split at h
  · cases h
  · split at h
    · cases h
    · cases h
    · split at h
      · cases h
      · cases h
        refine (State.AccessOnly.refl s).foldl fun t l => ?_
        split
        · exact .visit ..
        · exact .refl t

theorem State.AccessOnly.hart_eq (h : s.AccessOnly u) : u.hart = s.hart := by
  unfold State.AccessOnly at h
  rw [h]

/-- A trap at user level after accesses of the instruction is entered at the instruction. -/
theorem State.AccessOnly.trapIssue_user (h : s.AccessOnly u) (hu : s.plainUser = true) (cause : ℕ) (va info : Word) :
    u.trapIssue cause va info = u.trapped { cause := cause, src := 0, slot := 0, fb := s.hart.pc, va := va, info := info } s.hart.pc := by
  have hplain : u.plainUser = true := by
    unfold State.plainUser
    rw [h.hart_eq]
    exact hu
  rw [State.trapIssue_user hplain, h.hart_eq]

theorem exec_shape_of_record (hr : s.readRecord (s.readX o.vs1) 64 = .ok v u) :
    exec (.shape o) s = .next (u.finishV o.vd (wordOf (shapeCode (s.readX o.vs1) (BitVec.ofNat 512 v)))) := by
  rw [exec_shape]
  unfold execShape
  dsimp only
  rw [hr]

theorem State.endV_pc (u : State) : u.endV.hart.pc = u.hart.pc := by
  unfold State.endV
  split <;> rfl

/-- A V-form of the scalar side that completes with a result gives it (R160). -/
theorem State.givesV_finishV {d : Reg} {r : Word} (h : exec i s = .next (u.finishV d r)) : GivesV i s u d r :=
  ⟨_, h, u.endV_pc ▸ State.wrote_finishX u.endV d r 4⟩

/-! ### The issue of a stream (R160, R267, R271) -/

/-- Nothing keeps a stream from its issue: the queue is empty, its slot is free, and an STMTL's mask can be written and is not owed (R261, R267, R271). -/
structure State.StreamOpen (s : State) (o : VOp) (op : StreamOp) : Prop where
  queue : s.hart.queue = []
  slot : (s.hart.slot o.m.toNat).state ≠ .active
  mask : op = .tile → o.t = 0 ∨ s.vecCheck [] false = none ∧ s.hart.owesMask o.t.toNat = false

/-- The mask that a stream writes is not owed, and its check passes where it writes one. -/
theorem State.StreamOpen.mask_free {op : StreamOp} (h : s.StreamOpen o op) :
    s.hart.owesMask (if op = .tile then o.t.toNat else 0) = false
    ∧ (if (if op = .tile then o.t.toNat else 0) = 0 then none else s.vecCheck [] false) = none := by
  by_cases hop : op = .tile
  · rw [if_pos hop]
    rcases h.mask hop with h0 | ⟨hcheck, howes⟩
    · rw [h0]
      exact ⟨rfl, rfl⟩
    · rw [hcheck]
      exact ⟨howes, ite_self none⟩
  · rw [if_neg hop]
    exact ⟨rfl, rfl⟩

section
variable {op : StreamOp}

theorem IssuesStream.exec_plain (hi : IssuesStream i o op false) (h : s.StreamOpen o op) : exec i s = .next (s.streamGo o.m.toNat (s.slotOf i o 0)) := by
  obtain ⟨howes, hcheck⟩ := h.mask_free
  rw [hi.exec_eq]
  unfold State.stream
  dsimp only
  rw [hi.op_eq, hi.shaped_eq, howes, hcheck, if_neg (by simp [State.queueQuiet, h.queue, h.slot])]
  rfl

/-- The checks of a shaped stream in their order: the record's alignment, its read, and its fields; then the stream goes (R267). -/
theorem IssuesStream.exec_shaped (hi : IssuesStream i o op true) (h : s.StreamOpen o op) :
    let va := s.readX o.vs2
    (va.toNat % 64 ≠ 0 → exec i s = .next (s.trapIssue cMISALIGN_ISSUE va 0))
    ∧ (va.toNat % 64 = 0 → (∀ c, s.readRecord va 64 = .bad c → exec i s = .next (s.trapAccess (instrBits i) c va))
      ∧ ∀ v u, s.readRecord va 64 = .ok v u →
        (shapeCode va (BitVec.ofNat 512 v) ≠ 0 → exec i s = .next (u.trapIssue cBADSHAPE va (wordOf (shapeCode va (BitVec.ofNat 512 v)))))
        ∧ (shapeCode va (BitVec.ofNat 512 v) = 0 → exec i s = .next (u.streamGo o.m.toNat (s.slotOf i o (BitVec.ofNat 512 v))))) := by
  obtain ⟨howes, hcheck⟩ := h.mask_free
  rw [hi.exec_eq]
  unfold State.stream
  dsimp only
  rw [hi.op_eq, hi.shaped_eq, howes, hcheck, if_neg (by simp [State.queueQuiet, h.queue, h.slot])]
  dsimp only
  rw [if_pos rfl]
  refine ⟨fun ha => if_pos ha, fun ha => ?_⟩
  rw [if_neg (not_not.2 ha)]
  refine ⟨fun c hr => by rw [hr], fun v u hr => ?_⟩
  rw [hr]
  exact ⟨fun hcode => if_pos hcode, fun hcode => if_neg (not_not.2 hcode)⟩

/-- A shaped stream whose record passes every check goes. -/
theorem IssuesStream.exec_good (hi : IssuesStream i o op true) (h : s.StreamOpen o op) (ha : (s.readX o.vs2).toNat % 64 = 0)
    (hr : s.readRecord (s.readX o.vs2) 64 = .ok v u) (hcode : shapeCode (s.readX o.vs2) (BitVec.ofNat 512 v) = 0) :
    exec i s = .next (u.streamGo o.m.toNat (s.slotOf i o (BitVec.ofNat 512 v))) := by
  obtain ⟨-, haligned⟩ := hi.exec_shaped h
  obtain ⟨-, hread⟩ := haligned ha
  obtain ⟨-, hgood⟩ := hread v u hr
  exact hgood hcode

/-- The slot of a stream that starts with `n` elements. -/
def Slot.starting (sl : Slot) (n : ℕ) : Slot := { sl with status := slotWord .active 0 0 n 0 }

/-- What a slot does and its rows do not depend on its status word. -/
theorem Slot.op_status (sl : Slot) (w : Word) : ({ sl with status := w } : Slot).op = sl.op := rfl
theorem Slot.rowCount_status (sl : Slot) (w : Word) (vl : ℕ) : ({ sl with status := w } : Slot).rowCount vl = sl.rowCount vl := rfl

/-- VL cut to a row, as an STMTL leaves it (R271). -/
def State.cutVl (s : State) (n : ℕ) : State := { s with hart := { s.hart with ctl := { s.hart.ctl with vl := wordOf n }, gsetVl := false } }

theorem toNat_eq_zero_iff {v : Word} : v.toNat = 0 ↔ v = 0 := ⟨fun h => BitVec.eq_of_toNat_eq h, fun h => h ▸ rfl⟩

/-- A stream under a VL of 0 starts empty; else its checks trap, or it starts with its elements, an STMTL's VL cut to its row (R267, R271). -/
theorem State.streamGo_cases {sl : Slot} (hn : sl.elements s.hart.ctl.vl.toNat = n) (j : ℕ) :
    (s.hart.ctl.vl = 0 → s.streamGo j sl = (s.startStream j sl).advanceV)
    ∧ (s.hart.ctl.vl ≠ 0 → (∀ c, s.streamCheck sl n = some c → s.streamGo j sl = s.trapIssue c.cause c.va c.info)
      ∧ (s.streamCheck sl n = none → s.streamGo j sl =
        ((if sl.op = .tile then s.cutVl (sl.rowCount s.hart.ctl.vl.toNat) else s).startStream j (sl.starting n)).advanceV)) := by
  subst hn
  unfold State.streamGo
  refine ⟨fun hvl => if_pos (toNat_eq_zero_iff.2 hvl), fun hvl => ⟨fun c hc => ?_, fun hc => ?_⟩⟩
  · rw [if_neg (mt toNat_eq_zero_iff.1 hvl)]
    dsimp only
    rw [hc]
  · rw [if_neg (mt toNat_eq_zero_iff.1 hvl)]
    dsimp only
    rw [hc, Slot.op_status, Slot.rowCount_status]
    rfl

theorem IssuesStream.elements_plain (hi : IssuesStream i o op false) (hop : op ≠ .tile) (s : State) (r : BitVec 512) (vl : ℕ) :
    (s.slotOf i o r).elements vl = vl := Slot.elements_plain (hi.op_eq s r ▸ hop) (hi.shaped_eq s r) vl

/-- The elements of a shaped stream: those of its tile, and of an STMTL its rows by the elements of each (R267, R271). -/
theorem IssuesStream.elements_shaped (hi : IssuesStream i o op true) (htile : op = .tile ↔ i = .stmtl o) (s : State) (r : BitVec 512) (vl : ℕ) :
    (s.slotOf i o r).elements vl
      = if i = .stmtl o then (s.slotOf i o r).rows * (s.slotOf i o r).rowCount vl else min vl (shapeTiles r 0) := by
  split
  case isTrue h => exact Slot.elements_tile ((hi.op_eq s r).trans (htile.2 h)) vl
  case isFalse h => exact Slot.elements_shaped (fun hop => h (htile.1 ((hi.op_eq s r).symm.trans hop))) (hi.shaped_eq s r) vl

/-- The shaped streams, of which STMTL alone writes a mask (R266, R271). -/
theorem issuesStream_shaped (hsc : o.sc = 1) :
    ∀ i ∈ [Instr.stmldShaped o, .stmstShaped o, .stmcpShaped o, .stmtl o], ∃ op, IssuesStream i o op true ∧ (op = .tile ↔ i = .stmtl o) := by
  simp only [List.forall_mem_cons]
  exact ⟨⟨_, streams_stmldShaped o, by simp⟩, ⟨_, streams_stmstShaped o, by simp⟩, ⟨_, streams_stmcpShaped o, by simp⟩,
    ⟨_, streams_stmtl hsc, by simp⟩, fun _ h => absurd h List.not_mem_nil⟩

theorem issuesStream_plain (o : VOp) : ∀ i ∈ [Instr.stmld o, .stmst o, .stmcp o], ∃ op, op ≠ .tile ∧ IssuesStream i o op false := by
  simp only [List.forall_mem_cons]
  exact ⟨⟨_, by decide, streams_stmld o⟩, ⟨_, by decide, streams_stmst o⟩, ⟨_, by decide, streams_stmcp o⟩, fun _ h => absurd h List.not_mem_nil⟩

/-! ### Checks 3 to 5 (R267) -/

/-- Where a range leaves the own slate, which is found at its local addresses and at those that name the core (R235, R267). -/
theorem State.outsideSlate_spec (s : State) (base : Word) (n : ℕ) :
    let b := base.toNat
    let local_ := 0x7F0000000000
    let alias_ := 0x7E0000000000 + s.cur / 3072 * 2 ^ 31 + s.cur % 3072 / 4 * 2 ^ 21
    let in_ (lo : ℕ) : Prop := lo ≤ b ∧ b < lo + 786432
    (¬ in_ local_ → ¬ in_ alias_ → s.outsideSlate base n = some base)
    ∧ ∀ lo, lo = local_ ∨ lo = alias_ → in_ lo →
      (lo + 786432 < b + n → s.outsideSlate base n = some (wordOf (lo + 786432))) ∧ (b + n ≤ lo + 786432 → s.outsideSlate base n = none) := by
  intro b local_ alias_ in_
  have hspec : s.outsideSlate base n = if in_ local_ then (if local_ + 786432 < b + n then some (wordOf (local_ + 786432)) else none)
      else if in_ alias_ then (if alias_ + 786432 < b + n then some (wordOf (alias_ + 786432)) else none) else some base := rfl
  have hone : in_ local_ → in_ alias_ → local_ = alias_ := by
    simp only [local_, alias_, in_]
    omega
  rw [hspec]
  refine ⟨fun hl ha => by rw [if_neg hl, if_neg ha], fun lo hlo hin => ?_⟩
  have hat : (if in_ local_ then (if local_ + 786432 < b + n then some (wordOf (local_ + 786432)) else none)
      else if in_ alias_ then (if alias_ + 786432 < b + n then some (wordOf (alias_ + 786432)) else none) else some base)
      = if lo + 786432 < b + n then some (wordOf (lo + 786432)) else none := by
    rcases hlo with rfl | rfl
    · exact if_pos hin
    · by_cases hl : in_ local_
      · rw [if_pos hl, hone hl hin]
      · rw [if_neg hl, if_pos hin]
  rw [hat]
  exact ⟨fun hlt => if_pos hlt, fun hle => if_neg (Nat.not_lt.2 hle)⟩

/-- Check 5 of R267: an STMTL whose innermost origin leaves no element of a row. -/
def Slot.lateCheck (sl : Slot) : Option StreamTrap := if sl.op = .tile ∧ shapeSize sl.shape 0 ≤ sl.org 0 then some ⟨cBOUNDS, 0, 0⟩ else none

/-- The bases are checked first, the destination's before the source's (R267; log 34). -/
theorem State.streamCheck_bases (s : State) (sl : Slot) (n : ℕ) :
    (sl.dst.toNat % sl.width ≠ 0 → s.streamCheck sl n = some ⟨cMISALIGN_ISSUE, sl.dst, 0⟩)
    ∧ (sl.dst.toNat % sl.width = 0 → sl.src.toNat % sl.width ≠ 0 → s.streamCheck sl n = some ⟨cMISALIGN_ISSUE, sl.src, 0⟩) := by
  unfold State.streamCheck
  exact ⟨fun hdst => if_pos hdst, fun hdst hsrc => (if_neg (not_not.2 hdst)).trans (if_pos hsrc)⟩

/-- With aligned bases the range is checked, where there is one, and then an STMTL's origin (R267; log 67). -/
theorem State.streamCheck_range {sl : Slot} (hdst : sl.dst.toNat % sl.width = 0) (hsrc : sl.src.toNat % sl.width = 0) (s : State) (n : ℕ) :
    (sl.op = .copy ∨ n = 0 → s.streamCheck sl n = sl.lateCheck)
    ∧ (sl.op ≠ .copy → n ≠ 0 →
      (∀ va, s.outsideSlate (if sl.op = .store then sl.src else sl.dst) (n * sl.width) = some va → s.streamCheck sl n = some ⟨cADDRESS, va, 0⟩)
      ∧ (s.outsideSlate (if sl.op = .store then sl.src else sl.dst) (n * sl.width) = none → s.streamCheck sl n = sl.lateCheck)) := by
  unfold State.streamCheck
  dsimp only
  rw [if_neg (not_not.2 hdst), if_neg (not_not.2 hsrc)]
  refine ⟨fun hnone => ?_, fun hop hn => ?_⟩
  · rw [if_pos hnone]
    rfl
  · rw [if_neg (not_or.2 ⟨hop, hn⟩)]
    refine ⟨fun va hout => ?_, fun hout => ?_⟩
    · rw [hout]
    · rw [hout]
      rfl

/-! ### The obligation -/

/-- A plain stream starts with VL elements, or empty (R268). -/
theorem IssuesStream.starts_plain (hi : IssuesStream i o op false) (hop : op ≠ .tile) (h : s.StreamOpen o op) :
    (s.hart.ctl.vl.toNat = 0 → exec i s = .next (s.startStream o.m.toNat (s.slotOf i o 0)).advanceV)
    ∧ (s.hart.ctl.vl.toNat ≠ 0 → s.streamCheck (s.slotOf i o 0) s.hart.ctl.vl.toNat = none →
      exec i s = .next (s.startStream o.m.toNat ((s.slotOf i o 0).starting s.hart.ctl.vl.toNat)).advanceV) := by
  obtain ⟨hzero, hgo⟩ := State.streamGo_cases (hi.elements_plain hop s 0 _) o.m.toNat
  rw [hi.exec_plain h]
  refine ⟨fun hvl => congrArg _ (hzero (toNat_eq_zero_iff.1 hvl)), fun hvl hcheck => ?_⟩
  rw [(hgo (mt toNat_eq_zero_iff.2 hvl)).2 hcheck, if_neg (hi.op_eq s 0 ▸ hop)]

/-- A shaped stream whose record passes starts with its elements, or empty (R267, R268, R271). -/
theorem IssuesStream.starts_shaped (hi : IssuesStream i o op true) (h : s.StreamOpen o op) (ha : (s.readX o.vs2).toNat % 64 = 0)
    (hr : s.readRecord (s.readX o.vs2) 64 = .ok v u) (hcode : shapeCode (s.readX o.vs2) (BitVec.ofNat 512 v) = 0)
    (hn : (s.slotOf i o (BitVec.ofNat 512 v)).elements u.hart.ctl.vl.toNat = n) :
    let sl := s.slotOf i o (BitVec.ofNat 512 v)
    (u.hart.ctl.vl = 0 → exec i s = .next (u.startStream o.m.toNat sl).advanceV)
    ∧ (u.hart.ctl.vl ≠ 0 → u.streamCheck sl n = none → exec i s =
      .next ((if op = .tile then u.cutVl (sl.rowCount u.hart.ctl.vl.toNat) else u).startStream o.m.toNat (sl.starting n)).advanceV) := by
  obtain ⟨hzero, hgo⟩ := State.streamGo_cases hn o.m.toNat
  rw [hi.exec_good h ha hr hcode]
  refine ⟨fun hvl => congrArg _ (hzero hvl), fun hvl hcheck => ?_⟩
  rw [(hgo hvl).2 hcheck, hi.op_eq]

end

end

/-- Settles O47: the fields of its encoding say what a stream does, and its issue is one chain of checks. -/
theorem streamIssue : Obligations.StreamIssue := by
  refine ⟨fun o s r => ?_, fun o s hq hslot => ?_, fun o s hq hslot hu => ?_⟩
  · intro sl
    have htile : (sl (.stmtl o)).op = .tile := (State.slotOf_form (mj := 0x2C) (op2 := 2) (o' := o) rfl r).1
    have hwidth {i : Instr} {op2 : BitVec 2} (h : encode i = encV 0x2B op2 { o with sc := 0 }) : (sl i).width = intBytes o.t :=
      (State.slotOf_form h r).2.2 rfl
    exact ⟨⟨(streams_stmld o).op_eq s r, (streams_stmst o).op_eq s r, (streams_stmcp o).op_eq s r, (streams_stmldShaped o).op_eq s r,
        (streams_stmstShaped o).op_eq s r, (streams_stmcpShaped o).op_eq s r, htile⟩,
      ⟨(streams_stmld o).shaped_eq s r, (streams_stmst o).shaped_eq s r, (streams_stmcp o).shaped_eq s r, (streams_stmldShaped o).shaped_eq s r,
        (streams_stmstShaped o).shaped_eq s r, (streams_stmcpShaped o).shaped_eq s r, fun hsc => (streams_stmtl hsc).shaped_eq s r⟩,
      hwidth rfl, hwidth rfl, hwidth rfl⟩
  · intro j vl va start tileOk plain shaped
    have hopen {op : StreamOp} (hop : op ≠ .tile) : s.StreamOpen o op := ⟨hq, hslot, fun e => absurd e hop⟩
    have hplain {i : Instr} {op : StreamOp} (hi : IssuesStream i o op false) (hop : op ≠ .tile) : plain i := hi.starts_plain hop (hopen hop)
    refine ⟨hplain (streams_stmld o) (by decide), hplain (streams_stmst o) (by decide), hplain (streams_stmcp o) (by decide), fun v u ha hr hcode => ?_,
      fun v u hr => ?_⟩
    · have hshaped {i : Instr} {op : StreamOp} (hi : IssuesStream i o op true) (hop : op ≠ .tile) : shaped i v u := by
        obtain ⟨hzero, hgo⟩ := hi.starts_shaped (hopen hop) ha hr hcode
          (Slot.elements_shaped (hi.op_eq s (BitVec.ofNat 512 v) ▸ hop) (hi.shaped_eq ..) u.hart.ctl.vl.toNat)
        rw [if_neg hop] at hgo
        exact ⟨hzero, hgo⟩
      refine ⟨hshaped (streams_stmldShaped o) (by decide), hshaped (streams_stmstShaped o) (by decide), hshaped (streams_stmcpShaped o) (by decide),
        fun ⟨hsc, hmask⟩ => ?_⟩
      have hi := streams_stmtl hsc
      exact hi.starts_shaped ⟨hq, hslot, fun _ => hmask⟩ ha hr hcode (Slot.elements_tile (hi.op_eq ..) _)
    · exact State.givesV_finishV (exec_shape_of_record hr)
  · intro va trap tileOk plain shaped htile
    obtain ⟨hsc, hmask⟩ : tileOk := htile (.stmtl o) (by simp [shaped]) rfl
    have hopen (op : StreamOp) : s.StreamOpen o op := ⟨hq, hslot, fun _ => hmask⟩
    have hshaped := issuesStream_shaped hsc
    refine ⟨fun ha i hm => ?_, fun c ha hr i hm => ?_, State.readRecord_of_not_canonical (n := 64),
      fun v u ha hr => ⟨fun hcode i hm => ?_, fun hcode hvl i hm c => ?_⟩, fun hvl i hm c hc => ?_, fun sl n => ?_⟩
    · obtain ⟨op, hi, -⟩ := hshaped i hm
      obtain ⟨hmisaligned, -⟩ := hi.exec_shaped (hopen op)
      exact (hmisaligned ha).trans (congrArg _ (State.trapIssue_user hu ..))
    · obtain ⟨op, hi, -⟩ := hshaped i hm
      obtain ⟨-, haligned⟩ := hi.exec_shaped (hopen op)
      obtain ⟨hfault, -⟩ := haligned ha
      exact (hfault c hr).trans (congrArg _ (State.trapIssue_user hu ..))
    · obtain ⟨op, hi, -⟩ := hshaped i hm
      obtain ⟨-, haligned⟩ := hi.exec_shaped (hopen op)
      obtain ⟨-, hread⟩ := haligned ha
      obtain ⟨hbad, -⟩ := hread v u hr
      exact (hbad hcode).trans (congrArg _ ((State.AccessOnly.readRecord hr).trapIssue_user hu ..))
    · obtain ⟨op, hi, hop⟩ := hshaped i hm
      intro sl hc
      obtain ⟨-, hgo⟩ := State.streamGo_cases (hi.elements_shaped hop s (BitVec.ofNat 512 v) u.hart.ctl.vl.toNat) o.m.toNat
      obtain ⟨htrap, -⟩ := hgo hvl
      exact (hi.exec_good (hopen op) ha hr hcode).trans
        (congrArg _ ((htrap c hc).trans ((State.AccessOnly.readRecord hr).trapIssue_user hu ..)))
    · obtain ⟨op, hop, hi⟩ := issuesStream_plain o i hm
      obtain ⟨-, hgo⟩ := State.streamGo_cases (hi.elements_plain hop s 0 _) o.m.toNat
      obtain ⟨htrap, -⟩ := hgo hvl
      exact (hi.exec_plain (hopen op)).trans (congrArg _ ((htrap c hc).trans (State.trapIssue_user hu ..)))
    · intro w base b local_ alias_ in_ late
      obtain ⟨hdst, hsrc⟩ := s.streamCheck_bases sl n
      obtain ⟨hout, hin⟩ := s.outsideSlate_spec base (n * w)
      refine ⟨hdst, hsrc, fun hd hs => ?_⟩
      obtain ⟨hnone, hrange⟩ := State.streamCheck_range hd hs s n
      refine ⟨hnone, fun hop hn => ?_⟩
      obtain ⟨houtside, hinside⟩ := hrange hop hn
      refine ⟨fun hl ha => houtside _ (hout hl ha), fun lo hlo hi hlt => ?_, fun lo hlo hi hle => ?_⟩
      · obtain ⟨hpast, -⟩ := hin lo hlo hi
        exact houtside _ (hpast hlt)
      · obtain ⟨-, hfits⟩ := hin lo hlo hi
        exact hinside (hfits hle)

end Sys2Proof.Machine

/-! The bytes of a register group and what writing its elements leaves (R102, R104, R122, R126), with the obligation ElementLaws. -/

namespace Sys2Proof.Machine

section
variable {m : Memory} {reg n wb a b c i j k lo hi q : Nat}

/-! ### The places of a group's bytes (R102) -/

/-- Registers of `reg` bytes, of which each element of `wb` bytes lies in one, fit the places of the register store (R102). -/
structure Placement (reg wb : Nat) : Prop where
  dvd : wb ∣ reg
  pos : 0 < reg
  le : reg ≤ Config.regStride
  width : 0 < wb

/-- Bytes that follow each other in one register stand together. -/
theorem vkey_add (h : b % reg + c < reg) : vkey reg n (b + c) = vkey reg n b + c := by
  have hsplit : b + c = (b % reg + c) + reg * (b / reg) := by have := Nat.div_add_mod b reg; omega
  have hpos : 0 < reg := Nat.zero_lt_of_lt h
  have hdiv : (b + c) / reg = b / reg := by rw [hsplit, Nat.add_mul_div_left _ _ hpos, Nat.div_eq_of_lt h, Nat.zero_add]
  have hmod : (b + c) % reg = b % reg + c := by rw [hsplit, Nat.add_mul_mod_self_left, Nat.mod_eq_of_lt h]
  rw [vkey, vkey, hdiv, hmod, Nat.add_assoc]

/-- Bytes of register `j` of the group stand together. -/
theorem vkey_add_of_le (hj : j * reg ≤ b) (hc : b + c < (j + 1) * reg) : vkey reg n (b + c) = vkey reg n b + c := by
  obtain ⟨r, rfl⟩ := Nat.exists_eq_add_of_le hj
  rw [Nat.succ_mul] at hc
  exact vkey_add (by rw [Nat.mul_comm, Nat.mul_add_mod, Nat.mod_eq_of_lt] <;> omega)

namespace Placement

variable (h : Placement reg wb)
include h

/-- The bytes of a group stand in the order of its registers. -/
theorem strictMono (n : Nat) : StrictMono (vkey reg n) := by
  intro a b hab
  have ha := Nat.mod_lt a h.pos
  have hle := h.le
  rcases (Nat.div_le_div_right (c := reg) hab.le).eq_or_lt with heq | hlt
  · have hmod : a % reg < b % reg := by have := Nat.div_add_mod a reg; have := Nat.div_add_mod b reg; rw [heq] at *; omega
    rw [vkey, vkey, heq]
    omega
  · have hnext : (n + a / reg + 1) * Config.regStride ≤ (n + b / reg) * Config.regStride := Nat.mul_le_mul_right _ (by omega)
    rw [Nat.add_mul, Nat.one_mul] at hnext
    unfold vkey
    omega

/-- A byte of a group stands in the register that its number gives. -/
theorem vkey_div (n b : Nat) : vkey reg n b / Config.regStride = n + b / reg := by
  have hlt : b % reg < Config.regStride := lt_of_lt_of_le (Nat.mod_lt b h.pos) h.le
  rw [vkey, Nat.mul_comm, Nat.mul_add_div (Nat.zero_lt_of_lt hlt), Nat.div_eq_of_lt hlt, Nat.add_zero]

/-- The bytes of an element lie in one register. -/
theorem mod_add_le (i : Nat) : i * wb % reg + wb ≤ reg := by
  obtain ⟨k, rfl⟩ := h.dvd
  have hk : 0 < k := Nat.pos_of_mul_pos_left h.pos
  rw [Nat.mul_comm i, Nat.mul_mod_mul_left, ← Nat.mul_succ]
  exact Nat.mul_le_mul_left _ (Nat.mod_lt i hk)

/-- Byte `c` of an element is byte `c` from its place on. -/
theorem vkey_elem (n i : Nat) (hc : c < wb) : vkey reg n (i * wb) + c = vkey reg n (i * wb + c) :=
  (vkey_add (by have := h.mod_add_le i; omega)).symm

/-- An element's last byte stands before the next element. -/
theorem vkey_elem_lt (n : Nat) (hij : i < j) : vkey reg n (i * wb) + wb ≤ vkey reg n (j * wb) := by
  have hwb := h.width
  have hnext : (i + 1) * wb ≤ j * wb := Nat.mul_le_mul_right wb hij
  rw [Nat.succ_mul] at hnext
  have hlast : vkey reg n (i * wb + (wb - 1)) < vkey reg n (j * wb) := h.strictMono n (by omega)
  rw [← h.vkey_elem n i (by omega)] at hlast
  omega

/-- Two elements of a group share no byte. -/
theorem vkey_elem_apart (n : Nat) (hij : i ≠ j) :
    vkey reg n (i * wb) + wb ≤ vkey reg n (j * wb) ∨ vkey reg n (j * wb) + wb ≤ vkey reg n (i * wb) :=
  (Nat.lt_or_gt_of_ne hij).imp (h.vkey_elem_lt n) (h.vkey_elem_lt n)

/-! ### Elements written and bytes cleared (R102) -/

/-- An element after one of its group was written. -/
theorem velem_vset (hm : m.wf = true) (n i j v : Nat) :
    velem (vset m reg n wb i v) reg n wb j = if j = i then v % 256 ^ wb else velem m reg n wb j := by
  unfold velem vset
  split
  next hji => rw [hji, Memory.read_write hm]
  next hji => exact Memory.read_write_other hm (h.vkey_elem_apart n hji)

/-- A byte of a group after some of it were cleared, register by register. -/
theorem byte_vclear (n b k : Nat) :
    (vclear m reg n lo hi k).byte (vkey reg n b) = if lo ≤ b ∧ b < hi ∧ b < k * reg then 0 else m.byte (vkey reg n b) := by
  have hmono := h.strictMono n
  induction k with
  | zero => rw [if_neg (by omega)]; rfl
  | succ k ih =>
    have hnext : (k + 1) * reg = k * reg + reg := Nat.succ_mul k reg
    unfold vclear
    dsimp only
    generalize ha : max lo (k * reg) = a
    generalize hd : min hi ((k + 1) * reg) = d
    split
    next had =>
      have hlast : vkey reg n (d - 1) = vkey reg n a + (d - 1 - a) := by
        rw [← vkey_add_of_le (j := k) (by omega) (by omega), Nat.add_sub_cancel' (by omega)]
      have hupto : vkey reg n b < vkey reg n a + (d - a) ↔ b < d := by
        rw [show vkey reg n b < vkey reg n a + (d - a) ↔ vkey reg n b ≤ vkey reg n (d - 1) by omega, hmono.le_iff_le]
        omega
      simp only [Memory.byte_clear, ih, hmono.le_iff_le, hupto]
      grind
    next => grind

/-- An element after those of a range were cleared. -/
theorem velem_vclear (n i : Nat) (hk : hi * wb ≤ k * reg) :
    velem (vclear m reg n (lo * wb) (hi * wb) k) reg n wb i = if lo ≤ i ∧ i < hi then 0 else velem m reg n wb i := by
  have hbyte (c : Nat) (hc : c < wb) : (vclear m reg n (lo * wb) (hi * wb) k).byte (vkey reg n (i * wb) + c)
      = if lo ≤ i ∧ i < hi then 0 else m.byte (vkey reg n (i * wb) + c) := by
    have hdiv : (i * wb + c) / wb = i := by rw [Nat.mul_comm, Nat.mul_add_div h.width, Nat.div_eq_of_lt hc, Nat.add_zero]
    have hlo : lo * wb ≤ i * wb + c ↔ lo ≤ i := by rw [← Nat.le_div_iff_mul_le h.width, hdiv]
    have hhi : i * wb + c < hi * wb ↔ i < hi := by rw [← Nat.div_lt_iff_lt_mul h.width, hdiv]
    have hin : (lo * wb ≤ i * wb + c ∧ i * wb + c < hi * wb ∧ i * wb + c < k * reg) ↔ lo ≤ i ∧ i < hi := by
      rw [hlo, hhi]
      exact and_congr_right fun _ => and_iff_left_of_imp fun h => lt_of_lt_of_le (hhi.2 h) hk
    rw [h.vkey_elem n i hc, h.byte_vclear]
    simp only [hin]
  have hzero : Memory.empty.read 0 wb = 0 := by
    have (k n : Nat) : cellsRead [] k n = 0 := by
      induction n generalizing k with
      | zero => rfl
      | succ n ih => rw [cellsRead, ih]; rfl
    exact this 0 wb
  unfold velem
  split
  next hin => exact (Memory.read_congr fun c hc => by rw [hbyte c hc, if_pos hin]; rfl).trans hzero
  next hout => exact Memory.read_congr fun c hc => by rw [hbyte c hc, if_neg hout]

end Placement

/-- A byte outside an element stays as the element is written. -/
theorem byte_vset_other (hm : m.wf = true) (hq : q < vkey reg n (i * wb) ∨ vkey reg n (i * wb) + wb ≤ q) (v : Nat) :
    (vset m reg n wb i v).byte q = m.byte q := by
  unfold vset
  rw [Memory.byte_write hm, if_neg (by omega)]

/-- A byte of the register store that is none of those cleared stays. -/
theorem byte_vclear_other (h : ∀ b, lo ≤ b → b < hi → q ≠ vkey reg n b) (k : Nat) : (vclear m reg n lo hi k).byte q = m.byte q := by
  induction k with
  | zero => rfl
  | succ k ih =>
    have hnext : (k + 1) * reg = k * reg + reg := Nat.succ_mul k reg
    unfold vclear
    dsimp only
    generalize ha : max lo (k * reg) = a
    generalize hd : min hi ((k + 1) * reg) = d
    split
    next hab =>
      have hout : ¬(vkey reg n a ≤ q ∧ q < vkey reg n a + (d - a)) := by
        rintro ⟨hle, hlt⟩
        refine h (a + (q - vkey reg n a)) (by omega) (by omega) ?_
        rw [vkey_add_of_le (j := k) (by omega) (by omega), Nat.add_sub_cancel' hle]
      rw [Memory.byte_clear, if_neg hout, ih]
    next => exact ih

theorem two_pow_eight_mul (wb : Nat) : 2 ^ (8 * wb) = 256 ^ wb := Nat.pow_mul 2 8 wb

theorem velem_lt (m : Memory) (reg n wb i : Nat) : velem m reg n wb i < 256 ^ wb := two_pow_eight_mul wb ▸ Memory.read_lt m _ wb

end

section
variable {m : Memory} {x : VCtx} {d wb g i j k n q from_ : Nat} {act : Nat → Bool} {f : Nat → EOut} {st : Word}

/-! ### The element-wise engine (R104, R122) -/

/-- What the element-wise engine leaves where an element was `old`: its result, 0, or the old value (R122). -/
def VCtx.elemOut (x : VCtx) (act : Nat → Bool) (v : Nat → Nat) (old : Nat) (j : Nat) : Nat := if act j then v j else if x.maskz then 0 else old

/-- The register store after one step of the engine. -/
def VCtx.stepElem (x : VCtx) (d wb : Nat) (act : Nat → Bool) (f : Nat → EOut) (i : Nat) (m : Memory) : Memory :=
  if act i then vset m x.reg d wb i (f i).val else if x.maskz then vset m x.reg d wb i 0 else m

theorem writeElems_succ : ∃ st', writeElems x d wb act f (n + 1) i (m, st) = writeElems x d wb act f n (i + 1) (x.stepElem d wb act f i m, st') := by
  unfold VCtx.stepElem
  rw [writeElems]
  split_ifs
  · exact ⟨_, rfl⟩
  · exact ⟨_, rfl⟩
  · exact ⟨_, rfl⟩

theorem VCtx.stepElem_wf (hm : m.wf = true) : (x.stepElem d wb act f i m).wf = true := by
  unfold VCtx.stepElem
  split_ifs
  · exact Memory.write_wf hm
  · exact Memory.write_wf hm
  · exact hm

theorem VCtx.velem_stepElem (hp : Placement x.reg wb) (hm : m.wf = true) :
    velem (x.stepElem d wb act f i m) x.reg d wb j =
      if j = i then x.elemOut act (fun j => (f j).val % 256 ^ wb) (velem m x.reg d wb j) j else velem m x.reg d wb j := by
  unfold VCtx.stepElem VCtx.elemOut
  split_ifs <;> simp_all [hp.velem_vset hm]

theorem VCtx.byte_stepElem_other (hm : m.wf = true) (hq : q < vkey x.reg d (i * wb) ∨ vkey x.reg d (i * wb) + wb ≤ q) :
    (x.stepElem d wb act f i m).byte q = m.byte q := by
  unfold VCtx.stepElem
  split_ifs
  · exact byte_vset_other hm hq _
  · exact byte_vset_other hm hq _
  · rfl

/-- An element of the destination after some were written in order (R122). -/
theorem velem_writeElems (hp : Placement x.reg wb) (hm : m.wf = true) :
    velem (writeElems x d wb act f n i (m, st)).1 x.reg d wb j =
      if i ≤ j ∧ j < i + n then x.elemOut act (fun j => (f j).val % 256 ^ wb) (velem m x.reg d wb j) j else velem m x.reg d wb j := by
  induction n generalizing m i st with
  | zero => rw [if_neg (by omega)]; rfl
  | succ n ih =>
    obtain ⟨st', hstep⟩ := writeElems_succ (x := x) (d := d) (wb := wb) (act := act) (f := f) (n := n) (i := i) (m := m) (st := st)
    rw [hstep, ih (VCtx.stepElem_wf hm), VCtx.velem_stepElem hp hm]
    rcases Nat.lt_trichotomy j i with h | h | h
    · rw [if_neg (by omega), if_neg (by omega), if_neg (by omega)]
    · rw [if_neg (by omega), if_pos h, if_pos (by omega)]
    · simp only [if_neg (show j ≠ i by omega), show (i + 1 ≤ j ∧ j < i + 1 + n) ↔ (i ≤ j ∧ j < i + (n + 1)) by omega]

/-- A byte outside the elements of the destination stays (R122). -/
theorem byte_writeElems_other (hm : m.wf = true)
    (hq : ∀ j, i ≤ j → j < i + n → q < vkey x.reg d (j * wb) ∨ vkey x.reg d (j * wb) + wb ≤ q) :
    (writeElems x d wb act f n i (m, st)).1.byte q = m.byte q := by
  induction n generalizing m i st with
  | zero => rfl
  | succ n ih =>
    obtain ⟨st', hstep⟩ := writeElems_succ (x := x) (d := d) (wb := wb) (act := act) (f := f) (n := n) (i := i) (m := m) (st := st)
    rw [hstep, ih (VCtx.stepElem_wf hm) fun j hlo hhi => hq j (by omega) (by omega), VCtx.byte_stepElem_other hm (hq i le_rfl (by omega))]

/-- A group of a legal size holds its registers' bytes (R101, R102). -/
theorem VCtx.capacity_mul (hp : Placement x.reg wb) (hg : x.group (8 * wb) = some g) : x.capacity wb * wb = g * x.reg := by
  unfold VCtx.capacity
  rw [hg]
  exact Nat.div_mul_cancel (Dvd.dvd.mul_left hp.dvd g)

theorem VCtx.group_le (hg : x.group (8 * wb) = some g) : g ≤ 8 := by
  obtain ⟨-, rfl | rfl | rfl | rfl⟩ := VCtx.group_eq_some_iff.1 hg <;> omega

/-- An element of a group after its tail was treated (R104). -/
theorem VCtx.velem_tailZero (hp : Placement x.reg wb) (hg : x.group (8 * wb) = some g) :
    velem (x.tailZero m n wb from_) x.reg n wb i =
      if x.tail = true ∧ x.vl ≠ 0 ∧ from_ ≤ i ∧ i < x.capacity wb then 0 else velem m x.reg n wb i := by
  unfold VCtx.tailZero
  split
  next h =>
    obtain ⟨ht, hv⟩ : x.tail = true ∧ x.vl ≠ 0 := by simpa using h
    rw [hp.velem_vclear]
    · simp only [ht, hv, ne_eq, not_false_eq_true, true_and]
    · rw [VCtx.capacity_mul hp hg]
      exact Nat.mul_le_mul_right _ (VCtx.group_le hg)
  next h =>
    rw [if_neg]
    rintro ⟨ht, hv, -⟩
    exact h (by simp [ht, hv])

/-- A byte of the register store outside a group is no byte of the group (R102). -/
theorem VCtx.ne_vkey_of_outside (hp : Placement x.reg wb) (hg : x.group (8 * wb) = some g)
    (hq : q / Config.regStride < n ∨ n + g ≤ q / Config.regStride) {b : Nat} (hb : b < x.capacity wb * wb) : q ≠ vkey x.reg n b := by
  rintro rfl
  rw [hp.vkey_div] at hq
  have hreg : b / x.reg < g := (Nat.div_lt_iff_lt_mul hp.pos).2 (VCtx.capacity_mul hp hg ▸ hb)
  exact hq.elim (fun h => absurd (Nat.le_add_right n _) (Nat.not_le_of_lt h)) fun h => absurd (Nat.le_of_add_le_add_left h) (Nat.not_le_of_lt hreg)

theorem VCtx.byte_tailZero_outside (hp : Placement x.reg wb) (hg : x.group (8 * wb) = some g)
    (hq : q / Config.regStride < n ∨ n + g ≤ q / Config.regStride) : (x.tailZero m n wb from_).byte q = m.byte q := by
  unfold VCtx.tailZero
  split
  · exact byte_vclear_other (fun b _ hb => VCtx.ne_vkey_of_outside hp hg hq hb) 8
  · rfl

/-- A byte outside a group lies outside each of its elements. -/
theorem VCtx.outside_elem (hp : Placement x.reg wb) (hg : x.group (8 * wb) = some g)
    (hq : q / Config.regStride < n ∨ n + g ≤ q / Config.regStride) (hj : j < x.capacity wb) :
    q < vkey x.reg n (j * wb) ∨ vkey x.reg n (j * wb) + wb ≤ q := by
  by_contra hin
  have hend : (j + 1) * wb ≤ x.capacity wb * wb := Nat.mul_le_mul_right wb hj
  rw [Nat.succ_mul] at hend
  refine VCtx.ne_vkey_of_outside hp hg hq (b := j * wb + (q - vkey x.reg n (j * wb))) (by omega) ?_
  rw [← hp.vkey_elem n j (by omega)]
  omega

/-- In plain mode the registers of up to 16 clusters fit their places (R90, R102). -/
theorem Placement.plain {c sew : Nat} (hc : 0 < c) (hle : c ≤ 16) (hsew : sew ≤ 3) : Placement (regBytes false c) (2 ^ sew) where
  dvd := Dvd.dvd.mul_right ((Nat.pow_dvd_pow 2 hsew).trans (by decide : 2 ^ 3 ∣ Config.regBytesPlain)) c
  pos := Nat.mul_pos (by decide) hc
  le := Nat.mul_le_mul_left Config.regBytesPlain hle
  width := Nat.two_pow_pos sew

end

section
variable {s : State} {vd : Reg} {wb mask md i j k n v sew : Nat} {f : Nat → EOut} {fb : Nat → Bool × Word}

theorem State.vctxOf_reg (hm : s.hart.mode = .plain) (c vl : Nat) (vcfg : Word) : (s.vctxOf c vl vcfg).reg = regBytes false c := by
  unfold State.vctxOf
  rw [hm]
  rfl

/-- The registers of a hart in plain mode fit their places. -/
theorem State.vctxNow_placement (hm : s.hart.mode = .plain) (hsew : sew ≤ 3) (hc : 0 < s.vctxNow.c) (hle : s.vctxNow.c ≤ 16) :
    Placement s.vctxNow.reg (2 ^ sew) := by
  rw [State.vctxNow, State.vctxOf_reg hm]
  exact .plain hc hle hsew

theorem State.lease_own (ho : s.hart.owner = s.cur) : s.lease = s.hart.lease := if_pos ho

theorem State.vmem_own (ho : s.hart.owner = s.cur) : s.vmem = s.hart.lease.vmem := congrArg Lease.vmem (State.lease_own ho)

theorem State.Tables.vmem_wf (h : s.Tables) (ho : s.hart.owner = s.cur) : s.vmem.wf = true := State.vmem_own ho ▸ h.current.2

theorem State.wroteElems_vmem (ho : s.hart.owner = s.cur) : (s.wroteElems vd wb mask f).vmem = (s.elems vd wb mask f).1 :=
  State.vmem_own (s := s.wroteElems vd wb mask f) ho

theorem State.wroteElems_vctxNow (ho : s.hart.owner = s.cur) : (s.wroteElems vd wb mask f).vctxNow = s.vctxNow := by
  have hl : (s.wroteElems vd wb mask f).lease = (s.wroteElems vd wb mask f).hart.lease := State.lease_own ho
  have hc : (s.wroteElems vd wb mask f).clusters = s.clusters := by
    unfold State.clusters
    rw [hl, State.lease_own ho]
    rfl
  unfold State.vctxNow
  rw [hc]
  rfl

/-! ### Masks (R104, R126) -/

/-- Writing bit `i` leaves the bits below it, and those above where the quotient by 2^(i + 1) stays. -/
theorem testBit_replaced {q q' r : Nat} (hr : r < 2 ^ i) (hq : q' / 2 = q / 2) :
    (2 ^ i * q' + r).testBit j = if j = i then decide (q' % 2 = 1) else (2 ^ i * q + r).testBit j := by
  rw [Nat.testBit_two_pow_mul_add _ hr, Nat.testBit_two_pow_mul_add _ hr]
  rcases Nat.lt_trichotomy j i with h | h | h
  · rw [if_pos h, if_neg (by omega), if_pos h]
  · rw [if_neg (by omega), if_pos h, h, Nat.sub_self, Nat.testBit_zero]
  · obtain ⟨k, hk⟩ : ∃ k, j - i = k + 1 := ⟨j - i - 1, by omega⟩
    rw [if_neg (by omega), if_neg (by omega), if_neg (by omega), hk, Nat.testBit_succ, Nat.testBit_succ, hq]

theorem testBit_maskPut (v i j : Nat) (b : Bool) : (maskPut v i b).testBit j = if j = i then b else v.testBit j := by
  have hr : v % 2 ^ i < 2 ^ i := Nat.mod_lt _ (Nat.two_pow_pos i)
  obtain ⟨q, hv⟩ : ∃ q, v = 2 ^ i * q + v % 2 ^ i := ⟨_, (Nat.div_add_mod v _).symm⟩
  have hbit : v.testBit i = decide (q % 2 = 1) := by
    rw [hv, Nat.testBit_two_pow_mul_add _ hr, if_neg (Nat.lt_irrefl i), Nat.sub_self, Nat.testBit_zero]
  unfold maskPut
  by_cases hsame : v.testBit i = b
  · rw [if_pos hsame]
    split
    next h => rw [h, hsame]
    next => rfl
  · rw [if_neg hsame]
    cases b with
    | true =>
      have heven : q % 2 = 0 := by rw [hbit, decide_eq_true_eq] at hsame; omega
      have hplus : v + 2 ^ i = 2 ^ i * (q + 1) + v % 2 ^ i := by rw [Nat.mul_succ]; omega
      rw [if_pos rfl, hplus, testBit_replaced hr (q := q) (by omega), ← hv, decide_eq_true (by omega)]
    | false =>
      have hodd : q % 2 = 1 := by rw [hbit, decide_eq_false_iff_not] at hsame; omega
      obtain ⟨p, rfl⟩ : ∃ p, q = p + 1 := ⟨q - 1, by omega⟩
      have hminus : v - 2 ^ i = 2 ^ i * p + v % 2 ^ i := by rw [Nat.mul_succ] at hv; omega
      rw [if_neg (by decide), hminus, testBit_replaced hr (q := p + 1) (by omega), ← hv, decide_eq_false (by omega)]

theorem testBit_maskClear (v lo hi j : Nat) : (maskClear v lo hi).testBit j = (v.testBit j && !(decide (lo ≤ j) && decide (j < hi))) := by
  unfold maskClear
  split
  next h =>
    obtain ⟨n, rfl⟩ := Nat.exists_eq_add_of_le h.le
    rw [Nat.add_sub_cancel_left]
    have hlow : v % 2 ^ lo < 2 ^ lo := Nat.mod_lt _ (Nat.two_pow_pos lo)
    have hmid : v / 2 ^ lo % 2 ^ n < 2 ^ n := Nat.mod_lt _ (Nat.two_pow_pos n)
    obtain ⟨top, hv⟩ : ∃ top, v = 2 ^ lo * (2 ^ n * top + v / 2 ^ lo % 2 ^ n) + v % 2 ^ lo :=
      ⟨v / 2 ^ lo / 2 ^ n, by rw [Nat.div_add_mod, Nat.div_add_mod]⟩
    have hcut : v - bitsOf v lo n * 2 ^ lo = 2 ^ lo * (2 ^ n * top + 0) + v % 2 ^ lo := by
      unfold bitsOf
      rw [Nat.mul_add] at hv
      rw [Nat.add_zero, Nat.mul_comm (_ % _)]
      omega
    rw [hcut]
    conv_rhs => rw [hv]
    rw [Nat.testBit_two_pow_mul_add _ hlow, Nat.testBit_two_pow_mul_add _ hlow, Nat.testBit_two_pow_mul_add _ (Nat.two_pow_pos n),
      Nat.testBit_two_pow_mul_add _ hmid]
    rcases Nat.lt_or_ge j lo with h1 | h1
    · simp [h1, show ¬ lo ≤ j by omega]
    · rcases Nat.lt_or_ge j (lo + n) with h2 | h2
      · simp [h1, h2, show ¬ j < lo by omega, show j - lo < n by omega]
      · simp [h1, show ¬ j < lo by omega, show ¬ j < lo + n by omega, show ¬ j - lo < n by omega]
  next h =>
    have hout : (decide (lo ≤ j) && decide (j < hi)) = false := by simp; omega
    rw [hout, Bool.not_false, Bool.and_true]

/-- A bit of a mask after one step of the engine. -/
theorem writeBits_succ {maskz : Bool} {act : Nat → Bool} {st : Word} :
    ∃ v' st', writeBits maskz act fb (n + 1) i (v, st) = writeBits maskz act fb n (i + 1) (v', st')
      ∧ v'.testBit j = if j = i then (if act j then (fb j).1 else if maskz then false else v.testBit j) else v.testBit j := by
  rw [writeBits]
  split_ifs
  all_goals exact ⟨_, _, rfl, by simp_all [testBit_maskPut]⟩

/-- A bit of a mask after some were written in order (R104). -/
theorem testBit_writeBits {maskz : Bool} {act : Nat → Bool} {st : Word} :
    (writeBits maskz act fb n i (v, st)).1.testBit j =
      if i ≤ j ∧ j < i + n then (if act j then (fb j).1 else if maskz then false else v.testBit j) else v.testBit j := by
  induction n generalizing v i st with
  | zero => rw [if_neg (by omega)]; rfl
  | succ n ih =>
    obtain ⟨v', st', hstep, hbit⟩ := writeBits_succ (fb := fb) (n := n) (i := i) (j := j) (v := v) (maskz := maskz) (act := act) (st := st)
    rw [hstep, ih, hbit]
    rcases Nat.lt_trichotomy j i with h | h | h
    · rw [if_neg (by omega), if_neg (by omega), if_neg (by omega)]
    · rw [if_neg (show ¬(i + 1 ≤ j ∧ j < i + 1 + n) by omega), if_pos h, if_pos (show i ≤ j ∧ j < i + (n + 1) by omega)]
    · simp only [if_neg (show j ≠ i by omega), show (i + 1 ≤ j ∧ j < i + 1 + n) ↔ (i ≤ j ∧ j < i + (n + 1)) by omega]

theorem Hart.maskBit_setMask {h : Hart} (hlo : 0 < n) (hn : n < 8) (v i : Nat) : (h.setMask n v).maskBit n i = v.testBit i := by
  have h0 : n ≠ 0 := by omega
  unfold Hart.maskBit Hart.setMask
  rw [if_neg h0, if_neg h0, Vector.getElem_set_self]

theorem Hart.mask_testBit {h : Hart} (hlo : 0 < n) (i : Nat) : (h.mask n).testBit i = h.maskBit n i := by
  unfold Hart.maskBit Hart.mask
  rw [if_neg (by omega)]

/-! ### The obligation -/

/-- An element of the destination of an element-wise instruction (R122). -/
theorem State.elem_wroteElems {g : Nat} (ht : s.Tables) (ho : s.hart.owner = s.cur) (hp : Placement s.vctxNow.reg wb)
    (hg : s.vctxNow.group (8 * wb) = some g) (hi : i < s.vctxNow.capacity wb) (hf : ∀ k, (f k).val < 256 ^ wb) :
    (s.wroteElems vd wb mask f).elem vd wb i =
      if i < s.vctxNow.vl then s.vctxNow.elemOut (s.hart.maskBit mask) (fun k => (f k).val) (s.elem vd wb i) i
      else if s.vctxNow.tail ∧ s.vctxNow.vl ≠ 0 then 0 else s.elem vd wb i := by
  unfold State.elem
  rw [State.wroteElems_vctxNow ho, State.wroteElems_vmem ho]
  unfold State.elems
  dsimp only
  rw [VCtx.velem_tailZero hp hg, velem_writeElems hp (ht.vmem_wf ho)]
  simp only [Nat.mod_eq_of_lt (hf _)]
  by_cases hvl : i < s.vctxNow.vl
  · rw [if_neg (by omega), if_pos (by omega), if_pos hvl]
  · rw [if_neg (show ¬(0 ≤ i ∧ i < 0 + s.vctxNow.vl) by omega), if_neg hvl]
    simp only [hi, Nat.le_of_not_lt hvl, and_true]

/-- A byte outside the destination of an element-wise instruction (R122). -/
theorem State.byte_wroteElems_outside {g : Nat} (ht : s.Tables) (ho : s.hart.owner = s.cur) (hp : Placement s.vctxNow.reg wb)
    (hg : s.vctxNow.group (8 * wb) = some g) (hvl : s.vctxNow.vl ≤ s.vctxNow.capacity wb)
    (hk : k / Config.regStride < vd.toNat ∨ vd.toNat + g ≤ k / Config.regStride) :
    (s.wroteElems vd wb mask f).vmem.byte k = s.vmem.byte k := by
  rw [State.wroteElems_vmem ho]
  unfold State.elems
  dsimp only
  rw [VCtx.byte_tailZero_outside hp hg hk,
    byte_writeElems_other (ht.vmem_wf ho) fun j _ hj => VCtx.outside_elem hp hg hk (by omega)]

/-- A bit of the destination of an instruction with a mask destination (R104, R126). -/
theorem State.maskBit_wroteBits (hlo : 0 < md) (hmd : md < 8) :
    (s.wroteBits md wb mask fb).hart.maskBit md i =
      if i < s.vctxNow.vl then (if s.hart.maskBit mask i then (fb i).1 else if s.vctxNow.maskz then false else s.hart.maskBit md i)
      else if s.vctxNow.tail ∧ s.vctxNow.vl ≠ 0 ∧ i < s.vctxNow.capacity wb then false else s.hart.maskBit md i := by
  have hset : (s.wroteBits md wb mask fb).hart.maskBit md i = (s.bits md wb mask fb).1.testBit i :=
    Hart.maskBit_setMask (h := s.hart) hlo hmd _ i
  rw [hset, ← Hart.mask_testBit hlo]
  unfold State.bits
  dsimp only
  by_cases ht : s.vctxNow.tail = true ∧ s.vctxNow.vl ≠ 0
  · rw [if_pos (by simp [ht]), testBit_maskClear, testBit_writeBits]
    by_cases hvl : i < s.vctxNow.vl
    · simp [hvl]
    · simp only [hvl, ht, Nat.zero_add, Nat.zero_le, true_and, if_false, ne_eq, not_false_eq_true]
      by_cases hi : i < s.vctxNow.capacity wb
      · simp [hi, Nat.le_of_not_lt hvl]
      · simp [hi]
  · rw [if_neg (by simpa using ht), testBit_writeBits]
    by_cases hvl : i < s.vctxNow.vl
    · simp [hvl]
    · rw [if_neg (by omega), if_neg hvl, if_neg fun h => ht ⟨h.1, h.2.1⟩]

end

/-- Settles O31: the engine writes its elements one by one at places that share no byte, and the tail is cleared register by register. -/
theorem elementLaws : Obligations.ElementLaws := by
  unfold Obligations.ElementLaws
  refine ⟨?_, ?_, ?_⟩
  · intro s vd sew mask g f i ht hm ho hsew wb x hg hc hle _ _ hi hf
    exact State.elem_wroteElems ht ho (State.vctxNow_placement hm hsew hc hle) hg hi fun k => two_pow_eight_mul wb ▸ hf k
  · intro s vd sew mask g f k ht hm ho hsew wb x hg hc hle hvl hk
    exact State.byte_wroteElems_outside ht ho (State.vctxNow_placement hm hsew hc hle) hg hvl hk
  · intro s md wb mask f i hlo hmd
    exact State.maskBit_wroteBits hlo hmd

end Sys2Proof.Machine

/-! What vector loads and stores move (R104, R156, R158, R378), with the obligation ContentLaws. -/

namespace Sys2Proof.Machine

/-! ### Sparse tables whose new entry is not the default -/

/-- Reading any table after an entry was set to a value that is not the default. -/
theorem SMap.get_set_of_ne {α : Type} [DecidableEq α] {d v : α} (hv : v ≠ d) (m : SMap α) (n k : Nat) :
    SMap.get d (SMap.set d m n v) k = if k = n then v else SMap.get d m k := by
  induction m with
  | nil => simp [SMap.set, SMap.get, hv, eq_comm]
  | cons p m ih =>
    obtain ⟨j, w⟩ := p
    simp only [SMap.set, hv, if_false]
    split_ifs <;> grind [SMap.get]

theorem SMap.set_ne_nil {α : Type} [DecidableEq α] {d v : α} (hv : v ≠ d) (m : SMap α) (n : Nat) : SMap.set d m n v ≠ [] := by
  cases m with
  | nil => simp [SMap.set, hv]
  | cons p m =>
    obtain ⟨j, w⟩ := p
    simp only [SMap.set, hv, if_false]
    split_ifs <;> exact List.cons_ne_nil _ _

/-! ### Writes at several places (R12) -/

section
variable {m : Memory} {key v : Nat → Nat} {w a j n q : Nat} {l : List Nat}

/-- A memory with numbers of `w` bytes written at their places, in the order of a list. -/
def Memory.writeAll (m : Memory) (key : Nat → Nat) (w : Nat) (v : Nat → Nat) (l : List Nat) : Memory :=
  l.foldl (fun m k => m.write (key k) w (v k)) m

theorem Memory.writeAll_wf (hm : m.wf = true) : (m.writeAll key w v l).wf = true :=
  List.foldlRecOn (motive := fun (m : Memory) => m.wf = true) l _ hm fun _ hm _ _ => Memory.write_wf hm

theorem Memory.byte_writeAll_other (hm : m.wf = true) (hq : ∀ k ∈ l, q < key k ∨ key k + w ≤ q) : (m.writeAll key w v l).byte q = m.byte q := by
  induction l generalizing m with
  | nil => rfl
  | cons i l ih =>
    obtain ⟨hi, hl⟩ := List.forall_mem_cons.1 hq
    refine (ih (Memory.write_wf hm) hl).trans ?_
    rw [Memory.byte_write hm, if_neg (by omega)]

theorem Memory.read_writeAll_other (hm : m.wf = true) (ha : ∀ k ∈ l, a + n ≤ key k ∨ key k + w ≤ a) :
    (m.writeAll key w v l).read a n = m.read a n :=
  Memory.read_congr fun i hi => Memory.byte_writeAll_other hm fun k hk => (ha k hk).imp (by omega) (by omega)

/-- What was written at a place that no other one overlaps. -/
theorem Memory.read_writeAll (hm : m.wf = true) (hj : j ∈ l) (ha : ∀ k ∈ l, k ≠ j → key j + w ≤ key k ∨ key k + w ≤ key j) :
    (m.writeAll key w v l).read (key j) w = v j % 256 ^ w := by
  induction l generalizing m with
  | nil => cases hj
  | cons i l ih =>
    have hl : ∀ k ∈ l, k ≠ j → key j + w ≤ key k ∨ key k + w ≤ key j := fun k hk => ha k (List.mem_cons_of_mem _ hk)
    by_cases hin : j ∈ l
    · exact ih (Memory.write_wf hm) hin hl
    · obtain rfl : j = i := (List.mem_cons.1 hj).resolve_right hin
      refine (Memory.read_writeAll_other (Memory.write_wf hm) fun k hk => hl k hk ?_).trans (Memory.read_write hm)
      rintro rfl
      exact hin hk

end

/-! ### What an access without a page does besides: what is sent (R378) -/

section
variable {s t u : State}

/-- `u` is `s` but for what the ports of the packages' hubs have sent. -/
structure State.SentOnly (s u : State) : Prop where
  rest : u = { s with pkgs := u.pkgs, outbox := u.outbox, free := u.free }
  hubs : ∀ p, u.pkg p = { s.pkg p with ports := (u.pkg p).ports }

namespace State.SentOnly

theorem refl (s : State) : s.SentOnly s := ⟨rfl, fun _ => rfl⟩

theorem trans (h : s.SentOnly t) (h' : t.SentOnly u) : s.SentOnly u where
  rest := by rw [h'.rest, h.rest]
  hubs p := by rw [h'.hubs p, h.hubs p]

/-- A port that has something to send. -/
theorem setPort (s : State) (p n : Nat) {v : PortRec} (hv : v ≠ PortRec.reset) : s.SentOnly (s.setPort p n v) where
  rest := rfl
  hubs q := by
    have hne : ({ s.pkg p with ports := SMap.set PortRec.reset (s.pkg p).ports n v } : PkgRec) ≠ PkgRec.reset := fun h =>
      SMap.set_ne_nil hv _ _ (congrArg PkgRec.ports h)
    have hpkg (q : Nat) : (s.setPort p n v).pkg q = if q = p then { s.pkg p with ports := SMap.set PortRec.reset (s.pkg p).ports n v } else s.pkg q :=
      SMap.get_set_of_ne hne ..
    rw [hpkg]
    split
    next h => subst h; rfl
    next => rfl

theorem sent {s t : State} (h : s.SentOnly t) (f : BitVec 1024) (p n : Nat) : s.SentOnly (t.wire p n f) := ⟨by rw [State.wire, h.rest], h.hubs⟩

theorem drainPort (s : State) (p n m : Nat) : s.SentOnly (s.drainPort p n m) := by
  induction m generalizing s with
  | zero => exact refl s
  | succ m ih =>
    unfold State.drainPort
    extract_lets r
    split
    · exact refl s
    · split
      · exact refl s
      · exact ((setPort s p n fun h => List.append_ne_nil_of_right_ne_nil _ (List.cons_ne_nil _ _) (congrArg PortRec.unacked h)).sent _ p n).trans
          (ih _)

theorem sendFlit (s : State) (p n vc : Nat) : s.SentOnly (s.sendFlit p n vc) := by
  have hfree : s.SentOnly s.nextFree := ⟨rfl, fun _ => rfl⟩
  exact (hfree.trans (setPort _ p n fun h => List.append_ne_nil_of_right_ne_nil _ (List.cons_ne_nil _ _) (congrArg PortRec.backlog h))).trans
    (drainPort ..)

theorem hopFlits (s : State) (vc p : Nat) (path : List Nat) : s.SentOnly (s.hopFlits vc p path) := by
  induction path generalizing s p with
  | nil => exact refl s
  | cons q path ih => exact (sendFlit ..).trans (ih ..)

theorem carryAlong (s : State) (a : Nat) (path : List Nat) (b vc : Nat) : s.SentOnly (s.carryAlong a path b vc) :=
  ((sendFlit ..).trans (hopFlits ..)).trans (sendFlit ..)

theorem carry (s : State) (a b vc : Nat) : s.SentOnly (s.carry a b vc) := by
  unfold State.carry
  split_ifs
  · exact refl s
  · exact sendFlit ..
  · split
    · exact carryAlong ..
    · exact refl s

theorem transfer (s : State) (a b : Nat) : s.SentOnly (s.transfer a b) := by
  unfold State.transfer
  split_ifs
  · exact refl s
  · exact (carry ..).trans (carry ..)
  · split
    · exact (carryAlong ..).trans (carryAlong ..)
    · exact refl s

/-- What may keep a write from its place is as it was (R253, R389). -/
theorem holds_eq (h : s.SentOnly u) (he : s.eager = true) (writer k n : Nat) : u.holds writer k n = s.holds writer k n := by
  have hheld (p : Nat) : (u.pkg p).held = (s.pkg p).held := by rw [h.hubs p]
  have hholders (p : Nat) : (u.pkg p).holders = (s.pkg p).holders := by rw [h.hubs p]
  have heager : u.eager = true := by rw [h.rest]; exact he
  unfold State.holds State.pageHolds State.heldBy State.atomicOnWay State.delays State.pageHolds
  rw [hheld, hholders, heager, he]
  rfl

end State.SentOnly

/-- `u` is `s` but for what accesses change, and the counters of the dies' pages (R368). -/
def State.PerformedOnly (s u : State) : Prop :=
  u = { s with mem := u.mem, tlb := u.tlb, events := u.events, pkgs := u.pkgs, outbox := u.outbox, free := u.free, dies := u.dies }

namespace State.PerformedOnly

theorem trans (h : s.PerformedOnly t) (h' : t.PerformedOnly u) : s.PerformedOnly u := by
  unfold State.PerformedOnly at *
  rw [h', h]

theorem of_access (h : s.AccessOnly u) : s.PerformedOnly u := by
  unfold State.AccessOnly at h
  unfold State.PerformedOnly
  rw [h]

theorem countHot (s : State) (die space : Nat) (va : Word) (leaf : Option LeafAt) (k : Hot) : s.PerformedOnly (s.countHot die space va leaf k) := by
  unfold State.countHot
  split
  · rfl
  · rfl

theorem performed (s : State) (k : Kind) (hot : Hot) (va : Word) (pl : Place) (leaf : Option LeafAt) :
    s.PerformedOnly (s.performed k hot va pl leaf) := (of_access (.visit ..)).trans (countHot ..)

theorem pieced (s : State) (hot : Hot) (va : Word) (leaf : Option LeafAt) : s.PerformedOnly (s.pieced hot va leaf) :=
  (of_access (.touch ..)).trans (countHot ..)

theorem performAll (k : Kind) (a : VAcc) (l : List Nat) (s : State) : s.PerformedOnly (performAll k a l s) := by
  induction l generalizing s with
  | nil => rfl
  | cons i l ih =>
    refine trans ?_ (ih _)
    split
    · split
      · exact pieced ..
      · exact performed ..
    · split
      · exact performed ..
      · rfl
    · rfl

theorem vmem_eq (h : s.PerformedOnly u) : u.vmem = s.vmem := by
  unfold State.vmem
  rw [State.lease_congr (s := s) (t := u) (by rw [h]) (by rw [h]) (by rw [h]) (by rw [h])]

end State.PerformedOnly

/-- Elements whose places have no page are performed by what is sent alone (R364, R368). -/
theorem State.SentOnly.performAll {k : Kind} {a : VAcc} {l : List Nat} {p : Nat → Place} (s : State) (hl : ∀ i ∈ l, a.check i = .ok (p i) none) :
    s.SentOnly (performAll k a l s) := by
  induction l generalizing s with
  | nil => exact refl s
  | cons i l ih =>
    obtain ⟨hi, hl⟩ := List.forall_mem_cons.1 hl
    refine trans ?_ (ih _ hl)
    rw [hi]
    dsimp only
    split
    · exact refl s
    · exact transfer s ..

/-! ### Elements loaded (R104, R156, R158) -/

section
variable {a : VAcc} {x : VCtx} {m : Memory} {reg d i j wb q : Nat} {v : Nat → Nat} {idx : List Nat} {p : Nat → Place} {l : Nat → Option LeafAt}

/-- The register store with some elements of a group written, in the order of a list (R102). -/
def vsetAll (m : Memory) (reg d wb : Nat) (v : Nat → Nat) (l : List Nat) : Memory := m.writeAll (fun k => vkey reg d (k * wb)) wb v l

theorem vsetAll_wf (hm : m.wf = true) : (vsetAll m reg d wb v idx).wf = true := Memory.writeAll_wf hm

theorem velem_vsetAll (hp : Placement reg wb) (hm : m.wf = true) :
    velem (vsetAll m reg d wb v idx) reg d wb j = if j ∈ idx then v j % 256 ^ wb else velem m reg d wb j := by
  unfold velem vsetAll
  split
  next h => exact Memory.read_writeAll (key := fun k => vkey reg d (k * wb)) hm h fun k _ hkj => hp.vkey_elem_apart d hkj.symm
  next h => exact Memory.read_writeAll_other hm fun k hk => hp.vkey_elem_apart d fun hjk => h (hjk ▸ hk)

theorem State.setVmem_owner (ho : s.hart.owner = s.cur) (m : Memory) : (s.setVmem m).hart.owner = (s.setVmem m).cur := by
  rw [State.setVmem_own ho]
  exact ho

theorem State.vmem_setVmem (ho : s.hart.owner = s.cur) (m : Memory) : (s.setVmem m).vmem = m := by
  rw [State.vmem_own (State.setVmem_owner ho m), State.setVmem_own ho]

theorem State.setVmem_setVmem (ho : s.hart.owner = s.cur) (m m' : Memory) : (s.setVmem m).setVmem m' = s.setVmem m' := by
  rw [State.setVmem_own (State.setVmem_owner ho m), State.setVmem_own ho, State.setVmem_own ho]

theorem State.setVmem_vmem (ho : s.hart.owner = s.cur) : s.setVmem s.vmem = s := by
  rw [State.setVmem_own ho, State.vmem_own ho]

/-- The value that a load of an element finds at its place. -/
def State.loadValue (s : State) (wb : Nat) (p : Nat → Place) (l : Nat → Option LeafAt) (k : Nat) : Nat := s.readAt (l k) (p k).key wb

/-- What a place reads as depends on memory and on the keys of the packages' lines (R409). -/
theorem State.readAt_congr (hmem : t.mem = s.mem) (hpkgs : t.pkgs = s.pkgs) (leaf : Option LeafAt) (k n : Nat) : t.readAt leaf k n = s.readAt leaf k n := by
  have hpkg : t.pkg = s.pkg := by
    funext p
    rw [State.pkg, hpkgs]
    rfl
  have hunder (c k n : Nat) : t.readUnder c k n = s.readUnder c k n := by
    induction n generalizing k with
    | zero => rfl
    | succ n ih => rw [State.readUnder, State.readUnder, ih, State.lineUnder, State.lineUnder, hmem, hpkg]
  unfold State.readAt State.peek State.leafKey State.keyName State.alien
  simp only [hunder, hmem, hpkg]

theorem State.loadValue_setVmem (ho : s.hart.owner = s.cur) (m : Memory) : (s.setVmem m).loadValue wb p l = s.loadValue wb p l := by
  funext k
  exact State.readAt_congr (by rw [State.setVmem_own ho]) (by rw [State.setVmem_own ho]) ..

theorem fillElems_eq (ho : s.hart.owner = s.cur) (hidx : ∀ k ∈ idx, a.check k = .ok (p k) (l k)) :
    fillElems a reg d idx s = s.setVmem (vsetAll s.vmem reg d a.wb (s.loadValue a.wb p l) idx) := by
  induction idx generalizing s with
  | nil => exact (State.setVmem_vmem ho).symm
  | cons i idx ih =>
    obtain ⟨hi, hidx⟩ := List.forall_mem_cons.1 hidx
    unfold fillElems
    rw [hi]
    dsimp only
    rw [ih (State.setVmem_owner ho _) hidx, State.setVmem_setVmem ho, State.vmem_setVmem ho, State.loadValue_setVmem ho]
    rfl

theorem loadElems_vmem (ho : s.hart.owner = s.cur) (hidx : ∀ k ∈ idx, a.check k = .ok (p k) (l k)) :
    (loadElems a reg d idx s).vmem = vsetAll s.vmem reg d a.wb (s.loadValue a.wb p l) idx := by
  unfold loadElems
  rw [(State.PerformedOnly.performAll ..).vmem_eq, fillElems_eq ho hidx, State.vmem_setVmem ho]

/-- Loading elements whose places have no page leaves memory (R364). -/
theorem loadElems_mem (ho : s.hart.owner = s.cur) (hidx : ∀ k ∈ idx, a.check k = .ok (p k) (l k)) (hl : ∀ k ∈ idx, l k = none) :
    (loadElems a reg d idx s).mem = s.mem := by
  unfold loadElems
  rw [(State.SentOnly.performAll (p := p) _ fun k hk => hl k hk ▸ hidx k hk).rest, fillElems_eq ho hidx, State.setVmem_own ho]

/-- The elements that a load under a mask free of poison looks at (R158). -/
theorem State.mem_loadIdx {o : VOp} {e : QEntry} (hbad : s.hart.maskPois = []) (he : e.p = 0) :
    i ∈ s.loadIdx o e e.p ↔ i < (s.vctx e).vl ∧ s.hart.maskBit o.m.toNat i = true := by
  have hfree (n k : Nat) : s.hart.maskWordBad n k = false := by simp [Hart.maskWordBad, hbad, SMap.get]
  unfold State.loadIdx State.takenFrom activeFrom
  simp only [he, hfree, Bool.or_false, Nat.sub_zero, Nat.add_zero, List.mem_filter, List.map_id', List.mem_range]

/-- The elements masked off as MASKPOL says: 0, or as they were (R104). -/
theorem State.zeroMasked_eq (ho : s.hart.owner = s.cur) (x : VCtx) (d wb mask i n : Nat) :
    s.zeroMasked x d wb mask i n =
      s.setVmem (vsetAll s.vmem x.reg d wb (fun _ => 0) (if x.maskz then activeFrom (fun j => !s.hart.maskBit mask j) i n else [])) := by
  unfold State.zeroMasked
  split
  · rfl
  · exact (State.setVmem_vmem ho).symm

theorem mem_activeFrom_zero {act : Nat → Bool} {n : Nat} : i ∈ activeFrom act 0 n ↔ i < n ∧ act i = true := by
  simp [activeFrom]

/-- The register store after a fault-only-first load without a fault: its elements, those masked off, and the tail (R104, R156). -/
theorem State.fofAll_vmem {o : VOp} {e : QEntry} (ho : s.hart.owner = s.cur) (hm : s.hart.mode = .plain)
    (hidx : ∀ k ∈ s.loadIdx o e e.p, a.check k = .ok (p k) (l k)) :
    (s.fofAll o e a).vmem =
      (s.vctx e).tailZero
        (vsetAll (vsetAll s.vmem (s.vctx e).reg o.vd.toNat a.wb (s.loadValue a.wb p l) (s.loadIdx o e e.p)) (s.vctx e).reg o.vd.toNat a.wb (fun _ => 0)
          (if (s.vctx e).maskz then activeFrom (fun j => !s.hart.maskBit o.m.toNat j) e.p ((s.vctx e).vl - e.p) else []))
        o.vd.toNat a.wb (s.vctx e).vl := by
  have hd : (s.vctx e).dreg o.vd = o.vd.toNat := by simp [VCtx.dreg, State.vctx, State.vctxOf, hm]
  have hown := State.setVmem_owner ho
  have hmask (m : Memory) : (s.setVmem m).hart.maskBit = s.hart.maskBit := by rw [State.setVmem_own ho]; rfl
  unfold State.fofAll State.fofFill
  dsimp only
  rw [(State.PerformedOnly.performAll ..).vmem_eq, hd, fillElems_eq ho hidx, State.zeroMasked_eq (hown _), hmask, State.vmem_setVmem ho,
    State.setVmem_setVmem ho, State.vmem_setVmem ho, State.setVmem_setVmem ho, State.vmem_setVmem ho]

/-- An element of the destination of a fault-only-first load without a fault (R104, R156). -/
theorem State.velem_fofAll {o : VOp} {e : QEntry} {g : Nat} (ht : s.Tables) (ho : s.hart.owner = s.cur) (hm : s.hart.mode = .plain)
    (hbad : s.hart.maskPois = []) (he : e.p = 0) (hp : Placement (s.vctx e).reg a.wb) (hg : (s.vctx e).group (8 * a.wb) = some g)
    (hi : i < (s.vctx e).capacity a.wb) (hidx : ∀ k, k < (s.vctx e).vl → s.hart.maskBit o.m.toNat k = true → a.check k = .ok (p k) (l k)) :
    velem (s.fofAll o e a).vmem (s.vctx e).reg o.vd.toNat a.wb i =
      if i < (s.vctx e).vl then
        (if s.hart.maskBit o.m.toNat i then s.loadValue a.wb p l i % 256 ^ a.wb
          else if (s.vctx e).maskz then 0 else velem s.vmem (s.vctx e).reg o.vd.toNat a.wb i)
      else if (s.vctx e).tail ∧ (s.vctx e).vl ≠ 0 then 0 else velem s.vmem (s.vctx e).reg o.vd.toNat a.wb i := by
  have hwf := ht.vmem_wf ho
  have hzero : i ∈ (if (s.vctx e).maskz then activeFrom (fun j => !s.hart.maskBit o.m.toNat j) e.p ((s.vctx e).vl - e.p) else [])
      ↔ (s.vctx e).maskz = true ∧ i < (s.vctx e).vl ∧ s.hart.maskBit o.m.toNat i = false := by
    rw [he]
    split <;> simp_all [mem_activeFrom_zero]
  rw [State.fofAll_vmem ho hm fun k hk => hidx k ((State.mem_loadIdx hbad he).1 hk).1 ((State.mem_loadIdx hbad he).1 hk).2,
    VCtx.velem_tailZero hp hg, velem_vsetAll hp (vsetAll_wf hwf), velem_vsetAll hp hwf]
  simp only [hzero, State.mem_loadIdx hbad he, hi, and_true]
  by_cases hvl : i < (s.vctx e).vl
  · cases s.hart.maskBit o.m.toNat i <;> simp [hvl]
  · simp [hvl, Nat.le_of_not_lt hvl]

end

/-! ### Elements stored (R158) -/

section
variable {a : VAcc} {m : Memory} {reg n q : Nat} {idx : List Nat} {p : Nat → Place}

/-- A store to a place without a page that nothing holds back writes its bytes there (R409). -/
theorem State.place_slate {w k v : Nat} (h : s.holds w k n = false) : s.place w none k n v = { s with mem := s.mem.write k n v } :=
  State.place_free h rfl ..

theorem placeElems_eq (hidx : ∀ k ∈ idx, a.check k = .ok (p k) none ∧ s.holds (agentNo s.cur .vector) (p k).key a.wb = false) :
    placeElems a reg n m idx s = { s with mem := s.mem.writeAll (fun k => (p k).key) a.wb (velem m reg n a.wb) idx } := by
  induction idx generalizing s with
  | nil => rfl
  | cons i idx ih =>
    obtain ⟨⟨hi, hfree⟩, hidx⟩ := List.forall_mem_cons.1 hidx
    unfold placeElems
    rw [hi]
    dsimp only
    rw [State.place_slate hfree, ih]
    · rfl
    · exact hidx

/-- Elements stored at places without a page that nothing holds back leave their bytes there, and nothing else in memory or the hart. -/
theorem storeElems_slate (he : s.eager = true)
    (hidx : ∀ k ∈ idx, a.check k = .ok (p k) none ∧ s.holds (agentNo s.cur .vector) (p k).key a.wb = false) :
    (storeElems a reg n m idx s).mem = s.mem.writeAll (fun k => (p k).key) a.wb (velem m reg n a.wb) idx
    ∧ (storeElems a reg n m idx s).hart = s.hart := by
  have hsent := State.SentOnly.performAll (k := .write) (a := a) (p := p) s fun k hk => (hidx k hk).1
  have hcur : (performAll .write a idx s).cur = s.cur := by rw [hsent.rest]
  unfold storeElems
  rw [placeElems_eq fun k hk => ⟨(hidx k hk).1, by rw [hcur, hsent.holds_eq he]; exact (hidx k hk).2⟩]
  exact ⟨by rw [hsent.rest], by rw [hsent.rest]⟩

end

end

/-- Settles O40: loads and stores write their elements one by one at places that share no byte, and performing them sends flits and marks pages. -/
theorem contentLaws : Obligations.ContentLaws := by
  unfold Obligations.ContentLaws
  refine ⟨?_, ?_⟩
  · rintro a s p l ht ho ⟨sew, hsew, hwb⟩
    refine ⟨?_, ?_⟩
    · intro reg d idx hpos h8 hreg _ hidx t
      have hp : Placement reg a.wb :=
        ⟨(hwb ▸ Nat.pow_dvd_pow 2 hsew : a.wb ∣ 2 ^ 3).trans (Nat.dvd_of_mod_eq_zero h8), hpos, hreg, hwb ▸ Nat.two_pow_pos sew⟩
      have hvmem : t.vmem = vsetAll s.vmem reg d a.wb (s.loadValue a.wb p l) idx := loadElems_vmem ho hidx
      refine ⟨fun k hk => ?_, loadElems_mem ho hidx, fun q hq => ?_⟩
      · rw [hvmem, velem_vsetAll hp (ht.vmem_wf ho), if_pos hk, two_pow_eight_mul]
        rfl
      · rw [hvmem]
        exact Memory.byte_writeAll_other (ht.vmem_wf ho) hq
    · intro o e g i hm hbad he x hg hc hle _ _ hi hidx
      have hp : Placement x.reg a.wb := by
        have hreg : x.reg = regBytes false x.c := State.vctxOf_reg hm ..
        rw [hreg, hwb]
        exact .plain hc hle hsew
      rw [two_pow_eight_mul]
      exact State.velem_fofAll ht ho hm hbad he hp hg hi hidx
  · intro a s reg n m idx p hwf he _ _ hidx hapart t
    obtain ⟨hmem, hhart⟩ := storeElems_slate (reg := reg) (n := n) (m := m) he hidx
    refine ⟨fun k hk => ?_, fun q hq => ?_, hhart⟩
    · rw [hmem]
      exact (Memory.read_writeAll (key := fun k => (p k).key) hwf hk fun j hj hjk => hapart k hk j hj hjk.symm).trans
        (Nat.mod_eq_of_lt (velem_lt ..))
    · rw [hmem]
      exact Memory.byte_writeAll_other hwf hq

end Sys2Proof.Machine

/-! The barrier, LEASE and the explicit hall passes (R115, R160, R228 to R230, R403 to R405), with the obligation SharedGrants. -/

namespace Sys2Proof.Machine

section
variable {s t : State} {o : VOp} {g k : Nat} {d : Reg} {v : Word} {h : Hart}

/-! ### V-forms of the scalar side (R160) -/

/-- Completing a V-form of the scalar side leaves all but x registers, pc and control registers of the hart. -/
theorem State.finishV_leaves (s : State) (d : Reg) (v : Word) :
    s.finishV d v = { s with hart := { s.hart with
      x := (s.finishV d v).hart.x, pc := s.hart.pc + 4, ctl := (s.finishV d v).hart.ctl } } := by
  have hend : s.endV = { s with hart := { s.hart with ctl := s.endV.hart.ctl } } := by
    unfold State.endV
    split <;> rfl
  have hrest := (State.wrote_finishX s.endV d v 4).rest
  have hpc : s.endV.hart.pc = s.hart.pc := by rw [hend]
  unfold State.finishV
  rw [hrest, hend]
  rfl

theorem State.finishV_readX (s : State) (d : Reg) (v : Word) : (s.finishV d v).readX d = if d = 0 then 0 else v := by
  have hread := State.readX_finishX s.endV d d v 4
  unfold State.finishV
  rw [hread]
  by_cases hd : d = 0
  · rw [if_neg fun h => h.2 hd, if_pos hd, hd]
    rfl
  · rw [if_pos ⟨rfl, hd⟩, if_neg hd]

/-- A hart of the state after a V-form of the scalar side: what is no register of the current hart is as it was. -/
theorem State.getHart_finishV (s : State) (d : Reg) (v : Word) (g : Nat) : ∃ x pc ctl,
    (s.finishV d v).getHart g = { s.getHart g with x := x, pc := pc, ctl := ctl } := by
  rw [State.finishV_leaves]
  unfold State.getHart
  dsimp only
  split
  · exact ⟨_, _, _, rfl⟩
  · exact ⟨_, _, _, rfl⟩

theorem State.advanceV_eq_wentV (s : State) : s.advanceV = s.wentV := by
  have hpc : s.endV.hart.pc = s.hart.pc := by
    unfold State.endV
    split <;> rfl
  unfold State.advanceV State.wentV
  rw [State.advance_eq_went, hpc]
  rfl

/-! ### Harts replaced -/

theorem State.getHart_setHart (hwf : SMap.wf Hart.reset s.harts = true) (g : Nat) (h : Hart) (k : Nat) :
    (s.setHart g h).getHart k = if k = g then h else s.getHart k := by
  unfold State.setHart State.getHart
  by_cases hg : g = s.cur
  · rw [if_pos hg, hg]
    dsimp only
    split_ifs <;> rfl
  · rw [if_neg hg]
    dsimp only
    rw [SMap.get_set hwf]
    by_cases hk : k = s.cur
    · rw [if_pos hk, if_pos hk, if_neg (by omega)]
    · rw [if_neg hk, if_neg hk]

theorem State.setHart_harts_wf (hwf : SMap.wf Hart.reset s.harts = true) (g : Nat) (h : Hart) : SMap.wf Hart.reset (s.setHart g h).harts = true := by
  unfold State.setHart
  split
  · exact hwf
  · exact SMap.set_wf hwf

theorem State.getHart_foldl_setHart (hwf : SMap.wf Hart.reset s.harts = true) (f : Nat → Hart) (l : List Nat) (k : Nat) :
    (l.foldl (fun t g => t.setHart g (f g)) s).getHart k = if k ∈ l then f k else s.getHart k := by
  induction l generalizing s with
  | nil => rfl
  | cons g l ih =>
    rw [List.foldl_cons, ih (State.setHart_harts_wf hwf g _), State.getHart_setHart hwf]
    by_cases hl : k ∈ l
    · rw [if_pos hl, if_pos (List.mem_cons_of_mem g hl)]
    · simp only [hl, if_false, List.mem_cons, or_false]
      split
      next h => rw [h]
      next => rfl

/-! ### The barrier (R115, R228) -/

/-- Outside a cohort an arrival completes the phase (R228). -/
theorem State.arrive_alone (hm : s.hart.mode ≠ .cohort) : s.arrive = { s with hart := s.hart.flip } := by
  unfold State.arrive State.phaseTry
  rw [if_pos hm]
  rfl

/-- The state in which the current hart has arrived at the barrier (R228). -/
def State.atBarrier (s : State) : State := { s with hart := { s.hart with arrived := true } }

theorem State.getHart_atBarrier (s : State) (g : Nat) : s.atBarrier.getHart g = if g = s.cur then s.atBarrier.hart else s.getHart g := by
  show (if g = s.cur then s.atBarrier.hart else _) = _
  unfold State.getHart
  split <;> rfl

theorem State.sameLaunch_atBarrier (s : State) (g : Nat) : (s.atBarrier.getHart g).sameLaunch s.atBarrier.hart = (s.getHart g).sameLaunch s.hart := by
  rw [State.getHart_atBarrier]
  split
  next h => rw [h, State.getHart_cur]; rfl
  next => rfl

theorem State.copiesOf_atBarrier (s : State) : s.atBarrier.copiesOf s.atBarrier.hart = s.copiesOf s.hart :=
  List.filter_congr fun g _ => s.sameLaunch_atBarrier g

theorem State.cur_mem_copiesOf (hs : s.hart.sameLaunch s.hart = true) : s.cur ∈ s.copiesOf s.hart :=
  List.mem_filter.2 ⟨List.mem_cons_self, by rw [State.getHart_cur]; exact hs⟩

/-- The last live member of a cohort to arrive completes the phase (R228). -/
theorem State.arrive_last (hm : s.hart.mode = .cohort) (hs : s.hart.sameLaunch s.hart = true)
    (hlive : ∀ g ∈ s.copiesOf s.hart, g ≠ s.cur → (s.getHart g).arrived = true)
    (hparked : ∀ r ∈ s.parked, r.2.sameLaunch s.hart = true → r.2.arrived = true) :
    s.arrive = s.atBarrier.mapCopiesOf s.atBarrier.hart Hart.flip := by
  have hall : (s.atBarrier.liveCopiesOf s.atBarrier.hart).all Hart.arrived = true := by
    unfold State.liveCopiesOf
    rw [State.copiesOf_atBarrier, List.all_append, Bool.and_eq_true, List.all_eq_true, List.all_eq_true]
    constructor
    · intro h hh
      obtain ⟨g, hg, rfl⟩ := List.mem_map.1 hh
      rw [State.getHart_atBarrier]
      split
      next => rfl
      next hne => exact hlive g hg hne
    · intro h hh
      obtain ⟨hmem, hsame⟩ := List.mem_filter.1 hh
      obtain ⟨r, hr, rfl⟩ := List.mem_map.1 hmem
      exact hparked r hr hsame
  have hsome : ¬ (s.atBarrier.liveCopiesOf s.atBarrier.hart).isEmpty = true := by
    unfold State.liveCopiesOf
    rw [State.copiesOf_atBarrier, List.isEmpty_iff, List.append_eq_nil_iff, List.map_eq_nil_iff]
    exact fun h => List.ne_nil_of_mem (State.cur_mem_copiesOf hs) h.1
  show s.atBarrier.phaseTry = _
  unfold State.phaseTry
  rw [if_neg (show ¬ s.atBarrier.hart.mode ≠ .cohort from not_not.2 hm), State.cohortPhase]
  exact if_pos ⟨hm, hsome, hall⟩

/-- Every member of a cohort whose last live member arrives (R228). -/
theorem State.getHart_arrive_last (hwf : SMap.wf Hart.reset s.harts = true) (hm : s.hart.mode = .cohort) (hs : s.hart.sameLaunch s.hart = true)
    (hlive : ∀ g ∈ s.copiesOf s.hart, g ≠ s.cur → (s.getHart g).arrived = true)
    (hparked : ∀ r ∈ s.parked, r.2.sameLaunch s.hart = true → r.2.arrived = true) (hg : g ∈ s.copiesOf s.hart) :
    s.arrive.getHart g = (s.getHart g).flip := by
  have hflip : (s.atBarrier.getHart g).flip = (s.getHart g).flip := by
    rw [State.getHart_atBarrier]
    split
    next h => rw [h, State.getHart_cur]; rfl
    next => rfl
  have hmap (l : List (Nat × Hart)) (t : State) : ({ t with parked := l } : State).getHart g = t.getHart g := rfl
  rw [State.arrive_last hm hs hlive hparked, State.mapCopiesOf, hmap,
    State.getHart_foldl_setHart (s := s.atBarrier) hwf (fun g => (s.atBarrier.getHart g).flip), State.copiesOf_atBarrier, if_pos hg, hflip]

theorem State.mapCopiesOf_cur (s : State) (h : Hart) (f : Hart → Hart) : (s.mapCopiesOf h f).cur = s.cur :=
  List.foldlRecOn (motive := fun t => State.cur t = s.cur) _ _ rfl fun t ht g _ => (State.setHart_cur t g _).trans ht

theorem execGarrive_of_placed (hp : s.agentHeld (agentNo s.cur .scalar) = false) :
    execGarrive o s = .next (s.arrive.finishV o.vd (if s.hart.phase then 1 else 0)) := by
  have hbit : wordOf (bit s.hart.phase) = if s.hart.phase then 1 else 0 := by cases s.hart.phase <;> rfl
  rw [execGarrive, hp, if_neg (by decide), hbit]

/-! ### Dies and hall passes (R403 to R405) -/

theorem State.die_setDie (hwf : SMap.wf DieRec.reset s.dies = true) (dk : Nat) (r : DieRec) (k : Nat) :
    (s.setDie dk r).die k = if k = dk then r else s.die k := SMap.get_set hwf

/-- A hall pass that comes back where no request waits (R403). -/
theorem State.returnPass_unawaited (hwf : SMap.wf DieRec.reset s.dies = true) {dk : Nat} (hw : (s.die dk).waiting = []) (charge : Nat) :
    s.returnPass dk charge = (s.setDie dk { s.die dk with granted := (s.die dk).granted - charge }).pokeResume dk := by
  unfold State.returnPass State.pokeProctor
  dsimp only
  rw [State.die_setDie hwf, if_pos rfl, if_pos (List.isEmpty_iff.2 hw)]

/-- A request of a hall pass that fits, where none waits, is granted at once (R404). -/
theorem State.askPass_fits {dk : Nat} {r : PassReq} (hw : (s.die dk).waiting = []) (hfit : r.charge + (s.die dk).granted ≤ (s.die dk).budget) :
    s.askPass dk r = (s.setDie dk { s.die dk with granted := (s.die dk).granted + r.charge }, true) := by
  unfold State.askPass
  dsimp only
  rw [hw, if_pos (by simpa using hfit)]

/-- LEASE is ordered behind an empty queue at once (R229). -/
theorem State.queueQuiet_of_empty (hq : s.hart.queue = []) : s.queueQuiet = true := by
  unfold State.queueQuiet
  rw [hq]
  rfl

end

/-- Settles O50: the barrier flips every member once all have arrived, LEASE checks its pair, and a hall pass is charged to the die's sum. -/
theorem sharedGrants : Obligations.SharedGrants := by
  unfold Obligations.SharedGrants
  refine ⟨?_, ?_, ?_⟩
  · intro o s hplaced u ph
    refine ⟨fun hm => ⟨fun hgbar => ?_, ?_, fun harrived hphase => ?_⟩, fun ht hm hs hlive hparked => ?_⟩
    · have hpassed : ¬(s.hart.gbar.isNone && s.agentHeld (agentNo s.cur .scalar)) = true := by rw [hplaced, Bool.and_false]; decide
      have hflip : (!s.hart.phase) ≠ s.hart.phase := by cases s.hart.phase <;> decide
      have hu : ({ s with hart := { s.hart.flip with gbar := none } } : State) = u := by
        rw [← hgbar]
        rfl
      rw [exec_gbar, execGbar, if_neg hpassed, hgbar]
      dsimp only
      rw [State.arrive_alone (by exact hm)]
      dsimp only [Hart.flip]
      exact (if_pos hflip).trans (by rw [State.advanceV_eq_wentV, ← hu]; rfl)
    · refine State.givesV_finishV ?_
      rw [exec_garrive, execGarrive_of_placed hplaced, State.arrive_alone hm]
      rfl
    · have hstays : s.phaseTry = s := by
        unfold State.phaseTry
        rw [if_pos hm, harrived]
        rfl
      rw [exec_gwait, execGwait, hstays, if_pos hphase, State.advanceV_eq_wentV]
    · have hflip (g : Nat) (hg : g ∈ s.copiesOf s.hart) : s.arrive.getHart g = (s.getHart g).flip :=
        State.getHart_arrive_last ht.harts hm hs hlive hparked hg
      have hcur : s.arrive.cur = s.cur := by
        rw [State.arrive_last hm hs hlive hparked]
        exact State.mapCopiesOf_cur ..
      have hhart : s.arrive.hart = s.hart.flip := by
        rw [← State.getHart_cur s.arrive, hcur, hflip _ (State.cur_mem_copiesOf hs), State.getHart_cur]
      refine ⟨_, (exec_garrive o s).trans (execGarrive_of_placed hplaced), ?_, State.finishV_readX .., fun g hg => ?_⟩
      · rw [State.finishV_leaves, hhart]
        rfl
      · obtain ⟨x, pc, ctl, hg'⟩ := State.getHart_finishV s.arrive o.vd (if s.hart.phase then 1 else 0) g
        rw [hg', hflip g hg]
        exact ⟨rfl, rfl, rfl⟩
  · intro o s hq mn pf l bad
    have hquiet := State.queueQuiet_of_empty hq
    refine ⟨fun hbad => State.givesV_finishV ?_, fun hgood => ?_⟩
    · rw [exec_lease, execLease, hquiet]
      exact if_pos hbad
    · rw [exec_lease, execLease, hquiet]
      exact if_neg hgood
  · intro o s ht q dk d
    refine ⟨fun hasked hnone hpos hmax hw hfit => ?_, fun hasked hbad => ?_, fun hnone => ?_, fun hheld hw => ?_⟩
    · refine State.givesV_finishV ?_
      have hgood : ¬(q = 0 ∨ 65535 < q ∨ s.hart.hpass ≠ 0) := by omega
      rw [exec_hpass, execHpass, hasked, if_neg (by decide)]
      dsimp only
      rw [if_neg hgood, State.askPass_fits hw hfit]
      dsimp only
      rw [if_pos rfl, State.hpassDone, ← hasked]
      rfl
    · refine State.givesV_finishV ?_
      rw [exec_hpass, execHpass, hasked, if_neg (by decide)]
      exact if_pos hbad
    · refine State.givesV_finishV ?_
      have hs : ({ s with hart := { s.hart with hpass := 0 } } : State) = s := by rw [← hnone]
      rw [exec_hdone, execHdone, hs, hnone]
      rfl
    · refine State.givesV_finishV ?_
      have hback := State.returnPass_unawaited (s := { s with hart := { s.hart with hpass := 0 } }) ht.dies hw s.hart.hpass
      rw [exec_hdone, execHdone]
      dsimp only
      rw [if_neg hheld, hback]
      rfl

end Sys2Proof.Machine

/-! The tile instructions (R110, R169 to R191), with the obligation TilesAndRegisters. -/

namespace Sys2Proof.Machine

section

/-! ### A table of forms that lists one form twice

TilesAndRegisters does not ask that the table of forms be canonical where it says what MATT attaches. In a table that lists form 0 twice,
the turn that the matrix unit takes to hart 15 makes the first entry that of a form after reset, which the table drops: from then on the
second entry is read, which has no free tile, and MATT waits (R169, R194). -/

/-- Hart 15 after reset, of whose form the table's first entry has sixteen free tiles and the second none. -/
def twinForm : State := { State.reset with
  cur := 15
  hart := { State.reset.hart with owner := 15 }
  forms := [(0, { FormRec.reset with turn := 3 }), (0, { FormRec.reset with tiles := 0 })] }

/-- MATT of one tile at least and at most. -/
def mattOne : DOp := ⟨1, 0, 0, 0, 0, 0, 0, 0, 0, 0⟩

/-- MATT waits there without a hall pass. -/
theorem twinForm_matt : ∃ t, exec (.matt mattOne) twinForm = .next t ∧ t.hart.mat.pass = false := ⟨_, rfl, by decide +kernel⟩

/-- Refutes O41: the table of forms need not be canonical where MATT attaches, so that free tiles do not always grant its request. -/
theorem not_tilesAndRegisters : ¬ Obligations.TilesAndRegisters := by
  intro h
  obtain ⟨t, ht, hpass⟩ := twinForm_matt
  obtain ⟨-, hattach, -⟩ := h.2.1 mattOne twinForm (by decide +kernel)
  obtain ⟨u, hu, -, hgranted, -⟩ := hattach (by decide +kernel) (by decide +kernel) (by decide +kernel) (by decide +kernel)
    (by decide +kernel) (by decide +kernel) (by decide +kernel)
  obtain rfl : u = t := Host.Outcome.next.inj (hu.symm.trans ht)
  exact absurd (hgranted.symm.trans hpass) (by decide)

end

end Sys2Proof.Machine

/-! The configuration instructions and the strip boundary (R93, R100, R103, R114 to R119), with the obligation SetLength. -/

namespace Sys2Proof.Machine

section

/-! ### A count no lease can reach

SetLength does not bound the pending target by the 16 clusters of a form. Under 17 clusters a register takes 104,448 bytes, more than the
98,304 that the register store gives each: element 12,288 of 8 bytes of v24 lies where element 0 of v25 does, so that not both can keep
what they held (R103). -/

/-- The state after reset whose hart holds one cluster, is to take 17, and carries v24 and v25 of 8-byte elements, of which v25's element 0
is 1. -/
def overGrown : State := { State.reset with hart := { State.reset.hart with
  ctl := { State.reset.hart.ctl with vl := 12289, vcfg := 0xC03 }
  lease := { Lease.none with held := 1, lanes := 1, target := some 17, vmem := { cells := [(25 * 98304, 1)], pois := [] } } } }

/-- A SETVL that leaves SEW and GRP as they are there. -/
def setvlSame : IOp := { d := 0, a := 0, imm := 3 }

/-- In a register that reaches beyond its part of the register store lies an element of the next. -/
theorem velem_overlap (m : Memory) : velem m (6144 * 17) (24 + 0) 8 12288 = velem m (6144 * 17) (24 + 1) 8 0 := rfl

/-- Refutes O23: a target of 17 clusters has two elements in one place, which keeps the one of them alone. -/
theorem not_setLength : ¬ Obligations.SetLength := by
  intro h
  obtain ⟨t, -, -, -, -, -, -, -, hgrown⟩ := h.2.2 setvlSame overGrown 17 (by decide +kernel) (by decide +kernel) (by decide +kernel)
    (by decide +kernel) (by decide +kernel) (by decide +kernel) (by decide +kernel)
  obtain ⟨-, -, hcarried⟩ := hgrown (by decide +kernel) (by decide +kernel) (by decide +kernel)
  obtain ⟨hkept, -⟩ := hcarried (by decide +kernel) (by decide +kernel)
  have hzero := hkept 0 12288 (by decide) (by decide +kernel) (by decide +kernel) (by decide +kernel)
  have hone := hkept 1 0 (by decide) (by decide +kernel) (by decide +kernel) (by decide +kernel)
  have hsame : velem overGrown.hart.lease.vmem 6144 24 8 12288 = velem overGrown.hart.lease.vmem 6144 25 8 0 :=
    hzero.symm.trans ((velem_overlap _).trans hone)
  exact absurd hsame (by decide +kernel)

end

end Sys2Proof.Machine

/-! The front entry of a queue: its turn, its fence, its masks and what becomes of it (R107, R194, R336, R344). -/

namespace Sys2Proof.Machine

section
variable {s t u v w : State} {e : QEntry} {l : List QEntry} {f : QEntry → State → HeadRes} {slip : State → State}

/-! ### The front entry of a queue (R107) -/

theorem State.queueMove_asleep (h : s.hart.run ≠ .running ∨ s.hart.frozen = true ∨ s.stopped s.cur = true ∨ s.hart.queue = []) :
    s.queueMove = s := by
  unfold State.queueMove
  by_cases hasleep : (s.hart.run ≠ .running || s.hart.frozen || s.stopped s.cur) = true
  · exact if_pos hasleep
  · rw [if_neg hasleep]
    obtain h | h | h | h := h
    · exact absurd (by simp [h]) hasleep
    · exact absurd (by simp [h]) hasleep
    · exact absurd (by simp [h]) hasleep
    · rw [h]

/-- Under the eager schedule the front entry has the turn where the one behind it may not be served beside it (R106, R282). -/
theorem State.queueMove_awake (heager : s.eager = true) (hrun : s.hart.run = .running) (hfrozen : s.hart.frozen = false)
    (hstopped : s.stopped s.cur = false) (hq : s.hart.queue = e :: l) (hbeside : ∀ q ∈ l.head?, s.besideChunks e q = false) :
    s.queueMove = s.frontMove e := by
  unfold State.queueMove
  rw [if_neg (by simp [hrun, hfrozen, hstopped]), hq]
  cases l with
  | nil => simp [heager]
  | cons q l => simp [heager, hbeside q rfl]

theorem State.myTurn_of_alone (h : s.rivals = []) : s.myTurn = true := by
  unfold State.myTurn
  rw [h]
  rfl

/-- The front entry runs, a matrix instruction in its turn of the matrix unit (R194). -/
theorem State.frontMove_of_head (hf : headOf e.instr = some f) (hturn : e.isMatrix = true → s.rivals = []) :
    s.frontMove e = (if e.isMatrix then s.takeTurn else s).runFrontWith (State.slip 1) f := by
  unfold State.frontMove
  rw [hf]
  cases hm : e.isMatrix with
  | false => rfl
  | true => exact if_pos (State.myTurn_of_alone (hturn hm))

theorem State.keepMlen_of_none (h : e.mlen = none) (s : State) (old : Word) : s.keepMlen e old = s := by
  unfold State.keepMlen
  rw [h]

theorem State.withMlen_of_none (h : e.mlen = none) (s : State) : s.withMlen e = s := by
  unfold State.withMlen
  rw [h]

/-- What becomes of the front entry and of its hart after what the entry has done (R107, R336, R344). -/
def HeadRes.left (r : HeadRes) (e : QEntry) (slip : State → State) (pois : SMap Bool) : State :=
  match r with
  | .done u => (u.healMask e pois).popFront
  | .trap u ti => (slip u).takeTrap ti u.hart.pc
  | .wait u => u

/-- An entry that owes a mask to no stream runs behind its fence. -/
theorem State.runFrontWith_behind (hq : s.hart.queue = e :: l) (howed : s.hart.maskOwed e = false) (hmlen : e.mlen = none)
    (hv : s.behindFence e = some v) : s.runFrontWith slip f = (v.headRes e f).left e slip v.hart.maskPois := by
  unfold State.runFrontWith
  rw [hq]
  dsimp only
  rw [howed, if_neg (by decide), hv]
  dsimp only
  rw [State.withMlen_of_none hmlen]
  cases v.headRes e f with
  | done u => simp only [State.keepMlen_of_none hmlen, HeadRes.left]
  | trap u ti => simp only [State.keepMlen_of_none hmlen, HeadRes.left]
  | wait u => simp only [State.keepMlen_of_none hmlen, HeadRes.left]

theorem State.runFrontWith_waits (hq : s.hart.queue = e :: l) (howed : s.hart.maskOwed e = false) (hv : s.behindFence e = none) :
    s.runFrontWith slip f = s := by
  unfold State.runFrontWith
  rw [hq]
  dsimp only
  rw [howed, if_neg (by decide), hv]

theorem State.headRes_unpoisoned (h : e.ownMask = true ∨ v.hart.maskBad e = none) : v.headRes e f = f e v := by
  unfold State.headRes State.overMasks
  rcases h with h | h
  · rw [h, if_pos rfl]
  · rw [h]
    exact ite_self _

/-- A poisoned word of a mask it reads traps before the entry does anything (log 64). -/
theorem State.headRes_poisoned {k : Nat} (hown : e.ownMask = false) (hk : v.hart.maskBad e = some k) : v.headRes e f = v.maskTrap e k := by
  unfold State.headRes State.overMasks
  rw [hown, if_neg (by decide), hk]

theorem State.order_hart {ws : List Nat} {level : Nat} (h : s.order ws level = some v) : v.hart = s.hart := by
  rw [State.order_eq_some h, State.makeSeen_hart]

theorem State.switch_cur (s : State) : s.switch s.cur = s := if_pos rfl

theorem exec_queueHeadExecute_cur (h : s.arg.idx = s.cur) : exec .queueHeadExecute s = .next (s.queueMove.switch s.cur) := by
  rw [exec_queueHeadExecute, execQueueHeadExecute, State.onHart, h, State.switch_cur]

/-- The state of whose matrix unit an entry has the turn (R194). -/
def State.turned (s : State) (e : QEntry) : State := if e.isMatrix then s.takeTurn else s

theorem State.turned_hart (s : State) (e : QEntry) : (s.turned e).hart = s.hart := by
  unfold State.turned
  split
  · rfl
  · rfl

theorem State.turned_cur (s : State) (e : QEntry) : (s.turned e).cur = s.cur := by
  unfold State.turned
  split
  · rfl
  · rfl

theorem State.behindFence_of_none (h : e.fenced = none) : s.behindFence e = some s := by
  unfold State.behindFence
  rw [h]

theorem State.behindFence_turned {level : Nat} (h : e.fenced = some level) :
    (s.turned e).behindFence e = (s.turned e).order [agentNo s.cur .vector] level := by
  unfold State.behindFence
  rw [State.turned_cur, h]

theorem State.behindFence_hart (h : s.behindFence e = some v) : v.hart = s.hart := by
  unfold State.behindFence at h
  split at h
  · exact State.order_hart h
  · rw [← Option.some.inj h]

theorem QEntry.isMatrix_src (e : QEntry) : (if parcelLength (e.bits.setWidth 16) = 8 then 2 else 1) = if e.isMatrix then 2 else 1 := by
  simp [QEntry.isMatrix]

/-- The progress at which a trap on a poisoned mask leaves an entry: a precise form that has not begun stays at ESTART (R160). -/
theorem State.startAt_precise (s : State) (e : QEntry) :
    (if e.precise then s.startAt e else e.p) = if e.precise = true ∧ e.begun = false then s.hart.ctl.estart.toNat else e.p := by
  unfold State.startAt
  cases e.precise <;> cases e.begun <;> rfl

/-- The hart that QUEUE_HEAD_EXECUTE names has the turn and its front entry `e`, which does `f`, may be performed: no stream owes it a mask,
and the matrix unit is free for it (R107, R194). -/
structure State.FrontDue (s : State) (e : QEntry) (f : QEntry → State → HeadRes) : Prop where
  named : s.arg.idx = s.cur
  eager : s.eager = true
  running : s.hart.run = .running
  thawed : s.hart.frozen = false
  going : s.stopped s.cur = false
  front : ∃ l, s.hart.queue = e :: l ∧ ∀ q ∈ l.head?, s.besideChunks e q = false
  head : headOf e.instr = some f
  owed : s.hart.maskOwed e = false
  mlen : e.mlen = none
  turn : e.isMatrix = true → s.rivals = []

namespace State.FrontDue
variable (h : s.FrontDue e f)
include h

theorem exec_eq : exec .queueHeadExecute s = .next (((s.turned e).runFrontWith (State.slip 1) f).switch s.cur) := by
  obtain ⟨l, hq, hbeside⟩ := h.front
  rw [exec_queueHeadExecute_cur h.named, State.queueMove_awake h.eager h.running h.thawed h.going hq hbeside,
    State.frontMove_of_head h.head h.turn]
  rfl

theorem exec_of_unordered (hv : (s.turned e).behindFence e = none) : exec .queueHeadExecute s = .next (s.turned e) := by
  obtain ⟨l, hq, -⟩ := h.front
  rw [h.exec_eq, State.runFrontWith_waits (l := l) (by rw [State.turned_hart, hq]) (by rw [State.turned_hart, h.owed]) hv,
    ← State.turned_cur s e, State.switch_cur]

theorem exec_of_ordered (hv : (s.turned e).behindFence e = some v) :
    exec .queueHeadExecute s = .next (((v.headRes e f).left e (State.slip 1) v.hart.maskPois).switch s.cur) := by
  obtain ⟨l, hq, -⟩ := h.front
  rw [h.exec_eq, State.runFrontWith_behind (l := l) (by rw [State.turned_hart, hq]) (by rw [State.turned_hart, h.owed]) h.mlen hv]

end State.FrontDue

end

end Sys2Proof.Machine

/-! The events of a die: dispatch slots, hand-off, aging and resumption (R216 to R219, R226, R320), and the group served next (R219). -/

namespace Sys2Proof.Machine

section
variable {s t u : State} {go : State} {r : RunRec} {dk : Nat}

/-! ### The events of a die -/

theorem State.atDie_of_here (h : s.dieHere) : s.atDie go = .next go := if_pos (by simpa [State.dieHere] using h)

/-- An event of a die that completes does so at a die that is there. -/
theorem State.of_atDie (h : s.atDie go = .next t) : s.dieHere ∧ t = go := by
  unfold State.atDie at h
  split at h
  next hhere => exact ⟨by simpa [State.dieHere] using hhere, (Host.Outcome.next.inj h).symm⟩
  next => cases h

theorem State.dieKey_div (h : s.dieHere) : s.arg.dieKey / 4 = s.arg.pkg := by
  have hfour : s.dieCount ≤ 4 := by
    unfold State.dieCount
    split <;> decide
  have hdie := h.2
  unfold EvArg.dieKey
  omega

theorem State.mem_pushOnce (s : State) (e : Event) : e ∈ (s.pushOnce e).events := by
  unfold State.pushOnce
  split
  next h => exact List.contains_iff_mem.1 h
  next => exact List.mem_append_right _ List.mem_cons_self

theorem State.pokeResume_leaves (s : State) (dk : Nat) : s.pokeResume dk = { s with events := (s.pokeResume dk).events } := by
  unfold State.pokeResume
  split
  · exact State.pushOnce_leaves ..
  · rfl

theorem State.pokePackage_leaves (s : State) (p : Nat) : s.pokePackage p = { s with events := (s.pokePackage p).events } :=
  List.foldlRecOn (motive := fun t : State => t = { s with events := t.events }) _ _ rfl fun t ht d _ => by
    rw [State.pokeResume_leaves, State.pushOnce_leaves, ht]

/-- With nothing that waits for a page a dispatch slot has nothing to try again (R363). -/
theorem State.retry_settled (hh : (s.die dk).headers = []) (hs : (s.die dk).settling = []) (hr : ∀ r ∈ s.runs, r.home = dk → r.spent = false) :
    s.retry dk = s.setDie dk (s.die dk) := by
  have hd : ({ s.die dk with headers := [], settling := [] } : DieRec) = s.die dk := by rw [← hh, ← hs]
  have hruns : s.runs.filter (fun r => r.home == dk && r.spent) = [] :=
    List.filter_eq_nil_iff.2 fun r hm => by
      rw [Bool.and_eq_true, beq_iff_eq]
      exact fun ⟨hhome, hspent⟩ => absurd hspent (by rw [hr r hm hhome]; decide)
  unfold State.retry
  dsimp only
  rw [hd, hh, hs]
  show List.foldl State.runCheck _ (s.runs.filter _) = _
  rw [hruns]
  rfl

/-- A slot is due again while the Registrars' writes are not placed, and nothing else is done (R231, R256). -/
theorem State.dispatchSlot_held (hheld : s.regHeld (dk / 4) = true) (hr : s.retry dk = s.setDie dk (s.die dk)) :
    s.dispatchSlot dk = { s with dies := (s.dispatchSlot dk).dies, events := (s.dispatchSlot dk).events }
    ∧ dieEvent .dispatchSlot dk 0 ∈ (s.dispatchSlot dk).events := by
  have hslot : s.dispatchSlot dk = (s.setDie dk (s.die dk)).pushOnce (dieEvent .dispatchSlot dk 0) := by
    unfold State.dispatchSlot
    rw [hr]
    exact if_pos hheld
  rw [hslot]
  refine ⟨?_, State.mem_pushOnce ..⟩
  rw [State.pushOnce_leaves]
  rfl

/-- The runs after a hand-off: of the packet's run the die is known as one its copies have reached (R216). -/
def RunRec.handedTo (a : EvArg) (r : RunRec) : RunRec :=
  if r.home / 4 = a.pkg ∧ r.queue = a.idx ∧ r.packet = a.aux ∧ ¬ r.handed.contains a.die then { r with handed := r.handed ++ [a.die] } else r

theorem RunRec.mem_handedTo {a : EvArg} (h : r.home / 4 = a.pkg ∧ r.queue = a.idx ∧ r.packet = a.aux) : a.die ∈ (r.handedTo a).handed := by
  obtain ⟨hpkg, hqueue, hpacket⟩ := h
  unfold RunRec.handedTo
  split
  next => exact List.mem_append_right _ List.mem_cons_self
  next hnot =>
    by_contra hmem
    exact hnot ⟨hpkg, hqueue, hpacket, fun hc => hmem (List.contains_iff_mem.1 hc)⟩

theorem RunRec.handedTo_other {a : EvArg} (h : ¬ (r.home / 4 = a.pkg ∧ r.queue = a.idx ∧ r.packet = a.aux)) : r.handedTo a = r :=
  if_neg fun ⟨hpkg, hqueue, hpacket, _⟩ => h ⟨hpkg, hqueue, hpacket⟩

theorem RunRec.handedTo_keeps (a : EvArg) (r : RunRec) : (∀ d ∈ r.handed, d ∈ (r.handedTo a).handed) ∧ (r.handedTo a).waiting = r.waiting := by
  unfold RunRec.handedTo
  split
  · exact ⟨fun d hd => List.mem_append_left _ hd, rfl⟩
  · exact ⟨fun d hd => hd, rfl⟩

theorem execCopyHandoff_leaves (s : State) : ∃ t, execCopyHandoff s = s.atDie t ∧ t.mem = s.mem ∧ t.hart = s.hart
    ∧ t.runs = s.runs.map (RunRec.handedTo s.arg) := by
  refine ⟨_, rfl, ?_⟩
  rw [State.pokePackage_leaves, (State.SentOnly.carry s _ _ 3).rest]
  exact ⟨rfl, rfl, rfl⟩

theorem execLevelAging_leaves (ht : s.Tables) : ∃ t, execLevelAging s = s.atDie t ∧ t.mem = s.mem ∧ t.hart = s.hart
    ∧ (t.die s.arg.dieKey).queues = (s.die s.arg.dieKey).queues.map fun q => (q.1, match q.2.ready with
      | some r => { q.2 with age := (s.clk - r) / 2 ^ 20 }
      | none => q.2) := by
  unfold execLevelAging
  extract_lets dk d queues u v more
  have hdie : (v.die dk).queues = queues := by
    have hset : v.die dk = { d with queues := queues } := (State.die_setDie ht.dies ..).trans (if_pos rfl)
    rw [hset]
  refine ⟨_, rfl, ?_⟩
  split
  · rw [State.pushOnce_leaves]
    exact ⟨rfl, rfl, hdie⟩
  · exact ⟨rfl, rfl, hdie⟩

/-- The tasks of a die that were pre-empted (R226). -/
def State.parkedOn (s : State) (dk : Nat) : List (Nat × Hart) := s.parked.filter fun p => dieKey p.1 = dk

theorem State.pokeResume_of_parked {p : Nat × Hart} (hp : p ∈ s.parkedOn dk) : s.pokeResume dk = s.pushOnce (dieEvent .taskResume dk 0) := by
  obtain ⟨hmem, hdk⟩ := List.mem_filter.1 hp
  exact if_pos (List.any_eq_true.2 ⟨p, hmem, hdk⟩)

theorem execTaskResume_some (h : s.resumeFirst (s.parkedOn s.arg.dieKey) = some t) : execTaskResume s = .next (t.pokePackage s.arg.pkg) := by
  have h' : s.resumeFirst (s.parked.filter fun p => dieKey p.1 = 4 * s.arg.pkg + s.arg.die) = some t := h
  rw [execTaskResume, h']

theorem execTaskResume_none (h : s.resumeFirst (s.parkedOn s.arg.dieKey) = none) : execTaskResume s =
    .next (if (s.parkedOn s.arg.dieKey).any (fun p => s.areaWaits (s.parkedTask p.1 p.2)) then s.pokeResume s.arg.dieKey else s) := by
  have h' : s.resumeFirst (s.parked.filter fun p => dieKey p.1 = 4 * s.arg.pkg + s.arg.die) = none := h
  rw [execTaskResume, h']
  rfl

/-! ### The first task that can resume (R226) -/

theorem State.resumeFirst_none {ps : List (Nat × Hart)} (h : ∀ q ∈ ps, s.resumeTask (s.parkedTask q.1 q.2) = none) : s.resumeFirst ps = none := by
  induction ps with
  | nil => rfl
  | cons q ps ih =>
    obtain ⟨hq, hps⟩ := List.forall_mem_cons.1 h
    rw [State.resumeFirst, hq]
    exact ih hps

theorem State.resumeFirst_append {ps qs : List (Nat × Hart)} (h : ∀ q ∈ ps, s.resumeTask (s.parkedTask q.1 q.2) = none) :
    s.resumeFirst (ps ++ qs) = s.resumeFirst qs := by
  induction ps with
  | nil => rfl
  | cons q ps ih =>
    obtain ⟨hq, hps⟩ := List.forall_mem_cons.1 h
    rw [List.cons_append, State.resumeFirst, hq]
    exact ih hps

theorem State.resumeFirst_cons (s : State) (p : Nat × Hart) (qs : List (Nat × Hart)) :
    s.resumeFirst (p :: qs) = (s.resumeTask (s.parkedTask p.1 p.2) <|> s.resumeFirst qs) := by
  rw [State.resumeFirst]
  cases s.resumeTask (s.parkedTask p.1 p.2) <;> rfl

/-! ### The group served next (R219) -/

theorem Frac.le_trans {a b c : Frac} (hb : 0 < b.den) (hab : a.num * b.den ≤ b.num * a.den) (hbc : b.num * c.den ≤ c.num * b.den) :
    a.num * c.den ≤ c.num * a.den := by
  refine Nat.le_of_mul_le_mul_right ?_ hb
  calc a.num * c.den * b.den = a.num * b.den * c.den := by ring
    _ ≤ b.num * a.den * c.den := Nat.mul_le_mul_right _ hab
    _ = b.num * c.den * a.den := by ring
    _ ≤ c.num * b.den * a.den := Nat.mul_le_mul_right _ hbc
    _ = c.num * a.den * b.den := by ring

/-- Group `x` comes before group `g` by its tag, and by its number where the tags are alike (R219). -/
def Precedes (f : Nat → Frac) (x g : Nat) : Prop := (f x).le (f g) ∧ (¬ (f g).le (f x) ∨ x ≤ g)

section
variable {f : Nat → Frac} {x y z m : Nat} {gs : List Nat}

theorem precedes_self (f : Nat → Frac) (x : Nat) : Precedes f x x := ⟨decide_eq_true (Nat.le_refl _), .inr (Nat.le_refl x)⟩

theorem precedes_of_not (h : ¬ Precedes f x y) : Precedes f y x := by
  unfold Precedes Frac.le at *
  simp only [decide_eq_true_eq] at *
  omega

theorem Precedes.trans (hx : 0 < (f x).den) (hy : 0 < (f y).den) (hz : 0 < (f z).den) (hxy : Precedes f x y) (hyz : Precedes f y z) :
    Precedes f x z := by
  unfold Precedes Frac.le at *
  simp only [decide_eq_true_eq] at *
  obtain ⟨hxy, hxn⟩ := hxy
  obtain ⟨hyz, hyn⟩ := hyz
  refine ⟨Frac.le_trans hy hxy hyz, ?_⟩
  by_cases hzx : (f z).num * (f x).den ≤ (f x).num * (f z).den
  · have hnums : x ≤ y ∧ y ≤ z :=
      ⟨hxn.resolve_left (not_not.2 (Frac.le_trans hz hyz hzx)), hyn.resolve_left (not_not.2 (Frac.le_trans hx hzx hxy))⟩
    exact .inr (Nat.le_trans hnums.1 hnums.2)
  · exact .inl hzx

/-- The better of a group found so far and the next. -/
def betterGroup (f : Nat → Frac) (b : Option Nat) (g : Nat) : Option Nat :=
  match b with
  | none => some g
  | some x => if (f x).le (f g) ∧ (¬ (f g).le (f x) ∨ x ≤ g) then some x else some g

theorem betterGroup_some (f : Nat → Frac) (x g : Nat) :
    ∃ y, betterGroup f (some x) g = some y ∧ (y = x ∨ y = g) ∧ Precedes f y x ∧ Precedes f y g := by
  by_cases h : Precedes f x g
  · exact ⟨x, if_pos h, .inl rfl, precedes_self f x, h⟩
  · exact ⟨g, if_neg h, .inr rfl, precedes_of_not h, precedes_self f g⟩

theorem foldl_betterGroup_some (hx : 0 < (f x).den) (hgs : ∀ h ∈ gs, 0 < (f h).den) (h : gs.foldl (betterGroup f) (some x) = some m) :
    m ∈ x :: gs ∧ ∀ h ∈ x :: gs, Precedes f m h := by
  induction gs generalizing x with
  | nil =>
    obtain rfl : x = m := Option.some.inj h
    exact ⟨List.mem_cons_self, List.forall_mem_singleton.2 (precedes_self f x)⟩
  | cons g gs ih =>
    obtain ⟨hg, hgs⟩ := List.forall_mem_cons.1 hgs
    obtain ⟨y, hbest, hor, hyx, hyg⟩ := betterGroup_some f x g
    have hy : 0 < (f y).den := by
      obtain rfl | rfl := hor
      · exact hx
      · exact hg
    rw [List.foldl_cons, hbest] at h
    obtain ⟨hmem, hall⟩ := ih hy hgs h
    obtain ⟨hmy, hrest⟩ := List.forall_mem_cons.1 hall
    have hmpos : 0 < (f m).den := by
      obtain rfl | hm := List.mem_cons.1 hmem
      · exact hy
      · exact hgs m hm
    refine ⟨?_, List.forall_mem_cons.2 ⟨hmy.trans hmpos hy hx hyx, List.forall_mem_cons.2 ⟨hmy.trans hmpos hy hg hyg, hrest⟩⟩⟩
    obtain rfl | hm := List.mem_cons.1 hmem
    · obtain rfl | rfl := hor
      · exact List.mem_cons_self
      · exact List.mem_cons_of_mem _ List.mem_cons_self
    · exact List.mem_cons_of_mem _ (List.mem_cons_of_mem _ hm)

/-- The group found precedes every other. -/
theorem foldl_betterGroup (hgs : ∀ h ∈ gs, 0 < (f h).den) (h : gs.foldl (betterGroup f) none = some m) :
    m ∈ gs ∧ ∀ h ∈ gs, Precedes f m h := by
  cases gs with
  | nil => cases h
  | cons g gs =>
    obtain ⟨hg, hgs⟩ := List.forall_mem_cons.1 hgs
    exact foldl_betterGroup_some hg hgs h

end

/-- The tags of a group of a level (R219). -/
def LevelRec.tag (l : LevelRec) (g : Nat) : GroupRec := SMap.get GroupRec.reset l.groups g

/-- V as a selection finds it: at least the least start tag (R219). -/
def LevelRec.virtNow (l : LevelRec) (gs : List Nat) : Frac :=
  if gs.any fun g => (l.tag g).start.le l.virt then l.virt
  else ((gs.foldl (betterGroup fun g => (l.tag g).start) none).map fun g => (l.tag g).start).getD l.virt

theorem pickGroup_eq (l : LevelRec) (gs : List Nat) : pickGroup l gs =
    ((gs.filter fun g => (l.tag g).start.le (l.virtNow gs)).foldl (betterGroup fun g => (l.tag g).finish) none).map fun g => (g, l.virtNow gs) := rfl

theorem LevelRec.virtNow_cases {l : LevelRec} {gs : List Nat} (hgs : ∀ h ∈ gs, 0 < (l.tag h).start.den) :
    l.virtNow gs = l.virt ∨ ∃ h ∈ gs, l.virtNow gs = (l.tag h).start ∧ ∀ k ∈ gs, (l.virtNow gs).le (l.tag k).start = true := by
  unfold LevelRec.virtNow
  split
  · exact .inl rfl
  · cases hleast : gs.foldl (betterGroup fun g => (l.tag g).start) none with
    | none => exact .inl rfl
    | some m =>
      obtain ⟨hmem, hall⟩ := foldl_betterGroup hgs hleast
      exact .inr ⟨m, hmem, rfl, fun k hk => (hall k hk).1⟩

/-- The group served next is of those whose start tag is due the one of the least finish tag, and of the least number among those (R219). -/
theorem pickGroup_spec {l : LevelRec} {gs : List Nat} {g : Nat} {v : Frac} (hgs : ∀ h ∈ gs, 0 < (l.tag h).start.den ∧ 0 < (l.tag h).finish.den)
    (h : pickGroup l gs = some (g, v)) : v = l.virtNow gs ∧ g ∈ gs ∧ (l.tag g).start.le v = true
      ∧ ∀ h ∈ gs, (l.tag h).start.le v = true → Precedes (fun g => (l.tag g).finish) g h := by
  rw [pickGroup_eq] at h
  obtain ⟨m, hm, hpair⟩ := Option.map_eq_some_iff.1 h
  obtain ⟨rfl, rfl⟩ := Prod.mk.inj hpair
  obtain ⟨hmem, hall⟩ := foldl_betterGroup (fun h hh => (hgs h (List.mem_filter.1 hh).1).2) hm
  obtain ⟨hin, hdue⟩ := List.mem_filter.1 hmem
  exact ⟨rfl, hin, hdue, fun h hh hd => hall h (List.mem_filter.2 ⟨hh, hd⟩)⟩

end

end Sys2Proof.Machine

/-! The start of a copy (R215, R216), and a pre-empted task that resumes (R226, R350). -/

namespace Sys2Proof.Machine

section
variable {s t u : State} {r : RunRec} {rank core g k n held : Nat} {h : Hart}

/-! ### The start of a copy -/

theorem State.Tables.canon (ht : s.Tables) : s.Canon ⟨False, True⟩ := ⟨False.elim, fun _ => ht⟩

theorem State.Canon.harts_wf (hs : s.Canon ⟨False, True⟩) : SMap.wf Hart.reset s.harts = true := (hs.tables trivial).harts

/-- A hart with a copy of a run that waits to begin: its registers, its place in the copy and the hart of its lease (R20, R215, R216). -/
structure RunRec.StartedAs (r : RunRec) (rank g k j : Nat) (h : Hart) : Prop where
  run : h.run = .starting
  prv : h.prv = false
  role : h.role = k
  owner : h.owner = g
  queue : h.queue = []
  pc : h.pc = wordOf (pkEntry r.bytes)
  regs : ∀ m : Reg, h.readX m = if m = 10 then wordOf (pkArg r.bytes) else if m = 11 then wordOf rank
    else if m = 12 then wordOf (pkCopies r.bytes).length else if m = 13 then wordOf k else if m = 30 then stackTop (j % 4) else 0

theorem reg_eq_iff (m k : Reg) : m = k ↔ k.toNat = m.toNat := by rw [BitVec.toNat_eq, eq_comm]

theorem State.copyHart_startedAs (s : State) (r : RunRec) (j rank g role area : Nat) : r.StartedAs rank g role j (s.copyHart r j rank g role area) where
  run := rfl
  prv := (by decide : (0 : Word).getLsbD 0 = false)
  role := rfl
  owner := rfl
  queue := rfl
  pc := rfl
  regs m := by
    unfold Hart.readX State.copyHart
    simp only [Vector.getElem_set, Vector.getElem_replicate, reg_eq_iff m]
    generalize m.toNat = n
    grind

/-- Neither its lease nor its tiles bear on how a copy starts. -/
theorem RunRec.StartedAs.granted {role j : Nat} (hr : r.StartedAs rank g role j h) (l : Lease) (m : Mat) :
    r.StartedAs rank g role j { h with lease := l, mat := m } := ⟨hr.run, hr.prv, hr.role, hr.owner, hr.queue, hr.pc, hr.regs⟩

/-- The harts of a copy, each with its role, filled from the state at hand (R215). -/
def State.fillCopy (s : State) (r : RunRec) (rank g held : Nat) (areas : List Nat) (l : List (Nat × Nat)) : State :=
  l.foldl (fun t h =>
    let c := t.copyHart r h.1 rank g h.2 (areas.getD h.2 0)
    t.setHart h.1 (if h.1 = g then { c with lease := { c.lease with held := held, lanes := held } } else c)) s

theorem State.fillCopy_spec {areas : List Nat} {l : List (Nat × Nat)} (hwf : SMap.wf Hart.reset s.harts = true) (hnd : (l.map Prod.fst).Nodup) :
    SMap.wf Hart.reset (s.fillCopy r rank g held areas l).harts = true ∧ (s.fillCopy r rank g held areas l).mem = s.mem
    ∧ (∀ j, j ∉ l.map Prod.fst → (s.fillCopy r rank g held areas l).getHart j = s.getHart j)
    ∧ ∀ p ∈ l, r.StartedAs rank g p.2 p.1 ((s.fillCopy r rank g held areas l).getHart p.1) := by
  induction l generalizing s with
  | nil => exact ⟨hwf, rfl, fun _ _ => rfl, fun _ hp => (List.not_mem_nil hp).elim⟩
  | cons q l ih =>
    have hnd' : q.1 ∉ l.map Prod.fst ∧ (l.map Prod.fst).Nodup := List.nodup_cons.1 hnd
    let c := s.copyHart r q.1 rank g q.2 (areas.getD q.2 0)
    let h := if q.1 = g then { c with lease := { c.lease with held := held, lanes := held } } else c
    have hstep : s.fillCopy r rank g held areas (q :: l) = (s.setHart q.1 h).fillCopy r rank g held areas l := rfl
    have hstarted : r.StartedAs rank g q.2 q.1 h := by
      have hc := s.copyHart_startedAs r q.1 rank g q.2 (areas.getD q.2 0)
      unfold h
      split
      · exact hc.granted _ c.mat
      · exact hc
    obtain ⟨hwf', hmem, hother, hall⟩ := ih (s := s.setHart q.1 h) (State.setHart_harts_wf hwf _ _) hnd'.2
    rw [hstep]
    refine ⟨hwf', hmem.trans (State.setHart_mem ..), fun j hj => ?_, List.forall_mem_cons.2 ⟨?_, hall⟩⟩
    · rw [List.map_cons, List.mem_cons, not_or] at hj
      rw [hother j hj.2, State.getHart_setHart hwf, if_neg hj.1]
    · rw [hother _ hnd'.1, State.getHart_setHart hwf, if_pos rfl]
      exact hstarted

theorem State.askPass_leaves (s : State) (dk : Nat) (r : PassReq) : (s.askPass dk r).1 = { s with dies := (s.askPass dk r).1.dies } := by
  unfold State.askPass
  dsimp only
  split
  · rfl
  · rfl

theorem State.startTiles_spec (hwf : SMap.wf Hart.reset s.harts = true) (g n : Nat) :
    (s.startTiles g n).mem = s.mem ∧ ∀ j, ∃ m, (s.startTiles g n).getHart j = { s.getHart j with mat := m } := by
  unfold State.startTiles
  split
  · exact ⟨rfl, fun j => ⟨_, rfl⟩⟩
  · dsimp only
    rw [State.askPass_leaves]
    refine ⟨State.setHart_mem .., fun j => ?_⟩
    rw [State.getHart_setHart (by exact hwf)]
    split
    next h => exact ⟨_, by rw [h]; rfl⟩
    next => exact ⟨_, rfl⟩

theorem State.returnPass_leaves (s : State) (dk charge : Nat) : s.returnPass dk charge
    = { s with dies := (s.returnPass dk charge).dies, events := (s.returnPass dk charge).events } := by
  unfold State.returnPass State.pokeProctor
  dsimp only
  rw [State.pokeResume_leaves]
  split
  · rfl
  · rw [State.pushOnce_leaves]
    rfl

theorem State.revokeFrom_mem (s : State) (c g n : Nat) : (s.revokeFrom c g n).1.mem = s.mem := by
  unfold State.revokeFrom
  dsimp only
  split
  · exact State.setHart_mem ..
  · rw [State.returnPass_leaves]
    exact State.setHart_mem ..

theorem State.takeMinimum_mem {fk minc prio : Nat} (h : s.takeMinimum fk g minc prio = some (t, n)) : t.mem = s.mem := by
  unfold State.takeMinimum at h
  extract_lets f need vs total at h
  split at h
  · cases h
    rfl
  · split at h
    · cases h
    · have hv : (vs.foldl (fun (acc : State × Nat × Nat) v =>
          ((acc.1.revokeFrom g v acc.2.2).1, acc.2.1 + (acc.1.revokeFrom g v acc.2.2).2.1,
            acc.2.2 - (acc.1.revokeFrom g v acc.2.2).2.1 - (acc.1.revokeFrom g v acc.2.2).2.2)) (s, 0, need)).1.mem = s.mem :=
        List.foldlRecOn (motive := fun (p : State × Nat × Nat) => p.1.mem = s.mem) vs _ rfl fun acc hacc v _ => (State.revokeFrom_mem ..).trans hacc
      cases h
      exact hv

/-- Harts that a copy of a run takes (R216). -/
def RunRec.harts (r : RunRec) : Nat := if pkMode r.bytes = 1 then 3 else 1

theorem RunRec.harts_pos (r : RunRec) : 0 < r.harts := by
  unfold RunRec.harts
  split
  · decide
  · decide

theorem State.idleHarts_nodup (s : State) (ck : Nat) : (s.idleHarts ck).Nodup :=
  (List.nodup_range.map fun a b (h : 4 * ck + a = 4 * ck + b) => by omega).filter _

theorem headD_take_of_pos {l : List Nat} (hn : 0 < n) : (l.take n).headD 0 = l.headD 0 := by
  cases n with
  | zero => exact absurd hn (by decide)
  | succ n => cases l <;> rfl

theorem head?_eq_some_headD {l : List Nat} (h : 0 < l.length) : l.head? = some (l.headD 0) := by
  cases l with
  | nil => exact absurd h (by decide)
  | cons a l => rfl

/-- Where a copy cannot start (R215). -/
theorem State.startCopy_none {core : Nat}
    (hbad : (s.idleHarts (768 * (r.home / 4) + core)).length < r.harts
      ∨ (s.form (formKey ((s.idleHarts (768 * (r.home / 4) + core)).headD 0))).quiesced = true
      ∨ (s.form (formKey ((s.idleHarts (768 * (r.home / 4) + core)).headD 0))).tiles < pkTiles r.bytes
      ∨ s.stopped (4 * (768 * (r.home / 4) + core)) = true) : s.startCopy r rank core = none := by
  unfold State.startCopy
  extract_lets p ck n hs g fk areas
  have hg : g = (s.idleHarts ck).headD 0 := headD_take_of_pos r.harts_pos
  have hkey : coreKey (4 * ck) = ck := by unfold coreKey; omega
  refine if_pos ?_
  simp only [Bool.or_eq_true, decide_eq_true_eq]
  obtain h | h | h | h := hbad
  · have : hs.length < n := (List.length_take_le' ..).trans_lt h
    tauto
  · have : (s.form fk).quiesced = true := by unfold fk; rw [hg]; exact h
    tauto
  · have : (s.form fk).tiles < pkTiles r.bytes := by unfold fk; rw [hg]; exact h
    tauto
  · unfold State.stopped at h
    rw [hkey, Bool.or_eq_true] at h
    tauto

/-- What a copy that starts leaves: its harts are filled and its tiles asked for. -/
theorem State.startCopy_some {core : Nat} (h : s.startCopy r rank core = some (t, g)) :
    let idle := s.idleHarts (768 * (r.home / 4) + core)
    r.harts ≤ idle.length ∧ idle.head? = some g ∧ ∃ u held areas j, s.takeMinimum (formKey g) g (pkMinc r.bytes) (pkPrio r.bytes) = some (u, held)
      ∧ t = (u.fillCopy r rank g held areas ((idle.take r.harts).zip (List.range r.harts))).startTiles j (pkTiles r.bytes) := by
  intro idle
  unfold State.startCopy at h
  extract_lets p ck n hs g' fk areas at h
  have hg : g' = idle.headD 0 := headD_take_of_pos r.harts_pos
  split at h
  · cases h
  next hgood =>
    have hlen : ¬ hs.length < n := fun hlt => hgood (by simp [hlt])
    have hfits : r.harts ≤ idle.length := by
      have : hs.length = min r.harts idle.length := List.length_take
      have : n = r.harts := rfl
      omega
    split at h
    next u held hmin =>
      obtain ⟨rfl, rfl⟩ := Prod.mk.inj (Option.some.inj h)
      exact ⟨hfits, hg ▸ head?_eq_some_headD (r.harts_pos.trans_le hfits), u, held, areas, _, hmin, rfl⟩
    next => cases h

/-- The harts of a copy that has started (R20, R215, R216). -/
theorem State.startCopy_startedAs (ht : s.Tables) (h : s.startCopy r rank core = some (t, g)) :
    let idle := s.idleHarts (768 * (r.home / 4) + core)
    t.mem = s.mem ∧ idle.head? = some g ∧ ∀ k j, k < r.harts → idle[k]? = some j → r.StartedAs rank g k j (t.getHart j) := by
  intro idle
  obtain ⟨hfits, hg, u, held, areas, j₀, hmin, rfl⟩ := State.startCopy_some h
  have hlen : (idle.take r.harts).length = r.harts := List.length_take_of_le hfits
  have hfst : ((idle.take r.harts).zip (List.range r.harts)).map Prod.fst = idle.take r.harts :=
    List.map_fst_zip (by rw [hlen, List.length_range])
  have hnodup : (((idle.take r.harts).zip (List.range r.harts)).map Prod.fst).Nodup := by
    rw [hfst]
    exact (s.idleHarts_nodup _).sublist (List.take_sublist ..)
  obtain ⟨hwf, hmem, -, hall⟩ := State.fillCopy_spec (r := r) (rank := rank) (g := g) (held := held) (areas := areas)
    (ht.canon.takeMinimum hmin).harts_wf hnodup
  obtain ⟨htiles, hmat⟩ := State.startTiles_spec hwf j₀ (pkTiles r.bytes)
  refine ⟨htiles.trans (hmem.trans (State.takeMinimum_mem hmin)), hg, fun k j hk hj => ?_⟩
  have hin : (j, k) ∈ (idle.take r.harts).zip (List.range r.harts) := by
    refine List.mem_of_getElem? (i := k) (List.getElem?_zip_eq_some.2 ⟨?_, ?_⟩)
    · rw [List.getElem?_take_of_lt hk]
      exact hj
    · exact List.getElem?_range hk
  obtain ⟨m, hm⟩ := hmat j
  rw [hm]
  exact (hall (j, k) hin).granted _ m

/-! ### A pre-empted task of one hart that resumes -/

theorem State.AccessOnly.getWords {base : Word} {carry : Nat} {offs : List Nat} (hw : s.getWords g h base carry offs = .ok t) : s.AccessOnly t := by
  unfold State.getWords at hw
  extract_lets a at hw
  split at hw
  · cases hw
  · cases hw
  · split at hw
    · cases hw
    · cases hw
      refine (State.AccessOnly.refl s).foldl fun u o => ?_
      split
      · exact .visit ..
      · exact .refl u

theorem State.AccessOnly.readHart {l l' : Lease} {h' : Hart} (hr : s.readHart g h l = .ok (t, h', l')) : s.AccessOnly t := by
  unfold State.readHart at hr
  extract_lets base rd fences at hr
  split at hr
  · cases hr
  · cases hr
  next hw =>
    cases hr
    exact .getWords hw

theorem State.readAll_one {l : Lease} (p : Nat × Hart) : s.readAll [p] l = match s.readHart p.1 p.2 l with
    | .ok (u, h, l') => .ok (u, [h], l')
    | .wait => .wait
    | .bad c va u => .bad c va u := by
  rw [State.readAll]
  cases s.readHart p.1 p.2 l <;> rfl

/-- The state in which the area of a task of one hart has been read, where it can be. -/
def State.reread (s : State) (p : Nat × Hart) (l : Lease) : State :=
  match s.readAll [p] l with
  | .ok (t, _, _) => t
  | _ => s

theorem State.AccessOnly.reread (s : State) (p : Nat × Hart) (l : Lease) : s.AccessOnly (s.reread p l) := by
  unfold State.reread
  rw [State.readAll_one]
  cases hr : s.readHart p.1 p.2 l with
  | ok v => exact State.AccessOnly.readHart hr
  | wait => exact .refl s
  | bad c va u => exact .refl s

theorem State.regrant_leaves {l : Lease} (h : s.regrant g l = some t) : t = { s with forms := t.forms, dies := t.dies } := by
  unfold State.regrant at h
  extract_lets fk f d need charge at h
  split_ifs at h
  · cases h
    rfl
  · cases h
    rfl

theorem State.rollHart_leaves (s : State) (g code a0 : Nat) (a1 a2 : Word) : s.rollHart g code a0 a1 a2
    = { s with dies := (s.rollHart g code a0 a1 a2).dies } := by
  unfold State.rollHart State.roll
  dsimp only
  split
  · rfl
  · rfl

theorem State.setHart_parked (s : State) (g : Nat) (h : Hart) : (s.setHart g h).parked = s.parked := by
  unfold State.setHart
  split
  · rfl
  · rfl

/-- A task of one hart goes on at hart `j` with its lease, and with an event for each stream that was on its way (R226, R350). -/
def State.resumedAt (s : State) (j : Nat) (h : Hart) (l : Lease) : State :=
  ((s.setHart j { h with run := .running, owner := j, lease := l }).resumeLanding j).rollHart j 4 0 h.pc h.ctl.vsaveptr

theorem State.resumedAt_spec (hwf : SMap.wf Hart.reset s.harts = true) (j : Nat) (h : Hart) (l : Lease) :
    (s.resumedAt j h l).parked = s.parked ∧ (s.resumedAt j h l).getHart j = { h with run := .running, owner := j, lease := l } := by
  unfold State.resumedAt
  rw [State.rollHart_leaves, State.resumeLanding_leaves]
  exact ⟨State.setHart_parked .., (State.getHart_setHart hwf ..).trans (if_pos rfl)⟩

/-- A task of one hart that resumes: its core is not halted, and what was read back goes on at the lowest idle hart of the core. -/
theorem State.resumeTask_one {j : Nat} (hwf : SMap.wf Hart.reset s.harts = true) (ho : h.owner = g) (ht : s.resumeTask [(g, h)] = some t)
    (hj : (s.idleHarts (coreKey g)).head? = some j) : s.stopped g = false
    ∧ ∀ u h' l', s.readHart g h h.lease = .ok (u, h', l') → (g, h) ∉ t.parked
      ∧ ∃ l, l.vmem = l'.vmem ∧ l.held = l'.held ∧ t.getHart j = { h' with run := .running, owner := j, lease := l } := by
  have htake : (s.idleHarts (coreKey g)).take 1 = [j] := by
    obtain ⟨l, hl⟩ := List.head?_eq_some_iff.1 hj
    rw [hl]
    rfl
  have howner : ([((g, h), j)].find? fun p => decide (p.1.1 = g)) = some ((g, h), j) := by simp
  have hown : ([(g, h)].find? fun p => p.1 = p.2.owner) = some (g, h) := by simp [ho]
  unfold State.resumeTask at ht
  simp only [List.length_singleton, htake, hown, Option.getD_some] at ht
  split at ht
  · cases ht
  next hgo =>
    simp only [Bool.or_eq_true, not_or, Bool.not_eq_true] at hgo
    obtain ⟨⟨⟨-, hhalted⟩, hhalting⟩, -⟩ := hgo
    refine ⟨Bool.or_eq_false_iff.2 ⟨hhalted, hhalting⟩, fun u h' l' hr => ?_⟩
    split at ht
    · cases ht
    next granted hg =>
      rw [State.readAll_one, hr] at ht
      simp only [List.zip_cons_cons, List.zip_nil_right, List.foldl_cons, List.foldl_nil, howner, Option.map_some, Option.getD_some, if_true] at ht
      have hharts : (granted.reread (g, h) h.lease).harts = s.harts := by rw [State.AccessOnly.reread, State.regrant_leaves hg]
      let v : State := { granted.reread (g, h) h.lease with parked := (granted.reread (g, h) h.lease).parked.filter fun p => !([(g, h)].contains p) }
      obtain ⟨l, hl, hvmem, hheld⟩ : ∃ l, t = v.resumedAt j h' l ∧ l.vmem = l'.vmem ∧ l.held = l'.held := ⟨_, (Option.some.inj ht).symm, rfl, rfl⟩
      obtain ⟨hparked, hhart⟩ := State.resumedAt_spec (s := v) (hharts ▸ hwf) j h' l
      rw [hl]
      refine ⟨fun hmem => ?_, l, hvmem, hheld, hhart⟩
      rw [hparked] at hmem
      simpa using (List.mem_filter.1 hmem).2

end

end Sys2Proof.Machine

/-! The end of LEASEWAIT (R94, R321), and the obligation QueueAndDispatch. -/

namespace Sys2Proof.Machine

section
variable {s : State} {n : Nat}

/-- A hart that runs at user level on a core that is not halted. -/
def State.atUser (s : State) (g : Nat) : Prop := (s.getHart g).run = .running ∧ (s.getHart g).prv = false ∧ s.stopped g = false

theorem execLeasewaitExpiry_away (h : ¬ s.atUser s.arg.idx) : execLeasewaitExpiry s = .next s := by
  unfold execLeasewaitExpiry
  extract_lets g h' revoked
  refine congrArg Host.Outcome.next (if_pos ?_)
  by_contra hnot
  refine h ?_
  simpa [State.atUser, not_or, and_assoc] using hnot

/-- A revoke is asked of a lease: its pending target is below what it holds (R93). -/
def Lease.revoked (l : Lease) : Bool :=
  match l.target with
  | .some t => decide (t < l.held)
  | .none => false

section
variable (h : s.atUser s.arg.idx)
include h

/-- What the count's end does to a hart at user level: a RESTART stop takes it, a revoke pre-empts its task (R94, R321). -/
theorem execLeasewaitExpiry_atUser : execLeasewaitExpiry s =
    .next (if (s.getHart s.arg.idx).stop then s.endTask s.arg.idx
      else if (s.getHart s.arg.idx).mode = .pipeline then
        (if (s.getHart s.arg.idx).lease.reserved.isEmpty then s else s.askPreempt s.arg.idx 3)
      else if (s.getHart s.arg.idx).lease.revoked && (s.getHart s.arg.idx).gsetLimit.isNone then s.askPreempt s.arg.idx 1
      else s) := by
  obtain ⟨hrun, hprv, hgoing⟩ := h
  unfold execLeasewaitExpiry
  dsimp only
  rw [if_neg (by simp [hrun, hprv, hgoing])]
  rfl

theorem execLeasewaitExpiry_stop (hstop : (s.getHart s.arg.idx).stop = true) : execLeasewaitExpiry s = .next (s.endTask s.arg.idx) := by
  rw [execLeasewaitExpiry_atUser h, if_pos hstop]

theorem execLeasewaitExpiry_lease (hstop : (s.getHart s.arg.idx).stop = false) (hmode : (s.getHart s.arg.idx).mode ≠ .pipeline) :
    execLeasewaitExpiry s = .next (if (s.getHart s.arg.idx).lease.revoked && (s.getHart s.arg.idx).gsetLimit.isNone then
      s.askPreempt s.arg.idx 1 else s) := by
  rw [execLeasewaitExpiry_atUser h, if_neg (by rw [hstop]; decide), if_neg hmode]

/-- A revoke pre-empts the task, but for a member stalled at GSETVL (R114). -/
theorem execLeasewaitExpiry_revoked (hstop : (s.getHart s.arg.idx).stop = false) (hmode : (s.getHart s.arg.idx).mode ≠ .pipeline)
    (htarget : (s.getHart s.arg.idx).lease.target = some n) (hless : n < (s.getHart s.arg.idx).lease.held) :
    execLeasewaitExpiry s = .next (if (s.getHart s.arg.idx).gsetLimit.isSome then s else s.askPreempt s.arg.idx 1) := by
  have hrevoked : (s.getHart s.arg.idx).lease.revoked = true := by
    rw [Lease.revoked, htarget]
    exact decide_eq_true hless
  rw [execLeasewaitExpiry_lease h hstop hmode, hrevoked]
  cases (s.getHart s.arg.idx).gsetLimit with
  | none => rfl
  | some n => rfl

theorem execLeasewaitExpiry_unasked (hstop : (s.getHart s.arg.idx).stop = false) (hmode : (s.getHart s.arg.idx).mode ≠ .pipeline)
    (htarget : (s.getHart s.arg.idx).lease.target = none) : execLeasewaitExpiry s = .next s := by
  rw [execLeasewaitExpiry_lease h hstop hmode, Lease.revoked, htarget]
  rfl

theorem execLeasewaitExpiry_pipeline (hstop : (s.getHart s.arg.idx).stop = false) (hmode : (s.getHart s.arg.idx).mode = .pipeline) :
    execLeasewaitExpiry s = .next (if (s.getHart s.arg.idx).lease.reserved = [] then s else s.askPreempt s.arg.idx 3) := by
  rw [execLeasewaitExpiry_atUser h, if_neg (by rw [hstop]; decide), if_pos hmode]
  simp only [List.isEmpty_iff]

end

end

/-- Settles O54: the front entry's three outcomes behind its fence and its masks, the events of a die, what a start and a resumption leave, and
the end of LEASEWAIT. -/
theorem queueAndDispatch : Obligations.QueueAndDispatch := by
  unfold Obligations.QueueAndDispatch
  refine ⟨?_, ?_, ?_, ?_⟩
  · refine fun s hcur => ⟨fun h => ?_, fun heager hrun hfrozen hstopped e l f hq hf hbeside howed hmlen hturn => ?_⟩
    · rw [exec_queueHeadExecute_cur hcur, State.queueMove_asleep h, State.switch_cur]
    · have hdue : s.FrontDue e f := ⟨hcur, heager, hrun, hfrozen, hstopped, ⟨l, hq, hbeside⟩, hf, howed, hmlen, hturn⟩
      refine ⟨fun level hfence horder => hdue.exec_of_unordered ((State.behindFence_turned hfence).trans horder), fun v hnone hsome => ?_⟩
      have hbehind : (s.turned e).behindFence e = some v := by
        cases hfence : e.fenced with
        | none =>
          rw [State.behindFence_of_none hfence, hnone hfence]
          rfl
        | some level => exact (State.behindFence_turned hfence).trans (hsome level hfence)
      have hhart : v.hart = s.hart := (State.behindFence_hart hbehind).trans (State.turned_hart s e)
      rw [hdue.exec_of_ordered hbehind]
      refine ⟨fun hclean => ?_, fun hown k hk => ?_⟩
      · rw [State.headRes_unpoisoned hclean]
        refine ⟨fun u hu => ?_, fun u hu => ?_, fun u ti hu => ?_⟩
        · rw [hu, HeadRes.left]
        · rw [hu, HeadRes.left]
        · rw [hu, HeadRes.left]
      · rw [State.headRes_poisoned hown hk, State.maskTrap, State.startAt_precise, QEntry.isMatrix_src, HeadRes.left, ← hhart]
        rfl
  · intro s a dk
    refine ⟨fun hhere => ?_, fun hh hs hr hheld ht t hnext => ?_, fun hhere => ?_, fun hhere ht => ?_, fun hhere => ⟨fun r hr => ?_, fun hr => ?_⟩, ?_⟩
    · rw [exec_dispatchSlot, execDispatchSlot, State.atDie_of_here hhere]
    · obtain ⟨hhere, rfl⟩ := State.of_atDie hnext
      obtain ⟨hleaves, hmem⟩ := State.dispatchSlot_held (s := s) (dk := dk) ((State.dieKey_div hhere).symm ▸ hheld) (State.retry_settled hh hs hr)
      rw [hleaves]
      exact ⟨rfl, rfl, rfl, rfl, hmem⟩
    · obtain ⟨t, ht, hmem, hhart, hruns⟩ := execCopyHandoff_leaves s
      refine ⟨t, (exec_copyHandoff s).trans (ht.trans (State.atDie_of_here hhere)), hmem, hhart, ?_, fun k r hk => ?_⟩
      · rw [hruns, List.length_map]
      · refine ⟨r.handedTo a, ?_, RunRec.mem_handedTo, RunRec.handedTo_other, RunRec.handedTo_keeps a r⟩
        rw [hruns, List.getElem?_map, hk]
        rfl
    · obtain ⟨t, hexec, hleaves⟩ := execLevelAging_leaves ht
      exact ⟨t, (exec_levelAging s).trans (hexec.trans (State.atDie_of_here hhere)), hleaves⟩
    · rw [exec_relaunch, execRelaunch, show s.runs.find? _ = some r from hr, State.atDie_of_here hhere]
    · rw [exec_relaunch, execRelaunch, show s.runs.find? _ = none from hr, State.atDie_of_here hhere]
    · refine ⟨fun t ht => execTaskResume_some ht, fun hnone => ⟨fun hready => ?_, fun ⟨p, hp, hwaits⟩ => ?_⟩⟩
      · have hidle : ¬ (s.parkedOn dk).any (fun p => s.areaWaits (s.parkedTask p.1 p.2)) = true := by
          rw [Bool.not_eq_true, List.any_eq_false]
          exact fun p hp => by rw [hready p hp]; decide
        exact (execTaskResume_none hnone).trans (congrArg _ (if_neg hidle))
      · have hany : (s.parkedOn dk).any (fun p => s.areaWaits (s.parkedTask p.1 p.2)) = true := List.any_eq_true.2 ⟨p, hp, hwaits⟩
        exact (execTaskResume_none hnone).trans (congrArg _ ((if_pos hany).trans (State.pokeResume_of_parked hp)))
  · intro s ht
    refine ⟨fun r rank core => ⟨fun hbad => State.startCopy_none hbad, fun t g hstart => ?_⟩, fun l gs g v hpos hpick => ?_, fun ps qs p hps => ?_,
      fun g j h t ho hresume hj => ?_⟩
    · obtain ⟨hmem, hhead, hall⟩ := State.startCopy_startedAs ht hstart
      refine ⟨hmem, hhead, fun k j hk hj => ?_⟩
      obtain ⟨hrun, hprv, hrole, howner, hqueue, hpc, hregs⟩ := hall k j hk hj
      exact ⟨hrun, hprv, hrole, howner, hqueue, hpc, hregs⟩
    · obtain ⟨hv, hg, hdue, hfirst⟩ := pickGroup_spec hpos hpick
      have hvirt := LevelRec.virtNow_cases fun h hh => (hpos h hh).1
      simp only [← hv, Frac.le, decide_eq_true_eq] at hvirt hdue hfirst
      refine ⟨hg, hdue, hvirt, fun h hh hd => ?_⟩
      obtain ⟨hle, hnum⟩ := hfirst h hh hd
      simp only [Frac.le, decide_eq_true_eq] at hle hnum
      exact ⟨hle, fun hback => hnum.resolve_left (not_not.2 hback)⟩
    · exact ⟨State.resumeFirst_none hps, (State.resumeFirst_append hps).trans (State.resumeFirst_cons s p qs)⟩
    · obtain ⟨hgoing, hread⟩ := State.resumeTask_one ht.harts ho hresume hj
      refine ⟨hgoing, fun u h' l' hr => ?_⟩
      obtain ⟨hparked, l, hvmem, hheld, hhart⟩ := hread u h' l' hr
      rw [hhart]
      exact ⟨rfl, rfl, rfl, rfl, rfl, rfl, rfl, rfl, rfl, rfl, hvmem, hheld, hparked⟩
  · intro s g h live
    exact ⟨fun haway => execLeasewaitExpiry_away haway, fun hlive hstop => execLeasewaitExpiry_stop hlive hstop,
      fun hlive hstop hmode => ⟨fun n htarget hless => execLeasewaitExpiry_revoked hlive hstop hmode htarget hless,
        fun htarget => execLeasewaitExpiry_unasked hlive hstop hmode htarget⟩,
      fun hlive hstop hmode => execLeasewaitExpiry_pipeline hlive hstop hmode⟩

end Sys2Proof.Machine
